-- ==== Sys2Proof/Word.lean ====
section
/-! DEFINITION. The word types of the Z4 (00 R3, R7; 02 R41). -/

namespace Sys2Proof

/-- A lane register, a predicate of all lanes, a lane mask: 32 bits (R41). -/
abbrev W32 := BitVec 32

/-- A uniform register, a special register: 64 bits (R41, R43). -/
abbrev W64 := BitVec 64

/-- A byte of memory (R3). -/
abbrev Byte := BitVec 8

/-- A sparse array of plain data: pairs of index and value, the indices strictly rising, no value equal to the default of the
array.  Memory and every register array are held so, so that equal contents are equal data. -/
abbrev Sparse (β : Type) := List (Nat × β)

end Sys2Proof
end

