-- ==== Sys2Proof/Config.lean ====
section
/-! DEFINITION. What an implementation fixes and the free values: values the spec does not state, as constants without a body. -/

namespace Sys2Proof

/-- The free value: the n-th value the spec leaves open, taken by a step that reads and advances the counter `State.free` (log
entry 6).  Nothing is known of it. -/
opaque Config.freeValue : Nat → BitVec 64

/-- The package serial number, byte by byte, provisioned at manufacture (13 R372). -/
opaque Config.serialNumber : Nat → BitVec 8

/-- The signature of a health record, byte by byte: a function of the signed bytes under the key provisioned at manufacture (13 R372). -/
opaque Config.signature : List (BitVec 8) → Nat → BitVec 8

/-- Whether the key store passes its self-test at the n-th reset (13 R372). -/
opaque Config.keyStoreOk : Nat → Bool

/-- The length of the public key with its certificate chain (15 R407). -/
opaque Config.certLength : Nat

/-- The public key with its certificate chain, byte by byte (15 R407). -/
opaque Config.certByte : Nat → BitVec 8

/-- Names of the fixed sizes of the package (01 R11 to R14, R20; 03 R86). -/
def Config.dies : Nat := 4

/-- Clusters of a die. -/
def Config.clusters : Nat := 36

/-- Scratchpad and stash bytes of a tile. -/
def Config.scratch : Nat := 262144

/-- Device memory bytes of a die (01 R16). -/
def Config.dieBytes : Nat := 0x3000000000

end Sys2Proof
end

