-- ==== Sys2Proof/Syntax.lean ====
section
/-! DEFINITION. Syntax: one constructor per row of spec/opcode_table.json.
The first rows are the instruction words of 02 (R23 to R28, R46, R47): `h` is the header of R23 and the fields are those of
each encoding.  The last rows are the steps of the machine that no word encodes (file 95): their arguments name what the
step acts on, and they reach the machine through the state's input list. -/

namespace Sys2Proof

/-- The header fields of word 0 (R23): B (named `e`, the run ends after the instruction), W (park until outstanding results
returned) and the guard field g of R35. -/
structure Hdr where
  e : Bool
  w : Bool
  g : BitVec 4
  deriving DecidableEq, Repr

/-- A tile whose matrix engine is done with an instruction (06 R146), the rows in which the error check of its array cells failed, and the accumulator lines,
by their number in the image, in which that of the accumulator cache did (R164). -/
structure EngineEnd where
  tile : Nat
  cells : List Nat
  lines : List Nat
  deriving DecidableEq, Repr

/-- What a member's part of a COLL is matched by (11 R303): context, peer group and number, with the member's rank. -/
structure CollMember where
  ctx : Nat
  group : Nat
  nth : Nat
  rank : Nat
  deriving DecidableEq, Repr

/-- The parameters of a COLL that all members must agree in (11 R303). -/
structure CollCall where
  op : Nat
  n : Nat
  typ : Nat
  red : Nat
  root : Nat
  deriving DecidableEq, Repr

/-- Where an error of a memory was corrected (13 R371): the unit, or the words of a team's scratchpad found in error (07 R181). -/
structure ErrorPlace where
  unit : Nat
  tid : Nat
  words : List Nat
  deriving DecidableEq, Repr

/-- The heading of a flit (15 R401): the chip it is for, and the chip and die it comes from, with whether it is a movable access (07 R200). -/
structure FlitHead where
  chip : BitVec 12
  src : BitVec 12
  die : Nat
  movable : Bool
  deriving DecidableEq, Repr

/-- Instructions and steps, one constructor for each row of the opcode table. -/
inductive Instr where
  | iadd (h : Hdr) (d : BitVec 6) (a : BitVec 6) (b : BitVec 6)
  | isub (h : Hdr) (d : BitVec 6) (a : BitVec 6) (b : BitVec 6)
  | imul (h : Hdr) (d : BitVec 6) (a : BitVec 6) (b : BitVec 6)
  | imulh (h : Hdr) (d : BitVec 6) (a : BitVec 6) (b : BitVec 6)
  | imulhu (h : Hdr) (d : BitVec 6) (a : BitVec 6) (b : BitVec 6)
  | imad (h : Hdr) (d : BitVec 6) (a : BitVec 6) (b : BitVec 6) (c : BitVec 6)
  | imin (h : Hdr) (d : BitVec 6) (a : BitVec 6) (b : BitVec 6)
  | imax (h : Hdr) (d : BitVec 6) (a : BitVec 6) (b : BitVec 6)
  | iminu (h : Hdr) (d : BitVec 6) (a : BitVec 6) (b : BitVec 6)
  | imaxu (h : Hdr) (d : BitVec 6) (a : BitVec 6) (b : BitVec 6)
  | iabs (h : Hdr) (d : BitVec 6) (a : BitVec 6)
  | ineg (h : Hdr) (d : BitVec 6) (a : BitVec 6)
  | andv (h : Hdr) (d : BitVec 6) (a : BitVec 6) (b : BitVec 6)
  | orv (h : Hdr) (d : BitVec 6) (a : BitVec 6) (b : BitVec 6)
  | xorv (h : Hdr) (d : BitVec 6) (a : BitVec 6) (b : BitVec 6)
  | andn (h : Hdr) (d : BitVec 6) (a : BitVec 6) (b : BitVec 6)
  | shl (h : Hdr) (d : BitVec 6) (a : BitVec 6) (b : BitVec 6)
  | shr (h : Hdr) (d : BitVec 6) (a : BitVec 6) (b : BitVec 6)
  | sar (h : Hdr) (d : BitVec 6) (a : BitVec 6) (b : BitVec 6)
  | rotl (h : Hdr) (d : BitVec 6) (a : BitVec 6) (b : BitVec 6)
  | bfx (h : Hdr) (d : BitVec 6) (a : BitVec 6) (b : BitVec 6) (t : BitVec 4) (op : BitVec 4) (n : BitVec 8)
  | bfi (h : Hdr) (d : BitVec 6) (a : BitVec 6) (b : BitVec 6) (c : BitVec 6) (op : BitVec 4) (n : BitVec 8)
  | popc (h : Hdr) (d : BitVec 6) (a : BitVec 6)
  | clz (h : Hdr) (d : BitVec 6) (a : BitVec 6)
  | brev (h : Hdr) (d : BitVec 6) (a : BitVec 6)
  | icmp (h : Hdr) (cc : BitVec 3) (p : BitVec 3) (a : BitVec 6) (b : BitVec 6)
  | sel (h : Hdr) (d : BitVec 6) (a : BitVec 6) (b : BitVec 6) (neg : BitVec 1) (p : BitVec 3)
  | mov (h : Hdr) (d : BitVec 6) (a : BitVec 6)
  | movi (h : Hdr) (d : BitVec 6) (k : BitVec 32)
  | iaddi (h : Hdr) (d : BitVec 6) (a : BitVec 6) (k : BitVec 32)
  | iadd64 (h : Hdr) (d : BitVec 6) (a : BitVec 6) (b : BitVec 6)
  | lidx (h : Hdr) (d : BitVec 6)
  | fadd (h : Hdr) (d : BitVec 6) (a : BitVec 6) (b : BitVec 6)
  | fsub (h : Hdr) (d : BitVec 6) (a : BitVec 6) (b : BitVec 6)
  | fmul (h : Hdr) (d : BitVec 6) (a : BitVec 6) (b : BitVec 6)
  | ffma (h : Hdr) (d : BitVec 6) (a : BitVec 6) (b : BitVec 6) (c : BitVec 6) (rm : BitVec 2) (negc : BitVec 1) (negp : BitVec 1) (rs : BitVec 1)
  | fmin (h : Hdr) (d : BitVec 6) (a : BitVec 6) (b : BitVec 6)
  | fmax (h : Hdr) (d : BitVec 6) (a : BitVec 6) (b : BitVec 6)
  | fcmp (h : Hdr) (cc : BitVec 3) (p : BitVec 3) (a : BitVec 6) (b : BitVec 6)
  | fclass (h : Hdr) (d : BitVec 6) (a : BitVec 6) (hf : BitVec 1) (t : BitVec 2)
  | dadd (h : Hdr) (d : BitVec 6) (a : BitVec 6) (b : BitVec 6)
  | dmul (h : Hdr) (d : BitVec 6) (a : BitVec 6) (b : BitVec 6)
  | dfma (h : Hdr) (d : BitVec 6) (a : BitVec 6) (b : BitVec 6) (c : BitVec 6) (rm : BitVec 2) (negc : BitVec 1) (negp : BitVec 1) (rs : BitVec 1)
  | dcmp (h : Hdr) (cc : BitVec 3) (p : BitVec 3) (a : BitVec 6) (b : BitVec 6)
  | hadd2 (h : Hdr) (d : BitVec 6) (a : BitVec 6) (b : BitVec 6) (t : BitVec 4) (rm : BitVec 2) (rs : BitVec 1)
  | hmul2 (h : Hdr) (d : BitVec 6) (a : BitVec 6) (b : BitVec 6) (t : BitVec 4) (rm : BitVec 2) (rs : BitVec 1)
  | hfma2 (h : Hdr) (d : BitVec 6) (a : BitVec 6) (b : BitVec 6) (c : BitVec 6) (t : BitVec 4) (rm : BitVec 2) (negc : BitVec 1) (negp : BitVec 1) (rs : BitVec 1)
  | frcp (h : Hdr) (d : BitVec 6) (a : BitVec 6)
  | frsq (h : Hdr) (d : BitVec 6) (a : BitVec 6)
  | fsqrt (h : Hdr) (d : BitVec 6) (a : BitVec 6)
  | fex2 (h : Hdr) (d : BitVec 6) (a : BitVec 6)
  | flg2 (h : Hdr) (d : BitVec 6) (a : BitVec 6)
  | fsin (h : Hdr) (d : BitVec 6) (a : BitVec 6)
  | fcos (h : Hdr) (d : BitVec 6) (a : BitVec 6)
  | cvt (h : Hdr) (d : BitVec 6) (a : BitVec 6) (dt : BitVec 4) (rm : BitVec 2) (st : BitVec 4) (spos : BitVec 2) (dpos : BitVec 2) (sat : BitVec 1) (rs : BitVec 1)
  | frnd (h : Hdr) (d : BitVec 6) (a : BitVec 6) (t : BitVec 4) (rm : BitVec 2) (op : BitVec 4) (rs : BitVec 1)
  | nanorg (h : Hdr) (d : BitVec 6) (a : BitVec 6) (hf : BitVec 1) (t : BitVec 2)
  | dxbPack (h : Hdr) (d : BitVec 6) (a : BitVec 6) (c : BitVec 6) (t : BitVec 4) (rm : BitVec 2) (rs : BitVec 1)
  | dxbUnpk (h : Hdr) (d : BitVec 6) (a : BitVec 6) (c : BitVec 6) (t : BitVec 4)
  | fabs (h : Hdr) (d : BitVec 6) (a : BitVec 6)
  | fneg (h : Hdr) (d : BitVec 6) (a : BitVec 6)
  | dmin (h : Hdr) (d : BitVec 6) (a : BitVec 6) (b : BitVec 6)
  | dmax (h : Hdr) (d : BitVec 6) (a : BitVec 6) (b : BitVec 6)
  | mma (h : Hdr) (acc : BitVec 3) (a : BitVec 6) (b : BitVec 6) (c : BitVec 6) (t : BitVec 4) (z : BitVec 1) (rm : BitVec 2) (rs : BitVec 1)
  | accRd (h : Hdr) (d : BitVec 6) (acc : BitVec 3) (t : BitVec 4) (rm : BitVec 2) (n : BitVec 4) (j0 : BitVec 5) (rs : BitVec 1)
  | accWr (h : Hdr) (acc : BitVec 3) (a : BitVec 6) (t : BitVec 4) (rm : BitVec 2) (n : BitVec 4) (j0 : BitVec 5) (rs : BitVec 1)
  | accZero (h : Hdr) (acc : BitVec 3)
  | accCvt (h : Hdr) (d : BitVec 6) (acc : BitVec 3) (c : BitVec 6) (t : BitVec 4) (rm : BitVec 2) (sat : BitVec 1) (rs : BitVec 1)
  | ldB (h : Hdr) (d : BitVec 6) (ta : BitVec 4) (o : BitVec 6) (ht : BitVec 2)
  | ldH (h : Hdr) (d : BitVec 6) (ta : BitVec 4) (o : BitVec 6) (ht : BitVec 2)
  | ldW (h : Hdr) (d : BitVec 6) (ta : BitVec 4) (o : BitVec 6) (ht : BitVec 2)
  | ldD (h : Hdr) (d : BitVec 6) (ta : BitVec 4) (o : BitVec 6) (ht : BitVec 2)
  | ldQ (h : Hdr) (d : BitVec 6) (ta : BitVec 4) (o : BitVec 6) (ht : BitVec 2)
  | stB (h : Hdr) (d : BitVec 6) (ta : BitVec 4) (o : BitVec 6) (ht : BitVec 2)
  | stH (h : Hdr) (d : BitVec 6) (ta : BitVec 4) (o : BitVec 6) (ht : BitVec 2)
  | stW (h : Hdr) (d : BitVec 6) (ta : BitVec 4) (o : BitVec 6) (ht : BitVec 2)
  | stD (h : Hdr) (d : BitVec 6) (ta : BitVec 4) (o : BitVec 6) (ht : BitVec 2)
  | stQ (h : Hdr) (d : BitVec 6) (ta : BitVec 4) (o : BitVec 6) (ht : BitVec 2)
  | ldsW (h : Hdr) (d : BitVec 6) (a : BitVec 6)
  | ldsD (h : Hdr) (d : BitVec 6) (a : BitVec 6)
  | ldsQ (h : Hdr) (d : BitVec 6) (a : BitVec 6)
  | stsW (h : Hdr) (d : BitVec 6) (a : BitVec 6)
  | stsD (h : Hdr) (d : BitVec 6) (a : BitVec 6)
  | stsQ (h : Hdr) (d : BitVec 6) (a : BitVec 6)
  | ldcW (h : Hdr) (d : BitVec 6) (a : BitVec 6)
  | stcW (h : Hdr) (d : BitVec 6) (a : BitVec 6)
  | ldx (h : Hdr) (d : BitVec 6) (ta : BitVec 4) (o : BitVec 6) (ht : BitVec 2) (t : BitVec 4) (mode : BitVec 4) (disp : BitVec 8)
  | stx (h : Hdr) (d : BitVec 6) (ta : BitVec 4) (o : BitVec 6) (ht : BitVec 2) (t : BitVec 4) (mode : BitVec 4) (disp : BitVec 8)
  | prefL1 (h : Hdr) (ta : BitVec 4) (o : BitVec 6) (ht : BitVec 2)
  | prefL2 (h : Hdr) (ta : BitVec 4) (o : BitVec 6) (ht : BitVec 2)
  | atom (h : Hdr) (d : BitVec 6) (ta : BitVec 4) (o : BitVec 6) (c : BitVec 6) (t : BitVec 4) (sc : BitVec 2) (op : BitVec 4) (ord : BitVec 2)
  | red (h : Hdr) (d : BitVec 6) (ta : BitVec 4) (o : BitVec 6) (t : BitVec 4) (sc : BitVec 2) (op : BitVec 4) (ord : BitVec 2)
  | cas (h : Hdr) (d : BitVec 6) (ta : BitVec 4) (o : BitVec 6) (c : BitVec 6) (t : BitVec 4) (sc : BitVec 2) (ord : BitVec 2)
  | atoms (h : Hdr) (d : BitVec 6) (a : BitVec 6) (b : BitVec 6) (c : BitVec 6) (t : BitVec 4) (sc : BitVec 2) (op : BitVec 4) (ord : BitVec 2)
  | reds (h : Hdr) (a : BitVec 6) (b : BitVec 6) (t : BitVec 4) (sc : BitVec 2) (op : BitVec 4) (ord : BitVec 2)
  | binr (h : Hdr) (d : BitVec 6) (a : BitVec 6) (b : BitVec 6)
  | cell (h : Hdr) (d : BitVec 6) (a : BitVec 6) (b : BitVec 6) (c : BitVec 6) (dim : BitVec 4) (n : BitVec 6)
  | atomc (h : Hdr) (d : BitVec 6) (a : BitVec 6) (b : BitVec 6) (c : BitVec 6) (t : BitVec 4) (sc : BitVec 2) (op : BitVec 4) (ord : BitVec 2)
  | brl (h : Hdr) (k : BitVec 32)
  | join (h : Hdr)
  | lxPick (h : Hdr) (d : BitVec 6) (a : BitVec 6) (b : BitVec 6)
  | lxFlip (h : Hdr) (d : BitVec 6) (a : BitVec 6) (n : BitVec 5)
  | lxRot (h : Hdr) (d : BitVec 6) (a : BitVec 6) (n : BitVec 5)
  | lxShift (h : Hdr) (d : BitVec 6) (a : BitVec 6) (n : BitVec 6)
  | pviewMask (h : Hdr) (d : BitVec 6) (neg : BitVec 1) (p : BitVec 3)
  | pviewAny (h : Hdr) (pd : BitVec 3) (neg : BitVec 1) (p : BitVec 3)
  | pviewAll (h : Hdr) (pd : BitVec 3) (neg : BitVec 1) (p : BitVec 3)
  | pviewCount (h : Hdr) (d : BitVec 6) (neg : BitVec 1) (p : BitVec 3)
  | lcomb (h : Hdr) (d : BitVec 6) (a : BitVec 6) (t : BitVec 4) (op : BitVec 4)
  | exitL (h : Hdr)
  | nop (h : Hdr)
  | pset (h : Hdr) (op : BitVec 3) (pd : BitVec 3) (pa : BitVec 3) (pb : BitVec 3)
  | pmovFromP (h : Hdr) (d : BitVec 6)
  | pmovToP (h : Hdr) (a : BitVec 6)
  | sadd (h : Hdr) (d : BitVec 6) (a : BitVec 6) (b : BitVec 6)
  | ssub (h : Hdr) (d : BitVec 6) (a : BitVec 6) (b : BitVec 6)
  | smul (h : Hdr) (d : BitVec 6) (a : BitVec 6) (b : BitVec 6)
  | smulh (h : Hdr) (d : BitVec 6) (a : BitVec 6) (b : BitVec 6)
  | sand (h : Hdr) (d : BitVec 6) (a : BitVec 6) (b : BitVec 6)
  | sor (h : Hdr) (d : BitVec 6) (a : BitVec 6) (b : BitVec 6)
  | sxor (h : Hdr) (d : BitVec 6) (a : BitVec 6) (b : BitVec 6)
  | sshl (h : Hdr) (d : BitVec 6) (a : BitVec 6) (b : BitVec 6)
  | sshr (h : Hdr) (d : BitVec 6) (a : BitVec 6) (b : BitVec 6)
  | ssar (h : Hdr) (d : BitVec 6) (a : BitVec 6) (b : BitVec 6)
  | smin (h : Hdr) (d : BitVec 6) (a : BitVec 6) (b : BitVec 6)
  | smax (h : Hdr) (d : BitVec 6) (a : BitVec 6) (b : BitVec 6)
  | ssetq (h : Hdr) (cc : BitVec 3) (q : BitVec 3) (a : BitVec 6) (b : BitVec 6)
  | smov (h : Hdr) (d : BitVec 6) (a : BitVec 6)
  | smovi (h : Hdr) (d : BitVec 6) (k : BitVec 32)
  | smovh (h : Hdr) (d : BitVec 6) (k : BitVec 32)
  | saddi (h : Hdr) (d : BitVec 6) (a : BitVec 6) (k : BitVec 32)
  | ssel (h : Hdr) (d : BitVec 6) (a : BitVec 6) (b : BitVec 6)
  | bcast (h : Hdr) (d : BitVec 6) (a : BitVec 6)
  | lread (h : Hdr) (d : BitVec 6) (a : BitVec 6) (b : BitVec 6)
  | srd (h : Hdr) (d : BitVec 6) (idx : BitVec 6)
  | swr (h : Hdr) (a : BitVec 6) (idx : BitVec 6)
  | sld (h : Hdr) (d : BitVec 6) (a : BitVec 6) (k : BitVec 32)
  | sst (h : Hdr) (a : BitVec 6) (b : BitVec 6) (k : BitVec 32)
  | taSet (h : Hdr) (ta : BitVec 4) (a : BitVec 6) (b : BitVec 6)
  | taInv (h : Hdr) (ta : BitVec 4)
  | taQry (h : Hdr) (d : BitVec 6) (ta : BitVec 4)
  | xbSetImm (h : Hdr) (imm : BitVec 12)
  | xbSetReg (h : Hdr) (a : BitVec 6)
  | xbAddImm (h : Hdr) (imm : BitVec 12)
  | xbAddReg (h : Hdr) (a : BitVec 6)
  | bra (h : Hdr) (off : BitVec 18)
  | call (h : Hdr) (off : BitVec 18)
  | ret (h : Hdr) (a : BitVec 6)
  | jmp (h : Hdr) (a : BitVec 6)
  | loop (h : Hdr) (a : BitVec 6) (k : BitVec 32)
  | exit (h : Hdr)
  | trap (h : Hdr) (code : BitVec 12)
  | syncs (h : Hdr)
  | yieldR (h : Hdr)
  | brk (h : Hdr) (code : BitVec 12)
  | launch (h : Hdr) (d : BitVec 6) (a : BitVec 6)
  | launchTry (h : Hdr) (d : BitVec 6) (a : BitVec 6)
  | qpost (h : Hdr) (d : BitVec 6) (a : BitVec 6) (b : BitVec 6)
  | qprio (h : Hdr) (d : BitVec 6) (a : BitVec 6) (b : BitVec 6)
  | ctrAdd (h : Hdr) (a : BitVec 6) (b : BitVec 6) (mode : BitVec 4) (sc : BitVec 2) (kind : BitVec 4) (imm : BitVec 16)
  | ctrWait (h : Hdr) (d : BitVec 6) (a : BitVec 6) (b : BitVec 6) (mode : BitVec 4) (sc : BitVec 2) (kind : BitVec 4) (imm : BitVec 16)
  | ctrWaitt (h : Hdr) (d : BitVec 6) (a : BitVec 6) (b : BitVec 6) (c : BitVec 6) (mode : BitVec 4) (sc : BitVec 2) (q : BitVec 3)
  | ctrRd (h : Hdr) (d : BitVec 6) (a : BitVec 6)
  | ctrRdSt (h : Hdr) (d : BitVec 6) (a : BitVec 6)
  | barArv (h : Hdr) (d : BitVec 6) (a : BitVec 6) (b : BitVec 6) (mode : BitVec 4) (sc : BitVec 2) (kind : BitVec 4) (imm : BitVec 16)
  | barWait (h : Hdr) (d : BitVec 6) (a : BitVec 6) (b : BitVec 6) (mode : BitVec 4) (sc : BitVec 2)
  | fence (h : Hdr) (sc : BitVec 2) (kind : BitVec 4)
  | acqRem (h : Hdr) (d : BitVec 6) (a : BitVec 6)
  | batchClose (h : Hdr) (d : BitVec 6)
  | batchWait (h : Hdr) (a : BitVec 6) (kind : BitVec 4) (imm : BitVec 16)
  | quiet (h : Hdr) (sc : BitVec 2) (t : BitVec 1)
  | phase (h : Hdr) (t : BitVec 1)
  | cpIn (h : Hdr) (d : BitVec 6) (a : BitVec 6) (b : BitVec 6) (comp : BitVec 2) (sp : BitVec 2) (sc : BitVec 2) (imm : BitVec 16)
  | cpOut (h : Hdr) (d : BitVec 6) (a : BitVec 6) (b : BitVec 6) (comp : BitVec 2) (sp : BitVec 2) (sc : BitVec 2) (imm : BitVec 16)
  | cpGath (h : Hdr) (d : BitVec 6) (a : BitVec 6) (b : BitVec 6) (c : BitVec 6) (comp : BitVec 2) (sp : BitVec 2) (sc : BitVec 2) (imm : BitVec 16)
  | cpBulk (h : Hdr) (d : BitVec 6) (a : BitVec 6) (b : BitVec 6) (comp : BitVec 2) (sp : BitVec 2) (sc : BitVec 2) (imm : BitVec 16)
  | cpBulkFill (h : Hdr) (d : BitVec 6) (a : BitVec 6) (b : BitVec 6) (comp : BitVec 2) (sp : BitVec 2) (sc : BitVec 2) (imm : BitVec 16)
  | collAllred (h : Hdr) (d : BitVec 6) (a : BitVec 6) (b : BitVec 6) (comp : BitVec 2) (sp : BitVec 2) (sc : BitVec 2) (imm : BitVec 16)
  | collRedscat (h : Hdr) (d : BitVec 6) (a : BitVec 6) (b : BitVec 6) (comp : BitVec 2) (sp : BitVec 2) (sc : BitVec 2) (imm : BitVec 16)
  | collAllgath (h : Hdr) (d : BitVec 6) (a : BitVec 6) (b : BitVec 6) (comp : BitVec 2) (sp : BitVec 2) (sc : BitVec 2) (imm : BitVec 16)
  | collBcast (h : Hdr) (d : BitVec 6) (a : BitVec 6) (b : BitVec 6) (comp : BitVec 2) (sp : BitVec 2) (sc : BitVec 2) (imm : BitVec 16)
  | cpStat (h : Hdr) (d : BitVec 6) (which : BitVec 2)
  | lkDef (h : Hdr) (d : BitVec 6) (a : BitVec 6) (b : BitVec 6)
  | lkBegin (h : Hdr) (d : BitVec 6)
  | lkAcq (h : Hdr) (a : BitVec 6) (mode : BitVec 3) (sc : BitVec 2)
  | lkTry (h : Hdr) (d : BitVec 6) (a : BitVec 6) (mode : BitVec 3) (sc : BitVec 2)
  | lkUpg (h : Hdr) (a : BitVec 6) (mode : BitVec 3) (sc : BitVec 2)
  | lkRel (h : Hdr) (a : BitVec 6)
  | lkEnd (h : Hdr)
  | lkQry (h : Hdr) (d : BitVec 6) (a : BitVec 6)
  | gearN (h : Hdr)
  | gearF (h : Hdr)
  | gearW (h : Hdr)
  | hintCompute (h : Hdr)
  | hintMemory (h : Hdr)
  | hintWait (h : Hdr)
  | hintEndphase (h : Hdr)
  | clk (h : Hdr) (d : BitVec 6)
  | seg (h : Hdr)
  | segSync (h : Hdr)
  | rte (h : Hdr)
  | ologRetry (h : Hdr) (a : BitVec 6)
  | ologDrop (h : Hdr) (a : BitVec 6)
  | ologStat (h : Hdr) (d : BitVec 6)
  | ctxFlV (h : Hdr)
  | ctxFlA (h : Hdr)
  | ctxFlAll (h : Hdr)
  | ctxLdV (h : Hdr) (a : BitVec 6) (b : BitVec 6)
  | ctxLdA (h : Hdr) (a : BitVec 6)
  | stashMap (h : Hdr) (d : BitVec 6) (a : BitVec 6) (b : BitVec 6)
  | stashWb (h : Hdr) (a : BitVec 6) (b : BitVec 6)
  | cinvL1 (h : Hdr) (a : BitVec 6) (b : BitVec 6)
  | cinvWb (h : Hdr) (a : BitVec 6) (b : BitVec 6)
  | cinvWbi (h : Hdr) (a : BitVec 6) (b : BitVec 6)
  | tlbiRange (h : Hdr) (a : BitVec 6) (b : BitVec 6)
  | tlbiCtx (h : Hdr) (b : BitVec 6)
  | tlbiGlobal (h : Hdr)
  | tlbiAll (h : Hdr)
  | lkmat (h : Hdr) (d : BitVec 6) (a : BitVec 6) (b : BitVec 6)
  | finj (h : Hdr) (d : BitVec 6) (a : BitVec 6) (b : BitVec 6)
  | preempt (h : Hdr) (d : BitVec 6) (a : BitVec 6) (b : BitVec 6)
  | finjApply (gid : Nat)
  | splitSelect (tile : Nat) (quad : Nat)
  | trapEntry (gid : Nat)
  | resultReturn (gid : Nat) (seq : Nat) (lanes : BitVec 32)
  | memoryReply (gid : Nat) (e : Nat) (lanes : BitVec 32)
  | homeRequest (gid : Nat) (e : Nat) (lanes : BitVec 32)
  | invalidationReceive (tile : Nat) (sector : Nat)
  | invalidationAck (gid : Nat)
  | pageWalkDone (gid : Nat) (e : Nat) (lanes : BitVec 32)
  | apertureTranslateDone (gid : Nat) (ta : BitVec 4)
  | unitMoveComplete (unit : Nat)
  | settleHoldEnd (unit : Nat)
  | accumulatorStart (tile : Nat)
  | accumulatorComplete (x : EngineEnd)
  | registerLineFill (gid : Nat) (line : Nat)
  | engineCommandStart (cmd : Nat)
  | engineTransferStep (cmd : Nat)
  | engineCommandComplete (cmd : Nat)
  | collPeerMessage (member : CollMember) (call : CollCall) (code : BitVec 7) (data : List (BitVec 8))
  | waitSatisfied (gid : Nat) (slot : Nat)
  | ctrWaittDeadline (gid : Nat) (slot : Nat)
  | quietDrained (gid : Nat) (slot : Nat)
  | lockRequestArrive (gid : Nat)
  | lockReleaseArrive (gid : Nat)
  | lockGrantArrive (gid : Nat)
  | woundArrive (gid : Nat)
  | queueDoorbell (n : Nat) (tail : BitVec 32)
  | qctlWrite (n : Nat) (v : BitVec 64)
  | queueEntryRead (n : Nat)
  | gridAccept
  | teamDistribute (serial : BitVec 32) (tile : Nat) (trailerTile : Nat)
  | teamRetire (tid : Nat)
  | gridRetire (serial : BitVec 32)
  | groupResume (tid : Nat) (tile : Nat)
  | partitionSwapDone (die : Nat)
  | trailerSegmentStart (tid : Nat)
  | segmentCompare (tid : Nat)
  | thirdRunPlace (tid : Nat) (tile : Nat)
  | vote (tid : Nat)
  | prismHoldLimit (ctx : Nat)
  | dieFatalError (die : Nat)
  | correctedMemoryError (kind : Nat) (place : ErrorPlace)
  | bucketLeak (kind : Nat) (unit : Nat)
  | gearTransitionStart (tile : Nat)
  | gearTransitionEnd (tile : Nat)
  | pairBalanceMeasure (pair : Nat) (upper : Nat) (lower : Nat) (predUpper : Nat) (predLower : Nat)
  | balanceWaitExpiry (tile : Nat)
  | droopStretch (cluster : Nat)
  | governorAdjust (cluster : Nat) (fmhz : BitVec 12) (nmhz : BitVec 12) (power : Nat)
  | capLeaseExpiry
  | hostCxlMemAccess (pa : Nat) (op : Nat) (n : Nat) (data : List (BitVec 8))
  | gflFlitReceive (port : Nat) (head : FlitHead) (pa : Nat) (wr : Bool) (retried : Bool) (data : List (BitVec 8))
  | gflPortUp (port : Nat) (peer : BitVec 12)
  | gflPortDown (port : Nat)
  | routeEntryWrite (chip : BitVec 12) (v : BitVec 64)
  | routeApply (chip : BitVec 12)
  | timeMessage (root : BitVec 64)
  | timeSyncTimeout
  | partcfgWrite (v : BitVec 64)
  | biasFlipToHost (die : Nat) (page : Nat)
  | biasFlipToDevice (die : Nat) (page : Nat)
  | biasFlipDone (die : Nat)
  | snapshotNow
  | snapshotInterval
  | snapshotStreamDone (failed : Bool)
  | frzctlFreezeWrite (v : BitVec 64)
  | freezePin
  | registerWrite (off : Nat) (v : BitVec 64)
  | getZhr
  | getCert (piece : Nat)
  | setCap (seq : BitVec 64) (cap : BitVec 16) (lease : BitVec 16) (rest : BitVec 32)
  | freeze
  | clrFence (index : Nat)
  | regRd (off : Nat)
  | regWr (off : Nat) (v : BitVec 64)
  | reset
  | scanRd (chain : Nat) (off : Nat)
  | functionReady (bit : Nat)
  | cxlLinkUp
  | cxlHostSnoop (line : Nat)
  | droopRecovery (cluster : Nat)
  | snapshotStopEnd (die : Nat)
  | timeSyncReached
  deriving DecidableEq, Repr

end Sys2Proof
end

