-- ==== Sys2Proof/WellFormed.lean ====
section
/-! DEFINITION. The well-formed instructions: every type, mode, op, kind or scope code is one the instruction allots (R30).
A word whose fields break these raises Illegal Instruction. -/

namespace Sys2Proof

/-- Widths of the type codes of R137 in bits: source and destination codes of CVT. -/
def cvtWidth (t : BitVec 4) : Nat :=
  match t.toNat with
  | 0 | 6 | 7 => 32
  | 1 | 2 | 12 | 13 => 16
  | 3 | 8 | 9 => 64
  | _ => 8

/-- Integer type codes of R137. -/
def cvtIsInt (t : BitVec 4) : Bool := decide (6 ≤ t.toNat) && decide (t.toNat ≤ 11)

/-- A position code is legal for a type of `width` bits: zero for 32 and 64 bits, [13] zero for a half (R137). -/
def cvtPosLegal (width : Nat) (pos : BitVec 2) : Bool :=
  if width = 8 then true else if width = 16 then decide (pos.toNat < 2) else decide (pos.toNat = 0)

/-- The codes of CVT that R137 allows. -/
def cvtLegal (dt st : BitVec 4) (spos dpos : BitVec 2) (sat rs : BitVec 1) : Bool :=
  decide (st.toNat < 12) && !(cvtIsInt st && cvtIsInt dt) && !(cvtIsInt dt && decide (sat.toNat = 1)) &&
    (decide (dt.toNat < 12) || decide (rs.toNat = 0)) &&
    cvtPosLegal (cvtWidth st) spos && cvtPosLegal (cvtWidth dt) dpos

/-- The combinations of type and op of R211 marked "yes". -/
def atomLegal (t op : BitVec 4) : Bool :=
  match t.toNat with
  | 0 | 2 => decide (op.toNat ≤ 8)
  | 1 | 3 => decide (op.toNat ≤ 6) || decide (op.toNat = 8)
  | 4 | 5 | 6 => decide (op.toNat ≤ 2)
  | _ => false

/-- The completion fields of an engine command (R293). -/
def engLegal (comp sp sc : BitVec 2) (imm : BitVec 16) (b : BitVec 6) : Bool :=
  decide (comp.toNat ≤ 2) && decide (sp.toNat ≤ 2) &&
    (!decide (comp.toNat = 0) || (decide (sp.toNat = 0) && decide (sc.toNat = 0) && decide (b.toNat = 0))) &&
    (decide (comp.toNat = 1) || decide (imm.toNat = 0))

/-- The allotted special-register indices (R43, R44 and the maps of each chapter). -/
def srAllotted (idx : BitVec 6) : Bool :=
  !([0x0A, 0x1C, 0x1D, 0x1E, 0x1F, 0x2F, 0x37, 0x3F].contains idx.toNat)

/-- The special-register indices that are not read-only in every mode (R45). -/
def srWritable (idx : BitVec 6) : Bool :=
  [0x0C, 0x0D, 0x14, 0x15, 0x16, 0x17, 0x18, 0x19, 0x1A, 0x1B, 0x22, 0x23, 0x26, 0x2A, 0x2C, 0x30, 0x31, 0x32, 0x33, 0x34,
    0x38, 0x39, 0x3A, 0x3B, 0x3C].contains idx.toNat


/-- The legality of an instruction's codes: the rows of R30 that depend on the words alone, apart from must-be-zero bits,
which the constructors do not hold.  Steps without a word are always well formed. -/
def Instr.wf : Instr → Bool
  | .iadd _ _ _ _ => true
  | .isub _ _ _ _ => true
  | .imul _ _ _ _ => true
  | .imulh _ _ _ _ => true
  | .imulhu _ _ _ _ => true
  | .imad _ _ _ _ _ => true
  | .imin _ _ _ _ => true
  | .imax _ _ _ _ => true
  | .iminu _ _ _ _ => true
  | .imaxu _ _ _ _ => true
  | .iabs _ _ _ => true
  | .ineg _ _ _ => true
  | .andv _ _ _ _ => true
  | .orv _ _ _ _ => true
  | .xorv _ _ _ _ => true
  | .andn _ _ _ _ => true
  | .shl _ _ _ _ => true
  | .shr _ _ _ _ => true
  | .sar _ _ _ _ => true
  | .rotl _ _ _ _ => true
  | .bfx _ _ _ b t op n => decide (t.toNat <= 1) && decide (op.toNat <= 1) && decide (n.toNat <= 32) && (!decide (op.toNat = 0) || decide (b.toNat < 32))
  | .bfi _ _ _ b _ op n => decide (op.toNat <= 1) && decide (n.toNat <= 32) && (!decide (op.toNat = 0) || decide (b.toNat < 32))
  | .popc _ _ _ => true
  | .clz _ _ _ => true
  | .brev _ _ _ => true
  | .icmp _ _ _ _ _ => true
  | .sel _ _ _ _ _ _ => true
  | .mov _ _ _ => true
  | .movi _ _ _ => true
  | .iaddi _ _ _ _ => true
  | .iadd64 _ _ _ _ => true
  | .lidx _ _ => true
  | .fadd _ _ _ _ => true
  | .fsub _ _ _ _ => true
  | .fmul _ _ _ _ => true
  | .ffma _ _ _ _ _ rm _ _ rs => (!decide (rs.toNat = 0) || decide (rm.toNat = 0))
  | .fmin _ _ _ _ => true
  | .fmax _ _ _ _ => true
  | .fcmp _ _ _ _ _ => true
  | .fclass _ _ _ hf t => (!decide (t.toNat < 2) || decide (hf.toNat = 0))
  | .dadd _ _ _ _ => true
  | .dmul _ _ _ _ => true
  | .dfma _ _ _ _ _ rm _ _ rs => (!decide (rs.toNat = 0) || decide (rm.toNat = 0))
  | .dcmp _ _ _ _ _ => true
  | .hadd2 _ _ _ _ t rm rs => decide (t.toNat <= 1) && (!decide (rs.toNat = 0) || decide (rm.toNat = 0))
  | .hmul2 _ _ _ _ t rm rs => decide (t.toNat <= 1) && (!decide (rs.toNat = 0) || decide (rm.toNat = 0))
  | .hfma2 _ _ _ _ _ t rm _ _ rs => decide (t.toNat <= 1) && (!decide (rs.toNat = 0) || decide (rm.toNat = 0))
  | .frcp _ _ _ => true
  | .frsq _ _ _ => true
  | .fsqrt _ _ _ => true
  | .fex2 _ _ _ => true
  | .flg2 _ _ _ => true
  | .fsin _ _ _ => true
  | .fcos _ _ _ => true
  | .cvt _ _ _ dt rm st spos dpos sat rs => cvtLegal dt st spos dpos sat rs && (!decide (rs.toNat = 0) || decide (rm.toNat = 0))
  | .frnd _ _ _ t rm op rs => decide (t.toNat <= 1) && decide (op.toNat <= 1) && (!decide (rs.toNat = 0) || decide (rm.toNat = 0))
  | .nanorg _ _ _ hf t => (!decide (t.toNat < 2) || decide (hf.toNat = 0))
  | .dxbPack _ _ _ _ t rm rs => decide (t.toNat <= 3) && (!decide (2 <= t.toNat) || decide (rs.toNat = 0)) && (!decide (rs.toNat = 0) || decide (rm.toNat = 0))
  | .dxbUnpk _ _ _ _ t => decide (t.toNat <= 1)
  | .fabs _ _ _ => true
  | .fneg _ _ _ => true
  | .dmin _ _ _ _ => true
  | .dmax _ _ _ _ => true
  | .mma _ _ _ _ c t _ rm rs => decide (t.toNat <= 5) && (!decide (t.toNat <= 1) || decide (c.toNat % 2 = 0)) && (!decide (2 <= t.toNat) || decide (c.toNat = 0)) && (!decide (rs.toNat = 0) || decide (rm.toNat = 0))
  | .accRd _ _ _ t rm n j0 rs => decide (t.toNat <= 3) && decide (j0.toNat + n.toNat < 32) && (!decide (t.toNat ≠ 0) || decide (rs.toNat = 0)) && (!decide (rs.toNat = 0) || decide (rm.toNat = 0))
  | .accWr _ _ _ t rm n j0 rs => decide (t.toNat <= 5) && decide (j0.toNat + n.toNat < 32) && (!decide (t.toNat ≠ 1) || decide (rs.toNat = 0)) && (!decide (rs.toNat = 0) || decide (rm.toNat = 0)) && (!decide (4 <= t.toNat) || (decide (j0.toNat % 2 = 0) && decide (n.toNat % 2 = 1)))
  | .accZero _ _ => true
  | .accCvt _ _ _ c t rm sat rs => decide (t.toNat % 8 <= 5) && (!decide (t.toNat % 8 <= 3) || decide (c.toNat = 0)) && (!decide (4 <= t.toNat % 8) || decide (sat.toNat = 0)) && (!decide (8 <= t.toNat) || decide (rs.toNat = 0)) && (!decide (rs.toNat = 0) || decide (rm.toNat = 0))
  | .ldB _ _ _ _ _ => true
  | .ldH _ _ _ _ _ => true
  | .ldW _ _ _ _ _ => true
  | .ldD _ _ _ _ _ => true
  | .ldQ _ _ _ _ _ => true
  | .stB _ _ _ _ _ => true
  | .stH _ _ _ _ _ => true
  | .stW _ _ _ _ _ => true
  | .stD _ _ _ _ _ => true
  | .stQ _ _ _ _ _ => true
  | .ldsW _ _ _ => true
  | .ldsD _ _ _ => true
  | .ldsQ _ _ _ => true
  | .stsW _ _ _ => true
  | .stsD _ _ _ => true
  | .stsQ _ _ _ => true
  | .ldcW _ _ _ => true
  | .stcW _ _ _ => true
  | .ldx _ _ ta _ _ t mode _ => decide (t.toNat <= 6) && decide (mode.toNat <= 2) && (!decide (mode.toNat = 2) || decide (ta.toNat = 0))
  | .stx _ _ ta _ _ t mode _ => decide (t.toNat <= 6) && decide (t.toNat ≠ 1) && decide (t.toNat ≠ 3) && decide (mode.toNat <= 2) && (!decide (mode.toNat = 2) || decide (ta.toNat = 0))
  | .prefL1 _ _ _ _ => true
  | .prefL2 _ _ _ _ => true
  | .atom _ _ _ _ _ t _ op _ => atomLegal t op && decide (op.toNat <= 7)
  | .red _ _ _ _ t _ op ord => atomLegal t op && decide (op.toNat ≠ 6) && decide (op.toNat ≠ 8) && decide (ord.toNat % 2 = 0)
  | .cas _ _ _ _ _ t _ _ => decide (t.toNat <= 3)
  | .atoms _ _ _ _ c t _ op _ => atomLegal t op && (!decide (op.toNat ≠ 8) || decide (c.toNat = 0))
  | .reds _ _ _ t _ op ord => atomLegal t op && decide (op.toNat ≠ 6) && decide (op.toNat ≠ 8) && decide (ord.toNat % 2 = 0)
  | .binr _ _ _ _ => true
  | .cell _ _ _ b c dim n => decide (dim.toNat <= 2) && (!decide (dim.toNat = 0) || decide (b.toNat = 0)) && (!decide (dim.toNat ≠ 2) || decide (c.toNat = 0)) && decide (n.toNat <= 60)
  | .atomc _ _ _ _ c t _ op _ => atomLegal t op && (!decide (op.toNat ≠ 8) || decide (c.toNat = 0))
  | .brl _ _ => true
  | .join h => decide (h.g.toNat = 7)
  | .lxPick _ _ _ _ => true
  | .lxFlip _ _ _ _ => true
  | .lxRot _ _ _ _ => true
  | .lxShift _ _ _ n => decide (n.toNat ≠ 32)
  | .pviewMask _ _ _ _ => true
  | .pviewAny _ _ _ _ => true
  | .pviewAll _ _ _ _ => true
  | .pviewCount _ _ _ _ => true
  | .lcomb _ _ _ t op => decide (t.toNat <= 1) && decide (op.toNat <= 7)
  | .exitL _ => true
  | .nop _ => true
  | .pset _ op _ _ _ => decide (op.toNat <= 4)
  | .pmovFromP _ _ => true
  | .pmovToP _ _ => true
  | .sadd _ _ _ _ => true
  | .ssub _ _ _ _ => true
  | .smul _ _ _ _ => true
  | .smulh _ _ _ _ => true
  | .sand _ _ _ _ => true
  | .sor _ _ _ _ => true
  | .sxor _ _ _ _ => true
  | .sshl _ _ _ _ => true
  | .sshr _ _ _ _ => true
  | .ssar _ _ _ _ => true
  | .smin _ _ _ _ => true
  | .smax _ _ _ _ => true
  | .ssetq _ _ _ _ _ => true
  | .smov _ _ _ => true
  | .smovi _ _ _ => true
  | .smovh _ _ _ => true
  | .saddi _ _ _ _ => true
  | .ssel _ _ _ _ => true
  | .bcast _ _ _ => true
  | .lread _ _ _ _ => true
  | .srd _ _ idx => srAllotted idx
  | .swr _ _ idx => srAllotted idx && srWritable idx
  | .sld _ _ _ _ => true
  | .sst _ _ _ _ => true
  | .taSet _ _ _ _ => true
  | .taInv _ _ => true
  | .taQry _ _ _ => true
  | .xbSetImm _ _ => true
  | .xbSetReg _ _ => true
  | .xbAddImm _ _ => true
  | .xbAddReg _ _ => true
  | .bra _ _ => true
  | .call _ _ => true
  | .ret _ _ => true
  | .jmp _ _ => true
  | .loop _ _ _ => true
  | .exit _ => true
  | .trap _ _ => true
  | .syncs _ => true
  | .yieldR _ => true
  | .brk _ _ => true
  | .launch _ _ _ => true
  | .launchTry _ _ _ => true
  | .qpost _ _ _ _ => true
  | .qprio _ _ _ _ => true
  | .ctrAdd _ _ b mode _ kind imm => decide (mode.toNat <= 2) && decide (kind.toNat <= 1) && (!decide (kind.toNat = 0) || decide (imm.toNat = 0)) && (!decide (kind.toNat = 1) || decide (b.toNat = 0))
  | .ctrWait _ _ _ b mode _ kind imm => decide (mode.toNat <= 2) && decide (kind.toNat <= 1) && (!decide (kind.toNat = 0) || decide (imm.toNat = 0)) && (!decide (kind.toNat = 1) || decide (b.toNat = 0))
  | .ctrWaitt _ _ _ _ _ mode _ _ => decide (mode.toNat <= 2)
  | .ctrRd _ _ _ => true
  | .ctrRdSt _ _ _ => true
  | .barArv _ _ _ b mode _ kind imm => decide (mode.toNat <= 2) && decide (kind.toNat <= 1) && (!decide (kind.toNat = 0) || decide (imm.toNat = 0)) && (!decide (kind.toNat = 1) || decide (b.toNat = 0))
  | .barWait _ _ _ _ mode _ => decide (mode.toNat <= 2)
  | .fence _ _ kind => decide (kind.toNat <= 2)
  | .acqRem _ _ _ => true
  | .batchClose _ _ => true
  | .batchWait _ a kind imm => decide (kind.toNat <= 1) && (!decide (kind.toNat = 0) || decide (imm.toNat = 0)) && (!decide (kind.toNat = 1) || decide (a.toNat = 0))
  | .quiet _ _ _ => true
  | .phase _ _ => true
  | .cpIn _ _ a b comp sp sc imm => engLegal comp sp sc imm b && decide (a.toNat <= 60)
  | .cpOut _ _ a b comp sp sc imm => engLegal comp sp sc imm b && decide (a.toNat <= 60)
  | .cpGath _ _ a b _ comp sp sc imm => engLegal comp sp sc imm b && decide (a.toNat <= 60)
  | .cpBulk _ _ a b comp sp sc imm => engLegal comp sp sc imm b && decide (a.toNat <= 61)
  | .cpBulkFill _ _ a b comp sp sc imm => engLegal comp sp sc imm b && decide (a.toNat <= 61)
  | .collAllred _ _ _ b comp sp sc imm => engLegal comp sp sc imm b
  | .collRedscat _ _ _ b comp sp sc imm => engLegal comp sp sc imm b
  | .collAllgath _ _ _ b comp sp sc imm => engLegal comp sp sc imm b
  | .collBcast _ _ _ b comp sp sc imm => engLegal comp sp sc imm b
  | .cpStat _ _ which => decide (which.toNat <= 2)
  | .lkDef _ _ _ _ => true
  | .lkBegin _ _ => true
  | .lkAcq _ _ mode _ => decide (mode.toNat <= 5)
  | .lkTry _ _ _ mode _ => decide (mode.toNat <= 5)
  | .lkUpg _ _ mode _ => (decide (mode.toNat = 2) || decide (mode.toNat = 5))
  | .lkRel _ _ => true
  | .lkEnd _ => true
  | .lkQry _ _ _ => true
  | .gearN _ => true
  | .gearF _ => true
  | .gearW _ => true
  | .hintCompute _ => true
  | .hintMemory _ => true
  | .hintWait _ => true
  | .hintEndphase _ => true
  | .clk _ _ => true
  | .seg _ => true
  | .segSync _ => true
  | .rte _ => true
  | .ologRetry _ _ => true
  | .ologDrop _ _ => true
  | .ologStat _ _ => true
  | .ctxFlV _ => true
  | .ctxFlA _ => true
  | .ctxFlAll _ => true
  | .ctxLdV _ _ _ => true
  | .ctxLdA _ _ => true
  | .stashMap _ _ _ _ => true
  | .stashWb _ _ _ => true
  | .cinvL1 _ _ _ => true
  | .cinvWb _ _ _ => true
  | .cinvWbi _ _ _ => true
  | .tlbiRange _ _ _ => true
  | .tlbiCtx _ _ => true
  | .tlbiGlobal _ => true
  | .tlbiAll _ => true
  | .lkmat _ _ _ _ => true
  | .finj _ _ _ _ => true
  | .preempt _ _ _ _ => true
  | .finjApply _ => true
  | .splitSelect _ _ => true
  | .trapEntry _ => true
  | .resultReturn _ _ _ => true
  | .memoryReply _ _ _ => true
  | .homeRequest _ _ _ => true
  | .invalidationReceive _ _ => true
  | .invalidationAck _ => true
  | .pageWalkDone _ _ _ => true
  | .apertureTranslateDone _ _ => true
  | .unitMoveComplete _ => true
  | .settleHoldEnd _ => true
  | .accumulatorStart _ => true
  | .accumulatorComplete _ => true
  | .registerLineFill _ _ => true
  | .engineCommandStart _ => true
  | .engineTransferStep _ => true
  | .engineCommandComplete _ => true
  | .collPeerMessage _ _ _ _ => true
  | .waitSatisfied _ _ => true
  | .ctrWaittDeadline _ _ => true
  | .quietDrained _ _ => true
  | .lockRequestArrive _ => true
  | .lockReleaseArrive _ => true
  | .lockGrantArrive _ => true
  | .woundArrive _ => true
  | .queueDoorbell _ _ => true
  | .qctlWrite _ _ => true
  | .queueEntryRead _ => true
  | .gridAccept => true
  | .teamDistribute _ _ _ => true
  | .teamRetire _ => true
  | .gridRetire _ => true
  | .groupResume _ _ => true
  | .partitionSwapDone _ => true
  | .trailerSegmentStart _ => true
  | .segmentCompare _ => true
  | .thirdRunPlace _ _ => true
  | .vote _ => true
  | .prismHoldLimit _ => true
  | .dieFatalError _ => true
  | .correctedMemoryError _ _ => true
  | .bucketLeak _ _ => true
  | .gearTransitionStart _ => true
  | .gearTransitionEnd _ => true
  | .pairBalanceMeasure _ _ _ _ _ => true
  | .balanceWaitExpiry _ => true
  | .droopStretch _ => true
  | .governorAdjust _ _ _ _ => true
  | .capLeaseExpiry => true
  | .hostCxlMemAccess _ _ _ _ => true
  | .gflFlitReceive _ _ _ _ _ _ => true
  | .gflPortUp _ _ => true
  | .gflPortDown _ => true
  | .routeEntryWrite _ _ => true
  | .routeApply _ => true
  | .timeMessage _ => true
  | .timeSyncTimeout => true
  | .partcfgWrite _ => true
  | .biasFlipToHost _ _ => true
  | .biasFlipToDevice _ _ => true
  | .biasFlipDone _ => true
  | .snapshotNow => true
  | .snapshotInterval => true
  | .snapshotStreamDone _ => true
  | .frzctlFreezeWrite _ => true
  | .freezePin => true
  | .registerWrite _ _ => true
  | .getZhr => true
  | .getCert _ => true
  | .setCap _ _ _ _ => true
  | .freeze => true
  | .clrFence _ => true
  | .regRd _ => true
  | .regWr _ _ => true
  | .reset => true
  | .scanRd _ _ => true
  | .functionReady _ => true
  | .cxlLinkUp => true
  | .cxlHostSnoop _ => true
  | .droopRecovery _ => true
  | .snapshotStopEnd _ => true
  | .timeSyncReached => true

end Sys2Proof
end

