-- ==== Sys2Proof/Decode.lean ====
section
/-! DEFINITION. The decoder, total on any two words, and the encoder beside it (02 R22 to R30, R46, R47).
The decoder reads the fields, checks the codes by `Instr.wf`, and then compares the instruction's own words with the words read:
a difference is a must-be-zero bit that is 1 (R29, R30). -/

namespace Sys2Proof

/-- Why a word pair is not an instruction (the rows of R30); each raises Illegal Instruction. -/
inductive Reject where
  /-- the opcode is unallotted in its set -/
  | unallottedOpcode
  /-- a type, mode, op, kind or scope code, or a special-register index, is unallotted -/
  | unallottedCode
  /-- a must-be-zero bit is 1 -/
  | mustBeZero
  deriving DecidableEq, Repr

/-- The header of word 0 (R23, R35). -/
def hdrOf (w : BitVec 32) : Hdr :=
  { e := decide ((w.extractLsb' 30 1).toNat = 1), w := decide ((w.extractLsb' 29 1).toNat = 1), g := w.extractLsb' 0 4 }

/-- Word 0 from its set bit, opcode, header and the format fields already in place (R23). -/
def word0 (set op : Nat) (h : Hdr) (fields : Nat) : BitVec 32 :=
  BitVec.ofNat 32 (set * 0x80000000 + h.e.toNat * 0x40000000 + h.w.toNat * 0x20000000 + op * 0x400000 + fields + h.g.toNat)


/-- The lane-set instructions of opcode row 0x00 (R46). -/
def laneRow0 (low : Nat) (w k : BitVec 32) : Option Instr :=
  match low with
  | 0 => some (.iadd (hdrOf w) (w.extractLsb' 16 6) (w.extractLsb' 10 6) (w.extractLsb' 4 6))
  | 1 => some (.isub (hdrOf w) (w.extractLsb' 16 6) (w.extractLsb' 10 6) (w.extractLsb' 4 6))
  | 2 => some (.imul (hdrOf w) (w.extractLsb' 16 6) (w.extractLsb' 10 6) (w.extractLsb' 4 6))
  | 3 => some (.imulh (hdrOf w) (w.extractLsb' 16 6) (w.extractLsb' 10 6) (w.extractLsb' 4 6))
  | 4 => some (.imulhu (hdrOf w) (w.extractLsb' 16 6) (w.extractLsb' 10 6) (w.extractLsb' 4 6))
  | 5 => some (.imad (hdrOf w) (w.extractLsb' 16 6) (w.extractLsb' 10 6) (w.extractLsb' 4 6) (k.extractLsb' 26 6))
  | 6 => some (.imin (hdrOf w) (w.extractLsb' 16 6) (w.extractLsb' 10 6) (w.extractLsb' 4 6))
  | 7 => some (.imax (hdrOf w) (w.extractLsb' 16 6) (w.extractLsb' 10 6) (w.extractLsb' 4 6))
  | 8 => some (.iminu (hdrOf w) (w.extractLsb' 16 6) (w.extractLsb' 10 6) (w.extractLsb' 4 6))
  | 9 => some (.imaxu (hdrOf w) (w.extractLsb' 16 6) (w.extractLsb' 10 6) (w.extractLsb' 4 6))
  | 10 => some (.iabs (hdrOf w) (w.extractLsb' 16 6) (w.extractLsb' 10 6))
  | 11 => some (.ineg (hdrOf w) (w.extractLsb' 16 6) (w.extractLsb' 10 6))
  | 12 => some (.andv (hdrOf w) (w.extractLsb' 16 6) (w.extractLsb' 10 6) (w.extractLsb' 4 6))
  | 13 => some (.orv (hdrOf w) (w.extractLsb' 16 6) (w.extractLsb' 10 6) (w.extractLsb' 4 6))
  | 14 => some (.xorv (hdrOf w) (w.extractLsb' 16 6) (w.extractLsb' 10 6) (w.extractLsb' 4 6))
  | 15 => some (.andn (hdrOf w) (w.extractLsb' 16 6) (w.extractLsb' 10 6) (w.extractLsb' 4 6))
  | _ => none

/-- The lane-set instructions of opcode row 0x10 (R46). -/
def laneRow1 (low : Nat) (w k : BitVec 32) : Option Instr :=
  match low with
  | 0 => some (.shl (hdrOf w) (w.extractLsb' 16 6) (w.extractLsb' 10 6) (w.extractLsb' 4 6))
  | 1 => some (.shr (hdrOf w) (w.extractLsb' 16 6) (w.extractLsb' 10 6) (w.extractLsb' 4 6))
  | 2 => some (.sar (hdrOf w) (w.extractLsb' 16 6) (w.extractLsb' 10 6) (w.extractLsb' 4 6))
  | 3 => some (.rotl (hdrOf w) (w.extractLsb' 16 6) (w.extractLsb' 10 6) (w.extractLsb' 4 6))
  | 4 => some (.bfx (hdrOf w) (w.extractLsb' 16 6) (w.extractLsb' 10 6) (w.extractLsb' 4 6) (k.extractLsb' 22 4) (k.extractLsb' 16 4) (k.extractLsb' 8 8))
  | 5 => some (.bfi (hdrOf w) (w.extractLsb' 16 6) (w.extractLsb' 10 6) (w.extractLsb' 4 6) (k.extractLsb' 26 6) (k.extractLsb' 16 4) (k.extractLsb' 8 8))
  | 6 => some (.popc (hdrOf w) (w.extractLsb' 16 6) (w.extractLsb' 10 6))
  | 7 => some (.clz (hdrOf w) (w.extractLsb' 16 6) (w.extractLsb' 10 6))
  | 8 => some (.brev (hdrOf w) (w.extractLsb' 16 6) (w.extractLsb' 10 6))
  | 9 => some (.icmp (hdrOf w) (w.extractLsb' 19 3) (w.extractLsb' 16 3) (w.extractLsb' 10 6) (w.extractLsb' 4 6))
  | 10 => some (.sel (hdrOf w) (w.extractLsb' 16 6) (w.extractLsb' 10 6) (w.extractLsb' 4 6) (k.extractLsb' 19 1) (k.extractLsb' 16 3))
  | 11 => some (.mov (hdrOf w) (w.extractLsb' 16 6) (w.extractLsb' 10 6))
  | 12 => some (.movi (hdrOf w) (w.extractLsb' 16 6) (k.extractLsb' 0 32))
  | 13 => some (.iaddi (hdrOf w) (w.extractLsb' 16 6) (w.extractLsb' 10 6) (k.extractLsb' 0 32))
  | 14 => some (.iadd64 (hdrOf w) (w.extractLsb' 16 6) (w.extractLsb' 10 6) (w.extractLsb' 4 6))
  | 15 => some (.lidx (hdrOf w) (w.extractLsb' 16 6))
  | _ => none

/-- The lane-set instructions of opcode row 0x20 (R46). -/
def laneRow2 (low : Nat) (w k : BitVec 32) : Option Instr :=
  match low with
  | 0 => some (.fadd (hdrOf w) (w.extractLsb' 16 6) (w.extractLsb' 10 6) (w.extractLsb' 4 6))
  | 1 => some (.fsub (hdrOf w) (w.extractLsb' 16 6) (w.extractLsb' 10 6) (w.extractLsb' 4 6))
  | 2 => some (.fmul (hdrOf w) (w.extractLsb' 16 6) (w.extractLsb' 10 6) (w.extractLsb' 4 6))
  | 3 => some (.ffma (hdrOf w) (w.extractLsb' 16 6) (w.extractLsb' 10 6) (w.extractLsb' 4 6) (k.extractLsb' 26 6) (k.extractLsb' 20 2) (k.extractLsb' 17 1) (k.extractLsb' 16 1) (k.extractLsb' 8 1))
  | 4 => some (.fmin (hdrOf w) (w.extractLsb' 16 6) (w.extractLsb' 10 6) (w.extractLsb' 4 6))
  | 5 => some (.fmax (hdrOf w) (w.extractLsb' 16 6) (w.extractLsb' 10 6) (w.extractLsb' 4 6))
  | 6 => some (.fcmp (hdrOf w) (w.extractLsb' 19 3) (w.extractLsb' 16 3) (w.extractLsb' 10 6) (w.extractLsb' 4 6))
  | 7 => some (.fclass (hdrOf w) (w.extractLsb' 16 6) (w.extractLsb' 10 6) (w.extractLsb' 6 1) (w.extractLsb' 4 2))
  | 8 => some (.dadd (hdrOf w) (w.extractLsb' 16 6) (w.extractLsb' 10 6) (w.extractLsb' 4 6))
  | 9 => some (.dmul (hdrOf w) (w.extractLsb' 16 6) (w.extractLsb' 10 6) (w.extractLsb' 4 6))
  | 10 => some (.dfma (hdrOf w) (w.extractLsb' 16 6) (w.extractLsb' 10 6) (w.extractLsb' 4 6) (k.extractLsb' 26 6) (k.extractLsb' 20 2) (k.extractLsb' 17 1) (k.extractLsb' 16 1) (k.extractLsb' 8 1))
  | 11 => some (.dcmp (hdrOf w) (w.extractLsb' 19 3) (w.extractLsb' 16 3) (w.extractLsb' 10 6) (w.extractLsb' 4 6))
  | 12 => some (.hadd2 (hdrOf w) (w.extractLsb' 16 6) (w.extractLsb' 10 6) (w.extractLsb' 4 6) (k.extractLsb' 22 4) (k.extractLsb' 20 2) (k.extractLsb' 8 1))
  | 13 => some (.hmul2 (hdrOf w) (w.extractLsb' 16 6) (w.extractLsb' 10 6) (w.extractLsb' 4 6) (k.extractLsb' 22 4) (k.extractLsb' 20 2) (k.extractLsb' 8 1))
  | 14 => some (.hfma2 (hdrOf w) (w.extractLsb' 16 6) (w.extractLsb' 10 6) (w.extractLsb' 4 6) (k.extractLsb' 26 6) (k.extractLsb' 22 4) (k.extractLsb' 20 2) (k.extractLsb' 17 1) (k.extractLsb' 16 1) (k.extractLsb' 8 1))
  | 15 => some (.frcp (hdrOf w) (w.extractLsb' 16 6) (w.extractLsb' 10 6))
  | _ => none

/-- The lane-set instructions of opcode row 0x30 (R46). -/
def laneRow3 (low : Nat) (w k : BitVec 32) : Option Instr :=
  match low with
  | 0 => some (.frsq (hdrOf w) (w.extractLsb' 16 6) (w.extractLsb' 10 6))
  | 1 => some (.fsqrt (hdrOf w) (w.extractLsb' 16 6) (w.extractLsb' 10 6))
  | 2 => some (.fex2 (hdrOf w) (w.extractLsb' 16 6) (w.extractLsb' 10 6))
  | 3 => some (.flg2 (hdrOf w) (w.extractLsb' 16 6) (w.extractLsb' 10 6))
  | 4 => some (.fsin (hdrOf w) (w.extractLsb' 16 6) (w.extractLsb' 10 6))
  | 5 => some (.fcos (hdrOf w) (w.extractLsb' 16 6) (w.extractLsb' 10 6))
  | 6 => some (.cvt (hdrOf w) (w.extractLsb' 16 6) (w.extractLsb' 10 6) (k.extractLsb' 22 4) (k.extractLsb' 20 2) (k.extractLsb' 16 4) (k.extractLsb' 12 2) (k.extractLsb' 10 2) (k.extractLsb' 9 1) (k.extractLsb' 8 1))
  | 7 => some (.frnd (hdrOf w) (w.extractLsb' 16 6) (w.extractLsb' 10 6) (k.extractLsb' 22 4) (k.extractLsb' 20 2) (k.extractLsb' 16 4) (k.extractLsb' 8 1))
  | 8 => some (.nanorg (hdrOf w) (w.extractLsb' 16 6) (w.extractLsb' 10 6) (w.extractLsb' 6 1) (w.extractLsb' 4 2))
  | 9 => some (.dxbPack (hdrOf w) (w.extractLsb' 16 6) (w.extractLsb' 10 6) (k.extractLsb' 26 6) (k.extractLsb' 22 4) (k.extractLsb' 20 2) (k.extractLsb' 8 1))
  | 10 => some (.dxbUnpk (hdrOf w) (w.extractLsb' 16 6) (w.extractLsb' 10 6) (k.extractLsb' 26 6) (k.extractLsb' 22 4))
  | 11 => some (.fabs (hdrOf w) (w.extractLsb' 16 6) (w.extractLsb' 10 6))
  | 12 => some (.fneg (hdrOf w) (w.extractLsb' 16 6) (w.extractLsb' 10 6))
  | 13 => some (.dmin (hdrOf w) (w.extractLsb' 16 6) (w.extractLsb' 10 6) (w.extractLsb' 4 6))
  | 14 => some (.dmax (hdrOf w) (w.extractLsb' 16 6) (w.extractLsb' 10 6) (w.extractLsb' 4 6))
  | _ => none

/-- The lane-set instructions of opcode row 0x40 (R46). -/
def laneRow4 (low : Nat) (w k : BitVec 32) : Option Instr :=
  match low with
  | 0 => some (.mma (hdrOf w) (w.extractLsb' 16 3) (w.extractLsb' 10 6) (w.extractLsb' 4 6) (k.extractLsb' 26 6) (k.extractLsb' 22 4) (k.extractLsb' 21 1) (k.extractLsb' 19 2) (k.extractLsb' 8 1))
  | 1 => some (.accRd (hdrOf w) (w.extractLsb' 16 6) (w.extractLsb' 10 3) (k.extractLsb' 22 4) (k.extractLsb' 20 2) (k.extractLsb' 16 4) (k.extractLsb' 11 5) (k.extractLsb' 8 1))
  | 2 => some (.accWr (hdrOf w) (w.extractLsb' 16 3) (w.extractLsb' 10 6) (k.extractLsb' 22 4) (k.extractLsb' 20 2) (k.extractLsb' 16 4) (k.extractLsb' 11 5) (k.extractLsb' 8 1))
  | 3 => some (.accZero (hdrOf w) (w.extractLsb' 16 3))
  | 4 => some (.accCvt (hdrOf w) (w.extractLsb' 16 6) (w.extractLsb' 10 3) (k.extractLsb' 26 6) (k.extractLsb' 22 4) (k.extractLsb' 20 2) (k.extractLsb' 16 1) (k.extractLsb' 8 1))
  | 8 => some (.ldB (hdrOf w) (w.extractLsb' 16 6) (w.extractLsb' 12 4) (w.extractLsb' 6 6) (w.extractLsb' 4 2))
  | 9 => some (.ldH (hdrOf w) (w.extractLsb' 16 6) (w.extractLsb' 12 4) (w.extractLsb' 6 6) (w.extractLsb' 4 2))
  | 10 => some (.ldW (hdrOf w) (w.extractLsb' 16 6) (w.extractLsb' 12 4) (w.extractLsb' 6 6) (w.extractLsb' 4 2))
  | 11 => some (.ldD (hdrOf w) (w.extractLsb' 16 6) (w.extractLsb' 12 4) (w.extractLsb' 6 6) (w.extractLsb' 4 2))
  | 12 => some (.ldQ (hdrOf w) (w.extractLsb' 16 6) (w.extractLsb' 12 4) (w.extractLsb' 6 6) (w.extractLsb' 4 2))
  | 13 => some (.stB (hdrOf w) (w.extractLsb' 16 6) (w.extractLsb' 12 4) (w.extractLsb' 6 6) (w.extractLsb' 4 2))
  | 14 => some (.stH (hdrOf w) (w.extractLsb' 16 6) (w.extractLsb' 12 4) (w.extractLsb' 6 6) (w.extractLsb' 4 2))
  | 15 => some (.stW (hdrOf w) (w.extractLsb' 16 6) (w.extractLsb' 12 4) (w.extractLsb' 6 6) (w.extractLsb' 4 2))
  | _ => none

/-- The lane-set instructions of opcode row 0x50 (R46). -/
def laneRow5 (low : Nat) (w k : BitVec 32) : Option Instr :=
  match low with
  | 0 => some (.stD (hdrOf w) (w.extractLsb' 16 6) (w.extractLsb' 12 4) (w.extractLsb' 6 6) (w.extractLsb' 4 2))
  | 1 => some (.stQ (hdrOf w) (w.extractLsb' 16 6) (w.extractLsb' 12 4) (w.extractLsb' 6 6) (w.extractLsb' 4 2))
  | 2 => some (.ldsW (hdrOf w) (w.extractLsb' 16 6) (w.extractLsb' 10 6))
  | 3 => some (.ldsD (hdrOf w) (w.extractLsb' 16 6) (w.extractLsb' 10 6))
  | 4 => some (.ldsQ (hdrOf w) (w.extractLsb' 16 6) (w.extractLsb' 10 6))
  | 5 => some (.stsW (hdrOf w) (w.extractLsb' 16 6) (w.extractLsb' 10 6))
  | 6 => some (.stsD (hdrOf w) (w.extractLsb' 16 6) (w.extractLsb' 10 6))
  | 7 => some (.stsQ (hdrOf w) (w.extractLsb' 16 6) (w.extractLsb' 10 6))
  | 8 => some (.ldcW (hdrOf w) (w.extractLsb' 16 6) (w.extractLsb' 10 6))
  | 9 => some (.stcW (hdrOf w) (w.extractLsb' 16 6) (w.extractLsb' 10 6))
  | 10 => some (.ldx (hdrOf w) (w.extractLsb' 16 6) (w.extractLsb' 12 4) (w.extractLsb' 6 6) (w.extractLsb' 4 2) (k.extractLsb' 22 4) (k.extractLsb' 16 4) (k.extractLsb' 8 8))
  | 11 => some (.stx (hdrOf w) (w.extractLsb' 16 6) (w.extractLsb' 12 4) (w.extractLsb' 6 6) (w.extractLsb' 4 2) (k.extractLsb' 22 4) (k.extractLsb' 16 4) (k.extractLsb' 8 8))
  | 12 =>
    match (w.extractLsb' 16 2).toNat with
    | 0 => some (.prefL1 (hdrOf w) (w.extractLsb' 12 4) (w.extractLsb' 6 6) (w.extractLsb' 4 2))
    | 1 => some (.prefL2 (hdrOf w) (w.extractLsb' 12 4) (w.extractLsb' 6 6) (w.extractLsb' 4 2))
    | _ => none
  | _ => none

/-- The lane-set instructions of opcode row 0x60 (R46). -/
def laneRow6 (low : Nat) (w k : BitVec 32) : Option Instr :=
  match low with
  | 0 => some (.atom (hdrOf w) (w.extractLsb' 16 6) (w.extractLsb' 12 4) (w.extractLsb' 6 6) (k.extractLsb' 26 6) (k.extractLsb' 22 4) (k.extractLsb' 20 2) (k.extractLsb' 16 4) (k.extractLsb' 8 2))
  | 1 => some (.red (hdrOf w) (w.extractLsb' 16 6) (w.extractLsb' 12 4) (w.extractLsb' 6 6) (k.extractLsb' 22 4) (k.extractLsb' 20 2) (k.extractLsb' 16 4) (k.extractLsb' 8 2))
  | 2 => some (.cas (hdrOf w) (w.extractLsb' 16 6) (w.extractLsb' 12 4) (w.extractLsb' 6 6) (k.extractLsb' 26 6) (k.extractLsb' 22 4) (k.extractLsb' 20 2) (k.extractLsb' 8 2))
  | 3 => some (.atoms (hdrOf w) (w.extractLsb' 16 6) (w.extractLsb' 10 6) (w.extractLsb' 4 6) (k.extractLsb' 26 6) (k.extractLsb' 22 4) (k.extractLsb' 20 2) (k.extractLsb' 16 4) (k.extractLsb' 8 2))
  | 4 => some (.reds (hdrOf w) (w.extractLsb' 10 6) (w.extractLsb' 4 6) (k.extractLsb' 22 4) (k.extractLsb' 20 2) (k.extractLsb' 16 4) (k.extractLsb' 8 2))
  | 5 => some (.binr (hdrOf w) (w.extractLsb' 16 6) (w.extractLsb' 10 6) (w.extractLsb' 4 6))
  | 6 => some (.cell (hdrOf w) (w.extractLsb' 16 6) (w.extractLsb' 10 6) (w.extractLsb' 4 6) (k.extractLsb' 26 6) (k.extractLsb' 22 4) (k.extractLsb' 8 6))
  | 7 => some (.atomc (hdrOf w) (w.extractLsb' 16 6) (w.extractLsb' 10 6) (w.extractLsb' 4 6) (k.extractLsb' 26 6) (k.extractLsb' 22 4) (k.extractLsb' 20 2) (k.extractLsb' 16 4) (k.extractLsb' 8 2))
  | 8 => some (.brl (hdrOf w) (k.extractLsb' 0 32))
  | 9 => some (.join (hdrOf w))
  | 10 => some (.lxPick (hdrOf w) (w.extractLsb' 16 6) (w.extractLsb' 10 6) (w.extractLsb' 4 6))
  | 11 => some (.lxFlip (hdrOf w) (w.extractLsb' 16 6) (w.extractLsb' 10 6) (w.extractLsb' 4 5))
  | 12 => some (.lxRot (hdrOf w) (w.extractLsb' 16 6) (w.extractLsb' 10 6) (w.extractLsb' 4 5))
  | 13 => some (.lxShift (hdrOf w) (w.extractLsb' 16 6) (w.extractLsb' 10 6) (w.extractLsb' 4 6))
  | 14 =>
    match (w.extractLsb' 4 2).toNat with
    | 0 => some (.pviewMask (hdrOf w) (w.extractLsb' 16 6) (w.extractLsb' 13 1) (w.extractLsb' 10 3))
    | 1 => some (.pviewAny (hdrOf w) (w.extractLsb' 16 3) (w.extractLsb' 13 1) (w.extractLsb' 10 3))
    | 2 => some (.pviewAll (hdrOf w) (w.extractLsb' 16 3) (w.extractLsb' 13 1) (w.extractLsb' 10 3))
    | _ => some (.pviewCount (hdrOf w) (w.extractLsb' 16 6) (w.extractLsb' 13 1) (w.extractLsb' 10 3))
  | 15 => some (.lcomb (hdrOf w) (w.extractLsb' 16 6) (w.extractLsb' 10 6) (k.extractLsb' 22 4) (k.extractLsb' 16 4))
  | _ => none

/-- The lane-set instructions of opcode row 0x70 (R46). -/
def laneRow7 (low : Nat) (w _k : BitVec 32) : Option Instr :=
  match low with
  | 0 => some (.exitL (hdrOf w))
  | 1 => some (.nop (hdrOf w))
  | 2 => some (.pset (hdrOf w) (w.extractLsb' 19 3) (w.extractLsb' 16 3) (w.extractLsb' 10 3) (w.extractLsb' 4 3))
  | 3 =>
    match (w.extractLsb' 4 1).toNat with
    | 0 => some (.pmovFromP (hdrOf w) (w.extractLsb' 16 6))
    | _ => some (.pmovToP (hdrOf w) (w.extractLsb' 10 6))
  | _ => none

/-- The lane-set instruction a first word names, its second word being `k`: the fields only, no legality check. -/
def laneCandidate (w k : BitVec 32) : Option Instr :=
  let op := (w.extractLsb' 22 7).toNat
  match op / 16 with
  | 0 => laneRow0 (op % 16) w k
  | 1 => laneRow1 (op % 16) w k
  | 2 => laneRow2 (op % 16) w k
  | 3 => laneRow3 (op % 16) w k
  | 4 => laneRow4 (op % 16) w k
  | 5 => laneRow5 (op % 16) w k
  | 6 => laneRow6 (op % 16) w k
  | 7 => laneRow7 (op % 16) w k
  | _ => none

/-- The allotted lane-set opcodes with the instruction length in words (the marks of R46). -/
def laneWords (op : Nat) : Nat :=
  if [0, 1, 2, 3, 4, 6, 7, 8, 9, 10, 11, 12, 13, 14, 15, 16, 17, 18, 19, 22, 23, 24, 25, 27, 30, 31, 32, 33, 34, 36, 37, 38, 39, 40, 41, 43, 47, 48, 49, 50, 51, 52, 53, 56, 59, 60, 61, 62, 67, 72, 73, 74, 75, 76, 77, 78, 79, 80, 81, 82, 83, 84, 85, 86, 87, 88, 89, 92, 101, 105, 106, 107, 108, 109, 110, 112, 113, 114, 115].contains op then 1
  else if [5, 20, 21, 26, 28, 29, 35, 42, 44, 45, 46, 54, 55, 57, 58, 64, 65, 66, 68, 90, 91, 96, 97, 98, 99, 100, 102, 103, 104, 111].contains op then 2
  else 0

/-- The uniform-set instructions of opcode row 0x00 (R47). -/
def uniformRow0 (low : Nat) (w k : BitVec 32) : Option Instr :=
  match low with
  | 0 => some (.sadd (hdrOf w) (w.extractLsb' 16 6) (w.extractLsb' 10 6) (w.extractLsb' 4 6))
  | 1 => some (.ssub (hdrOf w) (w.extractLsb' 16 6) (w.extractLsb' 10 6) (w.extractLsb' 4 6))
  | 2 => some (.smul (hdrOf w) (w.extractLsb' 16 6) (w.extractLsb' 10 6) (w.extractLsb' 4 6))
  | 3 => some (.smulh (hdrOf w) (w.extractLsb' 16 6) (w.extractLsb' 10 6) (w.extractLsb' 4 6))
  | 4 => some (.sand (hdrOf w) (w.extractLsb' 16 6) (w.extractLsb' 10 6) (w.extractLsb' 4 6))
  | 5 => some (.sor (hdrOf w) (w.extractLsb' 16 6) (w.extractLsb' 10 6) (w.extractLsb' 4 6))
  | 6 => some (.sxor (hdrOf w) (w.extractLsb' 16 6) (w.extractLsb' 10 6) (w.extractLsb' 4 6))
  | 7 => some (.sshl (hdrOf w) (w.extractLsb' 16 6) (w.extractLsb' 10 6) (w.extractLsb' 4 6))
  | 8 => some (.sshr (hdrOf w) (w.extractLsb' 16 6) (w.extractLsb' 10 6) (w.extractLsb' 4 6))
  | 9 => some (.ssar (hdrOf w) (w.extractLsb' 16 6) (w.extractLsb' 10 6) (w.extractLsb' 4 6))
  | 10 => some (.smin (hdrOf w) (w.extractLsb' 16 6) (w.extractLsb' 10 6) (w.extractLsb' 4 6))
  | 11 => some (.smax (hdrOf w) (w.extractLsb' 16 6) (w.extractLsb' 10 6) (w.extractLsb' 4 6))
  | 12 => some (.ssetq (hdrOf w) (w.extractLsb' 19 3) (w.extractLsb' 16 3) (w.extractLsb' 10 6) (w.extractLsb' 4 6))
  | 13 => some (.smov (hdrOf w) (w.extractLsb' 16 6) (w.extractLsb' 10 6))
  | 14 => some (.smovi (hdrOf w) (w.extractLsb' 16 6) (k.extractLsb' 0 32))
  | 15 => some (.smovh (hdrOf w) (w.extractLsb' 16 6) (k.extractLsb' 0 32))
  | _ => none

/-- The uniform-set instructions of opcode row 0x10 (R47). -/
def uniformRow1 (low : Nat) (w k : BitVec 32) : Option Instr :=
  match low with
  | 0 => some (.saddi (hdrOf w) (w.extractLsb' 16 6) (w.extractLsb' 10 6) (k.extractLsb' 0 32))
  | 1 => some (.ssel (hdrOf w) (w.extractLsb' 16 6) (w.extractLsb' 10 6) (w.extractLsb' 4 6))
  | 2 => some (.bcast (hdrOf w) (w.extractLsb' 16 6) (w.extractLsb' 10 6))
  | 3 => some (.lread (hdrOf w) (w.extractLsb' 16 6) (w.extractLsb' 10 6) (w.extractLsb' 4 6))
  | 4 => some (.srd (hdrOf w) (w.extractLsb' 16 6) (w.extractLsb' 4 6))
  | 5 => some (.swr (hdrOf w) (w.extractLsb' 10 6) (w.extractLsb' 4 6))
  | 6 => some (.sld (hdrOf w) (w.extractLsb' 16 6) (w.extractLsb' 10 6) (k.extractLsb' 0 32))
  | 7 => some (.sst (hdrOf w) (w.extractLsb' 10 6) (w.extractLsb' 4 6) (k.extractLsb' 0 32))
  | 8 => some (.taSet (hdrOf w) (w.extractLsb' 16 4) (w.extractLsb' 10 6) (w.extractLsb' 4 6))
  | 9 => some (.taInv (hdrOf w) (w.extractLsb' 16 4))
  | 10 => some (.taQry (hdrOf w) (w.extractLsb' 16 6) (w.extractLsb' 10 4))
  | 11 =>
    match (w.extractLsb' 16 1).toNat with
    | 1 => some (.xbSetImm (hdrOf w) (w.extractLsb' 4 12))
    | _ => some (.xbSetReg (hdrOf w) (w.extractLsb' 10 6))
  | 12 =>
    match (w.extractLsb' 16 1).toNat with
    | 1 => some (.xbAddImm (hdrOf w) (w.extractLsb' 4 12))
    | _ => some (.xbAddReg (hdrOf w) (w.extractLsb' 10 6))
  | _ => none

/-- The uniform-set instructions of opcode row 0x20 (R47). -/
def uniformRow2 (low : Nat) (w k : BitVec 32) : Option Instr :=
  match low with
  | 0 => some (.bra (hdrOf w) (w.extractLsb' 4 18))
  | 1 => some (.call (hdrOf w) (w.extractLsb' 4 18))
  | 2 => some (.ret (hdrOf w) (w.extractLsb' 10 6))
  | 3 => some (.jmp (hdrOf w) (w.extractLsb' 10 6))
  | 4 => some (.loop (hdrOf w) (w.extractLsb' 10 6) (k.extractLsb' 0 32))
  | 5 => some (.exit (hdrOf w))
  | 6 => some (.trap (hdrOf w) (w.extractLsb' 4 12))
  | 7 => some (.syncs (hdrOf w))
  | 8 => some (.yieldR (hdrOf w))
  | 9 => some (.brk (hdrOf w) (w.extractLsb' 4 12))
  | _ => none

/-- The uniform-set instructions of opcode row 0x30 (R47). -/
def uniformRow3 (low : Nat) (w k : BitVec 32) : Option Instr :=
  match low with
  | 0 => some (.launch (hdrOf w) (w.extractLsb' 16 6) (w.extractLsb' 10 6))
  | 1 => some (.launchTry (hdrOf w) (w.extractLsb' 16 6) (w.extractLsb' 10 6))
  | 2 => some (.qpost (hdrOf w) (w.extractLsb' 16 6) (w.extractLsb' 10 6) (w.extractLsb' 4 6))
  | 3 => some (.qprio (hdrOf w) (w.extractLsb' 16 6) (w.extractLsb' 10 6) (w.extractLsb' 4 6))
  | 8 => some (.ctrAdd (hdrOf w) (w.extractLsb' 10 6) (w.extractLsb' 4 6) (k.extractLsb' 22 4) (k.extractLsb' 20 2) (k.extractLsb' 16 4) (k.extractLsb' 0 16))
  | 9 => some (.ctrWait (hdrOf w) (w.extractLsb' 16 6) (w.extractLsb' 10 6) (w.extractLsb' 4 6) (k.extractLsb' 22 4) (k.extractLsb' 20 2) (k.extractLsb' 16 4) (k.extractLsb' 0 16))
  | 10 => some (.ctrWaitt (hdrOf w) (w.extractLsb' 16 6) (w.extractLsb' 10 6) (w.extractLsb' 4 6) (k.extractLsb' 26 6) (k.extractLsb' 22 4) (k.extractLsb' 20 2) (k.extractLsb' 16 3))
  | 11 =>
    match (w.extractLsb' 4 1).toNat with
    | 0 => some (.ctrRd (hdrOf w) (w.extractLsb' 16 6) (w.extractLsb' 10 6))
    | _ => some (.ctrRdSt (hdrOf w) (w.extractLsb' 16 6) (w.extractLsb' 10 6))
  | 12 => some (.barArv (hdrOf w) (w.extractLsb' 16 6) (w.extractLsb' 10 6) (w.extractLsb' 4 6) (k.extractLsb' 22 4) (k.extractLsb' 20 2) (k.extractLsb' 16 4) (k.extractLsb' 0 16))
  | 13 => some (.barWait (hdrOf w) (w.extractLsb' 16 6) (w.extractLsb' 10 6) (w.extractLsb' 4 6) (k.extractLsb' 22 4) (k.extractLsb' 20 2))
  | 14 => some (.fence (hdrOf w) (k.extractLsb' 20 2) (k.extractLsb' 16 4))
  | 15 => some (.acqRem (hdrOf w) (w.extractLsb' 16 6) (w.extractLsb' 10 6))
  | _ => none

/-- The uniform-set instructions of opcode row 0x40 (R47). -/
def uniformRow4 (low : Nat) (w k : BitVec 32) : Option Instr :=
  match low with
  | 0 => some (.batchClose (hdrOf w) (w.extractLsb' 16 6))
  | 1 => some (.batchWait (hdrOf w) (w.extractLsb' 10 6) (k.extractLsb' 16 4) (k.extractLsb' 0 16))
  | 2 => some (.quiet (hdrOf w) (w.extractLsb' 16 2) (w.extractLsb' 4 1))
  | 3 => some (.phase (hdrOf w) (w.extractLsb' 4 1))
  | 8 => some (.cpIn (hdrOf w) (w.extractLsb' 16 6) (w.extractLsb' 10 6) (w.extractLsb' 4 6) (k.extractLsb' 24 2) (k.extractLsb' 22 2) (k.extractLsb' 20 2) (k.extractLsb' 0 16))
  | 9 => some (.cpOut (hdrOf w) (w.extractLsb' 16 6) (w.extractLsb' 10 6) (w.extractLsb' 4 6) (k.extractLsb' 24 2) (k.extractLsb' 22 2) (k.extractLsb' 20 2) (k.extractLsb' 0 16))
  | 10 => some (.cpGath (hdrOf w) (w.extractLsb' 16 6) (w.extractLsb' 10 6) (w.extractLsb' 4 6) (k.extractLsb' 26 6) (k.extractLsb' 24 2) (k.extractLsb' 22 2) (k.extractLsb' 20 2) (k.extractLsb' 0 16))
  | 11 =>
    match (k.extractLsb' 16 4).toNat with
    | 0 => some (.cpBulk (hdrOf w) (w.extractLsb' 16 6) (w.extractLsb' 10 6) (w.extractLsb' 4 6) (k.extractLsb' 24 2) (k.extractLsb' 22 2) (k.extractLsb' 20 2) (k.extractLsb' 0 16))
    | 1 => some (.cpBulkFill (hdrOf w) (w.extractLsb' 16 6) (w.extractLsb' 10 6) (w.extractLsb' 4 6) (k.extractLsb' 24 2) (k.extractLsb' 22 2) (k.extractLsb' 20 2) (k.extractLsb' 0 16))
    | _ => none
  | 12 =>
    match (k.extractLsb' 16 4).toNat with
    | 0 => some (.collAllred (hdrOf w) (w.extractLsb' 16 6) (w.extractLsb' 10 6) (w.extractLsb' 4 6) (k.extractLsb' 24 2) (k.extractLsb' 22 2) (k.extractLsb' 20 2) (k.extractLsb' 0 16))
    | 1 => some (.collRedscat (hdrOf w) (w.extractLsb' 16 6) (w.extractLsb' 10 6) (w.extractLsb' 4 6) (k.extractLsb' 24 2) (k.extractLsb' 22 2) (k.extractLsb' 20 2) (k.extractLsb' 0 16))
    | 2 => some (.collAllgath (hdrOf w) (w.extractLsb' 16 6) (w.extractLsb' 10 6) (w.extractLsb' 4 6) (k.extractLsb' 24 2) (k.extractLsb' 22 2) (k.extractLsb' 20 2) (k.extractLsb' 0 16))
    | 3 => some (.collBcast (hdrOf w) (w.extractLsb' 16 6) (w.extractLsb' 10 6) (w.extractLsb' 4 6) (k.extractLsb' 24 2) (k.extractLsb' 22 2) (k.extractLsb' 20 2) (k.extractLsb' 0 16))
    | _ => none
  | 13 => some (.cpStat (hdrOf w) (w.extractLsb' 16 6) (w.extractLsb' 4 2))
  | _ => none

/-- The uniform-set instructions of opcode row 0x50 (R47). -/
def uniformRow5 (low : Nat) (w k : BitVec 32) : Option Instr :=
  match low with
  | 0 => some (.lkDef (hdrOf w) (w.extractLsb' 16 6) (w.extractLsb' 10 6) (w.extractLsb' 4 6))
  | 1 => some (.lkBegin (hdrOf w) (w.extractLsb' 16 6))
  | 2 => some (.lkAcq (hdrOf w) (w.extractLsb' 10 6) (k.extractLsb' 22 3) (k.extractLsb' 20 2))
  | 3 => some (.lkTry (hdrOf w) (w.extractLsb' 16 6) (w.extractLsb' 10 6) (k.extractLsb' 22 3) (k.extractLsb' 20 2))
  | 4 => some (.lkUpg (hdrOf w) (w.extractLsb' 10 6) (k.extractLsb' 22 3) (k.extractLsb' 20 2))
  | 5 => some (.lkRel (hdrOf w) (w.extractLsb' 10 6))
  | 6 => some (.lkEnd (hdrOf w))
  | 7 => some (.lkQry (hdrOf w) (w.extractLsb' 16 6) (w.extractLsb' 10 6))
  | 8 =>
    match (w.extractLsb' 16 2).toNat with
    | 0 => some (.gearN (hdrOf w))
    | 1 => some (.gearF (hdrOf w))
    | 2 => some (.gearW (hdrOf w))
    | _ => none
  | 9 =>
    match (w.extractLsb' 16 2).toNat with
    | 0 => some (.hintCompute (hdrOf w))
    | 1 => some (.hintMemory (hdrOf w))
    | 2 => some (.hintWait (hdrOf w))
    | _ => some (.hintEndphase (hdrOf w))
  | 10 => some (.clk (hdrOf w) (w.extractLsb' 16 6))
  | 11 =>
    match (w.extractLsb' 16 2).toNat with
    | 0 => some (.seg (hdrOf w))
    | 1 => some (.segSync (hdrOf w))
    | _ => none
  | 12 => some (.rte (hdrOf w))
  | 13 =>
    match (w.extractLsb' 4 2).toNat with
    | 0 => some (.ologRetry (hdrOf w) (w.extractLsb' 10 6))
    | 1 => some (.ologDrop (hdrOf w) (w.extractLsb' 10 6))
    | 2 => some (.ologStat (hdrOf w) (w.extractLsb' 16 6))
    | _ => none
  | 14 =>
    match (w.extractLsb' 16 2).toNat with
    | 0 => some (.ctxFlV (hdrOf w))
    | 1 => some (.ctxFlA (hdrOf w))
    | 2 => some (.ctxFlAll (hdrOf w))
    | _ => none
  | 15 =>
    match (w.extractLsb' 16 2).toNat with
    | 0 => some (.ctxLdV (hdrOf w) (w.extractLsb' 10 6) (w.extractLsb' 4 6))
    | 1 => some (.ctxLdA (hdrOf w) (w.extractLsb' 10 6))
    | _ => none
  | _ => none

/-- The uniform-set instructions of opcode row 0x60 (R47). -/
def uniformRow6 (low : Nat) (w _k : BitVec 32) : Option Instr :=
  match low with
  | 0 => some (.stashMap (hdrOf w) (w.extractLsb' 16 6) (w.extractLsb' 10 6) (w.extractLsb' 4 6))
  | 1 => some (.stashWb (hdrOf w) (w.extractLsb' 10 6) (w.extractLsb' 4 6))
  | 2 =>
    match (w.extractLsb' 16 2).toNat with
    | 0 => some (.cinvL1 (hdrOf w) (w.extractLsb' 10 6) (w.extractLsb' 4 6))
    | 1 => some (.cinvWb (hdrOf w) (w.extractLsb' 10 6) (w.extractLsb' 4 6))
    | 2 => some (.cinvWbi (hdrOf w) (w.extractLsb' 10 6) (w.extractLsb' 4 6))
    | _ => none
  | 3 =>
    match (w.extractLsb' 16 3).toNat with
    | 0 => some (.tlbiRange (hdrOf w) (w.extractLsb' 10 6) (w.extractLsb' 4 6))
    | 1 => some (.tlbiCtx (hdrOf w) (w.extractLsb' 4 6))
    | 2 => some (.tlbiGlobal (hdrOf w))
    | 3 => some (.tlbiAll (hdrOf w))
    | _ => none
  | 4 => some (.lkmat (hdrOf w) (w.extractLsb' 16 6) (w.extractLsb' 10 6) (w.extractLsb' 4 6))
  | 5 => some (.finj (hdrOf w) (w.extractLsb' 16 6) (w.extractLsb' 10 6) (w.extractLsb' 4 6))
  | 6 => some (.preempt (hdrOf w) (w.extractLsb' 16 6) (w.extractLsb' 10 6) (w.extractLsb' 4 6))
  | _ => none

/-- The uniform-set instruction a first word names, its second word being `k`: the fields only, no legality check. -/
def uniformCandidate (w k : BitVec 32) : Option Instr :=
  let op := (w.extractLsb' 22 7).toNat
  match op / 16 with
  | 0 => uniformRow0 (op % 16) w k
  | 1 => uniformRow1 (op % 16) w k
  | 2 => uniformRow2 (op % 16) w k
  | 3 => uniformRow3 (op % 16) w k
  | 4 => uniformRow4 (op % 16) w k
  | 5 => uniformRow5 (op % 16) w k
  | 6 => uniformRow6 (op % 16) w k
  | _ => none

/-- The allotted uniform-set opcodes with the instruction length in words (the marks of R47). -/
def uniformWords (op : Nat) : Nat :=
  if [0, 1, 2, 3, 4, 5, 6, 7, 8, 9, 10, 11, 12, 13, 17, 18, 19, 20, 21, 24, 25, 26, 27, 28, 32, 33, 34, 35, 37, 38, 39, 40, 41, 48, 49, 50, 51, 59, 63, 64, 66, 67, 77, 80, 81, 85, 86, 87, 88, 89, 90, 91, 92, 93, 94, 95, 96, 97, 98, 99, 100, 101, 102].contains op then 1
  else if [14, 15, 16, 22, 23, 36, 56, 57, 58, 60, 61, 62, 65, 72, 73, 74, 75, 76, 82, 83, 84].contains op then 2
  else 0

/-- The words of an instruction, written from the same tables: the must-be-zero bits are the bits no field fills.
A step that no word encodes has none. -/
def encode : Instr → List (BitVec 32)
  | .iadd h d a b => [word0 0 0 h (d.toNat * 65536 + a.toNat * 1024 + b.toNat * 16)]
  | .isub h d a b => [word0 0 1 h (d.toNat * 65536 + a.toNat * 1024 + b.toNat * 16)]
  | .imul h d a b => [word0 0 2 h (d.toNat * 65536 + a.toNat * 1024 + b.toNat * 16)]
  | .imulh h d a b => [word0 0 3 h (d.toNat * 65536 + a.toNat * 1024 + b.toNat * 16)]
  | .imulhu h d a b => [word0 0 4 h (d.toNat * 65536 + a.toNat * 1024 + b.toNat * 16)]
  | .imad h d a b c => [word0 0 5 h (d.toNat * 65536 + a.toNat * 1024 + b.toNat * 16), BitVec.ofNat 32 (c.toNat * 67108864)]
  | .imin h d a b => [word0 0 6 h (d.toNat * 65536 + a.toNat * 1024 + b.toNat * 16)]
  | .imax h d a b => [word0 0 7 h (d.toNat * 65536 + a.toNat * 1024 + b.toNat * 16)]
  | .iminu h d a b => [word0 0 8 h (d.toNat * 65536 + a.toNat * 1024 + b.toNat * 16)]
  | .imaxu h d a b => [word0 0 9 h (d.toNat * 65536 + a.toNat * 1024 + b.toNat * 16)]
  | .iabs h d a => [word0 0 10 h (d.toNat * 65536 + a.toNat * 1024)]
  | .ineg h d a => [word0 0 11 h (d.toNat * 65536 + a.toNat * 1024)]
  | .andv h d a b => [word0 0 12 h (d.toNat * 65536 + a.toNat * 1024 + b.toNat * 16)]
  | .orv h d a b => [word0 0 13 h (d.toNat * 65536 + a.toNat * 1024 + b.toNat * 16)]
  | .xorv h d a b => [word0 0 14 h (d.toNat * 65536 + a.toNat * 1024 + b.toNat * 16)]
  | .andn h d a b => [word0 0 15 h (d.toNat * 65536 + a.toNat * 1024 + b.toNat * 16)]
  | .shl h d a b => [word0 0 16 h (d.toNat * 65536 + a.toNat * 1024 + b.toNat * 16)]
  | .shr h d a b => [word0 0 17 h (d.toNat * 65536 + a.toNat * 1024 + b.toNat * 16)]
  | .sar h d a b => [word0 0 18 h (d.toNat * 65536 + a.toNat * 1024 + b.toNat * 16)]
  | .rotl h d a b => [word0 0 19 h (d.toNat * 65536 + a.toNat * 1024 + b.toNat * 16)]
  | .bfx h d a b t op n => [word0 0 20 h (d.toNat * 65536 + a.toNat * 1024 + b.toNat * 16), BitVec.ofNat 32 (t.toNat * 4194304 + op.toNat * 65536 + n.toNat * 256)]
  | .bfi h d a b c op n => [word0 0 21 h (d.toNat * 65536 + a.toNat * 1024 + b.toNat * 16), BitVec.ofNat 32 (c.toNat * 67108864 + op.toNat * 65536 + n.toNat * 256)]
  | .popc h d a => [word0 0 22 h (d.toNat * 65536 + a.toNat * 1024)]
  | .clz h d a => [word0 0 23 h (d.toNat * 65536 + a.toNat * 1024)]
  | .brev h d a => [word0 0 24 h (d.toNat * 65536 + a.toNat * 1024)]
  | .icmp h cc p a b => [word0 0 25 h (cc.toNat * 524288 + p.toNat * 65536 + a.toNat * 1024 + b.toNat * 16)]
  | .sel h d a b neg p => [word0 0 26 h (d.toNat * 65536 + a.toNat * 1024 + b.toNat * 16), BitVec.ofNat 32 (neg.toNat * 524288 + p.toNat * 65536)]
  | .mov h d a => [word0 0 27 h (d.toNat * 65536 + a.toNat * 1024)]
  | .movi h d k => [word0 0 28 h (d.toNat * 65536), BitVec.ofNat 32 (k.toNat)]
  | .iaddi h d a k => [word0 0 29 h (d.toNat * 65536 + a.toNat * 1024), BitVec.ofNat 32 (k.toNat)]
  | .iadd64 h d a b => [word0 0 30 h (d.toNat * 65536 + a.toNat * 1024 + b.toNat * 16)]
  | .lidx h d => [word0 0 31 h (d.toNat * 65536)]
  | .fadd h d a b => [word0 0 32 h (d.toNat * 65536 + a.toNat * 1024 + b.toNat * 16)]
  | .fsub h d a b => [word0 0 33 h (d.toNat * 65536 + a.toNat * 1024 + b.toNat * 16)]
  | .fmul h d a b => [word0 0 34 h (d.toNat * 65536 + a.toNat * 1024 + b.toNat * 16)]
  | .ffma h d a b c rm negc negp rs => [word0 0 35 h (d.toNat * 65536 + a.toNat * 1024 + b.toNat * 16), BitVec.ofNat 32 (c.toNat * 67108864 + rm.toNat * 1048576 + negc.toNat * 131072 + negp.toNat * 65536 + rs.toNat * 256)]
  | .fmin h d a b => [word0 0 36 h (d.toNat * 65536 + a.toNat * 1024 + b.toNat * 16)]
  | .fmax h d a b => [word0 0 37 h (d.toNat * 65536 + a.toNat * 1024 + b.toNat * 16)]
  | .fcmp h cc p a b => [word0 0 38 h (cc.toNat * 524288 + p.toNat * 65536 + a.toNat * 1024 + b.toNat * 16)]
  | .fclass h d a hf t => [word0 0 39 h (d.toNat * 65536 + a.toNat * 1024 + hf.toNat * 64 + t.toNat * 16)]
  | .dadd h d a b => [word0 0 40 h (d.toNat * 65536 + a.toNat * 1024 + b.toNat * 16)]
  | .dmul h d a b => [word0 0 41 h (d.toNat * 65536 + a.toNat * 1024 + b.toNat * 16)]
  | .dfma h d a b c rm negc negp rs => [word0 0 42 h (d.toNat * 65536 + a.toNat * 1024 + b.toNat * 16), BitVec.ofNat 32 (c.toNat * 67108864 + rm.toNat * 1048576 + negc.toNat * 131072 + negp.toNat * 65536 + rs.toNat * 256)]
  | .dcmp h cc p a b => [word0 0 43 h (cc.toNat * 524288 + p.toNat * 65536 + a.toNat * 1024 + b.toNat * 16)]
  | .hadd2 h d a b t rm rs => [word0 0 44 h (d.toNat * 65536 + a.toNat * 1024 + b.toNat * 16), BitVec.ofNat 32 (t.toNat * 4194304 + rm.toNat * 1048576 + rs.toNat * 256)]
  | .hmul2 h d a b t rm rs => [word0 0 45 h (d.toNat * 65536 + a.toNat * 1024 + b.toNat * 16), BitVec.ofNat 32 (t.toNat * 4194304 + rm.toNat * 1048576 + rs.toNat * 256)]
  | .hfma2 h d a b c t rm negc negp rs => [word0 0 46 h (d.toNat * 65536 + a.toNat * 1024 + b.toNat * 16), BitVec.ofNat 32 (c.toNat * 67108864 + t.toNat * 4194304 + rm.toNat * 1048576 + negc.toNat * 131072 + negp.toNat * 65536 + rs.toNat * 256)]
  | .frcp h d a => [word0 0 47 h (d.toNat * 65536 + a.toNat * 1024)]
  | .frsq h d a => [word0 0 48 h (d.toNat * 65536 + a.toNat * 1024)]
  | .fsqrt h d a => [word0 0 49 h (d.toNat * 65536 + a.toNat * 1024)]
  | .fex2 h d a => [word0 0 50 h (d.toNat * 65536 + a.toNat * 1024)]
  | .flg2 h d a => [word0 0 51 h (d.toNat * 65536 + a.toNat * 1024)]
  | .fsin h d a => [word0 0 52 h (d.toNat * 65536 + a.toNat * 1024)]
  | .fcos h d a => [word0 0 53 h (d.toNat * 65536 + a.toNat * 1024)]
  | .cvt h d a dt rm st spos dpos sat rs => [word0 0 54 h (d.toNat * 65536 + a.toNat * 1024), BitVec.ofNat 32 (dt.toNat * 4194304 + rm.toNat * 1048576 + st.toNat * 65536 + spos.toNat * 4096 + dpos.toNat * 1024 + sat.toNat * 512 + rs.toNat * 256)]
  | .frnd h d a t rm op rs => [word0 0 55 h (d.toNat * 65536 + a.toNat * 1024), BitVec.ofNat 32 (t.toNat * 4194304 + rm.toNat * 1048576 + op.toNat * 65536 + rs.toNat * 256)]
  | .nanorg h d a hf t => [word0 0 56 h (d.toNat * 65536 + a.toNat * 1024 + hf.toNat * 64 + t.toNat * 16)]
  | .dxbPack h d a c t rm rs => [word0 0 57 h (d.toNat * 65536 + a.toNat * 1024), BitVec.ofNat 32 (c.toNat * 67108864 + t.toNat * 4194304 + rm.toNat * 1048576 + rs.toNat * 256)]
  | .dxbUnpk h d a c t => [word0 0 58 h (d.toNat * 65536 + a.toNat * 1024), BitVec.ofNat 32 (c.toNat * 67108864 + t.toNat * 4194304)]
  | .fabs h d a => [word0 0 59 h (d.toNat * 65536 + a.toNat * 1024)]
  | .fneg h d a => [word0 0 60 h (d.toNat * 65536 + a.toNat * 1024)]
  | .dmin h d a b => [word0 0 61 h (d.toNat * 65536 + a.toNat * 1024 + b.toNat * 16)]
  | .dmax h d a b => [word0 0 62 h (d.toNat * 65536 + a.toNat * 1024 + b.toNat * 16)]
  | .mma h acc a b c t z rm rs => [word0 0 64 h (acc.toNat * 65536 + a.toNat * 1024 + b.toNat * 16), BitVec.ofNat 32 (c.toNat * 67108864 + t.toNat * 4194304 + z.toNat * 2097152 + rm.toNat * 524288 + rs.toNat * 256)]
  | .accRd h d acc t rm n j0 rs => [word0 0 65 h (d.toNat * 65536 + acc.toNat * 1024), BitVec.ofNat 32 (t.toNat * 4194304 + rm.toNat * 1048576 + n.toNat * 65536 + j0.toNat * 2048 + rs.toNat * 256)]
  | .accWr h acc a t rm n j0 rs => [word0 0 66 h (acc.toNat * 65536 + a.toNat * 1024), BitVec.ofNat 32 (t.toNat * 4194304 + rm.toNat * 1048576 + n.toNat * 65536 + j0.toNat * 2048 + rs.toNat * 256)]
  | .accZero h acc => [word0 0 67 h (acc.toNat * 65536)]
  | .accCvt h d acc c t rm sat rs => [word0 0 68 h (d.toNat * 65536 + acc.toNat * 1024), BitVec.ofNat 32 (c.toNat * 67108864 + t.toNat * 4194304 + rm.toNat * 1048576 + sat.toNat * 65536 + rs.toNat * 256)]
  | .ldB h d ta o ht => [word0 0 72 h (d.toNat * 65536 + ta.toNat * 4096 + o.toNat * 64 + ht.toNat * 16)]
  | .ldH h d ta o ht => [word0 0 73 h (d.toNat * 65536 + ta.toNat * 4096 + o.toNat * 64 + ht.toNat * 16)]
  | .ldW h d ta o ht => [word0 0 74 h (d.toNat * 65536 + ta.toNat * 4096 + o.toNat * 64 + ht.toNat * 16)]
  | .ldD h d ta o ht => [word0 0 75 h (d.toNat * 65536 + ta.toNat * 4096 + o.toNat * 64 + ht.toNat * 16)]
  | .ldQ h d ta o ht => [word0 0 76 h (d.toNat * 65536 + ta.toNat * 4096 + o.toNat * 64 + ht.toNat * 16)]
  | .stB h d ta o ht => [word0 0 77 h (d.toNat * 65536 + ta.toNat * 4096 + o.toNat * 64 + ht.toNat * 16)]
  | .stH h d ta o ht => [word0 0 78 h (d.toNat * 65536 + ta.toNat * 4096 + o.toNat * 64 + ht.toNat * 16)]
  | .stW h d ta o ht => [word0 0 79 h (d.toNat * 65536 + ta.toNat * 4096 + o.toNat * 64 + ht.toNat * 16)]
  | .stD h d ta o ht => [word0 0 80 h (d.toNat * 65536 + ta.toNat * 4096 + o.toNat * 64 + ht.toNat * 16)]
  | .stQ h d ta o ht => [word0 0 81 h (d.toNat * 65536 + ta.toNat * 4096 + o.toNat * 64 + ht.toNat * 16)]
  | .ldsW h d a => [word0 0 82 h (d.toNat * 65536 + a.toNat * 1024)]
  | .ldsD h d a => [word0 0 83 h (d.toNat * 65536 + a.toNat * 1024)]
  | .ldsQ h d a => [word0 0 84 h (d.toNat * 65536 + a.toNat * 1024)]
  | .stsW h d a => [word0 0 85 h (d.toNat * 65536 + a.toNat * 1024)]
  | .stsD h d a => [word0 0 86 h (d.toNat * 65536 + a.toNat * 1024)]
  | .stsQ h d a => [word0 0 87 h (d.toNat * 65536 + a.toNat * 1024)]
  | .ldcW h d a => [word0 0 88 h (d.toNat * 65536 + a.toNat * 1024)]
  | .stcW h d a => [word0 0 89 h (d.toNat * 65536 + a.toNat * 1024)]
  | .ldx h d ta o ht t mode disp => [word0 0 90 h (d.toNat * 65536 + ta.toNat * 4096 + o.toNat * 64 + ht.toNat * 16), BitVec.ofNat 32 (t.toNat * 4194304 + mode.toNat * 65536 + disp.toNat * 256)]
  | .stx h d ta o ht t mode disp => [word0 0 91 h (d.toNat * 65536 + ta.toNat * 4096 + o.toNat * 64 + ht.toNat * 16), BitVec.ofNat 32 (t.toNat * 4194304 + mode.toNat * 65536 + disp.toNat * 256)]
  | .prefL1 h ta o ht => [word0 0 92 h (ta.toNat * 4096 + o.toNat * 64 + ht.toNat * 16)]
  | .prefL2 h ta o ht => [word0 0 92 h (ta.toNat * 4096 + o.toNat * 64 + ht.toNat * 16 + 65536)]
  | .atom h d ta o c t sc op ord => [word0 0 96 h (d.toNat * 65536 + ta.toNat * 4096 + o.toNat * 64), BitVec.ofNat 32 (c.toNat * 67108864 + t.toNat * 4194304 + sc.toNat * 1048576 + op.toNat * 65536 + ord.toNat * 256)]
  | .red h d ta o t sc op ord => [word0 0 97 h (d.toNat * 65536 + ta.toNat * 4096 + o.toNat * 64), BitVec.ofNat 32 (t.toNat * 4194304 + sc.toNat * 1048576 + op.toNat * 65536 + ord.toNat * 256)]
  | .cas h d ta o c t sc ord => [word0 0 98 h (d.toNat * 65536 + ta.toNat * 4096 + o.toNat * 64), BitVec.ofNat 32 (c.toNat * 67108864 + t.toNat * 4194304 + sc.toNat * 1048576 + ord.toNat * 256)]
  | .atoms h d a b c t sc op ord => [word0 0 99 h (d.toNat * 65536 + a.toNat * 1024 + b.toNat * 16), BitVec.ofNat 32 (c.toNat * 67108864 + t.toNat * 4194304 + sc.toNat * 1048576 + op.toNat * 65536 + ord.toNat * 256)]
  | .reds h a b t sc op ord => [word0 0 100 h (a.toNat * 1024 + b.toNat * 16), BitVec.ofNat 32 (t.toNat * 4194304 + sc.toNat * 1048576 + op.toNat * 65536 + ord.toNat * 256)]
  | .binr h d a b => [word0 0 101 h (d.toNat * 65536 + a.toNat * 1024 + b.toNat * 16)]
  | .cell h d a b c dim n => [word0 0 102 h (d.toNat * 65536 + a.toNat * 1024 + b.toNat * 16), BitVec.ofNat 32 (c.toNat * 67108864 + dim.toNat * 4194304 + n.toNat * 256)]
  | .atomc h d a b c t sc op ord => [word0 0 103 h (d.toNat * 65536 + a.toNat * 1024 + b.toNat * 16), BitVec.ofNat 32 (c.toNat * 67108864 + t.toNat * 4194304 + sc.toNat * 1048576 + op.toNat * 65536 + ord.toNat * 256)]
  | .brl h k => [word0 0 104 h (0), BitVec.ofNat 32 (k.toNat)]
  | .join h => [word0 0 105 h (0)]
  | .lxPick h d a b => [word0 0 106 h (d.toNat * 65536 + a.toNat * 1024 + b.toNat * 16)]
  | .lxFlip h d a n => [word0 0 107 h (d.toNat * 65536 + a.toNat * 1024 + n.toNat * 16)]
  | .lxRot h d a n => [word0 0 108 h (d.toNat * 65536 + a.toNat * 1024 + n.toNat * 16)]
  | .lxShift h d a n => [word0 0 109 h (d.toNat * 65536 + a.toNat * 1024 + n.toNat * 16)]
  | .pviewMask h d neg p => [word0 0 110 h (d.toNat * 65536 + neg.toNat * 8192 + p.toNat * 1024)]
  | .pviewAny h pd neg p => [word0 0 110 h (pd.toNat * 65536 + neg.toNat * 8192 + p.toNat * 1024 + 16)]
  | .pviewAll h pd neg p => [word0 0 110 h (pd.toNat * 65536 + neg.toNat * 8192 + p.toNat * 1024 + 32)]
  | .pviewCount h d neg p => [word0 0 110 h (d.toNat * 65536 + neg.toNat * 8192 + p.toNat * 1024 + 48)]
  | .lcomb h d a t op => [word0 0 111 h (d.toNat * 65536 + a.toNat * 1024), BitVec.ofNat 32 (t.toNat * 4194304 + op.toNat * 65536)]
  | .exitL h => [word0 0 112 h (0)]
  | .nop h => [word0 0 113 h (0)]
  | .pset h op pd pa pb => [word0 0 114 h (op.toNat * 524288 + pd.toNat * 65536 + pa.toNat * 1024 + pb.toNat * 16)]
  | .pmovFromP h d => [word0 0 115 h (d.toNat * 65536)]
  | .pmovToP h a => [word0 0 115 h (a.toNat * 1024 + 16)]
  | .sadd h d a b => [word0 1 0 h (d.toNat * 65536 + a.toNat * 1024 + b.toNat * 16)]
  | .ssub h d a b => [word0 1 1 h (d.toNat * 65536 + a.toNat * 1024 + b.toNat * 16)]
  | .smul h d a b => [word0 1 2 h (d.toNat * 65536 + a.toNat * 1024 + b.toNat * 16)]
  | .smulh h d a b => [word0 1 3 h (d.toNat * 65536 + a.toNat * 1024 + b.toNat * 16)]
  | .sand h d a b => [word0 1 4 h (d.toNat * 65536 + a.toNat * 1024 + b.toNat * 16)]
  | .sor h d a b => [word0 1 5 h (d.toNat * 65536 + a.toNat * 1024 + b.toNat * 16)]
  | .sxor h d a b => [word0 1 6 h (d.toNat * 65536 + a.toNat * 1024 + b.toNat * 16)]
  | .sshl h d a b => [word0 1 7 h (d.toNat * 65536 + a.toNat * 1024 + b.toNat * 16)]
  | .sshr h d a b => [word0 1 8 h (d.toNat * 65536 + a.toNat * 1024 + b.toNat * 16)]
  | .ssar h d a b => [word0 1 9 h (d.toNat * 65536 + a.toNat * 1024 + b.toNat * 16)]
  | .smin h d a b => [word0 1 10 h (d.toNat * 65536 + a.toNat * 1024 + b.toNat * 16)]
  | .smax h d a b => [word0 1 11 h (d.toNat * 65536 + a.toNat * 1024 + b.toNat * 16)]
  | .ssetq h cc q a b => [word0 1 12 h (cc.toNat * 524288 + q.toNat * 65536 + a.toNat * 1024 + b.toNat * 16)]
  | .smov h d a => [word0 1 13 h (d.toNat * 65536 + a.toNat * 1024)]
  | .smovi h d k => [word0 1 14 h (d.toNat * 65536), BitVec.ofNat 32 (k.toNat)]
  | .smovh h d k => [word0 1 15 h (d.toNat * 65536), BitVec.ofNat 32 (k.toNat)]
  | .saddi h d a k => [word0 1 16 h (d.toNat * 65536 + a.toNat * 1024), BitVec.ofNat 32 (k.toNat)]
  | .ssel h d a b => [word0 1 17 h (d.toNat * 65536 + a.toNat * 1024 + b.toNat * 16)]
  | .bcast h d a => [word0 1 18 h (d.toNat * 65536 + a.toNat * 1024)]
  | .lread h d a b => [word0 1 19 h (d.toNat * 65536 + a.toNat * 1024 + b.toNat * 16)]
  | .srd h d idx => [word0 1 20 h (d.toNat * 65536 + idx.toNat * 16)]
  | .swr h a idx => [word0 1 21 h (a.toNat * 1024 + idx.toNat * 16)]
  | .sld h d a k => [word0 1 22 h (d.toNat * 65536 + a.toNat * 1024), BitVec.ofNat 32 (k.toNat)]
  | .sst h a b k => [word0 1 23 h (a.toNat * 1024 + b.toNat * 16), BitVec.ofNat 32 (k.toNat)]
  | .taSet h ta a b => [word0 1 24 h (ta.toNat * 65536 + a.toNat * 1024 + b.toNat * 16)]
  | .taInv h ta => [word0 1 25 h (ta.toNat * 65536)]
  | .taQry h d ta => [word0 1 26 h (d.toNat * 65536 + ta.toNat * 1024)]
  | .xbSetImm h imm => [word0 1 27 h (imm.toNat * 16 + 65536)]
  | .xbSetReg h a => [word0 1 27 h (a.toNat * 1024)]
  | .xbAddImm h imm => [word0 1 28 h (imm.toNat * 16 + 65536)]
  | .xbAddReg h a => [word0 1 28 h (a.toNat * 1024)]
  | .bra h off => [word0 1 32 h (off.toNat * 16)]
  | .call h off => [word0 1 33 h (off.toNat * 16)]
  | .ret h a => [word0 1 34 h (a.toNat * 1024)]
  | .jmp h a => [word0 1 35 h (a.toNat * 1024)]
  | .loop h a k => [word0 1 36 h (a.toNat * 1024), BitVec.ofNat 32 (k.toNat)]
  | .exit h => [word0 1 37 h (0)]
  | .trap h code => [word0 1 38 h (code.toNat * 16)]
  | .syncs h => [word0 1 39 h (0)]
  | .yieldR h => [word0 1 40 h (0)]
  | .brk h code => [word0 1 41 h (code.toNat * 16)]
  | .launch h d a => [word0 1 48 h (d.toNat * 65536 + a.toNat * 1024)]
  | .launchTry h d a => [word0 1 49 h (d.toNat * 65536 + a.toNat * 1024)]
  | .qpost h d a b => [word0 1 50 h (d.toNat * 65536 + a.toNat * 1024 + b.toNat * 16)]
  | .qprio h d a b => [word0 1 51 h (d.toNat * 65536 + a.toNat * 1024 + b.toNat * 16)]
  | .ctrAdd h a b mode sc kind imm => [word0 1 56 h (a.toNat * 1024 + b.toNat * 16), BitVec.ofNat 32 (mode.toNat * 4194304 + sc.toNat * 1048576 + kind.toNat * 65536 + imm.toNat)]
  | .ctrWait h d a b mode sc kind imm => [word0 1 57 h (d.toNat * 65536 + a.toNat * 1024 + b.toNat * 16), BitVec.ofNat 32 (mode.toNat * 4194304 + sc.toNat * 1048576 + kind.toNat * 65536 + imm.toNat)]
  | .ctrWaitt h d a b c mode sc q => [word0 1 58 h (d.toNat * 65536 + a.toNat * 1024 + b.toNat * 16), BitVec.ofNat 32 (c.toNat * 67108864 + mode.toNat * 4194304 + sc.toNat * 1048576 + q.toNat * 65536)]
  | .ctrRd h d a => [word0 1 59 h (d.toNat * 65536 + a.toNat * 1024)]
  | .ctrRdSt h d a => [word0 1 59 h (d.toNat * 65536 + a.toNat * 1024 + 16)]
  | .barArv h d a b mode sc kind imm => [word0 1 60 h (d.toNat * 65536 + a.toNat * 1024 + b.toNat * 16), BitVec.ofNat 32 (mode.toNat * 4194304 + sc.toNat * 1048576 + kind.toNat * 65536 + imm.toNat)]
  | .barWait h d a b mode sc => [word0 1 61 h (d.toNat * 65536 + a.toNat * 1024 + b.toNat * 16), BitVec.ofNat 32 (mode.toNat * 4194304 + sc.toNat * 1048576)]
  | .fence h sc kind => [word0 1 62 h (0), BitVec.ofNat 32 (sc.toNat * 1048576 + kind.toNat * 65536)]
  | .acqRem h d a => [word0 1 63 h (d.toNat * 65536 + a.toNat * 1024)]
  | .batchClose h d => [word0 1 64 h (d.toNat * 65536)]
  | .batchWait h a kind imm => [word0 1 65 h (a.toNat * 1024), BitVec.ofNat 32 (kind.toNat * 65536 + imm.toNat)]
  | .quiet h sc t => [word0 1 66 h (sc.toNat * 65536 + t.toNat * 16)]
  | .phase h t => [word0 1 67 h (t.toNat * 16)]
  | .cpIn h d a b comp sp sc imm => [word0 1 72 h (d.toNat * 65536 + a.toNat * 1024 + b.toNat * 16), BitVec.ofNat 32 (comp.toNat * 16777216 + sp.toNat * 4194304 + sc.toNat * 1048576 + imm.toNat)]
  | .cpOut h d a b comp sp sc imm => [word0 1 73 h (d.toNat * 65536 + a.toNat * 1024 + b.toNat * 16), BitVec.ofNat 32 (comp.toNat * 16777216 + sp.toNat * 4194304 + sc.toNat * 1048576 + imm.toNat)]
  | .cpGath h d a b c comp sp sc imm => [word0 1 74 h (d.toNat * 65536 + a.toNat * 1024 + b.toNat * 16), BitVec.ofNat 32 (c.toNat * 67108864 + comp.toNat * 16777216 + sp.toNat * 4194304 + sc.toNat * 1048576 + imm.toNat)]
  | .cpBulk h d a b comp sp sc imm => [word0 1 75 h (d.toNat * 65536 + a.toNat * 1024 + b.toNat * 16), BitVec.ofNat 32 (comp.toNat * 16777216 + sp.toNat * 4194304 + sc.toNat * 1048576 + imm.toNat)]
  | .cpBulkFill h d a b comp sp sc imm => [word0 1 75 h (d.toNat * 65536 + a.toNat * 1024 + b.toNat * 16), BitVec.ofNat 32 (comp.toNat * 16777216 + sp.toNat * 4194304 + sc.toNat * 1048576 + imm.toNat + 65536)]
  | .collAllred h d a b comp sp sc imm => [word0 1 76 h (d.toNat * 65536 + a.toNat * 1024 + b.toNat * 16), BitVec.ofNat 32 (comp.toNat * 16777216 + sp.toNat * 4194304 + sc.toNat * 1048576 + imm.toNat)]
  | .collRedscat h d a b comp sp sc imm => [word0 1 76 h (d.toNat * 65536 + a.toNat * 1024 + b.toNat * 16), BitVec.ofNat 32 (comp.toNat * 16777216 + sp.toNat * 4194304 + sc.toNat * 1048576 + imm.toNat + 65536)]
  | .collAllgath h d a b comp sp sc imm => [word0 1 76 h (d.toNat * 65536 + a.toNat * 1024 + b.toNat * 16), BitVec.ofNat 32 (comp.toNat * 16777216 + sp.toNat * 4194304 + sc.toNat * 1048576 + imm.toNat + 131072)]
  | .collBcast h d a b comp sp sc imm => [word0 1 76 h (d.toNat * 65536 + a.toNat * 1024 + b.toNat * 16), BitVec.ofNat 32 (comp.toNat * 16777216 + sp.toNat * 4194304 + sc.toNat * 1048576 + imm.toNat + 196608)]
  | .cpStat h d which => [word0 1 77 h (d.toNat * 65536 + which.toNat * 16)]
  | .lkDef h d a b => [word0 1 80 h (d.toNat * 65536 + a.toNat * 1024 + b.toNat * 16)]
  | .lkBegin h d => [word0 1 81 h (d.toNat * 65536)]
  | .lkAcq h a mode sc => [word0 1 82 h (a.toNat * 1024), BitVec.ofNat 32 (mode.toNat * 4194304 + sc.toNat * 1048576)]
  | .lkTry h d a mode sc => [word0 1 83 h (d.toNat * 65536 + a.toNat * 1024), BitVec.ofNat 32 (mode.toNat * 4194304 + sc.toNat * 1048576)]
  | .lkUpg h a mode sc => [word0 1 84 h (a.toNat * 1024), BitVec.ofNat 32 (mode.toNat * 4194304 + sc.toNat * 1048576)]
  | .lkRel h a => [word0 1 85 h (a.toNat * 1024)]
  | .lkEnd h => [word0 1 86 h (0)]
  | .lkQry h d a => [word0 1 87 h (d.toNat * 65536 + a.toNat * 1024)]
  | .gearN h => [word0 1 88 h (0)]
  | .gearF h => [word0 1 88 h (65536)]
  | .gearW h => [word0 1 88 h (131072)]
  | .hintCompute h => [word0 1 89 h (0)]
  | .hintMemory h => [word0 1 89 h (65536)]
  | .hintWait h => [word0 1 89 h (131072)]
  | .hintEndphase h => [word0 1 89 h (196608)]
  | .clk h d => [word0 1 90 h (d.toNat * 65536)]
  | .seg h => [word0 1 91 h (0)]
  | .segSync h => [word0 1 91 h (65536)]
  | .rte h => [word0 1 92 h (0)]
  | .ologRetry h a => [word0 1 93 h (a.toNat * 1024)]
  | .ologDrop h a => [word0 1 93 h (a.toNat * 1024 + 16)]
  | .ologStat h d => [word0 1 93 h (d.toNat * 65536 + 32)]
  | .ctxFlV h => [word0 1 94 h (0)]
  | .ctxFlA h => [word0 1 94 h (65536)]
  | .ctxFlAll h => [word0 1 94 h (131072)]
  | .ctxLdV h a b => [word0 1 95 h (a.toNat * 1024 + b.toNat * 16)]
  | .ctxLdA h a => [word0 1 95 h (a.toNat * 1024 + 65536)]
  | .stashMap h d a b => [word0 1 96 h (d.toNat * 65536 + a.toNat * 1024 + b.toNat * 16)]
  | .stashWb h a b => [word0 1 97 h (a.toNat * 1024 + b.toNat * 16)]
  | .cinvL1 h a b => [word0 1 98 h (a.toNat * 1024 + b.toNat * 16)]
  | .cinvWb h a b => [word0 1 98 h (a.toNat * 1024 + b.toNat * 16 + 65536)]
  | .cinvWbi h a b => [word0 1 98 h (a.toNat * 1024 + b.toNat * 16 + 131072)]
  | .tlbiRange h a b => [word0 1 99 h (a.toNat * 1024 + b.toNat * 16)]
  | .tlbiCtx h b => [word0 1 99 h (b.toNat * 16 + 65536)]
  | .tlbiGlobal h => [word0 1 99 h (131072)]
  | .tlbiAll h => [word0 1 99 h (196608)]
  | .lkmat h d a b => [word0 1 100 h (d.toNat * 65536 + a.toNat * 1024 + b.toNat * 16)]
  | .finj h d a b => [word0 1 101 h (d.toNat * 65536 + a.toNat * 1024 + b.toNat * 16)]
  | .preempt h d a b => [word0 1 102 h (d.toNat * 65536 + a.toNat * 1024 + b.toNat * 16)]
  | .finjApply _ => []
  | .splitSelect _ _ => []
  | .trapEntry _ => []
  | .resultReturn _ _ _ => []
  | .memoryReply _ _ _ => []
  | .homeRequest _ _ _ => []
  | .invalidationReceive _ _ => []
  | .invalidationAck _ => []
  | .pageWalkDone _ _ _ => []
  | .apertureTranslateDone _ _ => []
  | .unitMoveComplete _ => []
  | .settleHoldEnd _ => []
  | .accumulatorStart _ => []
  | .accumulatorComplete _ => []
  | .registerLineFill _ _ => []
  | .engineCommandStart _ => []
  | .engineTransferStep _ => []
  | .engineCommandComplete _ => []
  | .collPeerMessage _ _ _ _ => []
  | .waitSatisfied _ _ => []
  | .ctrWaittDeadline _ _ => []
  | .quietDrained _ _ => []
  | .lockRequestArrive _ => []
  | .lockReleaseArrive _ => []
  | .lockGrantArrive _ => []
  | .woundArrive _ => []
  | .queueDoorbell _ _ => []
  | .qctlWrite _ _ => []
  | .queueEntryRead _ => []
  | .gridAccept => []
  | .teamDistribute _ _ _ => []
  | .teamRetire _ => []
  | .gridRetire _ => []
  | .groupResume _ _ => []
  | .partitionSwapDone _ => []
  | .trailerSegmentStart _ => []
  | .segmentCompare _ => []
  | .thirdRunPlace _ _ => []
  | .vote _ => []
  | .prismHoldLimit _ => []
  | .dieFatalError _ => []
  | .correctedMemoryError _ _ => []
  | .bucketLeak _ _ => []
  | .gearTransitionStart _ => []
  | .gearTransitionEnd _ => []
  | .pairBalanceMeasure _ _ _ _ _ => []
  | .balanceWaitExpiry _ => []
  | .droopStretch _ => []
  | .governorAdjust _ _ _ _ => []
  | .capLeaseExpiry => []
  | .hostCxlMemAccess _ _ _ _ => []
  | .gflFlitReceive _ _ _ _ _ _ => []
  | .gflPortUp _ _ => []
  | .gflPortDown _ => []
  | .routeEntryWrite _ _ => []
  | .routeApply _ => []
  | .timeMessage _ => []
  | .timeSyncTimeout => []
  | .partcfgWrite _ => []
  | .biasFlipToHost _ _ => []
  | .biasFlipToDevice _ _ => []
  | .biasFlipDone _ => []
  | .snapshotNow => []
  | .snapshotInterval => []
  | .snapshotStreamDone _ => []
  | .frzctlFreezeWrite _ => []
  | .freezePin => []
  | .registerWrite _ _ => []
  | .getZhr => []
  | .getCert _ => []
  | .setCap _ _ _ _ => []
  | .freeze => []
  | .clrFence _ => []
  | .regRd _ => []
  | .regWr _ _ => []
  | .reset => []
  | .scanRd _ _ => []
  | .functionReady _ => []
  | .cxlLinkUp => []
  | .cxlHostSnoop _ => []
  | .droopRecovery _ => []
  | .snapshotStopEnd _ => []
  | .timeSyncReached => []

/-- The length in words that word 0 fixes: 0 for an unallotted opcode (R23, R46, R47). -/
def wordsOf (w : BitVec 32) : Nat :=
  let op := (w.extractLsb' 22 7).toNat
  if (w.extractLsb' 31 1).toNat = 0 then laneWords op else uniformWords op

/-- The candidate instruction of two words, by the set bit of word 0. -/
def candidate (w k : BitVec 32) : Option Instr :=
  if (w.extractLsb' 31 1).toNat = 0 then laneCandidate w k else uniformCandidate w k

/-- The decoder: word 0 and the word after it, which a one-word instruction does not read. -/
def decode (w k : BitVec 32) : Except Reject Instr :=
  match candidate w k with
  | none => if wordsOf w = 0 then .error .unallottedOpcode else .error .unallottedCode
  | some i =>
    if i.wf = false then .error .unallottedCode
    else
      match encode i with
      | [w'] => if w' = w then .ok i else .error .mustBeZero
      | [w', k'] => if w' = w then if k' = k then .ok i else .error .mustBeZero else .error .mustBeZero
      | _ => .error .unallottedCode

/-- Two bytes and up, little-endian, into one value (R3). -/
def leValue : List (BitVec 8) → Nat
  | [] => 0
  | b :: rest => b.toNat + 256 * leValue rest

/-- `n` bytes of a value, little-endian, the lowest first (R3). -/
def leBytes : Nat → Nat → List (BitVec 8)
  | 0, _ => []
  | n + 1, v => BitVec.ofNat 8 v :: leBytes n (v / 256)

/-- Decoding from the instruction's bytes in address order, total on any list: missing bytes read as zero (R22). -/
def decodeBytes (bytes : List (BitVec 8)) : Except Reject Instr :=
  decode (BitVec.ofNat 32 (leValue (bytes.take 4))) (BitVec.ofNat 32 (leValue ((bytes.drop 4).take 4)))

/-- The instruction the decoder reads from table bits `w` of `nbits` bits: bit 0 is the least significant bit of the first word,
the bits above `nbits` are zero, and the words are laid out little-endian as R22 stores them. -/
def decodeTableWord (nbits w : Nat) : Option Instr :=
  match decodeBytes (leBytes 8 (w % 2 ^ nbits)) with
  | .ok i => some i
  | .error _ => none

end Sys2Proof
end

