-- ==== Sys2Proof/Machine/State.lean ====
section
/-! DEFINITION. The state of the Z4 package as plain data (02 R41 to R45 and the state each chapter names), the reasons a step can
stop, and the state right after reset.  The group that holds an issue slot is the state's focus `g`; every other group is in
`others`.  All that the package's parts hold besides (teams, grids, queues, locks, engines, Prism, registers) stands beside them. -/

namespace Sys2Proof.Machine

/-- Why the machine stops. -/
inductive Fault where
  /-- Raised by `step` alone, when the package is frozen and no input is waiting: R408 stops every clock and the package does
  nothing further until a reset.  Safe: the hardware does not go on either. -/
  | frozen
  deriving DecidableEq, Repr

/-- Why an instruction has no meaning. -/
inductive Refusal where
  /-- Raised by `exec` for an instruction that is not modelled, with its mnemonic.  Safe: the machine stops where the hardware
  goes on. -/
  | notModelled (mnemonic : String)
  deriving DecidableEq, Repr

/-! ## Small types -/

/-- The part a run of a team plays under Chord (13 R347, R360). -/
inductive Role where
  | plain | leader | trailer | third
  deriving DecidableEq, Repr

/-- An address space an access reaches (07 R167). -/
inductive Space where
  | glob | scr | clu
  deriving DecidableEq, Repr

/-- Where a translated access lies: a physical address, or an offset in a team's scratchpad. -/
inductive Place where
  | glob (pa : Nat)
  | scr (tid : Nat) (off : Nat)
  deriving DecidableEq, Repr

/-- A translation aperture (07 R174); `pending` while a TA.SET has not finished (R175).  `lo` and `hi` bound the VAs of its run, `global`
and `local_` tell whether the run holds units with G = 1 and with G = 0 (R198). -/
structure Aperture where
  v : Bool
  base : BitVec 57
  cap : BitVec 33
  frame : BitVec 48
  limit : BitVec 33
  r : Bool
  w : Bool
  stale : Bool
  pending : Bool
  lo : Nat
  hi : Nat
  global : Bool
  local_ : Bool
  deriving DecidableEq, Repr

/-- An invalid aperture acts as BASE 0 and LIMIT 0 (R174). -/
def Aperture.invalid : Aperture := ⟨false, 0, 0, 0, 0, false, false, false, false, 0, 0, false, false⟩

/-- A counter or barrier wait (09 R233, R234, R240): whether it is of a barrier, its operand-log entry, its scope, target, destination
register, outcome predicate and deadline, and once it is decided at its object's point (14 R379) whether it reached, with the STATUS and
the count or phase read there. -/
structure Wait where
  bar : Bool
  entry : Nat
  scope : Nat
  target : BitVec 64
  d : Nat
  q : Option Nat
  deadline : Option (BitVec 64)
  decided : Option (Bool × BitVec 64 × BitVec 64)
  deriving DecidableEq, Repr

/-- A launch descriptor, read from its 64 bytes (03 R75). -/
structure Desc where
  entry : BitVec 64
  argptr : BitVec 64
  x : BitVec 32
  y : BitVec 32
  z : BitVec 32
  groups : BitVec 8
  regs : BitVec 8
  accs : BitVec 8
  flags : BitVec 8
  scratch : BitVec 32
  stash : BitVec 32
  red : BitVec 8
  prio : BitVec 8
  depth : BitVec 8
  rsv : BitVec 40
  completion : BitVec 64
  add : BitVec 64
  deriving DecidableEq, Repr

/-- Why a split does not issue (03 R58).  `exitDrain` holds the lanes that end when the drain is over; `log` is the waiting park of a
follower whose leader parked there and whose log does not tell the outcome yet (13 R347); `slack` names the segment whose commit ends it (13
R354), none where a hold limit alone does; `seq` is an instruction's issue number. -/
inductive Park where
  | ready
  | wbit
  | exitDrain (lanes : BitVec 32)
  | clk
  | rte
  | join
  | syncs
  | launch (d : Nat) (seq : Nat) (x : Desc)
  | ctr (w : Wait)
  | batchClose (d : Nat) (seq : Nat)
  | batchWait (n : BitVec 64)
  | quiet (scope : Nat) (tag : BitVec 1) (since : Nat)
  | lock
  | lockHeld
  | compare
  | slack (seg : Option Nat)
  | log (seq : Nat)
  deriving DecidableEq, Repr

/-- A live split (03 R57): its slot, PC, mask, ready-age, passed-over count and park.  `plen` is the length of the instruction it
is parked at, `hold` the clock before which it is not eligible (R64), `wAfter` the W bit of the instruction it is parked at (R33). -/
structure Split where
  slot : Nat
  pc : BitVec 57
  mask : BitVec 32
  age : Nat
  passed : Nat
  park : Park
  plen : Nat
  hold : Nat
  wAfter : Bool
  cnt : Nat
  deriving DecidableEq, Repr

/-- The state of one lane of an operand-log entry (12 R324): waiting for its address; located (`kind` is the page's type, with host
bias at bit 2 and movability at bit 3); read by the cluster atomic unit and not yet written back (08 R209); performed with the bytes it
returned; faulted with a cause, the page-table entry behind it and the DT of the recording; done, with the value it received (none
where OLOG.DROP took it). -/
inductive LaneState where
  | pending
  | located (p : Place) (kind : Nat)
  | half (p : Place) (kind : Nat) (m : BitVec 64)
  | performed (v : BitVec 128)
  | faulted (cause : BitVec 8) (walk : BitVec 64) (dt : Nat)
  | done (v : Option (BitVec 128))
  deriving DecidableEq, Repr

/-- Whether a lane's access has not returned: neither done nor faulted. -/
def LaneState.isOpen : LaneState → Bool
  | .faulted .. => false
  | .done _ => false
  | _ => true

/-- Whether a lane's access is still to be performed; a faulted one is (R326). -/
def LaneState.unperformed : LaneState → Bool
  | .performed _ => false
  | .done _ => false
  | _ => true

/-- Whether a lane waits for its address. -/
def LaneState.isPending : LaneState → Bool
  | .pending => true
  | _ => false

/-- Whether a lane is faulted. -/
def LaneState.isFaulted : LaneState → Bool
  | .faulted .. => true
  | _ => false

/-- Whether a lane is done. -/
def LaneState.isDone : LaneState → Bool
  | .done _ => true
  | _ => false

/-- One lane's captured access: address or offset, data and second data (the compare value of CAS), and its state (R324). -/
structure OlLane where
  lane : Nat
  addr : BitVec 64
  fast : Option Nat
  data : BitVec 128
  cmp : BitVec 64
  st : LaneState
  deriving DecidableEq, Repr

/-- What an operand-log entry does at memory. -/
inductive AccKind where
  | load (signExt : Bool)
  | store
  | atom (t op : Nat) (returns : Bool)
  | binr
  | sld (d : Nat)
  | sst
  | ctrAdd
  | ctrRd (d : Nat)
  | barArv (d : Nat)
  | lkDef (d : Nat) (domain : BitVec 64)
  | wait (bar : Bool)
  deriving DecidableEq, Repr

/-- An operand-log entry (R324): its index and issue number, the issuing split's slot, the instruction, the active mask (of a uniform
instruction the issuing split's mask, R317), whether it was issued privileged, its destination, scope, order and phase tag, the
aperture as captured, and its lanes. -/
structure OlEntry where
  idx : Nat
  seq : Nat
  cnt : Nat
  slot : Nat
  pc : BitVec 57
  uni : Bool
  opc : BitVec 7
  w1 : BitVec 32
  mask : BitVec 32
  priv : Bool
  kind : AccKind
  space : Space
  size : Nat
  scope : Nat
  ord : Nat
  dst : Nat
  ta : Option Nat
  apt : Aperture
  hint : BitVec 2
  tag : BitVec 1
  dt : Nat
  lanes : List OlLane
  again : Option Nat
  deriving DecidableEq, Repr

/-- What an outstanding result still waits for: nothing (its values are known; `acc` where an accumulator instruction gave them), another step that will give them, a FENCE's condition
by kind (09 R246), the group's earlier stores, the accesses translated by dropped entries (07 R198), or the stores and
acknowledgements of a victim tile's groups (09 R247), the earlier stores of a STASH.WB with the VA range it then writes back (07 R189), the
engine owners of the lines of a CINV (07 R191), the release of a QPOST with what it then posts (03 R84), the lines of a CTX.FL
(0 V, 1 A, 2 ALL, 12 R337), the groups of a context that PREEMPT stops, and then ends (12 R338), or in a follower its log, `held` until
a handler has the instruction retried or returns. -/
inductive Await where
  | nothing
  | acc
  | other
  | fence (kind : Nat)
  | stores
  | tlb
  | victim (tile : Nat)
  | stashWb (lo hi : Nat)
  | lines (kind : Nat) (l : List Nat)
  | post (d : Nat) (queue : Nat) (desc : List (BitVec 8))
  | flush (what : Nat)
  | preempt (ctx : Nat)
  | ended (ctx : Nat)
  | log (held : Bool)
  deriving DecidableEq, Repr

/-- An outstanding variable-latency result that no operand-log entry holds (02 R34), with its instruction's count: vector writes keyed
by 32 × register + lane, uniform writes, the status flags that enter FPSTAT with it, and what it waits for (while that is `other` the
writes only name what is outstanding). -/
structure Result where
  seq : Nat
  cnt : Nat
  slot : Nat
  vw : List (Nat × BitVec 32)
  sw : List (Nat × BitVec 64)
  flags : BitVec 5
  await : Await
  deriving DecidableEq, Repr

/-- An entry of a group's lock set (10 R266). -/
structure LockHold where
  name : BitVec 64
  mode : Nat
  upg : Option Nat
  deriving DecidableEq, Repr

/-- A recorded wound (R274): the lock and the DT at which the slice sent it. -/
structure Wound where
  name : BitVec 64
  dt : BitVec 64
  deriving DecidableEq, Repr

/-- A lock request of a group on its way to the slice (R282): LK.ACQ, LK.TRY (with its status register) or LK.UPG. -/
structure LockReq where
  name : BitVec 64
  mode : Nat
  upg : Bool
  try_ : Option Nat
  scope : Nat
  slot : Nat
  seq : Nat
  arrived : Bool
  granted : Bool
  deriving DecidableEq, Repr

/-- One contribution to a signature (13 R350): the group, its instruction's issue number, whether it belongs to SS, and the two
words. -/
structure Fold where
  gidx : Nat
  seq : Nat
  ss : Bool
  a : BitVec 32
  d : BitVec 32
  deriving DecidableEq, Repr

/-- A FINJ flip waiting for the target's next run boundary (R363), with the issuer and its status register. -/
structure Flip where
  sreg : Bool
  reg : Nat
  lane : Nat
  bit : Nat
  issuer : Nat
  seq : Nat
  d : Nat
  deriving DecidableEq, Repr

/-- A recorded Matrix Data Error (06 R164), with the issue number of the failing instruction. -/
structure MatErr where
  pc : BitVec 57
  mask : BitVec 32
  addr : BitVec 64
  dt : BitVec 64
  seq : Nat
  deriving DecidableEq, Repr

/-! ## Groups -/

/-- A group: the context state of R41, the launch identity of R43, and its place.  `absent`, `dirty` and `touched` name lines of its image
that are not in the tile, that the image has older, and that were written since the segment's checkpoint (12 R331; 13 R359); `mends` the
registers that an instruction (by issue number) still returning writes in all 32 lanes (12 R332). -/
structure Group where
  gid : Nat
  tid : Nat
  ctx : Nat
  live : Bool
  halted : Bool
  away : Bool
  stop : Bool
  role : Role
  gidx : BitVec 5
  teamIdx : BitVec 64
  teamDim : BitVec 6
  gridId : BitVec 64
  gridKey : BitVec 32
  gridDim : BitVec 64
  depth : BitVec 4
  argptr : BitVec 64
  prio : BitVec 5
  coRes : Bool
  tile : Nat
  place : Nat
  ctxBase : BitVec 64
  allot : Nat
  naccs : Nat
  scratch : Nat
  xb : BitVec 8
  v : Sparse W32
  p : Sparse W32
  s : Sparse W64
  q : BitVec 8
  ta : Sparse Aperture
  acc : Sparse W64
  accPoison : List Nat
  regPoison : List Nat
  dirty : List Nat
  touched : List Nat
  mends : List (Nat × Nat)
  splits : List Split
  keptPc : Sparse (BitVec 57)
  newSplits : List (Nat × BitVec 32)
  stack : List (BitVec 57 × BitVec 32)
  run : Bool
  cur : Nat
  runLen : Nat
  atEnd : Option Nat
  resumed : Bool
  absent : List Nat
  hs : Sparse W64
  txb : BitVec 8
  inh : Bool
  trapSeq : Nat
  trapsTaken : Nat
  haz : Bool
  tcause : BitVec 64
  tpc : BitVec 57
  tresume : BitVec 57
  tmask : BitVec 32
  taddr : BitVec 64
  tdt : BitVec 64
  tother : BitVec 2
  tlanecause : BitVec 64
  twalk : BitVec 64
  fpstat : BitVec 5
  fpctl : BitVec 2
  srcount : Sparse W32
  batchSeq : BitVec 64
  batchDone : BitVec 64
  phase : BitVec 1
  olog : List OlEntry
  seq : Nat
  acks : Nat
  results : List Result
  fences : List (Nat × Nat × Nat)
  lset : List LockHold
  age : BitVec 64
  agev : Bool
  agehold : Bool
  wounds : List Wound
  lreq : Option LockReq
  lkStop : Bool
  lrel : List (BitVec 64)
  lend : Bool
  lockSeq : Option Nat
  gearReq : Bool
  gearStart : Bool
  engErr : BitVec 64
  engAddr : BitVec 64
  engDt : Nat
  engDue : Option (Nat × BitVec 57)
  splitSel : BitVec 64
  lkSel : BitVec 64
  olSel : BitVec 64
  acctSel : BitVec 64
  icount : Nat
  cleared : Option Nat
  flip : List Flip
  matErr : List MatErr
  deriving DecidableEq, Repr

/-- The focus before any group has started: every field at the value group start gives it (R42), no split live, and an allotment
of 8 registers (log entry 2). -/
def Group.idle : Group where
  gid := 0
  tid := 0
  ctx := 0
  live := false
  halted := false
  away := false
  stop := false
  role := .plain
  gidx := 0
  teamIdx := 0
  teamDim := 0
  gridId := 0
  gridKey := 0
  gridDim := 0
  depth := 0
  argptr := 0
  prio := 0
  coRes := false
  tile := 0
  place := 0
  ctxBase := 0
  allot := 8
  naccs := 0
  scratch := 0
  xb := 0
  v := []
  p := []
  s := []
  q := 0
  ta := []
  acc := []
  accPoison := []
  regPoison := []
  dirty := []
  touched := []
  mends := []
  splits := []
  keptPc := []
  newSplits := []
  stack := []
  run := false
  cur := 0
  runLen := 0
  atEnd := none
  resumed := false
  absent := []
  hs := []
  txb := 0
  inh := false
  trapSeq := 0
  trapsTaken := 0
  haz := false
  tcause := 0
  tpc := 0
  tresume := 0
  tmask := 0
  taddr := 0
  tdt := 0
  tother := 0
  tlanecause := 0
  twalk := 0
  fpstat := 0
  fpctl := 0
  srcount := []
  batchSeq := 1
  batchDone := 0
  phase := 0
  olog := []
  seq := 0
  acks := 0
  results := []
  fences := []
  lset := []
  age := 0
  agev := false
  agehold := false
  wounds := []
  lreq := none
  lkStop := false
  lrel := []
  lend := false
  lockSeq := none
  gearReq := false
  gearStart := false
  engErr := 0
  engAddr := 0
  engDt := 0
  engDue := none
  splitSel := 0
  lkSel := 0
  olSel := 0
  acctSel := 0
  icount := 0
  cleared := none
  flip := []
  matErr := []

/-! ## Teams, grids, contexts, queues -/

/-- A line held in a team's stash (07 R190): its VA and physical address divided by 128, whether it is dirty and owned, whether the leaf it was
translated by was global and checked for stores, and the bytes that leaf's block maps. -/
structure StashLine where
  va : Nat
  pa : Nat
  dirty : Bool
  owned : Bool
  glob : Bool
  w : Bool
  size : Nat
  deriving DecidableEq, Repr

/-- A stash mapping (07 R189): base VA, length, offset in the stash bytes, and the lines now held. -/
structure StashMap where
  va : Nat
  len : Nat
  off : Nat
  lines : List StashLine
  deriving DecidableEq, Repr

/-- A value of the load-value log (13 R346): group, count of its instruction, what it was received in (32 × r + lane of a vector
register; 100000 + n of an s register; 200000 + n of a q predicate; 300000 + offset of a scratchpad byte; from 600000 the offset of
engine data landed there; 999995 the count or phase a wait read; from 999996 the marks of `faultKey`, `entryKey`, `againKey` and `doneKey`: held by a fault, in an entry, tried
again, completed), and the value. -/
structure LogVal where
  gidx : Nat
  cnt : Nat
  key : Nat
  val : BitVec 64
  deriving DecidableEq, Repr

/-- The state of a closed segment (13 R358). -/
inductive SegState where
  | closed | released | voting
  deriving DecidableEq, Repr

/-- A group's close of a segment (R352): its instruction count and the issue number up to which its contributions belong to it. -/
structure Close where
  seg : Nat
  gidx : Nat
  cnt : Nat
  seq : Nat
  deriving DecidableEq, Repr

/-- A closed segment of a checked team that has not been compared (R352, R358): its number, state, whether it was released, and the DTs
of its start and close. -/
structure Seg where
  n : Nat
  st : SegState
  rel : Bool
  startDt : Nat
  closeDt : Nat
  deriving DecidableEq, Repr

/-- A tentative byte in Prism (R355): the segment, the physical address and the byte. -/
structure Version where
  seg : Nat
  pa : Nat
  val : BitVec 8
  deriving DecidableEq, Repr

/-- A trap record (12 R322), as the load-value log keeps it (R346): group, trap point (instruction count and split slot), and the registers
TCAUSE, TPC, TRESUME, TMASK, TADDR, TDT, TOTHER, TLANECAUSE. -/
structure TrapLog where
  gidx : Nat
  cnt : Nat
  slot : Nat
  cause : BitVec 64
  tpc : BitVec 57
  tresume : BitVec 57
  mask : BitVec 32
  addr : BitVec 64
  dt : BitVec 64
  other : BitVec 2
  laneCause : BitVec 64
  deriving DecidableEq, Repr

/-- A run of the run record (R346): group, split slot, and the group's instruction count at its end. -/
structure RunLog where
  gidx : Nat
  slot : Nat
  cnt : Nat
  deriving DecidableEq, Repr

/-- An engine command (11 R291 to R307): issuing group, its instruction's counts and privilege, its batch, its kind (0 CP.IN, 1 CP.OUT,
2 CP.GATH, 3 CP.BULK, 4 COLL; fill and collective operation in `op`), operand block or descriptor, index list, completion, and its
global destination ranges as VAs (R292), for a COLL its number among those of its context and peer group (R303), its progress in bytes:
taken from the source, arrived, subtracted, mirrored, and for a follower the values of its log landed; the physical ranges met
(destination or not, address, length), what each rank contributed, and the result bytes of a mirrored COLL.REDSCAT. -/
structure Cmd where
  id : Nat
  gid : Nat
  tid : Nat
  ctx : Nat
  tile : Nat
  priv : Bool
  seq : Nat
  cnt : Nat
  batch : BitVec 64
  kind : Nat
  op : Nat
  blk : List (BitVec 64)
  idxList : List (BitVec 32)
  comp : Nat
  compPlace : Option Place
  compAddr : BitVec 64
  scope : Nat
  imm : Nat
  tag : BitVec 1
  dt : Nat
  dest : List (Nat × Nat)
  nth : Nat
  started : Bool
  pos : Nat
  landed : Nat
  subtracted : Nat
  mirrored : Nat
  logged : Nat
  seen : List (Bool × Nat × Nat)
  ahead : List (BitVec 8)
  asked : Nat
  peers : List (Nat × List (BitVec 8))
  shard : List (BitVec 8)
  error : Option (BitVec 7)
  done : Bool
  deriving DecidableEq, Repr

/-- What an accumulator instruction does when the engine completes it (06 R146); the operands are those captured at issue. -/
inductive AccOp where
  | mma (t : Nat) (z : Bool) (acc : Nat)
  | rd (t : Nat) (acc j0 n d : Nat)
  | wr (t : Nat) (acc j0 n : Nat)
  | zero (acc : Nat)
  | cvt (t : Nat) (acc d : Nat) (c : Option Nat) (sat : Bool)
  deriving DecidableEq, Repr

/-- An accumulator instruction in a tile's engine queue (R146), with its captured registers (key 32 × j + lane) and, for DXB, the
scale bytes read when it starts (R156). -/
structure AccJob where
  tile : Nat
  gid : Nat
  seq : Nat
  slot : Nat
  pc : BitVec 57
  mask : BitVec 32
  mode : Nat
  op : AccOp
  fragA : Sparse W32
  fragB : Sparse W32
  ascale : Nat
  bscale : Nat
  scaleA : List (BitVec 8)
  scaleB : List (BitVec 8)
  started : Bool
  deriving DecidableEq, Repr

/-- The checkpoint of a segment (13 R359): each group as it closed the segment before, with its accumulator instructions in flight, the
team's engine commands in flight, its scratchpad bytes with their poisoned sectors, and the bytes of the slice that the copies made for it
take. -/
structure Check where
  seg : Nat
  groups : List (Nat × Group)
  jobs : List AccJob
  cmds : List Cmd
  scr : Sparse Byte
  scrPoison : List Nat
  copies : Nat
  deriving DecidableEq, Repr

/-- The Chord state of a checked or recorded team (R343 to R360): its level, open segment with its start and stores, the closed segments,
tentative versions of the leader and of a third run, the load-value log with what a recording keeps of it, the run and trap records, the
checkpoints, its followers, its counts, the instructions (group, issue number) whose outcome a compare did not wait for, its slice of the checkpoint
store with the die that holds it (R349), and the segment at whose match a wound's forcing of the trailer into F gear ends (10 R274). -/
structure Chord where
  level : Nat
  open_ : Nat
  openDt : Nat
  stores : Nat
  segs : List Seg
  vers : List Version
  thirdVers : List Version
  log : List LogVal
  kept : List LogVal
  runs : List RunLog
  traps : List TrapLog
  checks : List Check
  trailer : Nat
  trailerSeg : Nat
  third : Option Nat
  thirdWait : Bool
  mism : Nat
  late : Nat
  released : Bool
  owed : List (Nat × Nat)
  slice : Nat
  sliceDie : Nat
  forced : Option Nat
  deriving DecidableEq, Repr

/-- A team (03 R57, R86; 07 R168): its grid, tile, groups still running, scratchpad sizes, the place of its piece in its tile's banks, whether
the bytes have been moved to its save area instead (12 R336), those bytes, poisoned scratchpad sectors, failing words (07 R181), sectors written
since the segment's checkpoint (13 R359), stash mappings, engine commands and children not yet finished, its Chord state, the record it replays and the segments of it compared. -/
structure Team where
  tid : Nat
  serial : BitVec 32
  idx : Nat
  ctx : Nat
  tile : Nat
  role : Role
  groups : Nat
  scratch : Nat
  stashBytes : Nat
  base : Nat
  saved : Bool
  scr : Sparse Byte
  scrPoison : List Nat
  badWords : List Nat
  sectors : List Nat
  stash : List StashMap
  ended : Bool
  away : Bool
  chord : Option Chord
  folds : List Fold
  closes : List Close
  replay : Option Nat
  compared : Nat
  deriving DecidableEq, Repr

/-- A piece of a record (R367): the physical ranges (from, to) of the buffer that its entries take, its team's index, and what was recorded.  The
encoding of these in the buffer belongs to the device. -/
structure Rec where
  ranges : List (Nat × Nat)
  teamIdx : Nat
  log : List LogVal
  runs : List RunLog
  traps : List TrapLog
  closes : List Close
  folds : List Fold
  deriving DecidableEq, Repr

/-- A grid (03 R75 to R90): a launch entry waiting to be accepted (`accepted` false; `rel` is the group and issue number whose release it
waits for, R84), or an accepted grid with its serial, what CHSEED, PRHOLD, RECBASE and CHCTL held at its acceptance (13 R365) whether its
trailers go to another die (13 R345), and whether its recording has stopped (R367). -/
structure Grid where
  serial : BitVec 32
  desc : Desc
  ctx : Nat
  queue : Nat
  child : Bool
  parent : Option Nat
  die : Nat
  reserved : Bool
  accepted : Bool
  key : BitVec 32
  prio : Nat
  nextTeam : Nat
  retired : Nat
  err : Option (BitVec 7)
  done : Bool
  rel : Option (Nat × Nat)
  chseed : BitVec 64
  prhold : BitVec 64
  recbase : BitVec 64
  chctl : BitVec 64
  cross : Bool
  recStop : Bool
  deriving DecidableEq, Repr

/-- A context (03 R78; 07 R205, R206; 10 R261, R265, R289; 12 R321, R341; 13 R365; 14 R387). -/
structure Context where
  num : Nat
  priv : Bool
  ptroot : BitVec 64
  tvec : BitVec 57
  imageBase : BitVec 64
  imageStride : Nat
  lkdtab : BitVec 64
  mat : BitVec 36
  chseed : BitVec 64
  prhold : BitVec 64
  recbase : BitVec 64
  chctl : BitVec 64
  auto : Bool
  away : Bool
  started : Nat
  colls : Sparse Nat
  acct : Sparse W64
  deriving DecidableEq, Repr

/-- A context as its creation leaves it: the reset values of its registers (R265, R365, R387), no table, no handler. -/
def Context.fresh (num : Nat) : Context where
  num := num
  priv := false
  ptroot := 0
  tvec := 0
  imageBase := 0
  imageStride := 0
  lkdtab := 0
  mat := 0x0122475CF
  chseed := 0
  prhold := 0x000003E800001000
  recbase := 0
  chctl := 1
  auto := true
  away := false
  started := 0
  colls := []
  acct := []

/-! ## Translation, caches, locks, engines -/

/-- A TLB entry (07 R197): L1 of a tile or L2 of a cluster, its context and G bit, the block it maps, the leaf as loaded, and the
leaf's level and physical address (R194). -/
structure TlbEntry where
  l2 : Bool
  unit : Nat
  ctx : Nat
  glob : Bool
  va : Nat
  size : Nat
  pa : Nat
  leaf : BitVec 64
  leafPa : Nat
  level : Nat
  deriving DecidableEq, Repr

/-- A walk-cache pointer (R197): die, context, level n, the VA bits above level n's index, and the level n + 1 table. -/
structure WalkEntry where
  die : Nat
  ctx : Nat
  level : Nat
  prefix_ : Nat
  table : Nat
  deriving DecidableEq, Repr

/-- A sector held in a tile's L1 (R186): its physical sector number, the hint of the load that filled it, and the bytes it holds. -/
structure L1Sector where
  tile : Nat
  sector : Nat
  hint : BitVec 2
  bytes : List (BitVec 8)
  deriving DecidableEq, Repr

/-- An invalidation sent to a sharer (R188), with the storing group: on its way, or received and its acknowledgement on its way
back. -/
structure Inval where
  tile : Nat
  sector : Nat
  gid : Nat
  received : Bool
  deriving DecidableEq, Repr

/-- A line of normal memory in its home's L2 (R187, R204): whether it is dirty, and the context that last wrote it. -/
structure L2Line where
  line : Nat
  dirty : Bool
  writer : Option Nat
  deriving DecidableEq, Repr

/-- A unit's move in progress (R201): the chip and die it goes to, and the clock at which its first line was copied. -/
structure UnitMove where
  chip : BitVec 12
  die : Nat
  since : Nat
  deriving DecidableEq, Repr

/-- A migrated 64 KiB unit or its counter (R199 to R202): acting home chip and die, counter pair, a move in progress, the DTs of recent
moves, and the DT until which it is settled. -/
structure MigUnit where
  unit : Nat
  acting : BitVec 12
  die : Nat
  chip : BitVec 12
  count : Nat
  moving : Option UnitMove
  moves : List Nat
  settled : Option Nat
  deriving DecidableEq, Repr

/-- A lock entry at a slice (10 R266, R288): holder or waiter; `upg` is the waiting upgrade of a holder. -/
structure LockRec where
  ctx : Nat
  name : BitVec 64
  gid : Nat
  held : Bool
  mode : Nat
  upg : Option Nat
  die : Nat
  deriving DecidableEq, Repr

/-- A wound on its way from a slice to a group (R271). -/
structure WoundMsg where
  gid : Nat
  name : BitVec 64
  dt : BitVec 64
  deriving DecidableEq, Repr

/-- A lock domain of a context (R261), with the die that held BASE. -/
structure Domain where
  ctx : Nat
  num : Nat
  base : Nat
  e0 : Nat
  e1 : Nat
  e2 : Nat
  w0 : Nat
  w1 : Nat
  w2 : Nat
  dims : Nat
  die : Nat
  deriving DecidableEq, Repr

/-- Bytes of a physical range that an engine owns until it has written them (11 R292). -/
structure Owner where
  id : Nat
  pa : Nat
  len : Nat
  deriving DecidableEq, Repr

/-- Engine data of one sector held in a cluster's landing buffer for a stopped tile (11 R310): offsets and bytes. -/
structure Landed where
  cmd : Nat
  tid : Nat
  segs : List (Nat × List (BitVec 8))
  deriving DecidableEq, Repr

/-- A member's part of a COLL as it reaches this chip (11 R303): the context, peer group and number it is matched by, the member's rank, the
parameters of its descriptor, an error code or 0, and what it contributes. -/
structure PeerMsg where
  ctx : Nat
  group : Nat
  nth : Nat
  rank : Nat
  op : Nat
  n : Nat
  typ : Nat
  red : Nat
  root : Nat
  code : BitVec 7
  data : List (BitVec 8)
  deriving DecidableEq, Repr

/-! ## Tiles, queues and the package -/

/-- A tile's gear state (14 R376 to R386): F gear or not, a transition in progress with its target, deferred by the balancer since
a DT, the DT at which its gear or its transition began, the DT since which its target differs, the engine data held while its clock is stopped, and fenced at manufacture or in the field (13 R361, 15 R394). -/
structure Tile where
  id : Nat
  fgear : Bool
  trans : Option Bool
  deferred : Option Nat
  since : Nat
  want : Option Nat
  fencedMfr : Bool
  fencedField : Bool
  landing : List Landed
  deriving DecidableEq, Repr

/-- A cluster pair's balancer state (14 R387 BALST), with the layer that burns balance load, and whether the lower layer was the
lighter when last measured (R380). -/
structure Pair where
  id : Nat
  imb : Nat
  pend : Nat
  burn : Bool
  burnLow : Bool
  light : Bool
  defers : BitVec 32
  deriving DecidableEq, Repr

/-- A cluster's clocks and droop count (R387 TILECLK). -/
structure Clu where
  id : Nat
  fmhz : BitVec 12
  nmhz : BitVec 12
  droops : BitVec 32
  stretched : Bool
  deriving DecidableEq, Repr

/-- A leaky bucket of the health unit (13 R368): kind 1 to 6 as in R371, unit, level, and the DT at which its leak period began. -/
structure Bucket where
  kind : Nat
  unit : Nat
  level : Nat
  since : Nat
  deriving DecidableEq, Repr

/-- A suspect entry of the ZHR (R371). -/
structure Suspect where
  kind : Nat
  unit : Nat
  level : Nat
  dt : Nat
  deriving DecidableEq, Repr

/-- The counters the ZHR reports (R371), with the DT at which the record was last generated, kept apart from the state a reset clears where R372 says so. -/
structure Zhr where
  seq : BitVec 64
  dt : Nat
  settles : BitVec 64
  votes : BitVec 64
  lates : BitVec 64
  noMajority : BitVec 64
  diesFenced : BitVec 4
  suspects : List Suspect
  deriving DecidableEq, Repr

/-- A request from outside the package that waits at its home (07 R187; 15 R398, R400, R401): a host's access, a flit's, a snoop of a host line. -/
inductive Outside where
  | host (pa : Nat) (op : Nat) (n : Nat) (data : List (BitVec 8))
  | flit (head : FlitHead) (pa : Nat) (wr : Bool) (data : List (BitVec 8))
  | snoop (line : Nat)
  deriving DecidableEq, Repr

/-- A bias flip in progress on a die (15 R400). -/
structure BiasFlip where
  die : Nat
  page : Nat
  toHost : Bool
  since : Nat
  deriving DecidableEq, Repr

/-- A partition swap (12 R339): out or in, and the partition's lowest die. -/
structure Swap where
  die : Nat
  out : Bool
  issuer : Nat
  seq : Nat
  deriving DecidableEq, Repr

/-- A prefetch of a group that waits for its line (07 R179, R187): the physical address and page kind, whether it fills the L1, and its hint. -/
structure Pref where
  gid : Nat
  pa : Nat
  kind : Nat
  l1 : Bool
  hint : BitVec 2
  deriving DecidableEq, Repr

/-- An event on its way to a fault queue (15 R406): the queue, type, context, DT and data. -/
structure Push where
  queue : Nat
  typ : Nat
  ctx : Nat
  dt : Nat
  data0 : BitVec 64
  data1 : BitVec 64
  deriving DecidableEq, Repr

/-- The whole machine.  `lostStores` counts the stores that could not be delivered (07 R199), `strays` the
traffic for other chips (15 R401); `fetched` names the words counted at their homes for the instruction a group is to issue (group, instruction
count, VA; 07 R204); `coded` names physical ranges (from, to, tag) whose bytes hold state in an encoding of the device's own: they read as
free values until something else is written there (12 R330, R339; 11 R313; 13 R367); `hostLines` the lines of device memory that the host
owns; `prefs`, `pushes` and `waiting` the prefetches, fault-queue events and accesses from outside that wait for their lines (07 R187; 15 R398, R400 to R402, R406);
`rootDt` and `rootClock` the root's DT as the last time message gave it, and the clock of that message (15 R405); `chipShares` the sectors that other chips hold copies of, with the chip (07 R187); `snapAt` and `snapSince` the DTs at which a snapshot fell due and at which its interval began (11 R313); `slewAt` the DT of the last slew by a tick (15 R404); `resets` counts the
resets, for the self-test of the key store that each makes (13 R372). -/
structure State where
  g : Group
  others : List Group
  teams : List Team
  grids : List Grid
  ctxs : List Context
  mem : Sparse Byte
  hostMem : Sparse Byte
  remote : Sparse Byte
  poison : List Nat
  coded : List (Nat × Nat × Nat)
  tlb : List TlbEntry
  walks : List WalkEntry
  fetched : List (Nat × Nat × Nat)
  l1 : List L1Sector
  l2 : List L2Line
  lostStores : Nat
  strays : Nat
  owners : List Owner
  hostLines : List Nat
  chipShares : List (Nat × Nat)
  invals : List Inval
  prefs : List Pref
  pushes : List Push
  waiting : List Outside
  units : List MigUnit
  locks : List LockRec
  woundMsgs : List WoundMsg
  domains : List Domain
  cmds : List Cmd
  peerMsgs : List PeerMsg
  jobs : List AccJob
  tiles : List Tile
  pairs : List Pair
  clus : List Clu
  buckets : List Bucket
  zhr : Zhr
  win : Sparse W64
  routePend : List (Nat × BitVec 64)
  flips : List BiasFlip
  swap : Option Swap
  swapped : List Nat
  swapTeams : List Nat
  streaming : Bool
  snapDue : List Nat
  snapAt : Nat
  snapSince : Nat
  capEnd : Option Nat
  pgtab : BitVec 64
  chip : BitVec 12
  form : Nat
  serialNext : BitVec 32
  nextId : Nat
  dt : Nat
  half : Bool
  lag : Nat
  lastMessage : Nat
  rootDt : Nat
  rootClock : Nat
  slewAt : Nat
  clock : Nat
  frozen : Bool
  inputs : List Instr
  free : Nat
  reply : List (BitVec 8)
  replyStatus : Nat
  raised : List Nat
  records : List Rec
  resets : Nat
  deriving DecidableEq, Repr

/-- The machine right after reset: no context, group, team or grid, memory with nothing listed, every register of the window at
its reset value (held by difference, `winReset`), DT 0 (15 R405), nothing ready (R394).  Fields the spec gives no reset value are
those of log entry 2, and `form` is that of a Z4-560P, PART 0, by the same entry: 00 R1 names three forms and none for reset. -/
def State.reset : State where
  g := Group.idle
  others := []
  teams := []
  grids := []
  ctxs := []
  mem := []
  hostMem := []
  remote := []
  poison := []
  coded := []
  tlb := []
  walks := []
  fetched := []
  l1 := []
  l2 := []
  lostStores := 0
  strays := 0
  owners := []
  hostLines := []
  chipShares := []
  invals := []
  prefs := []
  pushes := []
  waiting := []
  units := []
  locks := []
  woundMsgs := []
  domains := []
  cmds := []
  peerMsgs := []
  jobs := []
  tiles := []
  pairs := []
  clus := []
  buckets := []
  zhr := ⟨0, 0, 0, 0, 0, 0, 0, []⟩
  win := []
  routePend := []
  flips := []
  swap := none
  swapped := []
  swapTeams := []
  streaming := false
  snapDue := []
  snapAt := 0
  snapSince := 0
  capEnd := none
  pgtab := 0
  chip := 0
  form := 0
  serialNext := 0
  nextId := 1
  dt := 0
  half := false
  lag := 0
  lastMessage := 0
  rootDt := 0
  rootClock := 0
  slewAt := 0
  clock := 0
  frozen := false
  inputs := []
  free := 0
  reply := []
  replyStatus := 0
  raised := []
  records := []
  resets := 0

end Sys2Proof.Machine
end

