-- ==== Sys2Proof/Machine/Map.lean ====
section
/-! DEFINITION. The sparse arrays every register file and memory is held in: reading, writing, and the canonical form (indices
strictly rising, no entry equal to the value an unlisted index reads as). -/

namespace Sys2Proof.Machine

/-- The value at an index: the listed one, else the default of that index. -/
def mapGet {β : Type} (d : Nat → β) : Sparse β → Nat → β
  | [], i => d i
  | (k, x) :: rest, i => if k = i then x else mapGet d rest i

/-- The array without an index. -/
def mapErase {β : Type} (i : Nat) : Sparse β → Sparse β
  | [] => []
  | (k, x) :: rest => if k = i then mapErase i rest else (k, x) :: mapErase i rest

/-- An entry put in at its place in the order. -/
def mapInsert {β : Type} (i : Nat) (x : β) : Sparse β → Sparse β
  | [] => [(i, x)]
  | (k, y) :: rest => if i < k then (i, x) :: (k, y) :: rest else (k, y) :: mapInsert i x rest

/-- The array with a new value at an index; the default value leaves no entry. -/
def mapSet {β : Type} [DecidableEq β] (d : Nat → β) (m : Sparse β) (i : Nat) (x : β) : Sparse β :=
  if x = d i then mapErase i m else mapInsert i x (mapErase i m)

/-- Whether every index is above `lo` and the indices strictly rise, no entry equal to its default. -/
def mapWfFrom {β : Type} [DecidableEq β] (d : Nat → β) : Option Nat → Sparse β → Bool
  | _, [] => true
  | lo, (k, x) :: rest =>
    (match lo with
      | none => true
      | some l => decide (l < k)) && decide (x ≠ d k) && mapWfFrom d (some k) rest

/-- The canonical form of a sparse array. -/
def mapWf {β : Type} [DecidableEq β] (d : Nat → β) (m : Sparse β) : Bool := mapWfFrom d none m

/-- Memory reads 0 where nothing is listed (log entry 5). -/
def byteDefault : Nat → Byte := fun _ => 0

/-- The canonical form of a memory. -/
def Memory.wf (m : Sparse Byte) : Bool := mapWf byteDefault m

/-- One byte of a memory. -/
def memGet (m : Sparse Byte) (a : Nat) : Byte := mapGet byteDefault m a

/-- A memory with one byte written. -/
def memSet (m : Sparse Byte) (a : Nat) (x : Byte) : Sparse Byte := mapSet byteDefault m a x

/-- Consecutive bytes written, the first at `a`. -/
def memSetList (m : Sparse Byte) (a : Nat) : List Byte → Sparse Byte
  | [] => m
  | x :: rest => memSetList (memSet m a x) (a + 1) rest

/-- `n` consecutive bytes from `a`. -/
def memGetList (m : Sparse Byte) (a : Nat) : Nat → List Byte
  | 0 => []
  | n + 1 => memGet m a :: memGetList m (a + 1) n

end Sys2Proof.Machine
end

