-- ==== Sys2Proof/Machine/Base.lean ====
section
/-! DEFINITION. The named operations over the machine's state that need no home slice: lists of numbers, registers, splits, groups, teams,
tiles, the register window as the device holds it, and the bytes of physical memory. -/

namespace Sys2Proof.Machine

/-- The outcome of a step. -/
abbrev Out := Host.Outcome State Fault Refusal

/-! ## Lists of numbers -/

/-- The 32 lanes, ascending (R19). -/
def laneList : List Nat :=
  [0, 1, 2, 3, 4, 5, 6, 7, 8, 9, 10, 11, 12, 13, 14, 15, 16, 17, 18, 19, 20, 21, 22, 23, 24, 25, 26, 27, 28, 29, 30, 31]

/-- The lanes of a mask, ascending. -/
def lanesOf (mask : W32) : List Nat := laneList.filter (fun l => mask.getLsbD l)

/-- The number of ones of a mask. -/
def popCount (mask : W32) : Nat := (lanesOf mask).length

/-- A mask from a set of lanes. -/
def maskOf (ls : List Nat) : W32 := ls.foldl (fun m l => m ||| BitVec.ofNat 32 (2 ^ l)) 0

/-- A number added to a rising list without repeats. -/
def insNat (n : Nat) : List Nat → List Nat
  | [] => [n]
  | k :: rest => if n = k then k :: rest else if n < k then n :: k :: rest else k :: insNat n rest

/-- A number taken out of a list. -/
def delNat (n : Nat) (l : List Nat) : List Nat := l.filter (fun k => decide (k ≠ n))

/-- The lowest number of a list. -/
def least (l : List Nat) : Option Nat := l.foldl (fun b n => match b with | none => some n | some m => some (min m n)) none

/-- A list without repeats, first occurrences kept. -/
def dedup (l : List Nat) : List Nat := l.foldl (fun acc k => if acc.contains k then acc else acc ++ [k]) []

/-- The numbers from `a` upward, `n` of them. -/
def upFrom (a : Nat) : Nat → List Nat
  | 0 => []
  | n + 1 => a :: upFrom (a + 1) n

/-- One bit of a 64-bit value. -/
def bitOf (b : Bool) : Nat := if b then 1 else 0

/-- The value of a W64 with the bits [lo + n - 1 : lo] replaced. -/
def setField (w : W64) (lo n : Nat) (x : Nat) : W64 :=
  BitVec.ofNat 64 (w.toNat - (w.toNat / 2 ^ lo % 2 ^ n) * 2 ^ lo + (x % 2 ^ n) * 2 ^ lo)

/-- The bits [lo + n - 1 : lo] of a W64. -/
def field (w : W64) (lo n : Nat) : Nat := w.toNat / 2 ^ lo % 2 ^ n

/-! ## Registers of a group (02 R35 to R41) -/

/-- The physical register of a field, Phys(field) = XB + field (R36). -/
def Group.phys (g : Group) (f : Nat) : Nat := g.xb.toNat + f

/-- One lane of a physical vector register. -/
def Group.rv (g : Group) (r lane : Nat) : W32 := mapGet (fun _ => 0) g.v (r * 32 + lane)

/-- One lane of a physical vector register written; its line becomes dirty (R331). -/
def Group.wv (g : Group) (r lane : Nat) (x : W32) : Group :=
  { g with v := mapSet (fun _ => 0) g.v (r * 32 + lane) x, dirty := insNat r g.dirty, touched := insNat r g.touched }

/-- The 64-bit operand of a lane: the low word in the even register (R36). -/
def Group.rv64 (g : Group) (r lane : Nat) : W64 := g.rv (r + 1) lane ++ g.rv r lane

/-- A 64-bit result of a lane written to a pair. -/
def Group.wv64 (g : Group) (r lane : Nat) (x : W64) : Group :=
  (g.wv r lane (x.extractLsb' 0 32)).wv (r + 1) lane (x.extractLsb' 32 32)

/-- A function's values written to the active lanes of a register, ascending. -/
def Group.wvMask (g : Group) (r : Nat) (mask : W32) (f : Nat → W32) : Group :=
  (lanesOf mask).foldl (fun g l => g.wv r l (f l)) g

/-- A function's 64-bit values written to the active lanes of a pair, ascending. -/
def Group.wv64Mask (g : Group) (r : Nat) (mask : W32) (f : Nat → W64) : Group :=
  (lanesOf mask).foldl (fun g l => g.wv64 r l (f l)) g

/-- Predicate p0 to p7 of all lanes; p7 reads as 1 (R35). -/
def Group.rp (g : Group) (i : Nat) : W32 := if i = 7 then 0xFFFFFFFF else mapGet (fun _ => 0) g.p i

/-- A predicate written; a write of p7 is discarded (R35). -/
def Group.wp (g : Group) (i : Nat) (x : W32) : Group :=
  if i = 7 then g else { g with p := mapSet (fun _ => 0) g.p i x, dirty := insNat 2000 g.dirty, touched := insNat 2000 g.touched }

/-- A predicate written in the lanes of a mask only. -/
def Group.wpMask (g : Group) (i : Nat) (mask x : W32) : Group := g.wp i ((g.rp i &&& ~~~mask) ||| (x &&& mask))

/-- Uniform predicate q0 to q7; q7 reads as 1 (R35). -/
def Group.rq (g : Group) (i : Nat) : Bool := decide (i = 7) || g.q.getLsbD i

/-- A uniform predicate written; a write of q7 is discarded (R35). -/
def Group.wq (g : Group) (i : Nat) (b : Bool) : Group :=
  if i = 7 then g
  else { g with q := (g.q &&& ~~~(BitVec.ofNat 8 (2 ^ i))) ||| (if b then BitVec.ofNat 8 (2 ^ i) else 0) }

/-- A uniform register. -/
def Group.rs (g : Group) (n : Nat) : W64 := mapGet (fun _ => 0) g.s n

/-- A uniform register written. -/
def Group.ws (g : Group) (n : Nat) (x : W64) : Group :=
  { g with s := mapSet (fun _ => 0) g.s n x, dirty := insNat 2000 g.dirty, touched := insNat 2000 g.touched }

/-- An aperture; one never set is invalid (07 R174). -/
def Group.rta (g : Group) (n : Nat) : Aperture := mapGet (fun _ => Aperture.invalid) g.ta n

/-- An aperture written. -/
def Group.wta (g : Group) (n : Nat) (a : Aperture) : Group :=
  { g with ta := mapSet (fun _ => Aperture.invalid) g.ta n a, dirty := insNat 2000 g.dirty, touched := insNat 2000 g.touched }

/-- The 64-bit slot (row, col) of an accumulator (06 R142). -/
def Group.racc (g : Group) (n row col : Nat) : W64 := mapGet (fun _ => 0) g.acc ((n * 32 + row) * 32 + col)

/-- The line of an accumulator slot in the numbering of absent and dirty lines: 1024 and up (R331). -/
def accLine (n row col : Nat) : Nat := 1024 + (n * 32 + row) * 2 + col / 16

/-- An accumulator slot written; its line becomes dirty. -/
def Group.wacc (g : Group) (n row col : Nat) (x : W64) : Group :=
  { g with acc := mapSet (fun _ => 0) g.acc ((n * 32 + row) * 32 + col) x, dirty := insNat (accLine n row col) g.dirty, touched := insNat (accLine n row col) g.touched }

/-- The guard's lanes in the lane set (R35). -/
def Group.guardLanes (g : Group) (gd : BitVec 4) : W32 :=
  let p := g.rp (gd.toNat % 8)
  if gd.toNat < 8 then p else ~~~p

/-- The guard in the uniform set (R35). -/
def Group.guardTrue (g : Group) (gd : BitVec 4) : Bool :=
  let q := g.rq (gd.toNat % 8)
  if gd.toNat < 8 then q else !q

/-! ## Splits of a group (03 R57 to R61) -/

/-- The live split in a slot. -/
def Group.split (g : Group) (slot : Nat) : Option Split := g.splits.find? (fun sp => decide (sp.slot = slot))

/-- The split whose run holds the issue slot (R58). -/
def Group.running (g : Group) : Option Split := if g.run && g.live && !g.halted && !g.away then g.split g.cur else none

/-- The slots' order kept: a split put in, replacing the one of its slot. -/
def putSplit (sp : Split) : List Split → List Split
  | [] => [sp]
  | x :: rest => if sp.slot = x.slot then sp :: rest else if sp.slot < x.slot then sp :: x :: rest else x :: putSplit sp rest

/-- A split written to its slot. -/
def Group.setSplit (g : Group) (sp : Split) : Group := { g with splits := putSplit sp g.splits }

/-- The lowest slot without a split, passing over those for which SPLITDATA has a split to create (R91). -/
def Group.freeSlot (g : Group) : Option Nat :=
  [0, 1, 2, 3].find? (fun n => (g.split n).isNone && !g.newSplits.any (fun x => decide (x.1 = n)))

/-- A new ready split (R59 case 2). -/
def Split.fresh (slot : Nat) (pc : BitVec 57) (mask : W32) (clock : Nat) : Split where
  slot := slot
  pc := pc
  mask := mask
  age := clock
  passed := 0
  park := .ready
  plen := 0
  hold := 0
  wAfter := false
  cnt := 0

/-- Whether a split takes a merge at its PC: ready, or parked at a JOIN or a SYNCS (R59, R60). -/
def Split.mergeable (sp : Split) : Bool :=
  match sp.park with
  | .ready | .join | .syncs => true
  | _ => false

/-- Whether a park is a waiting park (R58). -/
def Park.waiting : Park → Bool
  | .ready | .wbit | .exitDrain _ | .clk | .rte => false
  | _ => true

/-- Whether a split stands in a waiting park. -/
def Split.waits (sp : Split) : Bool := sp.park.waiting

/-- A wait's outcome forgotten, so that it is evaluated again (09 R236). -/
def Split.undecided (sp : Split) : Split :=
  match sp.park with
  | .ctr w => { sp with park := .ctr { w with decided := none } }
  | _ => sp

/-- The outstanding accesses and results of a split's slot given to another slot, as the splits merge. -/
def Group.relabel (g : Group) (old new : Nat) : Group :=
  { g with
    olog := g.olog.map (fun e =>
      { e with slot := if e.slot = old then new else e.slot, again := if e.again = some old then some new else e.again })
    results := g.results.map (fun r => if r.slot = old then { r with slot := new } else r) }

/-- A slot freed: its PC is kept (R91), and the top stack entry is popped into it as a ready split (R61). -/
def Group.dropSlot (g : Group) (slot clock : Nat) : Group :=
  let kept := match g.split slot with
    | some sp => mapSet (fun _ => 0) g.keptPc slot sp.pc
    | none => g.keptPc
  let g1 := { g with splits := g.splits.filter (fun sp => decide (sp.slot ≠ slot)), keptPc := kept }
  match g1.stack with
  | [] => g1
  | (pc, mask) :: rest => { g1 with stack := rest, splits := putSplit (Split.fresh slot pc mask clock) g1.splits }

/-- Two splits of one PC merged into the lower slot (R60): masks ORed, the older ready-age, the larger passed-over count; at a
SYNCS the merged split stays parked, at a JOIN it is ready at the JOIN. -/
def mergePair (a b : Split) : Split :=
  { slot := min a.slot b.slot
    pc := a.pc
    mask := a.mask ||| b.mask
    age := min a.age b.age
    passed := max a.passed b.passed
    park := if a.park = .syncs || b.park = .syncs then .syncs else .ready
    plen := max a.plen b.plen
    hold := max a.hold b.hold
    wAfter := a.wAfter || b.wAfter
    cnt := max a.cnt b.cnt }

/-- A ready split compared with the others, but for one whose run goes on, and merged where PCs are equal (R60), and what a freed slot pops
compared in turn (R61). -/
def Group.mergeAt (clock : Nat) : Nat → Group → Nat → Group
  | 0, g, _ => g
  | fuel + 1, g, slot =>
    match g.split slot with
    | none => g
    | some sp =>
      if sp.park = .ready then
        match g.splits.find? (fun x => decide (x.slot ≠ slot) && x.mergeable && decide (x.pc = sp.pc) && !(g.run && decide (x.slot = g.cur))) with
        | none => g
        | some other =>
          let lo := min slot other.slot
          let hi := max slot other.slot
          let g1 := (g.relabel hi lo).setSplit (mergePair sp other)
          let g1' := { g1 with
            cur := if g1.cur = hi then lo else g1.cur
            atEnd := if g1.atEnd = some hi then some lo else g1.atEnd
            engDue := g1.engDue.map (fun (x : Nat × BitVec 57) => if x.1 = hi then (lo, x.2) else x) }
          let g2 := g1'.dropSlot hi clock
          let g3 := Group.mergeAt clock fuel g2 lo
          if (g2.split hi).isSome then Group.mergeAt clock fuel g3 hi else g3
      else g

/-- The splits that SPLITDATA writes asked for, created as the issuing run ends (R91), and the issuing split compared with them (R60). -/
def Group.makeSplits (g : Group) (slot clock : Nat) : Group :=
  if g.newSplits.isEmpty then g
  else
    let g1 := g.newSplits.foldl (fun (g : Group) x =>
      if (g.split x.1).isNone then g.setSplit (Split.fresh x.1 (mapGet (fun _ => 0) g.keptPc x.1) x.2 clock) else g)
      { g with newSplits := [] }
    Group.mergeAt clock 40 g1 slot

/-- A split removed: it ended, so its slot is freed (R61, R71). -/
def Group.endSplit (g : Group) (slot clock : Nat) : Group :=
  let g1 := g.dropSlot slot clock
  if (g1.split slot).isSome then Group.mergeAt clock 40 g1 slot else g1

/-- Lanes merged into the stack entry of the same PC. -/
def mergeStack (pc : BitVec 57) (mask : W32) : List (BitVec 57 × W32) → Option (List (BitVec 57 × W32))
  | [] => none
  | (p, m) :: rest =>
    if p = pc then some ((p, m ||| mask) :: rest) else (mergeStack pc mask rest).map (fun r => (p, m) :: r)

/-- A new split placed (R59); none is case 4. -/
def Group.placeSplit (g : Group) (self : Nat) (pc : BitVec 57) (mask : W32) (clock : Nat) : Option Group :=
  match g.splits.find? (fun x => decide (x.slot ≠ self) && x.mergeable && decide (x.pc = pc)) with
  | some x =>
    some (g.setSplit { x with mask := x.mask ||| mask, park := if x.park = .syncs then .syncs else .ready })
  | none =>
    match mergeStack pc mask g.stack with
    | some st => some { g with stack := st }
    | none =>
      match g.freeSlot with
      | some n => some (g.setSplit (Split.fresh n pc mask clock))
      | none => if g.stack.length < 32 then some { g with stack := (pc, mask) :: g.stack } else none

/-- Whether a group has ended: no live split and no stack entry (R74). -/
def Group.over (g : Group) : Bool := g.splits.isEmpty && g.stack.isEmpty

/-! ## The parts of the machine by their numbers -/

/-- The groups: the focus and the others. -/
def State.groups (s : State) : List Group := s.g :: s.others

/-- A live group by its number. -/
def State.group (s : State) (gid : Nat) : Option Group := s.groups.find? (fun g => decide (g.gid = gid) && g.live)

/-- A group changed where it stands. -/
def State.modGroup (s : State) (gid : Nat) (f : Group → Group) : State :=
  if s.g.gid = gid then { s with g := f s.g }
  else { s with others := s.others.map (fun g => if g.gid = gid then f g else g) }

/-- Every group changed. -/
def State.mapGroups (s : State) (f : Group → Group) : State := { s with g := f s.g, others := s.others.map f }

/-- A context by its number; one never created reads as `Context.fresh` (log entry 2). -/
def State.ctx (s : State) (n : Nat) : Context :=
  match s.ctxs.find? (fun c => decide (c.num = n)) with
  | some c => c
  | none => Context.fresh n

/-- Whether a context exists. -/
def State.hasCtx (s : State) (n : Nat) : Bool := s.ctxs.any (fun c => decide (c.num = n))

/-- A context changed. -/
def State.modCtx (s : State) (n : Nat) (f : Context → Context) : State :=
  if s.hasCtx n then { s with ctxs := s.ctxs.map (fun c => if c.num = n then f c else c) }
  else { s with ctxs := s.ctxs ++ [f (Context.fresh n)] }

/-- A team by its number. -/
def State.team (s : State) (tid : Nat) : Option Team := s.teams.find? (fun t => decide (t.tid = tid))

/-- A team changed. -/
def State.modTeam (s : State) (tid : Nat) (f : Team → Team) : State :=
  { s with teams := s.teams.map (fun t => if t.tid = tid then f t else t) }

/-- A tile nothing has happened to: N gear, no fence (log entry 2). -/
def Tile.fresh (id : Nat) : Tile where
  id := id
  fgear := false
  trans := none
  deferred := none
  since := 0
  want := none
  fencedMfr := false
  fencedField := false
  landing := []

/-- A tile by its TILEID. -/
def State.tile (s : State) (id : Nat) : Tile :=
  match s.tiles.find? (fun t => decide (t.id = id)) with
  | some t => t
  | none => Tile.fresh id

/-- A tile changed. -/
def State.modTile (s : State) (id : Nat) (f : Tile → Tile) : State :=
  if s.tiles.any (fun t => decide (t.id = id)) then { s with tiles := s.tiles.map (fun t => if t.id = id then f t else t) }
  else { s with tiles := s.tiles ++ [f (Tile.fresh id)] }

/-- The numbers of R14 from a TILEID. -/
def dieOf (tile : Nat) : Nat := tile / 256 % 4

/-- The CLUSTERID of a tile (R14). -/
def clusterOf (tile : Nat) : Nat := dieOf tile * 64 + tile / 4 % 64

/-- The cluster pair of a tile, numbered over the package (R13). -/
def pairOf (tile : Nat) : Nat := dieOf tile * 64 + tile / 8 % 32

/-- Whether a number names a tile (R14). -/
def isTile (tile : Nat) : Bool := decide (tile < 1024) && decide (tile / 4 % 64 < 36)

/-- The clocks of a cluster before anything changed them (14 R387). -/
def Clu.fresh (id : Nat) : Clu where
  id := id
  fmhz := 2100
  nmhz := 550
  droops := 0
  stretched := false

/-- A cluster by its CLUSTERID. -/
def State.clu (s : State) (id : Nat) : Clu :=
  match s.clus.find? (fun c => decide (c.id = id)) with
  | some c => c
  | none => Clu.fresh id

/-- A cluster changed. -/
def State.modClu (s : State) (id : Nat) (f : Clu → Clu) : State :=
  if s.clus.any (fun c => decide (c.id = id)) then { s with clus := s.clus.map (fun c => if c.id = id then f c else c) }
  else { s with clus := s.clus ++ [f (Clu.fresh id)] }

/-- A cluster pair at its reset values (14 R387). -/
def Pair.fresh (id : Nat) : Pair where
  id := id
  imb := 0
  pend := 0
  burn := false
  burnLow := false
  light := false
  defers := 0

/-- A cluster pair by its number. -/
def State.pair (s : State) (id : Nat) : Pair :=
  match s.pairs.find? (fun c => decide (c.id = id)) with
  | some c => c
  | none => Pair.fresh id

/-- A cluster pair changed. -/
def State.modPair (s : State) (id : Nat) (f : Pair → Pair) : State :=
  if s.pairs.any (fun c => decide (c.id = id)) then { s with pairs := s.pairs.map (fun c => if c.id = id then f c else c) }
  else { s with pairs := s.pairs ++ [f (Pair.fresh id)] }

/-- A grid by its serial. -/
def State.grid (s : State) (serial : BitVec 32) : Option Grid :=
  s.grids.find? (fun x => decide (x.serial = serial) && x.accepted)

/-- An accepted grid changed. -/
def State.modGrid (s : State) (serial : BitVec 32) (f : Grid → Grid) : State :=
  { s with grids := s.grids.map (fun x => if x.serial = serial && x.accepted then f x else x) }

/-- A context's accounting counter raised (07 R204, R205). -/
def State.account (s : State) (ctx sel : Nat) : State :=
  s.modCtx ctx (fun c => { c with acct := mapSet (fun _ => 0) c.acct sel (mapGet (fun _ => 0) c.acct sel + 1) })

/-- The next free value (log entry 6). -/
def State.fresh (s : State) : W64 × State := (Config.freeValue s.free, { s with free := s.free + 1 })

/-- The ns that have passed since a DT: DT is a 64-bit count (00 R5). -/
def State.elapsed (s : State) (t : Nat) : Nat := (s.dt + 2 ^ 64 - t % 2 ^ 64) % 2 ^ 64

/-- Whether a DT still lies ahead: within half the range of the 64-bit count (00 R5). -/
def State.ahead (s : State) (t : Nat) : Bool :=
  let d := (t + 2 ^ 64 - s.dt % 2 ^ 64) % 2 ^ 64
  decide (0 < d) && decide (d < 2 ^ 63)

/-- Whether a group is in privileged mode (12 R321). -/
def State.privileged (s : State) (g : Group) : Bool := g.inh || (s.ctx g.ctx).priv

/-- The group's CTXBASE (12 R330, R341). -/
def Group.image (g : Group) : Nat := g.ctxBase.toNat

/-! ## The register window (15 R391 to R393) -/

/-- The reset value of a window register: zero unless its block gives another. -/
def winReset (off : Nat) : W64 :=
  if 0x100000 ≤ off && off < 0x180000 then (if off % 32 = 0 then 0x1F000000 else 0)
  else if 0x090000 ≤ off && off < 0x094000 then (if off % 0x1000 < 0xC0 && off % 16 = 0 then 1 else 0)
  else if 0x040000 ≤ off && off < 0x044000 then (if off % 0x1000 = 0 then 0x3E8003E801000401 else 0)
  else if 0x030000 ≤ off && off < 0x034000 then
    (if off % 0x1000 = 0 then 0x0010002001000040 else if off % 0x1000 = 8 then 0x400 else 0)
  else if off = 0x010000 then 0x0A003200C8
  else if off = 0x010008 then 1680
  else if off = 0x010010 then 0x10690
  else if off = 0x020000 then 0xB400000000
  else 0

/-- A register of the window as the device holds it. -/
def State.winGet (s : State) (off : Nat) : W64 := mapGet winReset s.win off

/-- A register of the window written by the device. -/
def State.winSet (s : State) (off : Nat) (x : W64) : State := { s with win := mapSet winReset s.win off x }

/-- One READY map bit (R394). -/
def State.ready (s : State) (n : Nat) : Bool := (s.winGet (n / 64 * 8)).getLsbD (n % 64)

/-- One READY map bit written. -/
def State.setReady (s : State) (n : Nat) (b : Bool) : State :=
  s.winSet (n / 64 * 8) (setField (s.winGet (n / 64 * 8)) (n % 64) 1 (bitOf b))

/-- The partition of a die as the set of its dies, by PARTCFG.MODE (R393). -/
def State.partOf (s : State) (die : Nat) : List Nat :=
  match field (s.winGet 0x38) 0 2 with
  | 0 => [0, 1, 2, 3]
  | 1 => if die < 2 then [0, 1] else [2, 3]
  | _ => [die]

/-! ## Physical memory (01 R15, R16; 15 R391, R394; 07 R173, R199) -/

/-- What stands at a physical address. -/
inductive PhysKind where
  | dev (die : Nat)
  | win (off : Nat)
  | hole
  | host (hpa : Nat)
  | remote (chip : Nat)
  deriving DecidableEq, Repr

/-- The chip number of a physical address (R15). -/
def chipOf (pa : Nat) : Nat := pa / 2 ^ 48 % 4096

/-- The local address of a physical address. -/
def localOf (pa : Nat) : Nat := pa % 2 ^ 48

/-- The map of R391. -/
def State.physKind (s : State) (pa : Nat) : PhysKind :=
  let l := localOf pa
  if chipOf pa ≠ s.chip.toNat then .remote (chipOf pa)
  else if l < 4 * Config.dieBytes then .dev (l / Config.dieBytes)
  else if 0xC000000000 ≤ l && l < 0xC001000000 then .win (l - 0xC000000000)
  else if l < 0x800000000000 then .hole
  else .host (l - 0x800000000000)

/-- Whether a physical address lies in a package's register window (R391). -/
def isWindow (pa : Nat) : Bool := decide (0xC000000000 ≤ localOf pa) && decide (localOf pa < 0xC001000000)

/-! ## Migrated units (07 R199 to R201) -/

/-- The 64 KiB unit of a physical address with its counter; one never counted is at its address home. -/
def State.unitOf (s : State) (pa : Nat) : MigUnit :=
  match s.units.find? (fun u => decide (u.unit = pa / 65536)) with
  | some u => u
  | none => ⟨pa / 65536, BitVec.ofNat 12 (chipOf pa), localOf pa / Config.dieBytes, 0, 0, none, [], none⟩

/-- The lines of a unit that a move in progress has copied: one each clock, in ascending order (R201; log entry 83). -/
def State.movedLines (s : State) (m : UnitMove) : Nat := min 511 (s.clock - m.since)

/-- The chip that serves a line now: of a unit on its way, the new home has the lines already moved (R199, R201). -/
def State.servingChip (s : State) (pa : Nat) : BitVec 12 :=
  let u := s.unitOf pa
  match u.moving with
  | some m => if pa / 128 % 512 < s.movedLines m then m.chip else u.acting
  | none => u.acting

/-- The die that serves a line now, where that is a die of this package (R199, R201). -/
def State.servingDie (s : State) (pa : Nat) : Nat :=
  let u := s.unitOf pa
  match u.moving with
  | some m => if pa / 128 % 512 < s.movedLines m then m.die else u.die
  | none => u.die

/-- Whether a line is being copied now, so that requests for it wait (R187, R201). -/
def State.lineMoving (s : State) (pa : Nat) : Bool :=
  match (s.unitOf pa).moving with
  | some m => decide (pa / 128 % 512 = s.movedLines m)
  | none => false

/-! ## Delivery (07 R199; 15 R391, R394, R402) -/

/-- Whether a die's memory is served: its stacks and home slices are ready (R394; log entry 7). -/
def State.dieReady (s : State) (die : Nat) : Bool :=
  (upFrom (3 * die) 3).all (fun n => s.ready n) && (upFrom (16 + 48 * die) 48).all (fun n => s.ready n)

/-- Whether traffic for a chip can leave: a valid routing entry with a port up (R402). -/
def State.routeUp (s : State) (chip : Nat) : Bool :=
  let e := s.winGet (0x080000 + 8 * chip)
  e.getLsbD 63 && (upFrom 0 48).any (fun n => e.getLsbD n && (s.winGet (0x090000 + 0x1000 * (n / 12) + 16 * (n % 12) + 8)).getLsbD 0)

/-- Whether an access of plain bytes at a physical address can be delivered (R199, R391, R394): a unit that has moved, at its acting home. -/
def State.deliverable (s : State) (pa : Nat) : Bool :=
  let here := decide (s.servingChip pa = s.chip)
  match s.physKind pa with
  | .dev _ => if here then s.dieReady (s.servingDie pa) else s.routeUp (s.servingChip pa).toNat
  | .win _ => false
  | .hole => false
  | .host _ => s.ready 12
  | .remote c => if here then s.dieReady (s.servingDie pa) else s.routeUp c

/-- Whether the 32-byte sector of a physical address is poisoned (R173). -/
def State.sectorPoison (s : State) (pa : Nat) : Bool := s.poison.contains (pa / 32)

/-- The free value that a physical address holds where a range is in the device's own encoding (log entry 94). -/
def codedAt (l : List (Nat × Nat × Nat)) (pa : Nat) : Option Byte :=
  (l.find? (fun x => decide (x.1 ≤ pa) && decide (pa < x.2.1))).map (fun x => (Config.freeValue (x.2.2 + (pa - x.1))).setWidth 8)

/-- The coded ranges without one address, which something else is written to. -/
def uncode (l : List (Nat × Nat × Nat)) (pa : Nat) : List (Nat × Nat × Nat) :=
  l.flatMap (fun x => if decide (x.1 ≤ pa) && decide (pa < x.2.1) then
      [(x.1, pa, x.2.2), (pa + 1, x.2.1, x.2.2 + (pa + 1 - x.1))].filter (fun y => decide (y.1 < y.2.1))
    else [x])

/-- A physical range put into the device's own encoding, which a full sector's poison does not outlast (12 R330, R339; 13 R367). -/
def State.code (s : State) (pa n : Nat) : State :=
  { s with
    coded := (pa, pa + n, s.free) :: s.coded.filter (fun x => !(decide (pa ≤ x.1) && decide (x.2.1 ≤ pa + n)))
    free := s.free + n
    poison := s.poison.filter (fun k => !(decide (pa ≤ k * 32) && decide (k * 32 + 32 ≤ pa + n))) }

/-- One byte at a physical address, whatever its poison. -/
def State.physByte (s : State) (pa : Nat) : Byte :=
  match codedAt s.coded pa with
  | some b => b
  | none => match s.physKind pa with
    | .dev _ => memGet s.mem (localOf pa)
    | .win _ => 0
    | .hole => 0
    | .host h => memGet s.hostMem h
    | .remote _ => memGet s.remote pa

/-- One byte written at a physical address. -/
def State.physSet (s : State) (pa : Nat) (b : Byte) : State :=
  match s.physKind pa with
  | .dev _ => { s with mem := memSet s.mem (localOf pa) b, coded := uncode s.coded pa }
  | .win _ => s
  | .hole => s
  | .host h => { s with hostMem := memSet s.hostMem h b, coded := uncode s.coded pa }
  | .remote _ => { s with remote := memSet s.remote pa b, coded := uncode s.coded pa }

/-- Bytes written from a physical address upward. -/
def State.physSetList (s : State) (pa : Nat) : List Byte → State
  | [] => s
  | b :: rest => (s.physSet pa b).physSetList (pa + 1) rest

/-- Whether the sectors of `n` bytes are delivered unpoisoned. -/
def State.cleanRange (s : State) (pa n : Nat) : Bool :=
  (upFrom (pa / 32) ((pa % 32 + n + 31) / 32)).all (fun k => s.deliverable (k * 32) && !s.poison.contains k)

/-- `n` bytes read at a physical address; none when they come poisoned (R173, R199). -/
def State.physRead (s : State) (pa n : Nat) : Option (List Byte) :=
  if s.cleanRange pa n then some ((upFrom pa n).map s.physByte) else none

/-- A store of bytes at a physical address (R173, R199): an undeliverable one is discarded; one that covers a whole sector clears its
poison, any other leaves it. -/
def State.physWrite (s : State) (pa : Nat) (bs : List Byte) : State :=
  if s.deliverable pa then
    let full := (upFrom (pa / 32) ((pa % 32 + bs.length + 31) / 32)).filter
      (fun k => decide (pa ≤ k * 32) && decide (k * 32 + 32 ≤ pa + bs.length))
    let s1 := s.physSetList pa bs
    { s1 with poison := s1.poison.filter (fun k => !full.contains k) }
  else s

/-- A value from bytes in address order, little-endian (R3). -/
def bytesVal (bs : List Byte) : Nat := leValue bs

end Sys2Proof.Machine
end

