-- ==== Sys2Proof/Machine/Directory.lean ====
section
/-! DEFINITION. The home slices: the paths between dies, the L2 and whom it charges, the directory's sharers and owners, the L1, stores at
a home, and the migration counters (01 R11, R12; 07 R185 to R188, R190, R199 to R202, R204, R205). -/

namespace Sys2Proof.Machine

/-! ## Paths (01 R11) -/

/-- The dies that traffic from one die to another crosses, both included: along the source's row, then down or up the column (R11). -/
def diePath (a b : Nat) : List Nat :=
  if a = b then [a] else if a / 2 = b / 2 || a % 2 = b % 2 then [a, b] else [a, a / 2 * 2 + b % 2, b]

/-- Whether traffic from one die reaches another: no die on its path is fenced; where the corner die of R11 is fenced, it passes through
the other corner (13 R370). -/
def State.pathUp (s : State) (a b : Nat) : Bool :=
  (diePath a b).all (fun d => !s.zhr.diesFenced.getLsbD d) || (diePath b a).all (fun d => !s.zhr.diesFenced.getLsbD d)

/-! ## Bias and routing (15 R399, R400, R402) -/

/-- The die block of a die. -/
def dieBlock (die : Nat) : Nat := 0x050000 + 0x1000 * die

/-- The byte and bit of the bias table that hold a page's bias (R399). -/
def State.biasPlace (s : State) (l : Nat) : Nat × Nat :=
  let die := l / Config.dieBytes
  let p := l % Config.dieBytes / 4096
  (field (s.winGet (dieBlock die)) 20 28 * 2 ^ 20 + p / 8, p % 8)

/-- Whether a page of device memory has host bias (R399). -/
def State.hostBias (s : State) (l : Nat) : Bool :=
  let die := l / Config.dieBytes
  decide (field (s.winGet (dieBlock die)) 20 28 ≠ 0) && (memGet s.mem (s.biasPlace l).1).getLsbD (s.biasPlace l).2

/-- Whether a page is in a bias flip, so that requests to it are retried (R400). -/
def State.flipping (s : State) (l : Nat) : Bool := s.flips.any (fun f => decide (f.page = l / 4096 * 4096))

/-- Whether new traffic for a chip waits for a routing entry to apply (R402). -/
def State.routeWaits (s : State) (pa : Nat) : Bool :=
  decide (chipOf pa ≠ s.chip.toNat) && s.routePend.any (fun x => decide (x.1 = chipOf pa))

/-- Whether a page of memory has host bias in its die's table (R399). -/
def State.biased (s : State) (pa : Nat) : Bool :=
  match s.physKind pa with
  | .dev _ => s.hostBias (localOf pa)
  | _ => false

/-- Whether a die reaches a port of a chip's routing entry that is up (R11, R402). -/
def State.viaPorts (s : State) (die chip : Nat) : Bool :=
  let e := s.winGet (0x080000 + 8 * chip)
  (upFrom 0 48).any (fun n => e.getLsbD n && (s.winGet (0x090000 + 0x1000 * (n / 12) + 16 * (n % 12) + 8)).getLsbD 0 && s.pathUp die (n / 12))

/-- Whether a request from a die reaches what stands at a physical address (R11, R199): memory of this package by the bridges, a unit that has
moved away from its address home, the host by die 0's CXL port, another chip by a port that can be reached. -/
def State.reaches (s : State) (die pa : Nat) : Bool :=
  let here := decide (s.servingChip pa = s.chip)
  match s.physKind pa with
  | .dev d => if here then s.pathUp die (s.servingDie pa) else s.pathUp die d && s.viaPorts d (s.servingChip pa).toNat
  | .host _ => s.pathUp die 0
  | .remote c => if here then s.pathUp die (s.servingDie pa) else s.viaPorts die c
  | _ => true

/-- Whether an access that goes through the CXL port to the host reaches it: a page with HB = 1 from the requester, a page with host bias from
its home (R199, R399). -/
def State.hbPath (s : State) (die pa kind : Nat) : Bool :=
  if kind / 4 % 2 = 1 then s.ready 12 && s.pathUp die 0
  else if s.biased pa then s.ready 12 && s.pathUp (s.servingDie pa) 0
  else true

/-- Whether an access of a die to a page of a kind is delivered (R11, R199, R399). -/
def State.delivers (s : State) (die pa kind : Nat) : Bool := s.deliverable pa && s.reaches die pa && s.hbPath die pa kind

/-- Bytes read by a die at a page of a kind, at their home; none when they come poisoned or cannot be delivered (R173, R199). -/
def State.readFrom (s : State) (die pa kind n : Nat) : Option (List Byte) := if s.delivers die pa kind then s.physRead pa n else none

/-! ## Migrated units (R199 to R202) -/

/-- The number by which an invalidation names another chip. -/
def chipTile (chip : Nat) : Nat := 4096 + chip

/-- A unit's record written. -/
def State.setUnit (s : State) (u : MigUnit) : State :=
  { s with units := s.units.filter (fun x => decide (x.unit ≠ u.unit)) ++ [u] }

/-- The memory-policy block of the die a local address is homed on. -/
def policyBlock (pa : Nat) : Nat := 0x040000 + 0x1000 * (localOf pa / Config.dieBytes)

/-- Whether an access of this package to a line is forwarded to another chip (R199, R205). -/
def State.forwards (s : State) (pa : Nat) : Bool :=
  match s.physKind pa with
  | .dev _ | .remote _ => decide (s.servingChip pa ≠ s.chip)
  | _ => false

/-- Whether the pool of a target die has a free unit; a die of another chip answers with a free value (log entry 18). -/
def State.poolFree (s : State) (chip : BitVec 12) (die : Nat) : Bool × State :=
  if chip = s.chip then
    let used := (s.units.filter (fun u => decide (u.acting = s.chip) && decide (u.die = die) &&
      (decide (chipOf (u.unit * 65536) ≠ s.chip.toNat) || decide (u.unit * 65536 % 2 ^ 48 / Config.dieBytes ≠ die)))).length
    (decide (used < field (s.winGet (0x040000 + 0x1000 * die + 16)) 0 24), s)
  else
    let (w, s1) := s.fresh
    (w.getLsbD 0, s1)

/-- A movable access, of a chip and by a tile of a die, counted at the address home of its unit (R200); another chip counts those to its own
units, and this package keeps the die to which such a unit would come. -/
def State.countMovable (s : State) (pa : Nat) (from_ : BitVec 12) (die : Nat) : State :=
  if 4 * Config.dieBytes ≤ localOf pa then s
  else if chipOf pa ≠ s.chip.toNat then
    (let u := s.unitOf pa
     if u.acting = s.chip || decide (u.die = die) || decide (from_ ≠ s.chip) then s else s.setUnit { u with die := die })
  else
    let u := s.unitOf pa
    if from_ = u.acting then (if u.count = 0 then s else s.setUnit { u with count := 0 })
    else
      let n := if from_ = u.chip then u.count + 1 else 1
      let u1 := { u with chip := from_, count := n }
      let ctl := s.winGet (policyBlock pa)
      let thresh := field ctl 16 16
      let settled := match u.settled with
        | some t => s.ahead t
        | none => false
      if thresh ≠ 0 && decide (thresh ≤ n) && ctl.getLsbD 0 && !settled && u.moving.isNone then
        let (free, s1) := s.poolFree from_ die
        s1.setUnit (if free then { u1 with moving := some ⟨from_, die, s.clock⟩ } else u1)
      else s.setUnit u1

/-! ## The L1 (R12, R186) -/

/-- An L1 sector of a tile. -/
def State.l1Find (s : State) (tile sector : Nat) : Option L1Sector :=
  s.l1.find? (fun x => decide (x.tile = tile) && decide (x.sector = sector))

/-- An L1 sector dropped. -/
def State.l1Drop (s : State) (tile sector : Nat) : State :=
  { s with l1 := s.l1.filter (fun x => !(decide (x.tile = tile) && decide (x.sector = sector))) }

/-- Every L1 sector of a tile dropped (R247, R255). -/
def State.l1Flush (s : State) (tile : Nat) : State := { s with l1 := s.l1.filter (fun x => decide (x.tile ≠ tile)) }

/-- The lines a tile's L1 holds, in the order in which they were filled. -/
def State.l1Lines (s : State) (tile : Nat) : List Nat := dedup ((s.l1.filter (fun x => decide (x.tile = tile))).map (fun x => x.sector / 4))

/-- Whether some sector of a line was filled with a hint: 1 stream, 2 keep. -/
def State.l1Hinted (s : State) (tile line : Nat) (h : BitVec 2) : Bool :=
  s.l1.any (fun x => decide (x.tile = tile) && decide (x.sector / 4 = line) && decide (x.hint = h))

/-- The line a full L1 gives up: a stream line first, a keep line last, among equals the one filled first (R186; log entry 12). -/
def State.l1Victim (s : State) (tile : Nat) : Option Nat :=
  let l := s.l1Lines tile
  match l.find? (fun k => s.l1Hinted tile k 1) with
  | some k => some k
  | none => match l.find? (fun k => !s.l1Hinted tile k 2) with
    | some k => some k
    | none => l.head?

/-- A sector filled into a tile's L1, which holds 512 lines (R12, R186). -/
def State.l1Put (s : State) (tile sector : Nat) (hint : BitVec 2) (bs : List Byte) : State :=
  let full := decide (512 ≤ (s.l1Lines tile).length) && !(s.l1Lines tile).contains (sector / 4)
  let s1 := match (if full then s.l1Victim tile else none) with
    | some k => { s with l1 := s.l1.filter (fun x => !(decide (x.tile = tile) && decide (x.sector / 4 = k))) }
    | none => s
  { s1 with l1 := s1.l1 ++ [(⟨tile, sector, hint, bs⟩ : L1Sector)] }

/-- The bytes of a sector with some replaced. -/
def overlay (base : Nat) (old : List Byte) (pa : Nat) (new : List Byte) : List Byte :=
  (upFrom 0 old.length).map (fun i =>
    if pa ≤ base + i && base + i < pa + new.length then new.getD (base + i - pa) 0 else old.getD i 0)

/-! ## The L2 (R187, R204, R205) -/

/-- A context's accounting counter raised by n. -/
def State.accountN (s : State) (ctx sel : Nat) : Nat → State
  | 0 => s
  | n + 1 => (s.account ctx sel).accountN ctx sel n

/-- The die whose L2 holds a line that this package serves: its acting home's, die 0 for the host window (R187, R199; 15 R398); none elsewhere. -/
def State.l2Die (s : State) (pa : Nat) : Option Nat :=
  match s.physKind pa with
  | .dev _ | .remote _ => if s.servingChip pa = s.chip then some (s.servingDie pa) else none
  | .host _ => some 0
  | _ => none

/-- Whether an engine owns a line (R187; 11 R292). -/
def State.engineOwns (s : State) (line : Nat) : Bool :=
  s.owners.any (fun o => decide (o.pa / 128 ≤ line) && decide (line ≤ (o.pa + o.len - 1) / 128))

/-- Whether an engine, the host or a stash owns a sector of a line (R187). -/
def State.lineOwned (s : State) (line : Nat) : Bool :=
  s.engineOwns line || s.hostLines.any (fun h => decide (h / 2 = line)) ||
    s.teams.any (fun t => t.stash.any (fun m => m.lines.any (fun l => l.owned && decide (l.pa = line))))

/-- Whether something but the host's ownership makes a request to a line wait: an engine's ownership, the copying of the line, a bias flip, a
routing entry that has not applied (R187, R201; 11 R292; 15 R400, R402). -/
def State.lineBusy (s : State) (pa : Nat) : Bool :=
  s.engineOwns (pa / 128) || s.lineMoving pa || s.routeWaits pa ||
    (match s.physKind pa with
    | .dev _ => s.flipping (localOf pa)
    | _ => false)

/-- Whether something makes a request to a line wait, the host's ownership among it: until the host returns it (R187). -/
def State.lineHeld (s : State) (pa : Nat) : Bool := s.lineBusy pa || s.hostLines.contains (pa / 64)

/-- The tentative bytes that Prism holds in a die's L2 (13 R355). -/
def State.prismHeld (s : State) (die : Nat) : Nat :=
  s.teams.foldl (fun n t => match t.chord with
    | some c => n + ((c.vers ++ c.thirdVers).filter (fun (v : Version) => decide (localOf v.pa / Config.dieBytes = die))).length
    | none => n) 0

/-- The ordinary lines a die's L2 has room for: 96 MiB less what Prism holds (01 R16). -/
def State.l2Room (s : State) (die : Nat) : Nat := (100663296 - s.prismHeld die) / 128

/-- A line of the L2 evicted: the L1 copies it covers go first, and a dirty one is charged to the context that last wrote it (R187, R204). -/
def State.l2Evict (s : State) (x : L2Line) : State :=
  let s1 := { s with
    l2 := s.l2.filter (fun y => decide (y.line ≠ x.line))
    l1 := s.l1.filter (fun y => decide (y.sector / 4 ≠ x.line))
    chipShares := s.chipShares.filter (fun y => decide (y.1 / 4 ≠ x.line)) }
  match x.writer with
  | some c => if x.dirty then s1.account c 4 else s1
  | none => s1

/-- Room made in a die's L2 for one more line: the line used longest ago that nobody owns goes (log entry 17). -/
def State.l2Make (s : State) (die : Nat) : State :=
  let here := s.l2.filter (fun x => decide (s.l2Die (128 * x.line) = some die))
  if here.length < s.l2Room die then s
  else match here.find? (fun x => !s.lineOwned x.line) with
    | some x => s.l2Evict x
    | none => s

/-- A line used in its home's L2 by a context, as a hit or a fill (R204, R205); a write leaves it dirty and the context its last writer. -/
def State.l2Use (s : State) (pa : Nat) (ctx : Option Nat) (wr : Bool) : State :=
  match s.l2Die pa with
  | none => s
  | some die =>
    let line := pa / 128
    match s.l2.find? (fun x => decide (x.line = line)) with
    | some x =>
      let y : L2Line := ⟨line, x.dirty || wr, if wr then ctx else x.writer⟩
      let s1 := { s with l2 := s.l2.filter (fun z => decide (z.line ≠ line)) ++ [y] }
      match ctx with
      | some c => s1.account c 3
      | none => s1
    | none =>
      let s1 := s.l2Make die
      let s2 := { s1 with l2 := s1.l2 ++ [(⟨line, wr, if wr then ctx else none⟩ : L2Line)] }
      match ctx with
      | some c => s2.account c 2
      | none => s2

/-- A line's dirty data written back to memory, the line kept (R185, R191). -/
def State.l2Clean (s : State) (line : Nat) : State :=
  { s with l2 := s.l2.map (fun x => if x.line = line then { x with dirty := false } else x) }

/-- An access of a context counted at its home: forwarded to another chip, or by the L2 for a normal page; for another page the home writes back
any cached copy (R185, R199, R204, R205). -/
def State.countHome (s : State) (ctx : Option Nat) (pa kind : Nat) (wr : Bool) : State :=
  if s.forwards pa then (match ctx with
    | some c => s.account c 5
    | none => s)
  else if kind % 4 = 0 then s.l2Use pa ctx wr
  else s.l2Clean (pa / 128)

/-- The invalidations of a physical range for the sharers other than one tile, with the group that waits for their acknowledgement: the tiles of the
package, and the other chips, whose number stands above the TILEIDs (R187, R188). -/
def State.sharers (s : State) (tile gid pa n : Nat) : List Inval :=
  let meets := fun (k : Nat) => decide (pa / 32 ≤ k) && decide (k * 32 < pa + n)
  (s.l1.filter (fun x => meets x.sector && decide (x.tile ≠ tile))).map (fun (x : L1Sector) => (⟨x.tile, x.sector, gid, false⟩ : Inval)) ++
    (s.chipShares.filter (fun x => meets x.1)).map (fun x => (⟨chipTile x.2, x.1, gid, false⟩ : Inval))

/-- Invalidations sent; another chip is no sharer of a sector any more once its own is on the way (R188). -/
def State.sendInvals (s : State) (l : List Inval) : State :=
  { s with
    invals := s.invals ++ l
    chipShares := s.chipShares.filter (fun x => !l.any (fun y => decide (y.tile = chipTile x.2) && decide (y.sector = x.1))) }

/-- Every shared copy of a physical range invalidated (07 R187, R188). -/
def State.dropShared (s : State) (pa n : Nat) : State := s.sendInvals (s.sharers 2048 0 pa n)

/-- A physical range put into the device's own encoding at its homes (log entry 94). -/
def State.homeCode (s : State) (pa n : Nat) : State := (s.dropShared pa n).code pa n

/-! ## Stash lines in the directory (R190) -/

/-- Some stash lines written back, and each kept as a function leaves it, or dropped: a dirty one is charged to its team's context (R190, R204). -/
def State.sweepStash (s : State) (hit : Team → StashLine → Bool) (f : StashLine → Option StashLine) : State :=
  let s1 := { s with teams := s.teams.map (fun t =>
    { t with stash := t.stash.map (fun m => { m with lines := m.lines.filterMap (fun l => if hit t l then f l else some l) }) }) }
  s.teams.foldl (fun x t => x.accountN t.ctx 7 (t.stash.flatMap (fun m => m.lines.filter (fun l => hit t l && l.dirty))).length) s1

/-- Stash lines written back and dropped. -/
def State.recallStash (s : State) (hit : Team → StashLine → Bool) : State := s.sweepStash hit (fun _ => none)

/-- Stash lines written back; they stay, clean and still owned (R189). -/
def State.cleanStash (s : State) (hit : Team → StashLine → Bool) : State := s.sweepStash hit (fun l => some { l with dirty := false })

/-- Stash lines written back; they stay as shared copies, and the team's next store asks for ownership again (R190). -/
def State.shareLines (s : State) (hit : Team → StashLine → Bool) : State :=
  s.sweepStash (fun t l => l.owned && hit t l) (fun l => some { l with dirty := false, owned := false })

/-- Stash lines of other teams that another party's write, or an engine, takes away (R190). -/
def State.takeStash (s : State) (tid pa : Nat) : State :=
  s.recallStash (fun t l => decide (t.tid ≠ tid) && decide (l.pa = pa / 128))

/-- Stash lines of other teams that another party reads (R190). -/
def State.shareStash (s : State) (tid pa : Nat) : State := s.shareLines (fun t l => decide (t.tid ≠ tid) && decide (l.pa = pa / 128))

/-! ## Reads and stores at a home (R186 to R188) -/

/-- A store that could not be delivered, counted by the health unit (R199). -/
def State.loseStore (s : State) : State := { s with lostStores := s.lostStores + 1 }

/-- A read at a home by a context and team: counted, and other teams' stash lines recalled (R187, R190, R204). -/
def State.homeRead (s : State) (ctx : Option Nat) (tid pa kind : Nat) : State := (s.countHome ctx pa kind false).shareStash tid pa

/-- A store at a home by a tile and group (0 for none) and team: performed at once, the storing tile's own L1 copy updated in place, an
invalidation sent to every other sharer and counted for the group, a stash line taken from its owner (R186 to R188, R190). -/
def State.homeWrite (s : State) (tile gid tid pa : Nat) (bs : List Byte) : State :=
  if s.deliverable pa then
    let meets := fun (x : L1Sector) => decide (pa / 32 ≤ x.sector) && decide (x.sector * 32 < pa + bs.length)
    let msgs := s.sharers tile gid pa bs.length
    let s1 := (s.physWrite pa bs).takeStash tid pa
    let l1 := s1.l1.map (fun (x : L1Sector) =>
      if decide (x.tile = tile) && meets x then { x with bytes := overlay (x.sector * 32) x.bytes pa bs } else x)
    let s2 := { s1 with l1 := l1 }.sendInvals msgs
    if gid = 0 then s2 else s2.modGroup gid (fun g => { g with acks := g.acks + msgs.length })
  else s.loseStore

/-- A store of the device itself at a home, for a context or for none (R187, R204). -/
def State.deviceStore (s : State) (ctx : Option Nat) (pa : Nat) (bs : List Byte) : State := (s.countHome ctx pa 0 true).homeWrite 2048 0 0 pa bs

end Sys2Proof.Machine
end

