-- ==== Sys2Proof/Machine/Ops.lean ====
section
/-! DEFINITION. The named operations over the machine's state, beyond those of Base and Directory: fault queues, taking a trap and returning
from one, the ends of runs, and what the entries of the operand log are. -/

namespace Sys2Proof.Machine

/-! ## Fault queues (15 R406) -/

/-- Whether an event for a fault queue is dropped: EN is 0, RINGLOG is no size of a ring, or the ring is full (R406). -/
def State.queueDrops (s : State) (q : Nat) : Bool :=
  let base := 0x060000 + 32 * q
  let ctl := s.winGet base
  let tail := field (s.winGet (base + 24)) 0 32
  let log := field ctl 8 5
  decide (field ctl 0 1 = 0) || decide (log < 4) || decide (16 < log) ||
    decide (2 ^ log ≤ (tail + 2 ^ 32 - field (s.winGet (base + 16)) 0 32) % 2 ^ 32)

/-- The physical address of a fault queue's next entry (R406). -/
def State.queueSlot (s : State) (q : Nat) : Nat :=
  let base := 0x060000 + 32 * q
  field (s.winGet (base + 8)) 5 55 * 32 + 32 * (field (s.winGet (base + 24)) 0 32 % 2 ^ field (s.winGet base) 8 5)

/-- The 32 bytes of an event's entry (R406). -/
def Push.bytes (x : Push) : List Byte :=
  leBytes 8 (x.typ % 256 + (x.ctx % 65536) * 65536) ++ leBytes 8 x.dt ++ leBytes 8 x.data0.toNat ++ leBytes 8 x.data1.toNat

/-- An event written to its fault queue as a store at the slot's home, TAIL moved on and the vector raised, or dropped and counted (R406). -/
def State.writeEvent (s : State) (x : Push) : State :=
  let base := 0x060000 + 32 * x.queue
  let tailw := s.winGet (base + 24)
  if s.queueDrops x.queue then s.winSet (base + 24) (setField tailw 32 32 (field tailw 32 32 + 1))
  else
    let s1 := s.deviceStore none (s.queueSlot x.queue) x.bytes
    { s1.winSet (base + 24) (setField tailw 0 32 (field tailw 0 32 + 1)) with raised := s1.raised ++ [field (s.winGet base) 16 11] }

/-- An event for a fault queue: it waits behind those of its queue that wait, and for its slot's line (R187, R406). -/
def State.pushEvent (s : State) (x : Push) : State :=
  if s.pushes.any (fun y => decide (y.queue = x.queue)) || (!s.queueDrops x.queue && s.lineHeld (s.queueSlot x.queue)) then
    { s with pushes := s.pushes ++ [x] }
  else s.writeEvent x

/-- An event raised now (R406). -/
def State.pushFault (s : State) (q typ ctx : Nat) (data0 data1 : W64) : State := s.pushEvent ⟨q, typ, ctx, s.dt, data0, data1⟩

/-- The events that waited, tried again in their order (R406). -/
def State.retryPushes (s : State) : State := s.pushes.foldl State.pushEvent { s with pushes := [] }

/-! ## Traps (12 R316 to R323) -/

/-- What a trap writes into the record (R322), with TWALK when a page-table entry stood behind it; a Translation, Reserved-Bit or Permission
trap without one leaves 0 there (R206). -/
structure Trap where
  cause : BitVec 8
  entry : Option Nat
  pc : BitVec 57
  resume : BitVec 57
  mask : W32
  addr : W64
  dt : Nat
  other : BitVec 2
  lanes : W64
  walk : Option W64
  deriving DecidableEq, Repr

/-- A whole-instruction trap: the split's mask, nothing in TLANECAUSE (R317, R322). -/
def Trap.plain (cause : BitVec 8) (pc resume : BitVec 57) (mask : W32) (addr : W64) (dt : Nat) : Trap where
  cause := cause
  entry := none
  pc := pc
  resume := resume
  mask := mask
  addr := addr
  dt := dt
  other := 0
  lanes := 0
  walk := none

/-- The PC fields of the trap record hold [56:2] (R322). -/
def wordPc (p : BitVec 57) : BitVec 57 := BitVec.ofNat 57 (p.toNat / 4 * 4)

/-- The trap record written (R318 step 1). -/
def Group.record (g : Group) (t : Trap) : Group :=
  { g with
    tcause := BitVec.ofNat 64 (t.cause.toNat + (match t.entry with | some e => e % 32 * 256 + 0x2000 | none => 0))
    tpc := wordPc t.pc
    tresume := wordPc t.resume
    tmask := t.mask
    taddr := t.addr
    tdt := BitVec.ofNat 64 t.dt
    tother := t.other
    tlanecause := t.lanes
    twalk := match t.walk with
      | some w => w
      | none => if 6 ≤ t.cause.toNat && t.cause.toNat ≤ 8 then 0 else g.twalk }

/-- s56 to s63 exchanged with the handler registers (R318 step 3). -/
def Group.exchange (g : Group) : Group :=
  let old := (upFrom 56 8).map g.rs
  let new := (upFrom 0 8).map (fun i => mapGet (fun _ => (0 : W64)) g.hs i)
  let s' := (upFrom 0 8).foldl (fun m i => mapSet (fun _ => (0 : W64)) m (56 + i) (new.getD i 0)) g.s
  let h' := (upFrom 0 8).foldl (fun m i => mapSet (fun _ => (0 : W64)) m i (old.getD i 0)) g.hs
  { g with s := s', hs := h', dirty := insNat 2000 g.dirty, touched := insNat 2000 g.touched }

/-- A group taking a trap in a split (R318), which stays the only one to issue until RTE, or halting when it has no handler or is in it (R319, R320). -/
def Group.enterTrap (g : Group) (slot : Nat) (t : Trap) (tvec : BitVec 57) (clock : Nat) : Group :=
  if g.inh || decide (tvec = 0) then { g.record t with halted := true, run := false, atEnd := none, resumed := false }
  else
    let g1 := ({ g.record t with txb := g.xb }).exchange
    let g2 := { g1 with inh := true, lkStop := !g.wounds.isEmpty, trapSeq := g.seq, cleared := none, run := false, cur := slot, runLen := 0, atEnd := none, resumed := false }
    match g2.split slot with
    | none => g2
    | some sp => g2.setSplit { sp with pc := wordPc tvec, park := .ready, age := clock, wAfter := false }

/-- The one operation of taking a trap: a group's trap in a split, with the context-fault event of a halt (R318 to R320, R406). -/
def State.takeTrap (s : State) (gid slot : Nat) (t : Trap) : State :=
  match s.group gid with
  | none => s
  | some g =>
    let tvec := (s.ctx g.ctx).tvec
    let s1 := s.modGroup gid (fun g => g.enterTrap slot t tvec s.clock)
    if g.inh || decide (tvec = 0) then
      s1.pushFault (g.ctx % 64) 1 g.ctx g.ctxBase (g.record t).tcause
    else s1

/-- The return of RTE (R323): registers exchanged, XB from TXB, INH cleared. -/
def Group.leaveTrap (g : Group) : Group :=
  let g1 := g.exchange
  { g1 with xb := g.txb, inh := false, lkStop := false }

/-! ## Runs (02 R32) -/

/-- Whether anything is recorded that a trap will report: a fault, a Matrix Data Error, an engine error that is due, a wound. -/
def Group.recorded (g : Group) : Bool :=
  g.olog.any (fun e => e.lanes.any (fun l => l.st.isFaulted)) || !g.matErr.isEmpty || g.engDue.isSome || !g.wounds.isEmpty

/-- The boundary at which what is recorded is due: the first that came since the group's last run began (R325). -/
def Group.firstEnd (g : Group) (slot : Nat) : Option Nat := if g.recorded then some (g.atEnd.getD slot) else none

/-- A run ended with the split still ready (R60, R63): the current clock is its ready-age, and it merges.  What is recorded by now is due
at this boundary, or at one that came before it (R325). -/
def Group.endRun (g : Group) (slot clock hold : Nat) : Group :=
  match g.split slot with
  | none => { g with run := false, runLen := 0 }
  | some sp =>
    let g1 := { (g.setSplit { sp with park := .ready, age := clock, hold := hold }) with
      run := false, runLen := 0, atEnd := g.firstEnd slot }
    Group.mergeAt clock 40 g1 slot

/-- A run ended by a park (R58, R63): the passed-over count becomes 0. -/
def Group.endPark (g : Group) (slot : Nat) (p : Park) (len : Nat) (w : Bool) : Group :=
  match g.split slot with
  | none => { g with run := false, runLen := 0 }
  | some sp =>
    { (g.setSplit { sp with park := p, plen := len, passed := 0, wAfter := w, cnt := g.icount }) with run := false, runLen := 0 }

/-- Whether an entry goes through the store queue (R172, R326). -/
def OlEntry.stores (e : OlEntry) : Bool :=
  match e.kind with
  | .store | .atom .. | .binr | .sst | .ctrAdd | .barArv _ => true
  | _ => false

/-- Whether an entry returns a value read from memory (R250). -/
def OlEntry.loads (e : OlEntry) : Bool :=
  match e.kind with
  | .load _ | .sld _ | .ctrRd _ | .lkDef .. => true
  | _ => false

/-- Whether an entry is an atomic. -/
def OlEntry.atomic (e : OlEntry) : Bool :=
  match e.kind with
  | .atom .. | .binr | .ctrAdd | .barArv _ => true
  | _ => false

/-- Whether an entry holds the object of a counter or barrier wait. -/
def OlEntry.isWait (e : OlEntry) : Bool :=
  match e.kind with
  | .wait _ => true
  | _ => false

/-- Whether a FENCE of a kind holds an access back: 0 loads, atomics and waits, 1 stores and atomics, 2 all (09 R246). -/
def OlEntry.fencedBy (e : OlEntry) (kind : Nat) : Bool :=
  (decide (kind ≠ 1) && (e.loads || e.atomic || e.isWait)) || (decide (kind ≠ 0) && e.stores)

/-- Whether an entry is an acquire (R219, R251). -/
def OlEntry.acquire (e : OlEntry) : Bool :=
  match e.kind with
  | .atom .. => decide (e.ord % 2 = 1)
  | _ => false

/-- Whether an entry of the operand log is faulted. -/
def OlEntry.faulty (e : OlEntry) : Bool := e.lanes.any (fun l => l.st.isFaulted)

/-- Whether an access of a group cannot be performed before a fault that is recorded has been taken (R326): behind a faulted store or
atomic stand the younger stores and atomics, what an acquire among them holds back, and what a pending FENCE holds back (R246). -/
def Group.stuck (g : Group) (e : OlEntry) : Bool :=
  g.olog.any (fun x => decide (x.seq < e.seq) && x.stores && x.faulty &&
    (e.stores || x.acquire || g.olog.any (fun y => decide (x.seq < y.seq) && decide (y.seq < e.seq) && y.acquire && y.stores) ||
      g.fences.any (fun f => decide (x.seq < f.1) && decide (f.1 < e.seq) && e.fencedBy f.2.2 && (decide (f.2.2 ≠ 0) || x.atomic))))

/-- Whether a result of a group cannot come before a fault that is recorded has been taken: it waits for the group's earlier stores, or is an accumulator
instruction's that may read what an atomic held back is to write (06 R156). -/
def Group.stuckResult (g : Group) (r : Result) : Bool :=
  (match r.await with
    | .fence _ | .stores | .stashWb .. | .post .. => true
    | .other => if g.lockSeq = some r.seq then !g.lrel.isEmpty || g.lend
      else r.sw.isEmpty && g.olog.any (fun x => decide (x.seq < r.seq) && x.atomic && decide (x.space ≠ .glob) && g.stuck x)
    | _ => false) &&
  g.olog.any (fun x => decide (x.seq < r.seq) && x.stores && x.faulty) ||
  (g.inh && decide (r.await = .log true))

/-- Whether an access is a split's: it issued it, or has had its faulted lanes issued again (R323, R327). -/
def OlEntry.ofSlot (e : OlEntry) (slot : Nat) : Bool := decide (e.slot = slot) || decide (e.again = some slot)

/-- Whether a result or access of a split's slot is outstanding (R34, R58): what a recorded fault holds back is not waited for, or no
park would end for that fault to be taken (R325, R326; log entry 41). -/
def Group.outstanding (g : Group) (slot : Nat) : Bool :=
  g.results.any (fun r => decide (r.slot = slot) && !g.stuckResult r) || g.olog.any (fun e => e.ofSlot slot &&
    e.lanes.any (fun l => l.st.isOpen) && !g.stuck e)

end Sys2Proof.Machine
end

