-- ==== Sys2Proof/Machine/Translate.lean ====
section
/-! DEFINITION. Address translation: the page-table walk, the TLBs and walk caches, apertures, and the fetch of an instruction word
(07 R174 to R176, R192 to R198; 02 R22). -/

namespace Sys2Proof.Machine

/-- What an access needs of its leaf (R194, R216). -/
inductive Need where
  | read | write | update | fetch
  deriving DecidableEq, Repr

/-- Whether an access stores. -/
def Need.stores : Need → Bool
  | .write | .update => true
  | _ => false

/-- Who asks: context, tile and privilege. -/
structure Req where
  ctx : Nat
  tile : Nat
  priv : Bool
  deriving DecidableEq, Repr

/-- A group as a requester. -/
def State.req (s : State) (g : Group) : Req := ⟨g.ctx, g.tile, s.privileged g⟩

/-- The bytes a leaf of a level maps (R192). -/
def leafSize (level : Nat) : Nat := 2 ^ (12 + 9 * (5 - level))

/-- The index of a VA at a level (R192). -/
def levelIndex (level va : Nat) : Nat := va / 2 ^ (12 + 9 * (5 - level)) % 512

/-- The frame of an entry, a physical address (R193). -/
def pteFrame (p : W64) : Nat := field p 12 48 * 4096

/-- The bytes a TLB entry of this leaf maps: 16 leaves with the contiguous hint (R196). -/
def blockSize (p : W64) (level : Nat) : Nat := if p.getLsbD 2 then 16 * leafSize level else leafSize level

/-- What a walk ends in. -/
inductive WalkOut where
  | leaf (pte : W64) (ptePa level : Nat)
  | fail (cause : BitVec 8) (walk : Option W64)
  deriving DecidableEq, Repr

/-- TWALK for an entry: its physical address with the level in the low bits (R206). -/
def walkReg (level ptePa : Nat) : W64 := BitVec.ofNat 64 (ptePa / 8 % 2 ^ 57 * 8 + level)

/-- An entry read by a die at its physical address, at device scope (R195, R197). -/
def State.readPte (s : State) (die pa : Nat) : Option W64 := (s.readFrom die pa 0 8).map (fun bs => BitVec.ofNat 64 (bytesVal bs))

/-- What a walk has met: the pointers (level and next table), and the entries it read. -/
structure WalkSeen where
  ptrs : List (Nat × Nat)
  reads : List Nat
  deriving DecidableEq, Repr

/-- The walk of a die from a level's table down, with what it met; the checks are those of R194.  An entry that comes poisoned or cannot be
delivered ends it with Memory Poison and no TWALK (log entry 107). -/
def State.walkFrom (s : State) (die va : Nat) : Nat → Nat → Nat → WalkSeen → WalkOut × WalkSeen
  | 0, _, _, seen => (.fail 0x07 none, seen)
  | fuel + 1, level, table, seen =>
    let pa := table + 8 * levelIndex level va
    let seen1 : WalkSeen := { seen with reads := pa :: seen.reads }
    match s.readPte die pa with
    | none => (.fail 0x09 none, seen1)
    | some p =>
      if p.getLsbD 0 = false then (.fail 0x07 (some (walkReg level pa)), seen1)
      else if p.getLsbD 63 then (.fail 0x06 (some (walkReg level pa)), seen1)
      else if p.getLsbD 1 then
        if level ≤ 2 || pteFrame p % leafSize level ≠ 0 then (.fail 0x06 (some (walkReg level pa)), seen1)
        else (.leaf p pa level, seen1)
      else if level = 5 then (.fail 0x06 (some (walkReg level pa)), seen1)
      else s.walkFrom die va fuel (level + 1) (pteFrame p) { seen1 with ptrs := (level, pteFrame p) :: seen1.ptrs }

/-- The VA bits that key a walk-cache pointer of level n (R197). -/
def walkPrefix (level va : Nat) : Nat := va / 2 ^ (12 + 9 * (5 - level))

/-- The walk of a VA, from the deepest walk-cache hit of the requester's die (R197). -/
def State.walk (s : State) (q : Req) (va : Nat) : WalkOut × WalkSeen :=
  let hit := fun n => s.walks.find? (fun w => decide (w.die = dieOf q.tile) && decide (w.ctx = q.ctx) && decide (w.level = n) &&
    decide (w.prefix_ = walkPrefix n va))
  match [4, 3, 2, 1].findSome? hit with
  | some w => s.walkFrom (dieOf q.tile) va 5 (w.level + 1) w.table ⟨[], []⟩
  | none => s.walkFrom (dieOf q.tile) va 5 1 (field (s.ctx q.ctx).ptroot 12 48 * 4096) ⟨[], []⟩

/-- Whether a walk of a VA meets an entry whose line is held, so that it waits (R187, R195). -/
def State.walkHeld (s : State) (q : Req) (va : Nat) : Bool := (s.walk q va).2.reads.any s.lineHeld

/-- The pointers of a walk put into the die's walk caches (R197), and its reads counted at their homes for the context (R195, R204). -/
def State.keepWalk (s : State) (q : Req) (va : Nat) (seen : WalkSeen) : State :=
  let s1 := seen.reads.foldr (fun pa (s : State) => s.homeRead (some q.ctx) 0 pa 0) s
  { s1 with walks := seen.ptrs.foldl (fun ws x => ws.filter (fun w => !(decide (w.die = dieOf q.tile) && decide (w.ctx = q.ctx) &&
      decide (w.level = x.1) && decide (w.prefix_ = walkPrefix x.1 va))) ++
      [⟨dieOf q.tile, q.ctx, x.1, walkPrefix x.1 va, x.2⟩]) s1.walks }

/-- Whether a leaf permits an access (R194). -/
def permitted (p : W64) (n : Need) (priv : Bool) : Bool :=
  (priv || !p.getLsbD 6) &&
    (match n with
      | .read => p.getLsbD 3
      | .write => p.getLsbD 4
      | .update => p.getLsbD 3 && p.getLsbD 4
      | .fetch => p.getLsbD 5)

/-- Bits ORed into a leaf in memory for a requester, by an atomic at device scope through the L2, where they are not all set (R195, R204). -/
def State.orPte (s : State) (q : Req) (ptePa : Nat) (bits : W64) : State :=
  match s.readPte (dieOf q.tile) ptePa with
  | none => s
  | some p =>
    if p &&& bits = bits then s else s.deviceStore (some q.ctx) ptePa (leBytes 8 (p ||| bits).toNat)

/-- The TLB entry of a walked leaf (R196, R197). -/
def entryOf (q : Req) (va : Nat) (p : W64) (ptePa level : Nat) : TlbEntry where
  l2 := false
  unit := q.tile
  ctx := q.ctx
  glob := p.getLsbD 7
  va := va / blockSize p level * blockSize p level
  size := blockSize p level
  pa := pteFrame p / blockSize p level * blockSize p level
  leaf := p
  leafPa := ptePa
  level := level

/-- An entry put into a TLB; a full one drops its oldest entry (R197; log entry 8). -/
def State.fillTlb (s : State) (e : TlbEntry) : State :=
  let same := fun (x : TlbEntry) => decide (x.l2 = e.l2) && decide (x.unit = e.unit)
  let dup := fun (x : TlbEntry) => same x && decide (x.ctx = e.ctx) && decide (x.va = e.va) && decide (x.size = e.size)
  let l := s.tlb.filter (fun x => !dup x)
  let full := decide ((if e.l2 then 2048 else 64) ≤ (l.filter same).length)
  let l' := if full then
      match l.findIdx? same with
      | some i => l.eraseIdx i
      | none => l
    else l
  { s with tlb := l' ++ [e] }

/-- The entry of a TLB that maps a VA. -/
def State.lookTlb (s : State) (l2 : Bool) (unit ctx va : Nat) : Option TlbEntry :=
  s.tlb.find? (fun e => decide (e.l2 = l2) && decide (e.unit = unit) && (e.glob || decide (e.ctx = ctx)) &&
    decide (e.va ≤ va) && decide (va < e.va + e.size))

/-- An entry loaded into the requester's L1 TLB and its cluster's L2 TLB. -/
def State.loadTlb (s : State) (q : Req) (e : TlbEntry) : State :=
  (s.fillTlb { e with l2 := true, unit := clusterOf q.tile }).fillTlb { e with l2 := false, unit := q.tile }

/-- The walk of an access: the pointers are kept, the leaf checked, A (and for a store D) set, and the entry loaded (R194, R195). -/
def State.walkFor (s : State) (q : Req) (va : Nat) (n : Need) : Except (BitVec 8 × Option W64) TlbEntry × State :=
  let (out, seen) := s.walk q va
  let s1 := (s.keepWalk q va seen).account q.ctx 6
  match out with
  | .fail c w => (.error (c, w), s1)
  | .leaf p ptePa level =>
    if permitted p n q.priv then
      let bits : W64 := if n.stores then 0x300 else 0x100
      let e := entryOf q va (p ||| bits) ptePa level
      (.ok e, (s1.orPte q ptePa bits).loadTlb q e)
    else (.error (0x08, some (walkReg level ptePa)), s1)

/-- Translate(va, access): the TLB path (R194 to R197). -/
def State.translate (s : State) (q : Req) (va : Nat) (n : Need) : Except (BitVec 8 × Option W64) TlbEntry × State :=
  if 2 ^ 57 ≤ va then (.error (0x07, some 0), s)
  else
    let hit := match s.lookTlb false q.tile q.ctx va with
      | some e => some e
      | none => s.lookTlb true (clusterOf q.tile) q.ctx va
    match hit with
    | none => s.walkFor q va n
    | some e =>
      if permitted e.leaf n q.priv then
        if n.stores && !e.leaf.getLsbD 9 then s.walkFor q va n else (.ok e, s.fillTlb { e with l2 := false, unit := q.tile })
      else (.error (0x08, some (walkReg e.level e.leafPa)), s)

/-- Whether the translation of a VA for an access needs a walk that has to wait (R187, R195): none of the requester's TLBs maps it, or a store finds
D = 0 there. -/
def State.transHeld (s : State) (q : Req) (va : Nat) (n : Need) : Bool :=
  let hit := match s.lookTlb false q.tile q.ctx va with
    | some e => some e
    | none => s.lookTlb true (clusterOf q.tile) q.ctx va
  decide (va < 2 ^ 57) && (match hit with
    | none => true
    | some e => permitted e.leaf n q.priv && n.stores && !e.leaf.getLsbD 9) && s.walkHeld q va

/-- The physical address of a VA through an entry. -/
def TlbEntry.at (e : TlbEntry) (va : Nat) : Nat := e.pa + (va - e.va)

/-- Whether an access of a requester at a VA waits: its walk, or its line at the home (R187). -/
def State.vaHeld (s : State) (q : Req) (va : Nat) (n : Need) : Bool :=
  s.transHeld q va n || (match s.translate q va n with
    | (.ok e, s1) => s1.lineHeld (e.at va)
    | (.error _, _) => false)

/-- The kind bits of a leaf: type, host bias, movability, at bit 5 whether it is global, its level from bit 6, the contiguous hint at bit 9
(R185, R193, R196, R200). -/
def leafKind (p : W64) (level : Nat) : Nat :=
  let movable := p.getLsbD 61 && !p.getLsbD 60 && decide (level = 5)
  field p 10 2 + 4 * bitOf (p.getLsbD 62) + 8 * bitOf movable + 32 * bitOf (p.getLsbD 7) + 64 * level + 512 * bitOf (p.getLsbD 2)

/-- The type of an entry's page (R185). -/
def TlbEntry.kind (e : TlbEntry) : Nat := field e.leaf 10 2

/-! ## The device's own translations (03 R78) -/

/-- The partition's die a context belongs to: the die that holds its level-1 table (log entry 23). -/
def State.ctxDie (s : State) (ctx : Nat) : Nat :=
  match s.physKind (field (s.ctx ctx).ptroot 12 48 * 4096) with
  | .dev d => d
  | _ => 0

/-- The device itself as a requester for a context: at the die the context belongs to, with the context's privilege (03 R78; log entry 23). -/
def State.deviceReq (s : State) (ctx : Nat) : Req := ⟨ctx, 256 * s.ctxDie ctx, (s.ctx ctx).priv⟩

/-- A translation made by the device itself for a context (03 R78), through no tile's TLB; what cannot be delivered there fails as poisoned (R199). -/
def State.deviceTranslate (s : State) (ctx va : Nat) (n : Need) : Except (BitVec 8 × Option W64) Nat × State :=
  if 2 ^ 57 ≤ va then (.error (0x07, some 0), s)
  else
    let q := s.deviceReq ctx
    let (out, seen) := s.walk q va
    let s1 := (s.keepWalk q va seen).account ctx 6
    match out with
    | .fail c w => (.error (c, w), s1)
    | .leaf p ptePa level =>
      if permitted p n q.priv then
        let pa := (entryOf q va p ptePa level).at va
        let s2 := s1.orPte q ptePa (if n.stores then 0x300 else 0x100)
        (if s2.delivers (dieOf q.tile) pa (leafKind p level) then .ok pa else .error (0x09, none), s2)
      else (.error (0x08, some (walkReg level ptePa)), s1)

/-- Whether an access of the device itself at a VA waits: its walk, or its line at the home (R187, R195). -/
def State.deviceHeld (s : State) (ctx va : Nat) (n : Need) : Bool :=
  decide (va < 2 ^ 57) && (s.walkHeld (s.deviceReq ctx) va || (match s.deviceTranslate ctx va n with
    | (.ok pa, s1) => s1.lineHeld pa
    | (.error _, _) => false))

/-! ## Apertures (R174, R175) -/


/-- Whether an aperture is still to be translated (R175, R176). -/
def Aperture.unsettled (a : Aperture) : Bool := a.v && (a.pending || a.stale)

/-- The leaf bits that stay equal along an aperture's run: [6:3], [9], [11:10] and [62] (R175). -/
def runBits (p : W64) : W64 := p &&& 0x4000000000000E78

/-- The run extended over the units that follow, with A set in each leaf walked: the VA at which it ends (R175), and whether it holds
units with G = 1 and with G = 0. -/
def State.extendRun (q : Req) (bits : W64) : Nat → State → Nat → Nat → Bool → Bool → Nat × Bool × Bool × State
  | 0, s, va, _, gl, lo => (va, gl, lo, s)
  | fuel + 1, s, va, pa, gl, lo =>
    match s.walk q va with
    | (.leaf p ptePa level, _) =>
      let e := entryOf q va p ptePa level
      if e.va = va && e.pa = pa && decide (runBits p = bits) then
        State.extendRun q bits fuel (s.orPte q ptePa 0x100) (va + e.size) (pa + e.size) (gl || e.glob) (lo || !e.glob)
      else (va, gl, lo, s)
    | (.fail _ _, _) => (va, gl, lo, s)

/-- TA.SET's translation of a base with a cap (R175): the aperture it leaves.  Where it fails, FRAME, R and W stay as they were. -/
def State.setAperture (s : State) (q : Req) (old : Aperture) (base : W64) (cap : Nat) : Aperture × State :=
  let b : BitVec 57 := base.extractLsb' 0 57
  let bad : Aperture :=
    { Aperture.invalid with v := true, base := b, cap := BitVec.ofNat 33 cap, frame := old.frame, r := old.r, w := old.w }
  if 2 ^ 57 ≤ base.toNat then (bad, s)
  else
    match s.translate q b.toNat .read with
    | (.error _, s1) => (bad, s1)
    | (.ok e, s1) =>
      if e.kind ≠ 0 || e.leaf.getLsbD 62 || decide (chipOf e.pa ≠ s.chip.toNat) then (bad, s1)
      else
        let (stop, gl, lo, s2) := State.extendRun q (runBits e.leaf) 63 s1 (e.va + e.size) (e.pa + e.size) e.glob (!e.glob)
        ({ bad with
            frame := BitVec.ofNat 48 (e.at b.toNat)
            limit := BitVec.ofNat 33 (min cap (stop - b.toNat))
            r := true
            w := e.leaf.getLsbD 4 && e.leaf.getLsbD 9
            lo := e.va
            hi := stop
            global := gl
            local_ := lo }, s2)

/-- The cap of TA.SET's limit operand: 0 and anything above 2^32 mean 2^32 (R175). -/
def apertureCap (limit : W64) : Nat := if limit.toNat = 0 || 2 ^ 32 < limit.toNat then 2 ^ 32 else limit.toNat

/-- The finished translation of a pending or stale aperture of a group, given also to the accesses that wait inside the aperture unit
(R175, R176); it waits where its walk does. -/
def State.finishAperture (s : State) (gid n : Nat) : State :=
  match s.group gid with
  | none => s
  | some g =>
    let a := g.rta n
    if a.unsettled && !s.transHeld (s.req g) a.base.toNat .read then
      let (a', s1) := s.setAperture (s.req g) a (BitVec.ofNat 64 a.base.toNat) a.cap.toNat
      s1.modGroup gid (fun g =>
        { (g.wta n a') with olog := g.olog.map (fun e =>
          if e.ta = some n && decide (e.apt.base = a.base) && (e.apt.pending || e.apt.stale) then { e with apt := a' } else e) })
    else s

/-- Whether an aperture of a group is to be translated: a TA.SET has not finished, or an access waits at a stale one (R175, R176). -/
def Group.wantsAperture (g : Group) (n : Nat) : Bool :=
  (g.rta n).v && ((g.rta n).pending || ((g.rta n).stale && g.olog.any (fun e => decide (e.ta = some n) && e.apt.stale &&
    e.lanes.any (fun l => l.st.isPending))))

/-- An aperture of a group translated if it is to be. -/
def State.settleAperture (s : State) (gid n : Nat) : State :=
  match s.group gid with
  | none => s
  | some g => if g.wantsAperture n then s.finishAperture gid n else s

/-! ## Fetch (02 R22) -/

/-- A word fetched at a VA for a group, or the cause with the VA that could not be fetched (R22); cause 0 where the fetch has to wait (R187).  It is
an access through the home, counted there once for an instruction however often it is tried (R199, R200, R204). -/
def State.fetchWord (s : State) (g : Group) (va : Nat) : Except (BitVec 8 × Option W64) (BitVec 32) × State :=
  if s.vaHeld (s.req g) va .fetch then (.error (0, none), s)
  else
    match s.translate (s.req g) va .fetch with
    | (.error c, s1) => (.error c, s1)
    | (.ok e, s1) =>
      let kind := leafKind e.leaf e.level
      let s2 := if s1.fetched.contains (g.gid, g.icount, va) then s1 else
        let s2 := { s1.homeRead (some g.ctx) 0 (e.at va) kind with
          fetched := s1.fetched.filter (fun x => decide (x.1 ≠ g.gid) || decide (x.2.1 = g.icount)) ++ [(g.gid, g.icount, va)] }
        if kind / 8 % 2 = 1 then s2.countMovable (e.at va) s.chip (dieOf g.tile) else s2
      match s2.readFrom (dieOf g.tile) (e.at va) kind 4 with
      | none => (.error (0x09, none), s2)
      | some bs => (.ok (BitVec.ofNat 32 (bytesVal bs)), s2)

end Sys2Proof.Machine
end

