-- ==== Sys2Proof/Machine/Segments.lean ====
section
/-! DEFINITION. Signatures, the load-value log and the close of a segment (13 R346 to R354): what every instruction of a checked or
recorded team adds to them. -/

namespace Sys2Proof.Machine

/-- Fold(sig, a, d) (00 R7): rotl64(sig, 1) XOR ((a << 32) OR d). -/
def foldSig (sig : W64) (a d : W32) : W64 := sig.rotateLeft 1 ^^^ (a ++ d)

/-- The key that stands for an instruction's completion in the log. -/
def doneKey : Nat := 999999

/-- The key that says that a park of an instruction ended with the instruction issuing again. -/
def againKey : Nat := 999998

/-- Where the keys of words landed by an engine begin: the scratchpad offset is added (11 R312). -/
def landKey : Nat := 600000

/-- The key that marks a compare point at which a leader parked. -/
def trigKey : Nat := 999994

/-- The key under which the operand-log entry that a leader's access took is kept, so that its followers take the same. -/
def entryKey : Nat := 999997

/-- The key of the count or phase that a wait read (09 R236). -/
def countKey : Nat := 999995

/-- The key that says that a trap found an instruction's accesses held by a fault: what stands before it had come by then. -/
def faultKey : Nat := 999996

/-- Whether a group's values come from a log (R347, R367). -/
def Role.follows : Role → Bool
  | .trailer | .third => true
  | _ => false

/-- The team of the leader whose segments a group takes part in: its own, or the one whose trailer or third run it belongs to. -/
def State.leaderTeam (s : State) (g : Group) : Option Team :=
  match g.role with
  | .plain => none
  | .leader => s.team g.tid
  | .trailer | .third =>
    s.teams.find? (fun t => match t.chord with
      | some c => decide (c.trailer = g.tid) || decide (c.third = some g.tid)
      | none => false)

/-- The Chord state a group takes part in. -/
def State.chordOf (s : State) (g : Group) : Option Chord :=
  match s.leaderTeam g with
  | some t => t.chord
  | none => none

/-- The record a replayed group runs from (R367). -/
def State.replayOf (s : State) (g : Group) : Option Rec :=
  match s.team g.tid with
  | some t => match t.replay with
    | some i => s.records[i]?
    | none => none
  | none => none

/-- The log a group reads or writes. -/
def State.logOf (s : State) (g : Group) : List LogVal :=
  match s.replayOf g with
  | some r => r.log
  | none => match s.chordOf g with
    | some c => c.log
    | none => []

/-- One logged item of engine data landed in a follower's scratchpad: a word, or with bit 32 or 33 the poison of its sector left there or
gone (11 R307, R312). -/
def Team.landWord (t : Team) (v : LogVal) : Team :=
  let off := v.key - landKey
  if v.val.getLsbD 32 then { t with scrPoison := insNat (off / 32) t.scrPoison }
  else if v.val.getLsbD 33 then { t with scrPoison := delNat (off / 32) t.scrPoison }
  else { t with scr := memSetList t.scr off (leBytes 4 v.val.toNat) }

/-- The engine data that a follower's log has for a command landed in its scratchpad (11 R312): what of it had not landed yet. -/
def State.landOne (s : State) (g : Group) (c : Cmd) : State :=
  let l := (s.logOf g).filter (fun v => decide (v.cnt = c.cnt) && decide (landKey ≤ v.key) && decide (v.key < 900000) &&
    (match s.groups.find? (fun x => decide (x.gid = c.gid)) with
    | some x => decide (v.gidx = x.gidx.toNat)
    | none => false))
  let new := l.drop c.logged
  let s1 := { s with cmds := s.cmds.map (fun (x : Cmd) => if x.id = c.id then { x with logged := l.length } else x) }
  { s1 with teams := s1.teams.map (fun (t : Team) => if t.tid = c.tid then new.foldl Team.landWord t else t) }

/-- The engine data of every command a follower's team has issued, landed as far as the log has it, while the team's scratchpad is in its banks. -/
def State.landLogged (s : State) (g : Group) : State :=
  if g.role.follows && !(s.team g.tid).any (fun t => t.saved) then (s.cmds.filter (fun c => decide (c.tid = g.tid))).foldl (fun s c => s.landOne g c) s else s

/-- The Chord state of a leader's team changed. -/
def State.modChord (s : State) (tid : Nat) (f : Chord → Chord) : State :=
  s.modTeam tid (fun t => { t with chord := t.chord.map f })

/-- Contributions of an instruction of a group added to its run's signatures (R350); none where nothing is checked. -/
def State.addFolds (s : State) (g : Group) (seq : Nat) (ss : Bool) (l : List (W32 × W32)) : State :=
  if g.role = .plain then s
  else s.modTeam g.tid (fun t => { t with folds := t.folds ++ l.map (fun x => ⟨g.gidx.toNat, seq, ss, x.1, x.2⟩) })

/-- Values written to a leader's log (R346). -/
def State.logVals (s : State) (g : Group) (cnt : Nat) (l : List (Nat × W64)) : State :=
  if g.role = .leader then
    s.modChord g.tid (fun c => { c with log := c.log ++ l.map (fun x => ⟨g.gidx.toNat, cnt, x.1, x.2⟩) })
  else s

/-- A value of the log for an instruction of a group. -/
def State.lookLog (s : State) (g : Group) (cnt key : Nat) : Option W64 :=
  ((s.logOf g).find? (fun v => decide (v.gidx = g.gidx.toNat) && decide (v.cnt = cnt) && decide (v.key = key))).map (·.val)

/-- Every value of the log for an instruction of a group. -/
def State.logged (s : State) (g : Group) (cnt : Nat) : List (Nat × W64) :=
  ((s.logOf g).filter (fun v => decide (v.gidx = g.gidx.toNat) && decide (v.cnt = cnt))).map (fun v => (v.key, v.val))

/-- The next segment a team has not closed for a group: one past the highest it has. -/
def Team.nextSeg (t : Team) (gidx : Nat) : Nat :=
  (t.closes.filter (fun c => decide (c.gidx = gidx))).foldl (fun m c => max m (c.seg + 1)) 0

/-- The team's engine commands in flight, with what the log has of each so far (11 R312; R359). -/
def State.cmdsNow (s : State) (tid : Nat) : List Cmd :=
  (s.cmds.filter (fun c => decide (c.tid = tid) && (decide (c.kind = 0) || decide (c.kind = 2)))).map (fun c =>
    match s.groups.find? (fun g => decide (g.gid = c.gid)) with
    | some g => { c with logged := ((s.logOf g).filter (fun v => decide (v.gidx = g.gidx.toNat) && decide (v.cnt = c.cnt) &&
        decide (landKey ≤ v.key) && decide (v.key < 900000))).length }
    | none => c)

/-- The bytes of a line of a group's image (12 R330). -/
def copyBytes (line : Nat) : Nat := if line < 2000 then 128 else if line < 2100 then 4096 else 1024

/-- The bytes of a group's lines written in a segment, each copied before (R359). -/
def Group.copies (g : Group) : Nat := (g.touched.map copyBytes).foldl (· + ·) 0

/-- The checkpoints of a leader's team completed with the groups that have closed the segment before (R359): the lines they had copied in
it count for that segment, and they begin to copy anew. -/
def State.takeChecks (s : State) (tid : Nat) : State :=
  match s.team tid with
  | none => s
  | some t =>
    let gs := s.groups.filter (fun g => g.live && decide (g.tid = tid))
    let closed := fun (n : Nat) (g : Group) => t.closes.any (fun y => decide (y.seg + 1 = n) && decide (y.gidx = g.gidx.toNat))
    let has := fun (k : Check) (g : Group) => k.groups.any (fun x => decide (x.1 = g.gidx.toNat))
    match t.chord with
    | none => s
    | some c =>
      let newIn := fun (k : Check) => gs.filter (fun g => !has k g && closed k.seg g)
      let fresh := gs.filter (fun g => c.checks.any (fun k => !has k g && closed k.seg g))
      if fresh.isEmpty then s
      else
        let s1 := s.modChord tid (fun c => { c with checks := c.checks.map (fun k =>
          { k with
            groups := k.groups ++ (newIn k).map (fun g => (g.gidx.toNat, { g with touched := [] }))
            jobs := k.jobs ++ s.jobs.filter (fun j => (newIn k).any (fun g => decide (g.gid = j.gid)))
            copies := k.copies + (fresh.filter (fun g => has k g && closed (k.seg + 1) g)).foldl (fun n g => n + g.copies) 0 }) })
        s1.mapGroups (fun g => if fresh.any (fun x => decide (x.gid = g.gid)) then { g with touched := [] } else g)

/-- A scratchpad store of a leader that belongs to a segment kept out of no later checkpoint: written into each that starts after it. -/
def State.checkWrite (s : State) (tid seg off : Nat) (bs : List Byte) : State :=
  s.modChord tid (fun c => { c with checks := c.checks.map (fun k => if seg < k.seg then { k with scr := memSetList k.scr off bs } else k) })

/-- A group's close of a segment recorded in its own run's team (R352). -/
def State.closeGroup (s : State) (g : Group) (seg cnt seq : Nat) : State :=
  s.modTeam g.tid (fun t =>
    if t.closes.any (fun c => decide (c.seg = seg) && decide (c.gidx = g.gidx.toNat)) then t
    else { t with closes := t.closes ++ [⟨seg, g.gidx.toNat, cnt, seq⟩] })

/-- The instruction count at which a standing group closes: one that stands at a trigger closes after it (R352). -/
def Group.closeCnt (g : Group) : Nat :=
  if g.cleared.isSome || g.splits.any (fun x => decide (x.park = .compare)) then g.icount + 1 else g.icount

/-- A group of a leader's team at a run boundary closes every segment it has not closed yet (R352). -/
def State.closeBehind (s : State) (g : Group) : State :=
  if g.role = .leader then
    match s.chordOf g with
    | none => s
    | some c => c.segs.foldl (fun s x => s.closeGroup g x.n g.closeCnt g.seq) s
  else s

/-- The open segment of a leader's team closed and the next one opened (R352); a checked team takes the next one's checkpoint (R359). -/
def State.openNext (s : State) (tid : Nat) : State :=
  match s.team tid with
  | none => s
  | some t => (s.modChord tid (fun c =>
      { c with
        open_ := c.open_ + 1
        openDt := s.dt
        stores := 0
        segs := c.segs ++ [⟨c.open_, .closed, false, c.openDt, s.dt⟩]
        checks := if c.level = 0 then c.checks
          else c.checks.map (fun k => if k.seg = c.open_ then { k with copies := k.copies + 32 * t.sectors.length } else k) ++
            [⟨c.open_ + 1, [], [], s.cmdsNow tid, t.scr, t.scrPoison, 0⟩] })).modTeam tid (fun t => { t with sectors := [] })

/-- Every group of a leader's team that holds no run closes what is closed (R352). -/
def State.closeStill (s : State) (tid but : Nat) : State :=
  (s.groups.filter (fun x => x.live && decide (x.tid = tid) && decide (x.gid ≠ but) && !x.run)).foldl (fun s x => s.closeBehind x) s

/-- The open segment of a leader's team closed by a group at its instruction (R352): the triggering group, once it has closed what it
still has to, at count `cnt`, its contributions up to issue number `seq`; every group that holds no run closes where it stands; the next
segment opens. -/
def State.closeSegment (s : State) (g : Group) (cnt seq : Nat) : State :=
  match s.chordOf g with
  | none => s
  | some c => ((((s.closeBehind g).openNext g.tid).closeGroup g c.open_ cnt seq).closeStill g.tid g.gid)

/-- The closes of the leader or of the record that a follower goes by. -/
def State.closesOf (s : State) (g : Group) : List Close :=
  let src := match s.replayOf g with
    | some r => r.closes
    | none => match s.leaderTeam g with
      | some t => t.closes
      | none => []
  src.filter (fun c => decide (c.gidx = g.gidx.toNat))

/-- A follower that has reached a count at which its leader closed a segment closes it too (R352). -/
def State.closeFollower (s : State) (g : Group) : State :=
  if g.role.follows then
    ((s.closesOf g).filter (fun c => decide (c.cnt = g.icount))).foldl (fun s c => s.closeGroup g c.seg c.cnt g.seq) s
  else s

/-- A standing follower closes every segment that its leader closed where it stands (R352). -/
def State.closeStanding (s : State) (g : Group) : State :=
  if g.role.follows && g.live then
    ((s.closesOf g).filter (fun c => decide (c.cnt ≤ g.closeCnt))).foldl (fun s c => s.closeGroup g c.seg c.cnt g.seq) s
  else s

/-- A segment that a follower's leader closed at the instruction the follower is about to issue. -/
def State.closesHere (s : State) (g : Group) : Option Close := (s.closesOf g).find? (fun c => decide (c.cnt = g.icount + 1))

/-- Whether a group may issue in the segment it has come to (R347): a trailer in one that its team has begun, a third run in the one it
is called for. -/
def State.mayRun (s : State) (g : Group) : Bool :=
  match s.team g.tid, s.chordOf g with
  | some t, some c =>
    (match g.role with
    | .plain | .leader => true
    | .trailer => decide (t.nextSeg g.gidx.toNat < c.trailerSeg)
    | .third => (match c.segs.head? with
      | some x => decide (t.nextSeg g.gidx.toNat ≤ x.n)
      | none => false))
  | _, _ => true

/-- Whether four closed segments of a leader's team have not committed (R354). -/
def State.segsFull (s : State) (g : Group) : Bool :=
  match s.chordOf g with
  | none => false
  | some c => decide (4 ≤ (c.segs.filter (fun x => !x.rel)).length)

/-- CHCTL as it stood when a team's grid was accepted (R365). -/
def State.chctlOf (s : State) (t : Team) : W64 :=
  match s.grid t.serial with
  | some x => x.chctl
  | none => (s.ctx t.ctx).chctl

/-- PRHOLD as it stood when a team's grid was accepted (R365). -/
def State.prholdOf (s : State) (t : Team) : W64 :=
  match s.grid t.serial with
  | some x => x.prhold
  | none => (s.ctx t.ctx).prhold

/-- The MiB of a slice by CHCTL; 0 reads as 1 (R349, R365). -/
def sliceMib (chctl : W64) : Nat := max 1 (field chctl 0 4)

/-- The first segment that has neither committed nor been released. -/
def Chord.firstHeld (c : Chord) : Nat :=
  match c.segs.find? (fun x => !x.rel) with
  | some x => x.n
  | none => c.open_

/-- The bytes of a team's slice in use (R349, R359; log entry 9): 16 for a value or a run record, 4 for a word of engine data, 80 for a trap
record, and the checkpoint copies; what serves a released segment takes no room any more. -/
def State.sliceUsed (s : State) (t : Team) (c : Chord) : Nat :=
  let n := c.firstHeld
  let from_ := fun (gidx : Nat) => (t.closes.filter (fun y => decide (y.gidx = gidx) && decide (y.seg < n))).foldl (fun m y => max m y.cnt) 0
  let vals := c.log.filter (fun v => decide (from_ v.gidx ≤ v.cnt + 1))
  (vals.map (fun v => if decide (landKey ≤ v.key) && decide (v.key < 900000) then 4 else 16)).foldl (· + ·) 0 +
    16 * (c.runs.filter (fun r => decide (from_ r.gidx < r.cnt))).length + 80 * (c.traps.filter (fun r => decide (from_ r.gidx ≤ r.cnt))).length +
    ((c.checks.filter (fun k => decide (n ≤ k.seg))).map (fun k => k.copies)).foldl (· + ·) 0 +
    (s.groups.filter (fun g => g.live && decide (g.tid = t.tid))).foldl (fun m g => m + g.copies) (32 * t.sectors.length)

/-- The vector registers an operand-log entry still has to write (R329). -/
def OlEntry.destRegs (e : OlEntry) : List Nat :=
  match e.kind with
  | .load _ => if e.uni then [] else upFrom e.dst (max (e.size / 4) 1)
  | .atom t _ ret => if ret then upFrom e.dst (if t % 8 = 2 || t % 8 = 3 || t % 8 = 5 then 2 else 1) else []
  | .binr => [e.dst]
  | _ => []

/-- The s registers an operand-log entry still has to write. -/
def OlEntry.destS (e : OlEntry) : List Nat :=
  match e.kind with
  | .sld d | .ctrRd d | .barArv d | .lkDef d _ => [d]
  | _ => []

/-- Whether what an entry receives is logged (R346). -/
def OlEntry.logged (e : OlEntry) : Bool :=
  match e.kind with
  | .load _ => decide (e.space ≠ .scr)
  | .store | .sst | .wait _ => false
  | _ => true

/-- The bytes that copies of lines of a group will take: those of the lines that its segment has not written yet (R359). -/
def Group.copyRoom (g : Group) (lines : List Nat) : Nat :=
  (((lines.foldl (fun l k => insNat k l) []).filter (fun k => !g.touched.contains k)).map copyBytes).foldl (· + ·) 0

/-- The lines of an accumulator. -/
def accLines (n : Nat) : List Nat := upFrom (accLine n 0 0) 64

/-- The accumulator lines that an accumulator instruction in flight writes. -/
def AccOp.writes : AccOp → List Nat
  | .mma t _ acc => if t = 8 then accLines acc ++ accLines (acc + 1) else accLines acc
  | .wr t acc .. => if t = 2 then accLines acc ++ accLines (acc + 1) else accLines acc
  | .zero acc => accLines acc
  | .rd .. | .cvt .. => []

/-- The bytes of a slice that an access in flight may still take (log entry 9): 16 for a lane of a register or an s register that the log
gets, and for an access of the scratchpad 128 a lane for the words it writes and 64 for copies of their sectors. -/
def OlEntry.room (e : OlEntry) : Nat :=
  (if e.logged then 16 * (32 * e.destRegs.length + e.destS.length + 2) else 0) +
    (if e.space = .scr then (if e.logged then 192 else 64) * e.lanes.length else 0)

/-- The bytes that an engine command may still take of its issuer's slice (log entry 9): 4 a word, 4 a sector written whole and 32 for the copy
of a sector, at most half a slice of 1 MiB. -/
def Cmd.room (bytes rows : Nat) : Nat := min 524288 (bytes + 4 * (bytes / 32) + 32 * min 8192 (bytes / 32 + 2 * rows))

/-- The bytes of its team's slice that what a group has in flight may still take. -/
def State.groupRoom (s : State) (g : Group) : Nat :=
  g.copyRoom (2000 :: g.results.flatMap (fun r => r.vw.map (fun w => w.1 / 32)) ++ g.olog.flatMap OlEntry.destRegs ++
    (s.jobs.filter (fun j => decide (j.gid = g.gid))).flatMap (fun j => j.op.writes)) +
  (g.olog.map OlEntry.room).foldl (· + ·) 0 + (g.results.map (fun r => 16 * (r.vw.length + r.sw.length + 2))).foldl (· + ·) 0

/-- The bytes of a team's slice that what it has in flight may still take: room kept, so that what comes later always has it (R354). -/
def State.roomOwed (s : State) (tid : Nat) : Nat :=
  ((s.groups.filter (fun g => g.live && decide (g.tid = tid))).map s.groupRoom).foldl (· + ·) 0 +
    ((s.cmds.filter (fun c => decide (c.tid = tid) && !c.done && (decide (c.kind = 0) || decide (c.kind = 2)))).map (fun c =>
      let rows := field (c.blk.getD 2 0) 0 32
      Cmd.room (rows * field (c.blk.getD 2 0) 32 32 - c.landed) rows)).foldl (· + ·) 0

/-- Whether a leader's slice has no room for a number of bytes beside what is in flight (R354; log entry 9). -/
def State.logFull (s : State) (g : Group) (need : Nat) : Bool :=
  match s.leaderTeam g with
  | none => false
  | some t => match t.chord with
    | none => false
    | some c => decide (c.level ≠ 0) && decide (sliceMib (s.chctlOf t) * 1048576 < s.sliceUsed t c + s.roomOwed t.tid + need)

/-- The leaders of a context's checked teams. -/
def State.checkedTeams (s : State) (ctx : Nat) : List Team :=
  s.teams.filter (fun t => decide (t.ctx = ctx) && (match t.chord with
    | some c => decide (c.level ≠ 0)
    | none => false))

/-- Prism bytes a context holds. -/
def State.prismBytes (s : State) (ctx : Nat) : Nat :=
  s.teams.foldl (fun n t => match t.chord with
    | some c => if t.ctx = ctx then n + c.vers.length else n
    | none => n) 0

/-- Whether a context's bytes exceed the PRHOLD byte limit of a grid of it that has checked teams (R357, R365). -/
def State.bytesOver (s : State) (ctx : Nat) : Bool :=
  (s.checkedTeams ctx).any (fun t =>
    let k := field (s.prholdOf t) 0 32
    decide (k ≠ 0) && decide (k * 1024 < s.prismBytes ctx))

/-- Whether a closed segment of a context has waited longer than its grid's PRHOLD allows (R357, R365). -/
def State.timeOver (s : State) (ctx : Nat) : Bool :=
  (s.checkedTeams ctx).any (fun t =>
    let us := field (s.prholdOf t) 32 32
    decide (us ≠ 0) && (match t.chord with
      | some c => c.segs.any (fun x => decide (x.st = .closed) && decide (us * 1000 < s.elapsed x.closeDt))
      | none => false))

/-- Whether the leaders of a team's grid park at a hold limit: CHCTL.PARK (R357). -/
def State.parks (s : State) (t : Team) : Bool := (s.chctlOf t).getLsbD 4

/-- Whether a hold limit makes a leader park (R357). -/
def State.holdParks (s : State) (g : Group) : Bool :=
  match s.leaderTeam g with
  | none => false
  | some t => s.parks t && (s.bytesOver t.ctx || s.timeOver t.ctx)

/-- Whether a leader that closes a segment is held by the slack limit or a hold limit (R354, R357). -/
def State.slackFull (s : State) (g : Group) : Bool := s.segsFull g || s.holdParks g

/-- Whether every closed segment of a leader's team has committed or been released. -/
def State.noneClosed (s : State) (g : Group) : Bool :=
  match s.chordOf g with
  | some c => c.segs.all (fun x => x.rel)
  | none => false

/-- The oldest closed segment of a leader's team that has not committed (R354). -/
def State.oldestHeld (s : State) (g : Group) : Option Nat :=
  (s.chordOf g).bind (fun c => (c.segs.find? (fun x => !x.rel)).map (fun (x : Seg) => x.n))

/-- Whether the open segment of a leader's team holds versions that a hold limit of its grid counts (R357). -/
def State.openHeld (s : State) (g : Group) : Bool :=
  s.holdParks g && (match s.chordOf g with
    | some c => !c.vers.isEmpty
    | none => false)

/-- Whether a park names a slack limit (R354). -/
def Park.isSlack : Park → Bool
  | .slack _ => true
  | _ => false

/-- Whether some group of a trailer's leader is parked at the slack limit (R354). -/
def State.leaderSlack (s : State) (g : Group) : Bool :=
  match s.leaderTeam g with
  | some t => s.groups.any (fun x => x.live && decide (x.tid = t.tid) && x.splits.any (fun sp => sp.park.isSlack))
  | none => false

/-- Whether a group of a tile is counted with request F whatever GEAR it runs (10 R274; R354, R359; 14 R376). -/
def State.forcedF (s : State) (g : Group) : Bool :=
  match g.role with
  | .third => true
  | .trailer => (s.replayOf g).isNone && ((match s.chordOf g with
      | some c => c.forced.isSome
      | none => false) || s.leaderSlack g)
  | _ => false

/-- Whether a store of a checked leader parks before it issues: it would close a fifth segment as the 4,096th, or a hold limit parks it
(R351, R354, R357). -/
def State.storeStop (s : State) (g : Group) : Bool :=
  decide (g.role = .leader) && (match s.chordOf g with
    | some c => decide (c.level ≠ 0) && ((decide (4096 ≤ c.stores + 1) && s.slackFull g) || s.holdParks g)
    | none => false)

/-- One store instruction of a checked team counted (R351); whether it was the 4,096th of the segment. -/
def State.countStore (s : State) (g : Group) : State × Bool :=
  match s.chordOf g with
  | none => (s, false)
  | some c =>
    if g.role = .leader then
      (s.modChord g.tid (fun c => { c with stores := c.stores + 1 }), decide (c.stores + 1 = 4096))
    else (s, false)

/-- A run of a leader entered in the run record (R346). -/
def State.logRun (s : State) (g : Group) (slot : Nat) : State :=
  if g.role = .leader then s.modChord g.tid (fun c => { c with runs := c.runs ++ [⟨g.gidx.toNat, slot, g.icount⟩] }) else s

/-- A trap of a leader entered in its log (R346), but for the data errors local to one run's tile (R340). -/
def State.logTrap (s : State) (g : Group) (slot : Nat) : State :=
  if g.role = .leader && decide (field g.tcause 0 8 ≠ 0x11) && decide (field g.tcause 0 8 ≠ 0x12) then
    (s.modGroup g.gid (fun g => { g with trapsTaken := g.trapsTaken + 1 })).modChord g.tid (fun c => { c with traps := c.traps ++
      [⟨g.gidx.toNat, g.icount, slot, g.tcause, g.tpc, g.tresume, g.tmask, g.taddr, g.tdt, g.tother, g.tlanecause⟩] })
  else s

/-- The next trap of a follower's log, with the count at which it stands (R340). -/
def State.nextTrap (s : State) (g : Group) : Option TrapLog :=
  let src := match s.replayOf g with
    | some r => r.traps
    | none => match s.chordOf g with
      | some c => c.traps
      | none => []
  ((src.filter (fun t => decide (t.gidx = g.gidx.toNat)))[g.trapsTaken]?)

/-- Whether a logged trap was taken at a run boundary or park, not raised by the instruction at the trap point itself: a held access, a
wound, or an engine error of R308. -/
def TrapLog.atBoundary (t : TrapLog) : Bool :=
  t.cause.getLsbD 13 || decide (field t.cause 0 8 = 0x0F) ||
    (decide (field t.cause 0 8 = 0x14) && decide (field t.addr 0 7 ≠ 0x50))

/-- The trap a follower's log gives for the instruction it is about to issue. -/
def State.instrTrap (s : State) (g : Group) : Option TrapLog :=
  match s.nextTrap g with
  | some t => if t.cnt = g.icount && !t.atBoundary then some t else none
  | none => none

/-- The trap a follower's log gives for the boundary at which the group stands. -/
def State.boundaryTrap (s : State) (g : Group) : Option TrapLog :=
  match s.nextTrap g with
  | some t => if t.cnt = g.icount && t.atBoundary then some t else none
  | none => none

/-- A logged trap as the trap to take, its record whole (R340, R346). -/
def TrapLog.trap (l : TrapLog) : Trap where
  cause := l.cause.extractLsb' 0 8
  entry := if l.cause.getLsbD 13 then some (field l.cause 8 5) else none
  pc := l.tpc
  resume := l.tresume
  mask := l.mask
  addr := l.addr
  dt := l.dt.toNat
  other := l.other
  lanes := l.laneCause
  walk := none

/-- The run records a follower goes by (R347). -/
def State.runsOf (s : State) (g : Group) : List RunLog :=
  let l := match s.replayOf g with
    | some r => r.runs
    | none => match s.chordOf g with
      | some c => c.runs
      | none => []
  l.filter (fun r => decide (r.gidx = g.gidx.toNat))

/-- The next run of a follower: the first record whose count lies beyond the group's. -/
def State.nextRun (s : State) (g : Group) : Option RunLog := (s.runsOf g).find? (fun r => decide (g.icount < r.cnt))

/-- The leader's group that a follower repeats. -/
def State.ledBy (s : State) (g : Group) : Option Group :=
  match s.leaderTeam g with
  | some t => s.groups.find? (fun x => x.live && decide (x.tid = t.tid) && decide (x.gidx = g.gidx))
  | none => none

/-- The split in which a follower may run now (R347): that of its next run record; where its leader stands in the middle of a run, at a
compare point or the slack limit, the split that stands there, up to that point. -/
def State.followSlot (s : State) (g : Group) : Option Nat :=
  match s.nextRun g with
  | some r => some r.slot
  | none =>
    match s.replayOf g, s.ledBy g with
    | none, some x =>
      (match x.splits.find? (fun sp => decide (sp.park = .compare) || sp.park.isSlack) with
      | some sp => if g.icount < x.icount || (decide (sp.park = .compare) && decide (g.icount = x.icount)) then some sp.slot else none
      | none => none)
    | _, _ => none

end Sys2Proof.Machine
end

