-- ==== Sys2Proof/Machine/Window.lean ====
section
/-! DEFINITION. The register window and what a write of it does, the health unit's buckets and records, fencing of a tile, and freeze
(15 R391 to R408; 03 R78; 11 R313; 13 R361, R368, R369, R372). -/

namespace Sys2Proof.Machine

/-! ## Health (13 R361, R368 to R372) -/

/-- The tile index of R371 from a TILEID. -/
def tileIndex (tile : Nat) : Nat := dieOf tile * 144 + tile / 4 % 64 * 4 + tile % 4

/-- The TILEID of a tile index. -/
def tileOfIndex (i : Nat) : Nat := i / 144 * 256 + i % 144

/-- The die whose health block holds a bucket's mark. -/
def bucketDie (kind unit : Nat) : Nat :=
  match kind with
  | 1 => unit / 144
  | 2 => unit / 36 / 144
  | 3 => unit / 1536 / 3
  | 4 => unit / 128 / 144
  | 5 => unit / 36
  | _ => unit / 12

/-- A bucket's mark (R368); the demerit bucket's is fixed. -/
def State.bucketMark (s : State) (kind unit : Nat) : Nat :=
  let base := 0x030000 + 0x1000 * bucketDie kind unit
  match kind with
  | 1 => 4
  | 2 => field (s.winGet base) 0 16
  | 3 => field (s.winGet base) 16 16
  | 4 => field (s.winGet base) 32 16
  | 5 => field (s.winGet base) 48 16
  | _ => field (s.winGet (base + 8)) 0 16

/-- The leak period of a bucket in ns (R368). -/
def bucketPeriod (kind : Nat) : Nat := if kind = 1 then 2 ^ 40 else if kind = 5 then 2 ^ 34 else 2 ^ 30

/-- A bucket; one never raised is empty. -/
def State.bucket (s : State) (kind unit : Nat) : Bucket :=
  match s.buckets.find? (fun b => decide (b.kind = kind) && decide (b.unit = unit)) with
  | some b => b
  | none => ⟨kind, unit, 0, 0⟩

/-- A bucket written. -/
def State.setBucket (s : State) (b : Bucket) : State :=
  { s with buckets := s.buckets.filter (fun x => !(decide (x.kind = b.kind) && decide (x.unit = b.unit))) ++ [b] }

/-- A suspect entry written; of more than 1,024 the ones with the highest levels are kept (R371). -/
def State.setSuspect (s : State) (x : Suspect) : State :=
  let l := s.zhr.suspects.filter (fun y => !(decide (y.kind = x.kind) && decide (y.unit = x.unit))) ++ [x]
  let level := fun (y : Suspect) => (s.bucket y.kind y.unit).level
  let low := l.foldl (fun m y => min m (level y)) 65536
  let l' := if 1024 < l.length then l.eraseIdx (l.findIdx (fun (y : Suspect) => decide (level y = low))) else l
  { s with zhr := { s.zhr with suspects := l' } }

/-- A new health record generated (R371, R372): SEQ rises by 1, DT is that of now, and each suspect entry shows the level then current. -/
def State.newRecord (s : State) : State :=
  { s with zhr := { s.zhr with
    seq := s.zhr.seq + 1
    dt := s.dt
    suspects := s.zhr.suspects.map (fun (x : Suspect) => { x with level := (s.bucket x.kind x.unit).level }) } }

/-- Bytes 0 to 7 of a suspect entry (R371). -/
def suspectWord (x : Suspect) : W64 := BitVec.ofNat 64 (x.kind % 256 + x.level % 65536 * 65536 + x.unit % 2 ^ 32 * 2 ^ 32)

/-- Whether a die is enabled: a Z4-D is die 0 alone (R1). -/
def State.dieOn (s : State) (die : Nat) : Bool := decide (die < 4) && (decide (s.form ≠ 2) || decide (die = 0))

/-- The READY bit of a cluster (R394). -/
def clusterBit (tile : Nat) : Nat := 208 + 36 * dieOf tile + tile / 4 % 64

/-- Whether a tile is enabled and not fenced. -/
def State.tileOk (s : State) (tile : Nat) : Bool :=
  isTile tile && s.dieOn (dieOf tile) && !(s.tile tile).fencedMfr && !(s.tile tile).fencedField

/-- Whether the distributor may place teams on a tile (R394). -/
def State.usable (s : State) (tile : Nat) : Bool := s.tileOk tile && s.ready (clusterBit tile)

/-- Whether a tile is one of the partition's enabled tiles, ready or not: not fenced, of a die that is not fenced (03 R87; 13 R345, R370). -/
def State.enabledTile (s : State) (tile : Nat) : Bool := s.tileOk tile && !s.zhr.diesFenced.getLsbD (dieOf tile)

/-- Whether the result of a completed accumulator instruction is still to be written (02 R34; 06 R146). -/
def Group.accResult (g : Group) : Bool := g.results.any (fun r => decide (r.await = .acc))

/-- A group asked to stop at its next run boundary (R334 step 1); one that stands at a boundary is away at once, with no accumulator instruction issued
whose result has not been written (R165), and not while its tile's clock is stopped (14 R378). -/
def State.stopGroup (s : State) (gid : Nat) : State :=
  match s.group gid with
  | none => s
  | some g =>
    if g.run || s.jobs.any (fun j => decide (j.gid = gid)) || g.accResult || (s.tile g.tile).trans.isSome then
      s.modGroup gid (fun g => { g with stop := true })
    else s.modGroup gid (fun g => { g with stop := false, away := true, atEnd := none })

/-- Groups asked to stop that have come to a run boundary are away (R334). -/
def State.stopAll (s : State) : State :=
  (s.groups.filter (fun g => g.live && g.stop && !g.away)).foldl (fun s g => s.stopGroup g.gid) s

/-- The stash lines of a team written back and dropped; its mappings stay (R190). -/
def State.dropStash (s : State) (tid : Nat) : State := s.recallStash (fun t _ => decide (t.tid = tid))

/-- The stash lines of teams whose groups have all stopped for a pre-emption or a swap written back and dropped (R190). -/
def State.dropStopped (s : State) : State :=
  s.recallStash (fun t _ => t.away && !s.groups.any (fun g => g.live && decide (g.tid = t.tid) && g.stop))

/-- Groups asked to stop taken away where they have come to a run boundary, and their teams' stash lines with them (R190, R334). -/
def State.settleStops (s : State) : State := if s.groups.any (fun g => g.live && g.stop && !g.away) then s.stopAll.dropStopped else s

/-- A team pre-empted (R334): its groups stop; once they have, its stash lines are written back. -/
def State.preemptTeam (s : State) (tid : Nat) : State :=
  let s1 := (s.groups.filter (fun g => g.live && decide (g.tid = tid))).foldl (fun s g => s.stopGroup g.gid) s
  (s1.modTeam tid (fun t => { t with away := true })).dropStopped

/-- Whether two runs of teams of one grid are of one sort: teams' own runs, trailers, third runs. -/
def Role.alike (a b : Role) : Bool := decide (a = b) || (!a.follows && !b.follows)

/-- The teams that are pre-empted and resumed only together with one: its co-resident set or its whole-residency grid, checked teams and others (R87). -/
def State.setOf (s : State) (tid : Nat) : List Nat :=
  match s.team tid with
  | none => []
  | some t =>
    match s.grid t.serial with
    | none => [tid]
    | some g =>
      let whole := g.desc.flags.getLsbD 1
      let co := g.desc.flags.getLsbD 0
      (s.teams.filter (fun x => decide (x.serial = t.serial) && !x.ended && x.role.alike t.role &&
        (whole || (co && decide (x.idx / 4 = t.idx / 4)) || decide (x.tid = tid)))).map (·.tid)

/-- A tile fenced in the field (R361): recorded with its suspect entry of kind 1, the cluster's READY bit cleared when it was the last
usable tile, the event raised with the SEQ of the record that its step generates, its teams pre-empted. -/
def State.fenceTile (s : State) (tile : Nat) : State :=
  let s1 := (s.modTile tile (fun t => { t with fencedField := true })).setSuspect ⟨1, tileIndex tile, 4, s.dt⟩
  let left := (upFrom (tile / 4 * 4) 4).any (fun t => s1.tileOk t)
  let s2 := if left then s1 else s1.setReady (clusterBit tile) false
  let s4 := s2.pushFault 0 3 0 (BitVec.ofNat 64 (tileIndex tile)) (s2.zhr.seq + 1)
  (s4.teams.filter (fun t => decide (t.tile = tile) && !t.ended && !t.away)).foldl
    (fun s t => (s.setOf t.tid).foldl (fun s x => s.preemptTeam x) s) s4

/-- 1 added to a bucket (R368), with the predictive event or the fence it brings (R361, R369); the record is its step's to generate. -/
def State.raiseBucket (s : State) (kind unit : Nat) : State :=
  let b := s.bucket kind unit
  let top := if kind = 1 then 4 else 65535
  if top ≤ b.level then s
  else
    let lv := b.level + 1
    let s1 := s.setBucket { b with level := lv, since := if b.level = 0 then s.dt else b.since }
    if kind = 1 then (if lv = 4 then s1.fenceTile (tileOfIndex unit) else s1)
    else if lv = s.bucketMark kind unit + 1 then
      let x : Suspect := ⟨kind, unit, lv, s.dt⟩
      (s1.setSuspect x).pushFault 0 2 0 (suspectWord x) (s1.zhr.seq + 1)
    else s1

/-- 1 added to each of some buckets by one event, and one record generated where a level has risen (R368, R372; 17 R419). -/
def State.addBuckets (s : State) (l : List (Nat × Nat)) : State :=
  let s1 := l.foldl (fun s x => s.raiseBucket x.1 x.2) s
  if s1.buckets = s.buckets then s1 else s1.newRecord

/-- 1 added to a bucket, with its record. -/
def State.addBucket (s : State) (kind unit : Nat) : State := s.addBuckets [(kind, unit)]

/-- The buckets that a demerit of a tile raises: the tile's, and its cluster's as well (R361, R368). -/
def demeritOf (tile : Nat) : List (Nat × Nat) := [(1, tileIndex tile), (5, dieOf tile * 36 + tile / 4 % 64)]

/-! ## Queues (03 R78) -/

/-- The register block of queue n. -/
def queueBase (n : Nat) : Nat := 0x100000 + 32 * n

/-- A queue stopped with a code (R76, R78). -/
def State.queueErr (s : State) (n code : Nat) : State :=
  let q := s.winGet (queueBase n + 24)
  s.winSet (queueBase n + 24) (setField (setField q 32 1 1) 40 7 code)

/-- HEAD, TAIL and RINGLOG of a queue. -/
def State.qHead (s : State) (n : Nat) : Nat := field (s.winGet (queueBase n + 24)) 0 32
/-- TAIL of a queue. -/
def State.qTail (s : State) (n : Nat) : Nat := field (s.winGet (queueBase n + 16)) 0 32
/-- RINGLOG of a queue. -/
def State.qLog (s : State) (n : Nat) : Nat := field (s.winGet (queueBase n)) 8 5

/-- The VA of entry i of a queue's ring (R78). -/
def State.ringVa (s : State) (q i : Nat) : Nat := field (s.winGet (queueBase q + 8)) 6 51 * 64 + 64 * (i % 2 ^ s.qLog q)

/-- A doorbell write (R78). -/
def State.doorbell (s : State) (n tail : Nat) : State :=
  let head := s.qHead n
  let ahead := (tail + 2 ^ 32 - head) % 2 ^ 32
  let held := (s.qTail n + 2 ^ 32 - head) % 2 ^ 32
  if 2 ^ s.qLog n < ahead || decide (ahead < held) then s.queueErr n 0x24
  else s.winSet (queueBase n + 16) (BitVec.ofNat 64 tail)

/-- A QCTL write (R78). -/
def State.writeQctl (s : State) (n : Nat) (v : W64) : State :=
  let s1 := s.winSet (queueBase n) (v &&& 0x0000FFFF1F001F07)
  let log := field v 8 5
  if v.getLsbD 0 && (decide (log < 4) || decide (16 < log)) then s1.queueErr n 0x25 else s1

/-- Whether a work queue is enabled. -/
def State.anyQueueOn (s : State) : Bool :=
  s.win.any (fun c => decide (0x100000 ≤ c.1) && decide (c.1 < 0x180000) && decide (c.1 % 32 = 0) && c.2.getLsbD 0)

/-! ## Package control, bias, routing, snapshots -/

/-- A PARTCFG write (R393, R395): ERR is cleared by writing 1; a MODE write is refused while a team is resident, pre-empted or swapped
out, or a queue is enabled. -/
def State.writePartcfg (s : State) (v : W64) : State :=
  let old := s.winGet 0x38
  let old1 := if v.getLsbD 2 then setField old 2 1 0 else old
  let mode := field v 0 2
  if mode = 3 then s.winSet 0x38 old1
  else if s.teams.any (fun t => !t.ended) || s.anyQueueOn then s.winSet 0x38 (setField old1 2 1 1)
  else s.winSet 0x38 (setField old1 0 2 mode)

/-- Every clock of the package stopped, and its GFL links dropped (R408). -/
def State.freezeNow (s : State) : State :=
  { (upFrom 0 48).foldl (fun (s : State) n =>
      let off := 0x090000 + 0x1000 * (n / 12) + 16 * (n % 12) + 8
      s.winSet off (setField (s.winGet off) 0 1 0)) s with
    frozen := true }

/-- A FRZCTL write (R393). -/
def State.writeFrzctl (s : State) (v : W64) : State :=
  let s1 := s.winSet 0x40 (v &&& 2)
  if v.getLsbD 0 then s1.freezeNow else s1

/-- A write of BIASCMD (R396, R400). -/
def State.biasGo (s : State) (die : Nat) (v : W64) : State :=
  if v.getLsbD 0 then
    let page := field v 12 36 * 4096
    let stat := s.winGet (dieBlock die + 16)
    if s.flips.any (fun f => decide (f.die = die)) || decide (page / Config.dieBytes ≠ die) ||
        decide (field (s.winGet (dieBlock die)) 20 28 = 0) then
      s.winSet (dieBlock die + 16) (setField stat 2 1 1)
    else
      { s.winSet (dieBlock die + 16) (setField stat 0 1 1) with flips := s.flips ++ [⟨die, page, v.getLsbD 1, s.dt⟩] }
  else s

/-- A routing entry written: it takes effect when the earlier traffic on ports leaving the set is acknowledged (R402). -/
def State.writeRoute (s : State) (chip : Nat) (v : W64) : State :=
  let new := v &&& 0x8000FFFFFFFFFFFF
  { s with routePend := s.routePend.filter (fun x => decide (x.1 ≠ chip)) ++ [(chip, new)] }

/-- The dies whose tile state a snapshot secures (R313). -/
def State.snapDies (s : State) : List Nat := (upFrom 0 4).filter s.dieOn

/-- A snapshot falls due (R313): skipped and counted while a stream runs, else the partitions stop. -/
def State.snapshotDue (s : State) : State :=
  let st := s.winGet 0x020018
  if s.streaming || !s.snapDue.isEmpty then s.winSet 0x020018 (setField st 32 32 (field st 32 32 + 1))
  else { s with snapDue := s.snapDies, snapAt := s.dt }

/-- A SNAPCTL write (R313). -/
def State.writeSnapctl (s : State) (v : W64) : State :=
  let s1 := s.winSet 0x020000 (v &&& 0xFFFFFFFF00000001)
  if v.getLsbD 1 then s1.snapshotDue else s1

/-- Whether an address lies in a range. -/
def within (a base n : Nat) : Bool := decide (base ≤ a) && decide (a < base + n)

/-- A physical range left as it reads with nothing listed, no sector of it poisoned any more. -/
def State.blank (s : State) (pa n : Nat) : State :=
  let s1 := { s with
    coded := s.coded.flatMap (fun x => [(x.1, min x.2.1 pa, x.2.2), (max x.1 (pa + n), x.2.1, x.2.2 + (max x.1 (pa + n) - x.1))].filter
      (fun y => decide (y.1 < y.2.1)))
    poison := s.poison.filter (fun k => !(decide (pa ≤ k * 32) && decide (k * 32 + 32 ≤ pa + n))) }
  match s.physKind pa with
  | .dev _ => { s1 with mem := s.mem.filter (fun c => !within c.1 (localOf pa) n) }
  | .host h => { s1 with hostMem := s.hostMem.filter (fun c => !within c.1 h n) }
  | .remote _ => { s1 with remote := s.remote.filter (fun c => !within c.1 pa n) }
  | _ => s1

/-- The base of a die's bias table (R396). -/
def State.biasBase (s : State) (die : Nat) : Nat := field (s.winGet (dieBlock die)) 20 28 * 2 ^ 20

/-- A die's bias table, 6 MiB from its base where that is not 0, cleared: device bias for every page (R399). -/
def State.clearBias (s : State) (die : Nat) : State :=
  if s.biasBase die = 0 then s else s.blank (s.chip.toNat * 2 ^ 48 + s.biasBase die) 6291456

/-- A write of BIASBASE: a table that comes to stand somewhere when stacks of its die are ready already starts out clear as well (R399; log entry
125). -/
def State.writeBiasBase (s : State) (die : Nat) (v : W64) : State :=
  let s1 := s.winSet (dieBlock die) (v &&& 0x0000FFFFFFF00000)
  if s1.biasBase die ≠ s.biasBase die && (upFrom (3 * die) 3).any (fun n => s.ready n) then s1.clearBias die else s1

/-! ## Reads and writes of the window (R391 to R396, R403, R406) -/

/-- Whether an offset lies in a block of R392. -/
def inBlock (off : Nat) : Bool :=
  decide (off < 0x50) || (decide (0x10000 ≤ off) && decide (off < 0x10020)) || (decide (0x20000 ≤ off) && decide (off < 0x20020)) ||
    (decide (0x30000 ≤ off) && decide (off < 0x60000) && decide (off % 0x10000 < 0x4000) && decide (off % 0x1000 < 0x20)) ||
    (decide (0x60000 ≤ off) && decide (off < 0x60800)) || (decide (0x80000 ≤ off) && decide (off < 0x88000)) ||
    (decide (0x90000 ≤ off) && decide (off < 0x94000) && decide (off % 0x1000 < 0xC0)) ||
    (decide (0x100000 ≤ off) && decide (off < 0x180000))

/-- Whole milliseconds left of the cap's lease (R390). -/
def State.leaseLeft (s : State) : Nat :=
  match s.capEnd with
  | some t => if s.ahead t then min (2 ^ 32 - 1) ((t + 2 ^ 64 - s.dt) % 2 ^ 64 / 1000000) else 0
  | none => 0

/-- The cap in force in watts: CAPFLOOR.FLOOR while the floor is in force (R389). -/
def State.capNow (s : State) : Nat :=
  if (s.winGet 0x010010).getLsbD 16 then field (s.winGet 0x010008) 0 16 else field (s.winGet 0x010010) 0 16

/-- A read of a window register: write-only fields read 0, unallotted offsets read 0 (R391). -/
def State.winRead (s : State) (off : Nat) : W64 :=
  if !inBlock off then 0
  else if off = 0x48 then (if (s.winGet off).getLsbD 0 then s.winGet off ||| 2 else s.winGet off)
  else if off = 0x010010 then setField (setField (s.winGet off) 32 32 s.leaseLeft) 0 16 s.capNow
  else if 0x100000 ≤ off && off % 32 = 16 then 0
  else if 0x080000 ≤ off && off < 0x088000 then
    (match s.routePend.find? (fun x => decide (x.1 = (off - 0x080000) / 8)) with
    | some x => x.2
    | none => s.winGet off)
  else s.winGet off

/-- The bits of a plain register that a write sets. -/
def writeMask (off : Nat) : W64 :=
  if off = 0x48 then 1
  else if off = 0x010000 then 0xFFFFFFFFFF
  else if off = 0x010008 then 0xFFFF
  else if off = 0x020008 then 0x0FFFFFFFFFFFFFFF
  else if off = 0x020010 then 0x0000FFFFFFFFFFFF
  else if 0x030000 ≤ off && off < 0x034000 then
    (match off % 0x1000 with
    | 0 => 0xFFFFFFFFFFFFFFFF
    | 8 => 0xFFFF
    | 16 => 0x0000FFFFFFFFFFFF
    | _ => 0xFFFFFFFF)
  else if 0x040000 ≤ off && off < 0x044000 then
    (match off % 0x1000 with
    | 0 => 0xFFFFFFFFFFFFFF01
    | 8 => 0x0000FFFFFFFF0000
    | 16 => 0xFFFFFF
    | _ => 0)
  else if 0x050000 ≤ off && off < 0x054000 then
    (match off % 0x1000 with
    | 0 => 0x0000FFFFFFF00000
    | 24 => 0x0000FFFFFFE00000
    | _ => 0)
  else if 0x060000 ≤ off && off < 0x060800 then
    (match off % 32 with
    | 0 => 0x07FF1F01
    | 8 => 0x0FFFFFFFFFFFFFE0
    | 16 => 0xFFFFFFFF
    | _ => 0)
  else if 0x090000 ≤ off && off < 0x094000 then (if off % 16 = 0 then 1 else 0)
  else if 0x100000 ≤ off && off % 32 = 8 then 0x01FFFFFFFFFFFFC0
  else 0

/-- The bits of a register that a write of 1 clears. -/
def clearMask (off : Nat) : W64 :=
  if off = 0x020018 then 2
  else if 0x050000 ≤ off && off < 0x054000 && off % 0x1000 = 16 then 6
  else if 0x100000 ≤ off && off < 0x180000 && off % 32 = 24 then 0x100000000
  else 0

/-- A write of a window register (R393, R396, R403, R406; 03 R78; 07 R203; 11 R313; 13 R368; 14 R390). -/
def State.winWrite (s : State) (off : Nat) (v : W64) : State :=
  if !inBlock off then s
  else if off = 0x38 then s.writePartcfg v
  else if off = 0x40 then s.writeFrzctl v
  else if off = 0x020000 then s.writeSnapctl v
  else if 0x050000 ≤ off && off < 0x054000 && off % 0x1000 = 0 then s.writeBiasBase ((off - 0x050000) / 0x1000) v
  else if 0x050000 ≤ off && off < 0x054000 && off % 0x1000 = 8 then s.biasGo ((off - 0x050000) / 0x1000) v
  else if 0x080000 ≤ off && off < 0x088000 then s.writeRoute ((off - 0x080000) / 8) v
  else if 0x100000 ≤ off && off % 32 = 0 then s.writeQctl ((off - 0x100000) / 32) v
  else if 0x100000 ≤ off && off % 32 = 16 then s.doorbell ((off - 0x100000) / 32) (v.toNat % 2 ^ 32)
  else
    let old := s.winGet off
    let m := writeMask off
    let c := clearMask off &&& v
    s.winSet off (((old &&& ~~~m) ||| (v &&& m)) &&& ~~~c)

end Sys2Proof.Machine
end

