-- ==== Sys2Proof/Machine/Operands.lean ====
section
/-! DEFINITION. Operand forms and what is common to issuing an instruction: guards, register bounds, hazards, the order of the checks,
the end of a run, and the contributions to Chord's signatures (02 R31 to R39; 12 R329, R332, R428; 13 R350, R351). -/

namespace Sys2Proof.Machine

/-- What an instruction names: vector operands as (field, registers, alignment), accumulators as (index, count), s registers, and
what the checks of R31 and Chord need of it. -/
structure Uses where
  /-- vector operands read -/
  vr : List (Nat × Nat × Nat) := []
  /-- vector operands written -/
  vw : List (Nat × Nat × Nat) := []
  /-- accumulators named: first index, and 2 for an even-odd pair -/
  accs : List (Nat × Nat) := []
  /-- s registers read -/
  sr : List Nat := []
  /-- s registers written -/
  sw : List Nat := []
  /-- privileged by the opcode map or the special-register map -/
  priv : Bool := false
  /-- acts only inside a trap handler (R327) -/
  handler : Bool := false
  /-- a checked code in a uniform register operand is unallotted (last row of R30) -/
  illegal : Bool := false
  /-- the results return later (R34), so they are folded when they land -/
  late : Bool := false
  /-- what it receives comes from outside the team and is logged (R346) -/
  logged : Bool := false
  /-- the instruction parks its split by itself, so a run record ends with it (R347) -/
  parks : Bool := false
  /-- a compare point at which the leader parks (R351) -/
  cmp : Bool := false
  /-- a store instruction counted by R351 -/
  store : Bool := false
  /-- what it takes from the scratchpad is not all there yet, so that it cannot issue (11 R299, R312) -/
  waits : Bool := false
  /-- where it waits at issue, whether what it waits for comes though a fault of its group is recorded: an engine that is busy (06 R146; 11 R295) -/
  queued : Bool := false
  /-- bytes of its team's slice that an engine transfer it starts may take (13 R354) -/
  room : Nat := 0
  /-- the contributions to SS (R350) -/
  folds : List (W32 × W32) := []

/-- What an instruction does to its split beyond its effect. -/
inductive Fate where
  /-- the next instruction follows -/
  | fall
  /-- a taken branch (R32) -/
  | jump (pc : BitVec 57)
  /-- the run ends, the split stays ready -/
  | stop
  /-- the split parks at this instruction -/
  | park (p : Park)
  /-- the split parks, its PC already after this instruction -/
  | pass (p : Park)
  /-- the body has ended the run and placed the splits itself -/
  | placed
  /-- the instruction waits at issue, holding the issue slot -/
  | wait
  /-- the instruction raises a trap -/
  | trap (t : Trap)

/-- The first and second word of an instruction, as TADDR of Illegal and Privileged Instruction holds them (R316). -/
def wordsAddr (i : Instr) : W64 :=
  match encode i with
  | [w] => BitVec.ofNat 64 w.toNat
  | [w, k] => BitVec.ofNat 64 (w.toNat + k.toNat * 2 ^ 32)
  | _ => 0

/-- The length of an instruction in bytes (R23). -/
def instrBytes (i : Instr) : Nat := 4 * (encode i).length

/-- A PC moved by bytes, modulo 2^57 (R67). -/
def pcAdd (pc : BitVec 57) (n : Nat) : BitVec 57 := pc + BitVec.ofNat 57 n

/-- The bound breaks of one vector operand: (register, reason) (R36, R428). -/
def Group.vecBreaks (g : Group) (o : Nat × Nat × Nat) : List (Nat × Nat) :=
  let base := g.phys o.1
  (if base % o.2.2 ≠ 0 then [(base, 1)] else []) ++
    (if g.allot < base + o.2.1 then [(max base g.allot, 0)] else [])

/-- The bound breaks of one accumulator operand (R37, R428). -/
def Group.accBreaks (g : Group) (o : Nat × Nat) : List (Nat × Nat) :=
  (if o.1 % o.2 ≠ 0 then [(o.1, 1)] else []) ++ (if g.naccs < o.1 + o.2 then [(max o.1 g.naccs, 0)] else [])

/-- The lowest break. -/
def lowest : List (Nat × Nat) → Option (Nat × Nat)
  | [] => none
  | x :: rest => match lowest rest with
    | none => some x
    | some y => if y.1 < x.1 then some y else some x

/-- TADDR of Register Bounds (R428): REG, ACC and REASON. -/
def boundsAddr (reg : Nat) (acc : Bool) (reason : Nat) : W64 := BitVec.ofNat 64 (reg % 512 + bitOf acc * 512 + reason * 1024)

/-- The Register Bounds check (R36, R37, R428): the TADDR of the break, if any. -/
def Group.boundsBreak (g : Group) (u : Uses) : Option W64 :=
  match lowest ((u.vr ++ u.vw).flatMap g.vecBreaks) with
  | some (r, why) => some (boundsAddr r false why)
  | none => match lowest (u.accs.flatMap g.accBreaks) with
    | some (r, why) => some (boundsAddr r true why)
    | none => none

/-- The physical registers a list of operands covers. -/
def Group.covers (g : Group) (l : List (Nat × Nat × Nat)) : List Nat := l.flatMap (fun o => upFrom (g.phys o.1) o.2.1)

/-- The s registers that a park will write as it ends (R329). -/
def Park.destS : Park → List Nat
  | .ctr w => [w.d]
  | .launch d _ _ | .batchClose d _ => [d]
  | _ => []

/-- Hazard-check mode (R329): TADDR of an access to a register with an outstanding write. -/
def Group.hazard (g : Group) (u : Uses) : Option W64 :=
  if g.haz then
    let vs := g.results.flatMap (fun r => r.vw.map (fun w => w.1 / 32)) ++ g.olog.flatMap OlEntry.destRegs
    let ss := g.results.flatMap (fun r => r.sw.map (fun w => w.1)) ++ g.olog.flatMap OlEntry.destS ++
      g.splits.flatMap (fun sp => sp.park.destS)
    match (g.covers (u.vr ++ u.vw)).find? (fun r => vs.contains r) with
    | some r => some (BitVec.ofNat 64 r)
    | none => match (u.sr ++ u.sw).find? (fun r => ss.contains r) with
      | some r => some (BitVec.ofNat 64 (r + 512))
      | none => none
  else none

/-- Register Data Error (R332): a poisoned line among the registers read. -/
def Group.dataError (g : Group) (u : Uses) : Option W64 :=
  ((g.covers u.vr).find? (fun r => g.regPoison.contains r)).map (fun r => BitVec.ofNat 64 r)

/-- Whether an instruction needs lines that are absent from the tile's caches (R331), or takes bytes that are not there yet. -/
def Group.missing (g : Group) (u : Uses) : Bool :=
  u.waits || (g.covers (u.vr ++ u.vw)).any (fun r => g.absent.contains r)

/-- The Hazard of an instruction (R329): a follower takes its leader's (12 R340). -/
def State.hazardTrap (s : State) (u : Uses) (sp : Split) : Option Trap :=
  if s.g.role.follows then
    match s.instrTrap s.g with
    | some l => if field l.cause 0 8 = 0x0A then some l.trap else none
    | none => none
  else (s.g.hazard u).map (fun a => Trap.plain 0x0A sp.pc sp.pc sp.mask a s.dt)

/-- Checks 1 to 3 of R31, then hazard-check mode and the register cache, in that order (log entry 10). -/
def State.preCheck (s : State) (i : Instr) (u : Uses) (sp : Split) : Option Trap :=
  let whole := fun (c : BitVec 8) (resume : BitVec 57) (a : W64) => some (Trap.plain c sp.pc resume sp.mask a s.dt)
  if u.illegal then whole 0x01 (pcAdd sp.pc (instrBytes i)) (wordsAddr i)
  else if (u.priv && !s.privileged s.g) || (u.handler && !s.g.inh) then whole 0x02 sp.pc (wordsAddr i)
  else match s.g.boundsBreak u with
    | some a => whole 0x03 sp.pc a
    | none => match s.hazardTrap u sp with
      | some t => some t
      | none => match s.g.dataError u with
        | some a => whole 0x12 sp.pc a
        | none => none

/-- A group's run is over for the moment: a leader's run is entered in the run record, but where it goes on after a compare point or the slack limit, and it
closes what is left to close (R346, R352). -/
def State.boundary (s : State) (slot : Nat) : State :=
  if s.g.run then s
  else
    let at_ : Bool := match s.g.split slot with
      | some sp => decide (sp.park = .compare) || sp.park.isSlack
      | none => false
    let s1 := (if at_ then s else s.logRun s.g slot).closeBehind s.g
    { s1 with g := s1.g.makeSplits slot s.clock }

/-- A Register Data Error counted against the tile's cluster and against the lanes of the instruction's split (R368; log entry 95). -/
def State.countDataError (s : State) (t : Trap) : State :=
  if t.cause = 0x12 then
    s.addBuckets ((5, dieOf s.g.tile * 36 + s.g.tile / 4 % 64) ::
      (lanesOf t.mask).map (fun l => (4, tileIndex s.g.tile * 128 + s.g.place / 16 % 4 * 32 + l)))
  else s

/-- A trap taken by the issuing group in a split: logged by a leader, taken whole from the log by a follower, but for an error local to its
tile (R340, R346). -/
def State.trapHere (s : State) (slot : Nat) (t : Trap) : State :=
  let s0 := s.countDataError t
  match (if s.g.role.follows && decide (t.cause ≠ 0x12) then s.instrTrap s.g else none) with
  | some l =>
    let s1 := s0.takeTrap s.g.gid slot l.trap
    { s1 with g := { s1.g with trapsTaken := s1.g.trapsTaken + 1 } }
  | none =>
    let s1 := s0.takeTrap s.g.gid slot t
    s1.logTrap s1.g slot

/-- The split after an instruction that falls through or ends its run (R32, R33, R64); the runs of a follower are as long as the run
records say (R347). -/
def State.advance (s : State) (h : Hdr) (sp : Split) (pc : BitVec 57) (ends : Bool) (hold : Nat) : State :=
  let g1 := s.g.setSplit { sp with pc := pc }
  let g2 :=
    if h.w then
      match g1.split sp.slot with
      | none => g1
      | some x => ({ g1 with splits := putSplit { x with hold := hold } g1.splits }).endPark sp.slot .wbit 0 false
    else if ends || h.e || (decide (g1.runLen + 1 = 24) && !g1.role.follows) then g1.endRun sp.slot s.clock hold
    else { g1 with runLen := g1.runLen + 1 }
  { s with g := g2 }

/-- The issue counted (R346, R352). -/
def State.counted (s : State) : State := { s with g := { s.g with seq := s.g.seq + 1, icount := s.g.icount + 1 } }

/-- A follower ends its run where the run record of its leader does, and where it has come as far as its leader (R347). -/
def State.followEnd (s : State) (slot : Nat) : State :=
  if s.g.role.follows && s.g.run && ((s.runsOf s.g).any (fun r => decide (r.cnt = s.g.icount)) || (s.followSlot s.g).isNone) then
    { s with g := s.g.endRun slot s.clock 0 }
  else s

/-- What an instruction's fate does to its split (R32, R58), and the issue counted. -/
def State.finish (s : State) (i : Instr) (h : Hdr) (sp : Split) : Fate → State
  | .fall => (((s.advance h sp (pcAdd sp.pc (instrBytes i)) false 0).counted).followEnd sp.slot).boundary sp.slot
  | .jump pc => ((s.advance h sp pc true (s.clock + 4)).counted).boundary sp.slot
  | .stop => ((s.advance h { sp with passed := 0 } (pcAdd sp.pc (instrBytes i)) true 0).counted).boundary sp.slot
  | .park p => (({ s with g := s.g.endPark sp.slot p (instrBytes i) h.w }).counted).boundary sp.slot
  | .pass p =>
    (({ s with g := (s.g.setSplit { sp with pc := pcAdd sp.pc (instrBytes i) }).endPark sp.slot p 0 h.w }).counted).boundary sp.slot
  | .placed => s.counted.boundary sp.slot
  | .wait => s
  | .trap t => ((s.trapHere sp.slot t).counted).boundary sp.slot

/-- The contributions of the registers an instruction has written at issue (R350). -/
def State.foldWrites (s : State) (u : Uses) (lanes : W32) : State :=
  if s.g.role = .plain || u.late then s
  else
    let vs := ((s.g.covers u.vw).foldl (fun l r => insNat r l) []).flatMap (fun r => (lanesOf lanes).map (fun l => (BitVec.ofNat 32 r, s.g.rv r l)))
    let ss := u.sw.flatMap (fun n => [(BitVec.ofNat 32 (0x100 + n), (s.g.rs n).extractLsb' 0 32),
      (BitVec.ofNat 32 (0x140 + n), (s.g.rs n).extractLsb' 32 32)])
    s.addFolds s.g s.g.seq false (vs ++ ss)

/-- Values received from a log put into the registers and the scratchpad (R347). -/
def State.putLogged (s : State) (l : List (Nat × W64)) : State :=
  l.foldl (fun s x =>
    if x.1 < 100000 then { s with g := s.g.wv (x.1 / 32) (x.1 % 32) (x.2.extractLsb' 0 32) }
    else if x.1 < 200000 then { s with g := s.g.ws (x.1 - 100000) x.2 }
    else if x.1 < 300000 then { s with g := s.g.wq (x.1 - 200000) (x.2.getLsbD 0) }
    else if landKey ≤ x.1 then s
    else s.modTeam s.g.tid (fun t => { t with scr := memSet t.scr (x.1 - 300000) (x.2.extractLsb' 0 8) })) s

/-- The values a logged instruction has written at issue, entered in the leader's log (R346), with a mark for any other compare point that has
been performed. -/
def State.logNow (s : State) (u : Uses) (lanes : W32) : State :=
  if u.logged && !u.late then
    s.logVals s.g s.g.icount ((s.g.covers u.vw).flatMap (fun r => (lanesOf lanes).map (fun l =>
      (r * 32 + l, BitVec.ofNat 64 (s.g.rv r l).toNat))) ++ u.sw.map (fun n => (100000 + n, s.g.rs n)) ++ [(doneKey, 0)])
  else if u.cmp && !u.logged then s.logVals s.g s.g.icount [(doneKey, 0)]
  else s

/-- Whether an instruction's poison marks go: all 32 lanes written (R332). -/
def Group.unpoison (g : Group) (u : Uses) (lanes : W32) : Group :=
  if lanes = 0xFFFFFFFF && !u.late then { g with regPoison := g.regPoison.filter (fun r => !(g.covers u.vw).contains r) } else g

/-- A store instruction counted, whatever lanes are active; the 4,096th closes the segment (R351). -/
def State.countIf (s : State) (u : Uses) : State :=
  if u.store then
    let (s1, full) := s.countStore s.g
    if full then s1.closeSegment s1.g (s1.g.icount + 1) (s1.g.seq + 1) else s1
  else s

/-- The contributions to RS of a list of register writes, in its order (R350). -/
def foldList (vw : List (Nat × W32)) (sw : List (Nat × W64)) : List (W32 × W32) :=
  vw.map (fun w => (BitVec.ofNat 32 (w.1 / 32), w.2)) ++ sw.flatMap (fun w =>
    [(BitVec.ofNat 32 (0x100 + w.1), w.2.extractLsb' 0 32), (BitVec.ofNat 32 (0x140 + w.1), w.2.extractLsb' 32 32)])

/-- A logged instruction of a follower that a trap of its leader found held by a fault: what the log has before that trap's mark comes
now, the rest once the handler has had it retried or has returned (R346, R347). -/
def State.performHeld (s : State) (i : Instr) (h : Hdr) (sp : Split) (fs : List (W32 × W32)) : State :=
  let all : List (Nat × W64) := s.logged s.g s.g.icount
  let s1 := (s.landLogged s.g).putLogged (all.takeWhile (fun (x : Nat × W64) => decide (x.1 ≠ faultKey)))
  let r : Result := ⟨s.g.seq, s.g.icount, sp.slot, [], [], 0, .log true⟩
  let s2 := ({ s1 with g := ({ s1.g with cleared := none, results := s1.g.results ++ [r] }) }).addFolds s.g s.g.seq true fs
  let s3 := s2.finish i h sp .fall
  s3.closeFollower s3.g

/-- Whether the instruction that a leader is at was performed for its team already, before a vote that the leader of then lost (R360). -/
def State.doneBefore (s : State) : Bool := decide (s.g.role = .leader) && (s.lookLog s.g s.g.icount doneKey).isSome

/-- The effect of an instruction that passed its checks: performed, or taken from the log where that has it already, in a follower (R347)
or in a leader whose team performed it before a vote (R360); a follower parks where its leader parked while the log does not tell the
outcome; none where it waits at issue.  `fs` are its contributions to SS. -/
def State.perform (s : State) (i : Instr) (h : Hdr) (u : Uses) (fs : List (W32 × W32)) (lanes : W32) (sp : Split)
    (body : State → State × Fate) : Option State :=
  match (if s.g.role.follows then s.instrTrap s.g else none) with
  | some l => some (s.finish i h sp (.trap l.trap))
  | none =>
    if (s.g.role.follows || s.doneBefore) && u.logged then
      match s.lookLog s.g s.g.icount doneKey with
      | none =>
        if (s.lookLog s.g s.g.icount againKey).isSome then
          some ({ s with g := s.g.endRun sp.slot s.clock 0 }.finish i h sp .placed)
        else if u.parks then
          let s1 := ({ s with g := { s.g with cleared := none } }).addFolds s.g s.g.seq true fs
          let s2 := s1.finish i h sp (.park (.log s.g.seq))
          some (s2.closeFollower s2.g)
        else if (s.lookLog s.g s.g.icount faultKey).isSome then some (s.performHeld i h sp fs)
        else none
      | some _ =>
        if !u.parks && (s.lookLog s.g s.g.icount faultKey).isSome then some (s.performHeld i h sp fs) else
        let vals : List (Nat × W64) := s.logged s.g s.g.icount
        let s1 := (s.landLogged s.g).putLogged vals
        let s2 := (({ s1 with g := { s1.g with cleared := none } }).addFolds s.g s.g.seq true fs).addFolds s.g s.g.seq false (foldList
          ((vals.filter (fun (x : Nat × W64) => decide (x.1 < 100000))).map (fun (x : Nat × W64) => (x.1, x.2.extractLsb' 0 32)))
          ((vals.filter (fun (x : Nat × W64) => decide (100000 ≤ x.1) && decide (x.1 < 200000))).map (fun (x : Nat × W64) =>
            (x.1 - 100000, x.2))))
        let s3 := s2.finish i h sp (if u.parks then .pass .wbit else .fall)
        some (s3.closeFollower s3.g)
    else
      match body { s with g := { s.g with cleared := none } } with
      | (_, .wait) => none
      | (s1, .trap t) => some (({ s1 with g := { s1.g with cleared := s.g.cleared } }).finish i h sp (.trap t))
      | (s1, f) =>
        let s2 := ({ s1 with g := s1.g.unpoison u lanes }).addFolds s.g s.g.seq true fs
        let s3 := match f with
          | .fall | .jump _ | .stop => (s2.foldWrites u lanes).logNow u lanes
          | _ => s2
        let s6 := (s3.countIf u).finish i h sp f
        some (s6.closeFollower s6.g)

/-- A leader parked at the slack limit (R354) until its team's oldest closed segment commits; where none is left, and its slice is full or
its open segment holds what a hold limit counts, it closes the open one before, as SEG would (R354, R357). -/
def State.slackPark (s : State) (i : Instr) (h : Hdr) (sp : Split) (full : Bool) : State :=
  let s1 := if s.noneClosed s.g && (full || s.openHeld s.g) then s.closeSegment s.g s.g.closeCnt s.g.seq else s
  ({ s1 with g := s1.g.endPark sp.slot (.slack (s1.oldestHeld s1.g)) (instrBytes i) h.w }).boundary sp.slot

/-- Whether an instruction of a group needs a log entry or the copy of a line that its segment has not written yet (R354, R359). -/
def Group.takesRoom (g : Group) (u : Uses) : Bool :=
  u.logged || u.cmp || u.store || !u.accs.isEmpty || !g.touched.contains 2000 || (g.covers u.vw).any (fun r => !g.touched.contains r)

/-- The most bytes of its slice that an instruction of a group may take (log entry 9): a run record and a trap record, the copies of the lines
it names, the values it receives, and what its accesses of the scratchpad and its engine transfer take. -/
def Group.roomNeed (g : Group) (u : Uses) : Nat :=
  96 + g.copyRoom (2000 :: g.covers u.vw ++ u.accs.flatMap (fun a => (upFrom a.1 a.2).flatMap accLines)) +
    (if u.logged then 16 * (32 * (g.covers u.vw).length + u.sw.length + 2) else 0) +
    (if u.logged && u.cmp then 6144 else 0) + (if u.store then 2048 else 0) + u.room

/-- Whether the slice of a leader has no room for what an instruction needs (R354). -/
def State.roomless (s : State) (u : Uses) : Bool := decide (s.g.role = .leader) && s.g.takesRoom u && s.logFull s.g (s.g.roomNeed u)

/-- A leader at a compare point (R351 to R354): it folds, closes the segment and parks, or at the slack limit parks before that; a team
that only records closes without parking (R367). -/
def State.leaderPoint (s : State) (i : Instr) (h : Hdr) (u : Uses) (lanes : W32) (sp : Split) (body : State → State × Fate) :
    Option State :=
  match (s.chordOf s.g).map (·.level) with
  | none => s.perform i h u u.folds lanes sp body
  | some 0 =>
    let s2 := (s.addFolds s.g s.g.seq true u.folds).closeSegment s.g (s.g.icount + 1) (s.g.seq + 1)
    ({ s2 with g := { s2.g with seq := s2.g.seq + 1 } }).perform i h u [] lanes sp body
  | some _ =>
    if s.slackFull s.g then some (s.slackPark i h sp false)
    else
      let s2 := ((s.addFolds s.g s.g.seq true u.folds).logVals s.g s.g.icount [(trigKey, 0)]).closeSegment s.g (s.g.icount + 1) (s.g.seq + 1)
      some (({ s2 with g := ({ s2.g with seq := s2.g.seq + 1 }).endPark sp.slot .compare (instrBytes i) h.w }).boundary sp.slot)

/-- A follower at a compare point that closed a segment in its leader: it closes it as well and parks until it may go on (R352); a
replay goes on at once. -/
def State.followerPoint (s : State) (i : Instr) (h : Hdr) (u : Uses) (lanes : W32) (sp : Split) (body : State → State × Fate) :
    Option State :=
  match s.closesHere s.g with
  | none => s.perform i h u u.folds lanes sp body
  | some c =>
    let s2 := (s.addFolds s.g s.g.seq true u.folds).closeGroup s.g c.seg c.cnt (s.g.seq + 1)
    let s3 : State := { s2 with g := { s2.g with seq := s2.g.seq + 1, cleared := some sp.slot } }
    if (s.replayOf s.g).isSome && (s.boundaryTrap s.g).isNone then some ((s3.perform i h u [] lanes sp body).getD s3)
    else some (({ s3 with g := ({ s3.g with cleared := none }).endPark sp.slot .compare (instrBytes i) h.w }).boundary sp.slot)

/-- Whether what an instruction waits for at issue cannot come before a recorded fault has been taken (R326). -/
def Group.blocked (g : Group) : Bool := !g.inh && g.olog.any OlEntry.faulty && g.olog.all (fun e => e.faulty || g.stuck e)

/-- An instruction that waits at issue: it keeps the issue slot, but where only a recorded fault can end the wait its run ends before it, so that
the fault is taken (R325; log entry 41). -/
def State.heldUp (s : State) (slot : Nat) : State :=
  if s.g.blocked then ({ s with g := s.g.endRun slot s.clock 0 }).boundary slot else s

/-- What an instruction of a leader leaves behind has its team's checkpoints taken where it closed a segment (13 R359). -/
def State.checkedBy (s t : State) : State := if s.g.role = .leader then t.takeChecks s.g.tid else t

/-- An instruction of the issuing split: the checks of R31, the waits at issue, the compare points of Chord, then its effect.  Where no
run holds the issue slot nothing issues. -/
def issue (i : Instr) (h : Hdr) (u : Uses) (lanes : State → W32) (on : State → Bool) (body : State → State × Fate)
    (s : State) : Out :=
  match s.g.running with
  | none => .next s
  | some sp =>
    match s.preCheck i u sp with
    | some t => .next (s.checkedBy (s.finish i h sp (.trap t)))
    | none =>
      if s.g.missing u || !s.mayRun s.g then .next (if u.waits then s.checkedBy (s.heldUp sp.slot) else s)
      else if u.store && s.storeStop s.g then .next (s.checkedBy (s.slackPark i h sp false))
      else if !on s then
        let s1 := ((s.countIf u).finish i h sp .fall)
        .next (s.checkedBy (s1.closeFollower s1.g))
      else
        let out := if s.roomless u then some (s.slackPark i h sp true)
          else if s.g.cleared = some sp.slot then s.perform i h u [] (lanes s) sp body
          else if !u.cmp then s.perform i h u u.folds (lanes s) sp body
          else match s.g.role with
            | .plain => s.perform i h u [] (lanes s) sp body
            | .leader => s.leaderPoint i h u (lanes s) sp body
            | _ => s.followerPoint i h u (lanes s) sp body
        .next (match out with
          | none => if u.queued then s else s.checkedBy (s.heldUp sp.slot)
          | some t => s.checkedBy t)

/-- The active lanes of a lane-set instruction (R35). -/
def activeMask (h : Hdr) (s : State) : W32 :=
  match s.g.running with
  | none => 0
  | some sp => sp.mask &&& s.g.guardLanes h.g

/-- A lane-set instruction: its body works on the active lanes. -/
def issueLane (i : Instr) (h : Hdr) (u : Uses) (body : W32 → Split → State → State × Fate) (s : State) : Out :=
  issue i h u (activeMask h) (fun s => decide (activeMask h s ≠ 0))
    (fun t => match t.g.running with
      | none => (t, .fall)
      | some sp => body (activeMask h t) sp t) s

/-- A lane-set instruction that acts whatever lanes are active (BRL, JOIN, EXIT.L, predicates of no lane). -/
def issueLaneAll (i : Instr) (h : Hdr) (u : Uses) (body : W32 → Split → State → State × Fate) (s : State) : Out :=
  issue i h u (activeMask h) (fun _ => true)
    (fun t => match t.g.running with
      | none => (t, .fall)
      | some sp => body (activeMask h t) sp t) s

/-- A uniform-set instruction: its body acts where the guard is true (R35). -/
def issueUni (i : Instr) (h : Hdr) (u : Uses) (body : Split → State → State × Fate) (s : State) : Out :=
  issue i h u (fun _ => 1) (fun s => s.g.guardTrue h.g)
    (fun t => match t.g.running with
      | none => (t, .fall)
      | some sp => body sp t) s

/-! ## Operand forms -/

/-- A vector operand of one register. -/
def v1 (f : BitVec 6) : Nat × Nat × Nat := (f.toNat, 1, 1)

/-- A 64-bit vector operand: an even pair (R36). -/
def v2 (f : BitVec 6) : Nat × Nat × Nat := (f.toNat, 2, 2)

/-- A vector operand of `n` consecutive registers aligned to `k`. -/
def vN (f : BitVec 6) (n k : Nat) : Nat × Nat × Nat := (f.toNat, n, k)

/-- A result computed from the lane number for each active lane, from the group as it was at issue, in register d. -/
def setLanes (d : BitVec 6) (f : Group → Nat → W32) (m : W32) (_ : Split) (s : State) : State × Fate :=
  ({ s with g := s.g.wvMask (s.g.phys d.toNat) m (f s.g) }, .fall)

/-- A 64-bit result for each active lane in the pair d. -/
def setLanes64 (d : BitVec 6) (f : Group → Nat → W64) (m : W32) (_ : Split) (s : State) : State × Fate :=
  ({ s with g := s.g.wv64Mask (s.g.phys d.toNat) m (f s.g) }, .fall)

/-- One register operand of a lane. -/
def Group.op (g : Group) (f : BitVec 6) (l : Nat) : W32 := g.rv (g.phys f.toNat) l

/-- A pair operand of a lane. -/
def Group.op64 (g : Group) (f : BitVec 6) (l : Nat) : W64 := g.rv64 (g.phys f.toNat) l

/-- The form `d := f(a)`. -/
def laneUn (i : Instr) (h : Hdr) (d a : BitVec 6) (f : W32 → W32) (s : State) : Out :=
  issueLane i h { vr := [v1 a], vw := [v1 d] } (setLanes d (fun g l => f (g.op a l))) s

/-- The form `d := f(a, b)`. -/
def laneBin (i : Instr) (h : Hdr) (d a b : BitVec 6) (f : W32 → W32 → W32) (s : State) : Out :=
  issueLane i h { vr := [v1 a, v1 b], vw := [v1 d] } (setLanes d (fun g l => f (g.op a l) (g.op b l))) s

/-- The form `d := f(a, b, c)`. -/
def laneTri (i : Instr) (h : Hdr) (d a b c : BitVec 6) (f : W32 → W32 → W32 → W32) (s : State) : Out :=
  issueLane i h { vr := [v1 a, v1 b, v1 c], vw := [v1 d] } (setLanes d (fun g l => f (g.op a l) (g.op b l) (g.op c l))) s

/-- The uniform form `d := f(group)`, with the s registers it reads. -/
def uniSet (i : Instr) (h : Hdr) (d : BitVec 6) (rd : List (BitVec 6)) (f : Group → W64) (s : State) : Out :=
  issueUni i h { sr := rd.map (·.toNat), sw := [d.toNat] } (fun _ s => ({ s with g := s.g.ws d.toNat (f s.g) }, .fall)) s

/-- A late result of the issuing instruction put among the outstanding ones, its values known (R34); the writes in the order in which
they are folded. -/
def State.later (s : State) (sp : Split) (vw : List (Nat × W32)) (sw : List (Nat × W64)) (flags : BitVec 5) : State :=
  let r : Result := ⟨s.g.seq, s.g.icount, sp.slot, vw, sw, flags, .nothing⟩
  ({ s with g := { s.g with results := s.g.results ++ [r] } }).addFolds s.g s.g.seq false (foldList vw sw)

/-- A late result that comes from outside the team: logged as well (R346). -/
def State.laterLogged (s : State) (sp : Split) (vw : List (Nat × W32)) (sw : List (Nat × W64)) : State :=
  (s.later sp vw sw 0).logVals s.g s.g.icount
    (vw.map (fun w => (w.1, BitVec.ofNat 64 w.2.toNat)) ++ sw.map (fun w => (100000 + w.1, w.2)) ++ [(doneKey, 0)])

/-- An outstanding instruction whose results are not known yet: the registers it will write. -/
def State.pendingResult (s : State) (sp : Split) (vw : List Nat) (sw : List Nat) : State :=
  let r : Result := ⟨s.g.seq, s.g.icount, sp.slot, vw.map (fun k => (k, 0)), sw.map (fun k => (k, 0)), 0, .other⟩
  { s with g := { s.g with results := s.g.results ++ [r] } }

/-- An outstanding instruction whose values are known but which waits for something (R34). -/
def State.awaiting (s : State) (sp : Split) (sw : List (Nat × W64)) (w : Await) : State :=
  let r : Result := ⟨s.g.seq, s.g.icount, sp.slot, [], sw, 0, w⟩
  ({ s with g := { s.g with results := s.g.results ++ [r] } }).addFolds s.g s.g.seq false (foldList [] sw)

/-- The values of an outstanding instruction of a group come to be known (R34); folded, and logged where they come from outside. -/
def State.resolve (s : State) (gid seq : Nat) (vw : List (Nat × W32)) (sw : List (Nat × W64)) (flags : BitVec 5) (logIt : Bool) :
    State :=
  match s.group gid with
  | none => s
  | some g =>
    match g.results.find? (fun r => decide (r.seq = seq)) with
    | none => s
    | some r =>
      let s1 := s.modGroup gid (fun g => { g with results := g.results.map (fun x =>
        if x.seq = seq then { x with vw := vw, sw := sw, flags := flags, await := .nothing } else x) })
      let s2 := s1.addFolds g seq false (foldList vw sw)
      if logIt then s2.logVals g r.cnt
        (vw.map (fun w => (w.1, BitVec.ofNat 64 w.2.toNat)) ++ sw.map (fun w => (100000 + w.1, w.2)) ++ [(doneKey, 0)])
      else s2

/-- An outstanding instruction of a group taken off the list without a result. -/
def State.unresolve (s : State) (gid seq : Nat) : State :=
  s.modGroup gid (fun g => { g with results := g.results.filter (fun r => decide (r.seq ≠ seq)) })

/-- One trap of the issuing instruction itself, with its own TRESUME (R316). -/
def ownTrap (s : State) (sp : Split) (cause : BitVec 8) (resume : BitVec 57) (addr : W64) : Fate :=
  .trap (Trap.plain cause sp.pc resume sp.mask addr s.dt)

end Sys2Proof.Machine
end

