-- ==== Sys2Proof/Machine/Flags.lean ====
section
/-! DEFINITION. Floating-point values, the one rounding, the flags of FPSTAT and NaNs (05 R117 to R127), written on exact integers. -/

namespace Sys2Proof.Machine

/-- A floating format (R117): fraction bits, bias, largest encoding below infinity or NaN, and whether it has an infinity. -/
structure Fmt where
  width : Nat
  ebits : Nat
  fbits : Nat
  bias : Nat
  top : Nat
  hasInf : Bool
  deriving DecidableEq, Repr

/-- F64. -/
def fmtF64 : Fmt := ⟨64, 11, 52, 1023, 0x7FEFFFFFFFFFFFFF, true⟩

/-- F32. -/
def fmtF32 : Fmt := ⟨32, 8, 23, 127, 0x7F7FFFFF, true⟩

/-- F16. -/
def fmtF16 : Fmt := ⟨16, 5, 10, 15, 0x7BFF, true⟩

/-- BF16. -/
def fmtBF16 : Fmt := ⟨16, 8, 7, 127, 0x7F7F, true⟩

/-- E5M2. -/
def fmtE5M2 : Fmt := ⟨8, 5, 2, 15, 0x7B, true⟩

/-- E4M3: no infinity, one NaN code per sign. -/
def fmtE4M3 : Fmt := ⟨8, 4, 3, 7, 0x7E, false⟩

/-- A decoded value: a NaN with its sign and fraction, an infinity, or (−1)^s × m × 2^e exactly. -/
inductive FVal where
  | nan (s : Bool) (frac : Nat)
  | inf (s : Bool)
  | num (s : Bool) (m : Nat) (e : Int)
  deriving DecidableEq, Repr

/-- A bit pattern in a format (R117). -/
def Fmt.decode (f : Fmt) (bits : Nat) : FVal :=
  let s := decide (bits / 2 ^ (f.width - 1) % 2 = 1)
  let ex := bits / 2 ^ f.fbits % 2 ^ f.ebits
  let fr := bits % 2 ^ f.fbits
  let mag := bits % 2 ^ (f.width - 1)
  if f.top < mag then (if f.hasInf && decide (fr = 0) then .inf s else .nan s fr)
  else if ex = 0 then .num s fr (1 - (f.bias : Int) - f.fbits)
  else .num s (fr + 2 ^ f.fbits) ((ex : Int) - f.bias - f.fbits)

/-- The rounding of one result (R8, R122): a mode, or stochastic with the lane's random bits. -/
inductive RMode where
  | rne | rz | ru | rd
  | sr (rb : Nat)
  deriving DecidableEq, Repr

/-- The mode of a two-bit code (R8). -/
def modeOf (c : BitVec 2) : RMode :=
  match c.toNat with
  | 0 => .rne
  | 1 => .rz
  | 2 => .ru
  | _ => .rd

/-- The flags of FPSTAT as a mask (R123). -/
def fNV : BitVec 5 := 1

/-- Divide by zero. -/
def fDZ : BitVec 5 := 2

/-- Overflow. -/
def fOF : BitVec 5 := 4

/-- Underflow. -/
def fUF : BitVec 5 := 8

/-- Inexact. -/
def fNX : BitVec 5 := 16

/-- A flag when it holds. -/
def flagIf (b : Bool) (f : BitVec 5) : BitVec 5 := if b then f else 0

/-- The sign put on a magnitude. -/
def Fmt.signed (f : Fmt) (s : Bool) (mag : Nat) : Nat := mag + bitOf s * 2 ^ (f.width - 1)

/-- The code of infinity, or of the NaN that stands for it in a format without one. -/
def Fmt.infinity (f : Fmt) (s : Bool) : Nat := f.signed s (f.top + 1)

/-- The number of bits of a Nat. -/
def bitLen (m : Nat) : Nat := if m = 0 then 0 else m.log2 + 1

/-- m × 2^−k kept to an integer in a mode: (rounded, inexact).  `sticky` says that the value lies above m by less than one unit;
it is used with k > 0 only. -/
def roundShift (mode : RMode) (s : Bool) (m k : Nat) (sticky : Bool) : Nat × Bool :=
  let kept := m / 2 ^ k
  let rem := m % 2 ^ k
  let inexact := decide (rem ≠ 0) || sticky
  let up := match mode with
    | .rne => decide (2 ^ k < 2 * rem) || (decide (2 * rem = 2 ^ k) && decide (k ≠ 0) && (sticky || decide (kept % 2 = 1)))
    | .rz => false
    | .ru => inexact && !s
    | .rd => inexact && s
    | .sr rb => decide (2 ^ 32 ≤ rem * 2 ^ 32 / 2 ^ k + rb)
  (kept + bitOf up, inexact)

/-- Rounding at an exponent of the last kept bit: the integer kept and whether the result is inexact. -/
def roundAt (mode : RMode) (s : Bool) (m : Nat) (e q : Int) (sticky : Bool) : Nat × Bool :=
  if q ≤ e then (m * 2 ^ (e - q).toNat, sticky) else roundShift mode s m (q - e).toNat sticky

/-- RoundTo(type, x, mode) of a nonzero or zero magnitude m × 2^e (R120 to R122): the bits and the flags OF, UF and NX.
`sticky`: the magnitude lies strictly between m and m + 1 units of 2^e. -/
def Fmt.round (f : Fmt) (mode : RMode) (s : Bool) (m : Nat) (e : Int) (sticky : Bool) : Nat × BitVec 5 :=
  if m = 0 && !sticky then (f.signed s 0, 0)
  else
    let msb := e + (bitLen m : Int) - 1
    let emin : Int := 1 - (f.bias : Int)
    let free := msb - f.fbits
    let q := max free (emin - f.fbits)
    let (k, inexact) := roundAt mode s m e q sticky
    let (k', _) := roundAt mode s m e free sticky
    let mag := ((q + f.fbits + f.bias - 1).toNat) * 2 ^ f.fbits + k
    let tiny := decide (free + (bitLen k' : Int) - 1 < emin)
    if f.top < mag then
      let toInf := match mode with
        | .rne => true
        | .rz => false
        | .ru => !s
        | .rd => s
        | .sr _ => false
      (if toInf then f.infinity s else f.signed s f.top, fOF ||| fNX)
    else (f.signed s mag, flagIf (tiny && inexact) fUF ||| flagIf inexact fNX)

/-- Whether a NaN fraction is signalling in a format (R117); E4M3's NaN is quiet. -/
def Fmt.signalling (f : Fmt) (frac : Nat) : Bool := decide (frac / 2 ^ (f.fbits - 1) % 2 = 0)

/-- Whether a value is a NaN. -/
def FVal.isNan : FVal → Bool
  | .nan _ _ => true
  | _ => false

/-- Whether a value is a signalling NaN of its format. -/
def FVal.isSnan (f : Fmt) : FVal → Bool
  | .nan _ fr => f.signalling fr
  | _ => false

/-- The sign of a value. -/
def FVal.sign : FVal → Bool
  | .nan s _ => s
  | .inf s => s
  | .num s _ _ => s

/-- A value with its sign flipped; a NaN keeps its sign (R131). -/
def FVal.neg : FVal → FVal
  | .nan s fr => .nan s fr
  | .inf s => .inf (!s)
  | .num s m e => .num (!s) m e

/-- A NaN converted to a format, quiet, its sign kept (R126). -/
def Fmt.putNan (src dst : Fmt) (s : Bool) (frac : Nat) : Nat :=
  if !dst.hasInf then dst.signed s (dst.top + 1)
  else
    let fr := if src.fbits ≤ dst.fbits then frac * 2 ^ (dst.fbits - src.fbits) else frac / 2 ^ (src.fbits - dst.fbits)
    let q := 2 ^ (dst.fbits - 1)
    let fr' := if fr / q % 2 = 1 then fr else fr + q
    dst.signed s (dst.top + 1 + fr')

/-- PropNaN: the first NaN of a list in operand order, in the same format (R124). -/
def Fmt.propNan (f : Fmt) : List FVal → Nat
  | [] => 0
  | .nan s fr :: _ => f.putNan f s fr
  | _ :: rest => f.propNan rest

/-- OriginNaN(type, L) of the instruction at a PC (R124). -/
def Fmt.originNan (f : Fmt) (pc : BitVec 57) (lane : Nat) : Nat :=
  let p := pc.toNat
  let fr :=
    if f.fbits = 52 then 3 * 2 ^ 50 + lane * 2 ^ 45 + p / 4 % 2 ^ 32 * 2 ^ 13
    else if f.fbits = 23 then 3 * 2 ^ 21 + lane * 2 ^ 16 + (BitVec.ofNat 16 (p / 4) ^^^ BitVec.ofNat 16 (p / 2 ^ 18)).toNat
    else if f.fbits = 10 then 3 * 2 ^ 8 + lane * 8 + p / 4 % 8
    else 3 * 2 ^ 5 + lane
  f.top + 1 + fr

/-- The sum of two exact numbers as (sign, magnitude, exponent); an exact zero sum takes the sign of R129. -/
def addExact (rd : Bool) (s1 : Bool) (m1 : Nat) (e1 : Int) (s2 : Bool) (m2 : Nat) (e2 : Int) : Bool × Nat × Int :=
  let e := min e1 e2
  let a : Int := (if s1 then -1 else 1) * ((m1 * 2 ^ (e1 - e).toNat : Nat) : Int)
  let b : Int := (if s2 then -1 else 1) * ((m2 * 2 ^ (e2 - e).toNat : Nat) : Int)
  let z := a + b
  if z = 0 then (if m1 = 0 && m2 = 0 && s1 == s2 then s1 else rd, 0, e) else (decide (z < 0), z.natAbs, e)

/-- Whether a mode rounds down. -/
def RMode.isRd : RMode → Bool
  | .rd => true
  | _ => false

/-- x + y in a format with one rounding (R129): result bits and flags. -/
def Fmt.add (f : Fmt) (mode : RMode) (org : Nat) (x y : FVal) : Nat × BitVec 5 :=
  if x.isNan || y.isNan then (f.propNan [x, y], flagIf (x.isSnan f || y.isSnan f) fNV)
  else match x, y with
    | .inf s1, .inf s2 => if s1 == s2 then (f.infinity s1, 0) else (org, fNV)
    | .inf s1, _ => (f.infinity s1, 0)
    | _, .inf s2 => (f.infinity s2, 0)
    | .num s1 m1 e1, .num s2 m2 e2 =>
      let r := addExact mode.isRd s1 m1 e1 s2 m2 e2
      f.round mode r.1 r.2.1 r.2.2 false
    | _, _ => (org, fNV)

/-- x × y in a format with one rounding (R129). -/
def Fmt.mul (f : Fmt) (mode : RMode) (org : Nat) (x y : FVal) : Nat × BitVec 5 :=
  if x.isNan || y.isNan then (f.propNan [x, y], flagIf (x.isSnan f || y.isSnan f) fNV)
  else match x, y with
    | .inf s1, .inf s2 => (f.infinity (s1 ^^ s2), 0)
    | .inf s1, .num s2 m2 _ => if m2 = 0 then (org, fNV) else (f.infinity (s1 ^^ s2), 0)
    | .num s1 m1 _, .inf s2 => if m1 = 0 then (org, fNV) else (f.infinity (s1 ^^ s2), 0)
    | .num s1 m1 e1, .num s2 m2 e2 => f.round mode (s1 ^^ s2) (m1 * m2) (e1 + e2) false
    | _, _ => (org, fNV)

/-- Whether a value is a zero. -/
def FVal.isZero : FVal → Bool
  | .num _ m _ => decide (m = 0)
  | _ => false

/-- Whether a value is an infinity. -/
def FVal.isInf : FVal → Bool
  | .inf _ => true
  | _ => false

/-- (−1)^NEGP × x × y + (−1)^NEGC × z with one rounding (R131, R125). -/
def Fmt.fma (f : Fmt) (mode : RMode) (org : Nat) (negp negc : Bool) (x y z : FVal) : Nat × BitVec 5 :=
  let bad := (x.isZero && y.isInf) || (x.isInf && y.isZero)
  if x.isNan || y.isNan || z.isNan then
    (f.propNan [x, y, z], flagIf (x.isSnan f || y.isSnan f || z.isSnan f || bad) fNV)
  else if bad then (org, fNV)
  else
    let sp := x.sign ^^ y.sign ^^ negp
    let z' := if negc then z.neg else z
    if x.isInf || y.isInf then
      match z' with
      | .inf sz => if sz == sp then (f.infinity sp, 0) else (org, fNV)
      | _ => (f.infinity sp, 0)
    else match x, y, z' with
      | _, _, .inf sz => (f.infinity sz, 0)
      | .num _ m1 e1, .num _ m2 e2, .num s3 m3 e3 =>
        let r := addExact mode.isRd sp (m1 * m2) (e1 + e2) s3 m3 e3
        f.round mode r.1 r.2.1 r.2.2 false
      | _, _, _ => (org, fNV)

/-- The order of two values that are not NaN: −1, 0 or 1, with −0 equal to +0. -/
def FVal.cmp (x y : FVal) : Int :=
  let key : FVal → Int → Int := fun v e => match v with
    | .num s m ex => (if s then -1 else 1) * ((m * 2 ^ (ex - e).toNat : Nat) : Int)
    | _ => 0
  match x, y with
  | .inf a, .inf b => if a == b then 0 else if a then -1 else 1
  | .inf a, _ => if a then -1 else 1
  | _, .inf b => if b then 1 else -1
  | .num _ _ e1, .num _ _ e2 =>
    let e := min e1 e2
    let d := key x e - key y e
    if d < 0 then -1 else if d = 0 then 0 else 1
  | _, _ => 0

/-- Whether x comes before y with −0 below +0 (R129). -/
def FVal.before (x y : FVal) : Bool :=
  let c := x.cmp y
  if c = 0 then x.sign && !y.sign else decide (c < 0)

/-- min and max of R129 on bit patterns. -/
def Fmt.minmax (f : Fmt) (isMax : Bool) (bx b_y : Nat) : Nat × BitVec 5 :=
  let x := f.decode bx
  let y := f.decode b_y
  let nv := flagIf (x.isSnan f || y.isSnan f) fNV
  if x.isNan && y.isNan then (f.propNan [x, y], nv)
  else if x.isNan then (b_y, nv)
  else if y.isNan then (bx, nv)
  else if isMax then (if x.before y then b_y else bx, 0)
  else (if y.before x then b_y else bx, 0)

/-- The comparisons of FCMP and DCMP (R132): outcome and flags. -/
def Fmt.compare (f : Fmt) (cc : BitVec 3) (bx b_y : Nat) : Bool × BitVec 5 :=
  let x := f.decode bx
  let y := f.decode b_y
  let nan := x.isNan || y.isNan
  let snan := x.isSnan f || y.isSnan f
  let c := x.cmp y
  match cc.toNat with
  | 0 => (!nan && decide (c = 0), flagIf snan fNV)
  | 1 => (nan || decide (c ≠ 0), flagIf snan fNV)
  | 2 => (!nan && decide (c < 0), flagIf nan fNV)
  | 3 => (!nan && decide (0 ≤ c), flagIf nan fNV)
  | 4 => (!nan, flagIf snan fNV)
  | 5 => (nan, flagIf snan fNV)
  | 6 => (!nan && decide (c ≤ 0), flagIf nan fNV)
  | _ => (!nan && decide (0 < c), flagIf nan fNV)

/-! ## Random bits of stochastic rounding (R122) -/

/-- A 64-bit product kept low. -/
def mulKeep (a b : W64) : W64 := a * b

/-- The mixing of R122 and R344. -/
def mix64 (h0 : W64) (k : Nat) : W64 :=
  let h1 := h0 ^^^ (h0 >>> k)
  let h2 := mulKeep h1 0x9A3C5E71D2B48F65
  let h3 := h2 ^^^ (h2 >>> 29)
  let h4 := mulKeep h3 0xC61D7A934E58B2F7
  h4 ^^^ (h4 >>> 32)

/-- RB of a lane (R122). -/
def Group.randomBits (g : Group) (l : Nat) : Nat :=
  let k0 : W64 := g.gridKey ++ g.teamIdx.extractLsb' 0 32
  let k1 : W64 := BitVec.ofNat 64 (g.gidx.toNat * 2 ^ 59 + l * 2 ^ 54 + (mapGet (fun _ => (0 : W32)) g.srcount l).toNat)
  (mix64 (k0 ^^^ k1.rotateLeft 17) 31).toNat % 2 ^ 32

/-- SRCOUNT of a mask's lanes advanced by a stochastically rounded instruction (R122). -/
def Group.countRandom (g : Group) (m : W32) : Group :=
  { g with srcount := (lanesOf m).foldl (fun c l => mapSet (fun _ => (0 : W32)) c l (mapGet (fun _ => (0 : W32)) c l + 1)) g.srcount }

/-- Flags ORed into FPSTAT (R123). -/
def Group.flag (g : Group) (f : BitVec 5) : Group := { g with fpstat := g.fpstat ||| f }

/-- The mode of an instruction with a C word: its own with RS = 1, else FPCTL's (R120). -/
def Group.mode (g : Group) (rm : BitVec 2) (rs : BitVec 1) : RMode := if rs.toNat = 1 then modeOf rm else modeOf g.fpctl

/-- Float results written for the active lanes with their flags, from the group as it was at issue (R123). -/
def setLanesF (d : BitVec 6) (f : Group → Nat → W32 × BitVec 5) (m : W32) (_ : Split) (s : State) : State × Fate :=
  let fl := (lanesOf m).foldl (fun a l => a ||| (f s.g l).2) 0
  ({ s with g := (s.g.wvMask (s.g.phys d.toNat) m (fun l => (f s.g l).1)).flag fl }, .fall)

/-- The same for 64-bit results. -/
def setLanesF64 (d : BitVec 6) (f : Group → Nat → W64 × BitVec 5) (m : W32) (_ : Split) (s : State) : State × Fate :=
  let fl := (lanesOf m).foldl (fun a l => a ||| (f s.g l).2) 0
  ({ s with g := (s.g.wv64Mask (s.g.phys d.toNat) m (fun l => (f s.g l).1)).flag fl }, .fall)

/-- A result as a 32-bit register value. -/
def res32 (r : Nat × BitVec 5) : W32 × BitVec 5 := (BitVec.ofNat 32 r.1, r.2)

/-- A result as a 64-bit pair. -/
def res64 (r : Nat × BitVec 5) : W64 × BitVec 5 := (BitVec.ofNat 64 r.1, r.2)

/-- A register value decoded as F32. -/
def asF32 (x : W32) : FVal := fmtF32.decode x.toNat

/-- A pair decoded as F64. -/
def asF64 (x : W64) : FVal := fmtF64.decode x.toNat

end Sys2Proof.Machine
end

