-- ==== Sys2Proof/Machine/Domains.lean ====
section
/-! DEFINITION. Lock domains, lock names and their ancestors, and the definition of a domain (10 R261 to R265, R281). -/

namespace Sys2Proof.Machine

/-- A domain descriptor of 32 bytes, if it keeps R261; the die is filled in when BASE is translated. -/
def domainFrom (ctx num : Nat) (b : List Byte) : Option Domain :=
  let at_ := fun (o n : Nat) => bytesVal ((b.drop o).take n)
  let d : Domain := ⟨ctx, num, at_ 0 8, at_ 8 4, at_ 12 4, at_ 16 4, at_ 20 4, at_ 24 2, at_ 26 2, at_ 28 1, 0⟩
  let ok := decide (d.base % 128 = 0) && decide (d.base < 2 ^ 57) && decide (d.e0 % 128 = 0) && decide (128 ≤ d.e0) &&
    decide (1 ≤ d.e1) && decide (1 ≤ d.e2) && decide (d.w0 % 128 = 0) && decide (128 ≤ d.w0) && decide (d.w0 ≤ d.e0) &&
    decide (1 ≤ d.w1) && decide (d.w1 ≤ min d.e1 65535) && decide (1 ≤ d.w2) && decide (d.w2 ≤ min d.e2 65535) &&
    decide (1 ≤ d.dims) && decide (d.dims ≤ 3) && decide (at_ 29 3 = 0) &&
    (decide (d.dims ≠ 1) || (decide (d.e1 = 1) && decide (d.e2 = 1) && decide (d.w1 = 1) && decide (d.w2 = 1))) &&
    (decide (d.dims ≠ 2) || (decide (d.e2 = 1) && decide (d.w2 = 1))) &&
    decide (d.e0 * d.e1 * d.e2 ≤ 2 ^ 57) && decide (d.base + d.e0 * d.e1 * d.e2 ≤ 2 ^ 57)
  if ok then some d else none

/-- A quotient rounded up. -/
def ceilDiv (a b : Nat) : Nat := (a + b - 1) / b

/-- NX (R261). -/
def Domain.nx (d : Domain) : Nat := ceilDiv d.e0 d.w0
/-- NY (R261). -/
def Domain.ny (d : Domain) : Nat := ceilDiv d.e1 d.w1
/-- NT, the tiles of a domain (R261). -/
def Domain.nt (d : Domain) : Nat := d.nx * d.ny * ceilDiv d.e2 d.w2
/-- NL, the lines of a domain (R261). -/
def Domain.nl (d : Domain) : Nat := d.e0 * d.e1 * d.e2 / 128

/-- TileOf (R262). -/
def Domain.tileOf (d : Domain) (l : Nat) : Nat :=
  let b := 128 * l
  b % d.e0 / d.w0 + d.nx * (b / d.e0 % d.e1 / d.w1 + d.ny * (b / (d.e0 * d.e1) / d.w2))

/-- DOMAIN of a lock name (R263). -/
def lockDomain (n : W64) : Nat := field n 52 12
/-- LEVEL of a lock name. -/
def lockLevel (n : W64) : Nat := field n 50 2
/-- INDEX of a lock name. -/
def lockIndex (n : W64) : Nat := field n 0 50

/-- A lock name from its fields. -/
def lockName (d lv i : Nat) : W64 := BitVec.ofNat 64 (d * 2 ^ 52 + lv * 2 ^ 50 + i)

/-- A domain of a context. -/
def State.domain (s : State) (ctx num : Nat) : Option Domain :=
  s.domains.find? (fun d => decide (d.ctx = ctx) && decide (d.num = num))

/-- Whether a name names a lock of a defined domain (R263, R270). -/
def State.validLock (s : State) (ctx : Nat) (n : W64) : Bool :=
  match s.domain ctx (lockDomain n) with
  | none => false
  | some d =>
    match lockLevel n with
    | 0 => decide (lockIndex n = 0)
    | 1 => decide (lockIndex n < d.nt)
    | 2 => decide (lockIndex n < d.nl)
    | _ => false

/-- The ancestors of a lock (R263). -/
def State.ancestors (s : State) (ctx : Nat) (n : W64) : List W64 :=
  let dom := lockDomain n
  match lockLevel n with
  | 1 => [lockName dom 0 0]
  | 2 => match s.domain ctx dom with
    | some d => [lockName dom 1 (d.tileOf (lockIndex n)), lockName dom 0 0]
    | none => []
  | _ => []

/-- Whether a lock of a domain is held or requested (R281). -/
def State.domainBusy (s : State) (ctx num : Nat) : Bool :=
  s.locks.any (fun r => decide (r.ctx = ctx) && decide (lockDomain r.name = num)) ||
    s.groups.any (fun g => g.live && decide (g.ctx = ctx) && (match g.lreq with
      | some r => decide (lockDomain r.name = num)
      | none => false))

/-- The VA of entry `num` of a context's domain table (R261). -/
def State.tableVa (s : State) (ctx num : Nat) : Nat := field (s.ctx ctx).lkdtab 17 40 * 2 ^ 17 + 32 * num

/-- Entry `num` of the domain table written with 32 bytes, at LKDTAB, by the device's own privileged translation (R261; log entry 26). -/
def State.tableWrite (s : State) (q : Req) (num : Nat) (b : List Byte) : State :=
  let va := s.tableVa q.ctx num
  match s.translate { q with priv := true } va .write with
  | (.ok e, s1) => if s1.delivers (dieOf q.tile) (e.at va) (leafKind e.leaf e.level) then s1.deviceStore (some q.ctx) (e.at va) b else s1.loseStore
  | (.error _, s1) => s1

/-- Whether an LK.DEF waits for a line: that of its table entry, or one that the walk of its BASE reads (07 R187). -/
def State.defHeld (s : State) (q : Req) (num : Nat) (base : Option Nat) : Bool :=
  s.vaHeld { q with priv := true } (s.tableVa q.ctx num) .write || (match base with
    | some va => s.transHeld q va .read
    | none => false)

/-- Some free bytes, eight to a free value. -/
def State.freeBytes (s : State) : Nat → List Byte × State
  | 0 => ([], s)
  | n + 1 =>
    let (w, s1) := s.fresh
    let (rest, s2) := State.freeBytes s1 n
    (leBytes 8 w.toNat ++ rest, s2)

/-- A domain undefined (R281): the status and the state.  The spec gives an undefined entry no bytes: they are free values. -/
def State.undefine (s : State) (q : Req) (num : Nat) : Nat × State :=
  if s.domainBusy q.ctx num then (1, s)
  else
    let (b, s1) := s.freeBytes 4
    (0, { s1.tableWrite q num b with domains := s.domains.filter (fun d => !(decide (d.ctx = q.ctx) && decide (d.num = num))) })

/-- A domain defined from a descriptor's bytes, which become its entry (R281): the status and the state.  A BASE whose page the group may not read
does not translate (log entry 108), and a busy domain is told before a BASE that does not translate (log entry 109). -/
def State.define (s : State) (q : Req) (num : Nat) (b : List Byte) : Nat × State :=
  match domainFrom q.ctx num b with
  | none => (2, s)
  | some d =>
    if s.domainBusy q.ctx num then (1, s)
    else
      match s.translate q d.base .read with
      | (.error _, s1) => (2, s1)
      | (.ok e, s1) =>
        match s1.physKind (e.at d.base) with
        | .dev die =>
          (0, { s1.tableWrite q num b with
            domains := s1.domains.filter (fun x => !(decide (x.ctx = q.ctx) && decide (x.num = num))) ++ [{ d with die := die }] })
        | _ => (2, s1)

end Sys2Proof.Machine
end

