-- ==== Sys2Proof/Machine/Access.lean ====
section
/-! DEFINITION. Held accesses: the operand log's entries, the translation of a lane, places and the bytes there, the directory and the
L1, atomics, counters and barriers, and the performing of an entry's lanes (07 R169 to R176, R185 to R190, R199 to R202; 08 R208 to
R221; 09 R227 to R239; 12 R324 to R326). -/

namespace Sys2Proof.Machine

/-! ## Entries -/

/-- Whether an entry is a release: order bits of an atomic, and every counter add and arrival (R219, R251). -/
def OlEntry.release (e : OlEntry) : Bool :=
  match e.kind with
  | .atom .. => decide (2 ≤ e.ord)
  | .ctrAdd | .barArv _ => true
  | _ => false

/-- Whether an entry operates on a counter or barrier object, or waits on one. -/
def OlEntry.object (e : OlEntry) : Bool :=
  match e.kind with
  | .ctrAdd | .barArv _ | .wait _ => true
  | _ => false

/-- The alignment of an access: its size, or that of its object (R170, R220, R228, R281). -/
def OlEntry.align (e : OlEntry) : Nat :=
  match e.kind with
  | .ctrAdd | .ctrRd _ => 16
  | .barArv _ | .lkDef .. => 32
  | .wait bar => if bar then 32 else 16
  | _ => e.size

/-- The bytes whose poison an access meets (R231). -/
def OlEntry.extent (e : OlEntry) : Nat :=
  match e.kind with
  | .ctrAdd | .ctrRd _ => 16
  | .barArv _ | .lkDef .. => 32
  | .wait bar => if bar then 32 else 16
  | _ => e.size

/-- What an entry needs of its leaf (R194, R216, R231). -/
def OlEntry.need (e : OlEntry) : Need :=
  match e.kind with
  | .load _ | .sld _ | .ctrRd _ | .lkDef .. | .wait _ => .read
  | .store | .sst => .write
  | _ => .update

/-- Whether a space admits an access's scope (R208, R227); plain loads and stores carry none. -/
def OlEntry.scopeOk (e : OlEntry) (coRes : Bool) : Bool :=
  match e.kind with
  | .atom .. | .binr =>
    (match e.space with
    | .glob => decide (e.scope ≠ 0)
    | .scr => decide (e.scope = 0)
    | .clu => decide (e.scope = 1) && coRes)
  | .ctrAdd | .barArv _ | .wait _ =>
    (match e.space with
    | .glob => true
    | .scr => decide (e.scope = 0)
    | .clu => decide (e.scope = 1) && coRes)
  | _ => (match e.space with
    | .clu => coRes
    | _ => true)

/-- An entry of a group by its index. -/
def Group.entry (g : Group) (idx : Nat) : Option OlEntry := g.olog.find? (fun e => decide (e.idx = idx))

/-- The lowest free index of the log. -/
def Group.freeEntry (g : Group) : Option Nat := (upFrom 0 32).find? (fun n => (g.entry n).isNone)

/-- An entry's lanes changed. -/
def Group.modEntry (g : Group) (idx : Nat) (f : OlLane → OlLane) : Group :=
  { g with olog := g.olog.map (fun e => if e.idx = idx then { e with lanes := e.lanes.map f } else e) }

/-- Some lanes of an entry put into a state. -/
def State.setLane (s : State) (gid idx : Nat) (ls : List Nat) (st : OlLane → LaneState) : State :=
  s.modGroup gid (fun g => g.modEntry idx (fun l => if ls.contains l.lane then { l with st := st l } else l))

/-- A lane's fault recorded with the DT (R325). -/
def State.faultLane (s : State) (gid idx : Nat) (ls : List Nat) (cause : BitVec 8) (walk : Option W64) : State :=
  s.setLane gid idx ls (fun _ => .faulted cause (walk.getD 0) s.dt)

/-! ## Places -/

/-- The group's co-resident team on tile t of the cluster, by its place in the set (R87, R180). -/
def State.cluTeam (s : State) (g : Group) (t : Nat) : Option Nat :=
  match s.team g.tid with
  | none => none
  | some own =>
    (s.teams.find? (fun x => decide (x.serial = own.serial) && decide (x.role = own.role) && decide (x.idx = own.idx / 4 * 4 + t) &&
      !x.ended)).map (·.tid)

/-- The row of a parity group that a word of a team's scratchpad lies in (07 R182). -/
def Team.rowOf (t : Team) (word : Nat) : Nat := (t.base + 4 * word) / 32

/-- Whether a read meets a failing word of a row with two of them, which cannot be rebuilt (07 R181). -/
def Team.wordsFail (t : Team) (off n : Nat) : Bool :=
  t.badWords.any (fun w => decide (4 * w < off + n) && decide (off < 4 * w + 4) &&
    decide (2 ≤ (t.badWords.filter (fun k => decide (t.rowOf k = t.rowOf w))).length))

/-- Bytes put into a team's scratchpad: a failing word written whole holds again (07 R181), a sector written whole is poisoned no longer (R173), and
a leader's sectors are copied for its checkpoint (13 R359). -/
def Team.put (t : Team) (off : Nat) (bs : List Byte) : Team :=
  let sectors := upFrom (off / 32) ((off % 32 + bs.length + 31) / 32)
  { t with
    scr := memSetList t.scr off bs
    scrPoison := t.scrPoison.filter (fun k => !(decide (off ≤ 32 * k) && decide (32 * k + 32 ≤ off + bs.length)))
    badWords := t.badWords.filter (fun w => !(decide (off ≤ 4 * w) && decide (4 * w + 4 ≤ off + bs.length)))
    sectors := if t.role = .leader then sectors.foldl (fun l k => insNat k l) t.sectors else t.sectors }

/-- Whether the sectors of a place come unpoisoned and delivered. -/
def State.placeClean (s : State) (p : Place) (n : Nat) : Bool :=
  match p with
  | .glob pa => s.cleanRange pa n
  | .scr tid off => match s.team tid with
    | some t => (upFrom (off / 32) ((off % 32 + n + 31) / 32)).all (fun k => !t.scrPoison.contains k) && !t.wordsFail off n
    | none => true

/-- The bytes of a place, whatever its poison; those of a team that has ended are free values, other ones at every clock and offset (log
entry 16). -/
def State.placeBytes (s : State) (p : Place) (n : Nat) : List Byte :=
  match p with
  | .glob pa => (upFrom pa n).map s.physByte
  | .scr tid off => match s.team tid with
    | some t => memGetList t.scr off n
    | none => (upFrom off n).map (fun k => (Config.freeValue (2 ^ 64 * (s.clock + 1) + 2 ^ 20 * tid + k)).extractLsb' 0 8)

/-- A value of up to 16 bytes at a place. -/
def State.placeVal (s : State) (p : Place) (n : Nat) : Nat := bytesVal (s.placeBytes p n)

/-- A place some bytes further. -/
def Place.plus (p : Place) (n : Nat) : Place :=
  match p with
  | .glob pa => .glob (pa + n)
  | .scr tid off => .scr tid (off + n)

/-- Whether the ranges of two accesses at places meet. -/
def Place.meets (p : Place) (n : Nat) (q : Place) (m : Nat) : Bool :=
  match p, q with
  | .glob a, .glob b => decide (a < b + m) && decide (b < a + n)
  | .scr t a, .scr u b => decide (t = u) && decide (a < b + m) && decide (b < a + n)
  | _, _ => false

/-! ## Homes, stash and scratchpad -/

/-- Movability counted at the address home where the page asks for it (R200). -/
def State.countAccess (s : State) (g : Group) (p : Place) (kind : Nat) : State :=
  match p with
  | .glob pa => if kind / 8 % 2 = 1 then s.countMovable pa s.chip (dieOf g.tile) else s
  | _ => s

/-- The bytes that the block of a leaf of these kind bits maps (R196). -/
def kindBlock (kind : Nat) : Nat := if kind / 512 % 2 = 1 then 16 * leafSize (kind / 64 % 8) else leafSize (kind / 64 % 8)

/-- The mapping of a team's stash that covers a VA. -/
def Team.mapping (t : Team) (va : Nat) : Option StashMap :=
  t.stash.find? (fun m => decide (m.va ≤ va) && decide (va < m.va + m.len))

/-- The line of a team's stash that covers a VA. -/
def Team.stashLine (t : Team) (va : Nat) : Option StashLine :=
  match t.mapping va with
  | some m => m.lines.find? (fun l => decide (l.va = va / 128))
  | none => none

/-- A line put into the mapping that covers it. -/
def Team.putStash (t : Team) (x : StashLine) : Team :=
  { t with stash := t.stash.map (fun m =>
      if m.va ≤ 128 * x.va && 128 * x.va < m.va + m.len then
        { m with lines := m.lines.filter (fun l => decide (l.va ≠ x.va)) ++ [x] } else m) }

/-- A touch of a stash line by a group's load or store: one held and owned serves it; otherwise the line is filled from its home, or asks for
it again, with ownership of all four sectors, so that no other party keeps a copy (R187, R190).  A store leaves it dirty. -/
def State.touchStash (s : State) (g : Group) (va pa kind : Nat) (wr : Bool) : State :=
  match s.team g.tid with
  | none => s
  | some t =>
    let old := t.stashLine va
    let serves := match old with
      | some l => l.owned || !wr
      | none => false
    let s1 := if serves then s else
      let s2 := ((s.countHome (some g.ctx) pa 0 wr).takeStash g.tid pa).countAccess g (.glob pa) kind
      { s2 with l1 := s2.l1.filter (fun (x : L1Sector) => decide (x.sector / 4 ≠ pa / 128)) }
    let new : StashLine := match old with
      | some l => { l with dirty := l.dirty || wr, owned := l.owned || wr, w := l.w || wr }
      | none => ⟨va / 128, pa / 128, wr, true, decide (kind / 32 % 2 = 1), wr, kindBlock kind⟩
    s1.modTeam g.tid (fun t => t.putStash new)

/-- Bytes written at a place by a group: scratchpad bytes at the banks, global bytes at the home; a store that cannot be delivered is
discarded (R199). -/
def State.placeWrite (s : State) (g : Group) (p : Place) (kind : Nat) (bs : List Byte) : State :=
  match p with
  | .glob pa =>
    if s.delivers (dieOf g.tile) pa kind then ((s.countHome (some g.ctx) pa kind true).homeWrite g.tile g.gid g.tid pa bs).countAccess g p kind
    else s.loseStore
  | .scr tid off => s.modTeam tid (fun t => t.put off bs)

/-! ## Prism (13 R355, R356) -/

/-- The segment a leader's or follower's instruction belongs to: the first one its group closed at or after it, else the open one
(R352). -/
def State.segOf (s : State) (g : Group) (seq : Nat) : Nat :=
  match s.team g.tid with
  | none => 0
  | some t =>
    let mine := t.closes.filter (fun c => decide (c.gidx = g.gidx.toNat) && decide (seq < c.seq))
    match mine with
    | [] => (match t.chord with
      | some c => c.open_
      | none => t.nextSeg g.gidx.toNat)
    | c :: rest => rest.foldl (fun m x => min m x.seg) c.seg

/-- A tentative byte put among versions, replacing the same byte of the same segment (R355); stores to the register window are each performed, in
their order (07 R185). -/
def putVersion (l : List Version) (v : Version) : List Version :=
  (if isWindow v.pa then l else l.filter (fun x => !(decide (x.seg = v.seg) && decide (x.pa = v.pa)))) ++ [v]

/-- The youngest tentative byte of a team. -/
def youngest (l : List Version) (pa : Nat) : Option Byte :=
  (l.filter (fun x => decide (x.pa = pa))).foldl (fun best x =>
    match best with
    | none => some x
    | some b => if b.seg ≤ x.seg then some x else some b) none |>.map (·.val)

/-- The versions a group's loads see: its own team's as leader (R355). -/
def State.versOf (s : State) (g : Group) : List Version :=
  if g.role = .leader then
    match s.chordOf g with
    | some c => c.vers
    | none => []
  else []

/-- Whether a checked leader's global stores are tentative: its team has a trailer (level 1 and up). -/
def State.tentative (s : State) (g : Group) : Bool :=
  match g.role, s.chordOf g with
  | .leader, some c => decide (c.level ≠ 0)
  | .third, _ => true
  | _, _ => false

/-- Whether the Prism store of a die has no room for a new version: 12 MiB (R355). -/
def State.prismFull (s : State) (pa : Nat) : Bool := decide (12 * 2 ^ 20 ≤ s.prismHeld (localOf pa / Config.dieBytes))

/-- The oldest segment of a leader that is still to be committed: a store that a fault held back beyond its own segment's commit belongs
to it. -/
def State.oldestSeg (s : State) (g : Group) : Nat :=
  match g.role, s.chordOf g with
  | .leader, some c => (match c.segs.find? (fun x => !x.rel) with
    | some x => x.n
    | none => c.open_)
  | _, _ => 0

/-- The segment to which a tentative store of an instruction belongs. -/
def State.versionSeg (s : State) (g : Group) (seq : Nat) : Nat := max (s.segOf g seq) (s.oldestSeg g)

/-- Whether a tentative store needs a byte that its segment has no version of yet (R355). -/
def State.needsVersion (s : State) (g : Group) (seq pa n : Nat) : Bool :=
  let old := match s.leaderTeam g with
    | some t => (match t.chord with
      | some c => if g.role = Role.third then c.thirdVers else c.vers
      | none => [])
    | none => []
  let seg := s.versionSeg g seq
  (upFrom pa n).any (fun a => !old.any (fun v => decide (v.seg = seg) && decide (v.pa = a)))

/-- A tentative store: of a leader into its versions, of a third run into its own (R355, R359). -/
def State.versionWrite (s : State) (g : Group) (seq pa : Nat) (bs : List Byte) : State :=
  let seg := s.versionSeg g seq
  let new := (upFrom 0 bs.length).map (fun i => (⟨seg, pa + i, bs.getD i 0⟩ : Version))
  match s.leaderTeam g with
  | none => s
  | some t =>
    if g.role = .third then s.modChord t.tid (fun c => { c with thirdVers := new.foldl putVersion c.thirdVers })
    else s.modChord t.tid (fun c => { c with vers := new.foldl putVersion c.vers })

/-! ## Counters and barriers (09 R228 to R239) -/

/-- The word at a place plus an offset. -/
def State.word (s : State) (p : Place) (off : Nat) : W64 := BitVec.ofNat 64 (s.placeVal (p.plus off) 8)

/-- A word written at an object's point, by a party of a tile and group (0 for none). -/
def State.setWord (s : State) (tile gid tid : Nat) (p : Place) (off : Nat) (x : W64) : State :=
  match p with
  | .glob pa => s.homeWrite tile gid tid (pa + off) (leBytes 8 x.toNat)
  | .scr t o => s.modTeam t (fun t => t.put (o + off) (leBytes 8 x.toNat))

/-- An error recorded in an object's status word: the first stands (R230). -/
def State.recordError (s : State) (p : Place) (code : Nat) : State :=
  let st := s.word p 8
  if st.getLsbD 63 then s
  else s.setWord 2048 0 0 p 8 (BitVec.ofNat 64 (2 ^ 63 + code % 128 * 2 ^ 56 + s.dt % 2 ^ 56))

/-! ## Atomics (08 R211 to R218) -/

/-- The float format of a type code. -/
def atomFmt (t : Nat) : Option Fmt :=
  match t with
  | 4 => some fmtF32
  | 5 => some fmtF64
  | 6 => some fmtBF16
  | _ => none

/-- Bytes of a type code (R211). -/
def atomSize (t : Nat) : Nat := if t = 2 || t = 3 || t = 5 then 8 else 4

/-- A float step: ADD, MIN or MAX of m and x, an invalid one giving OriginNaN with the address and lane of R213. -/
def floatStep (f : Fmt) (op : Nat) (pc : BitVec 57) (lane m x : Nat) : Nat :=
  match op with
  | 0 => (f.add .rne (f.originNan pc lane) (f.decode m) (f.decode x)).1
  | 1 => (f.minmax false m x).1
  | _ => (f.minmax true m x).1

/-- The new memory value of R212. -/
def atomNew (t op : Nat) (pc : BitVec 57) (lane m x cmp : Nat) : Nat :=
  let w := 8 * atomSize t
  match atomFmt t with
  | some f =>
    if op = 6 then x
    else if t = 6 then
      floatStep f op pc lane (m % 65536) (x % 65536) + floatStep f op pc lane (m / 65536) (x / 65536) * 65536
    else floatStep f op pc lane m x
  | none =>
    let sg := fun (v : Nat) => if t % 2 = 1 then (BitVec.ofNat w v).toInt else (v : Int)
    match op with
    | 0 => (m + x) % 2 ^ w
    | 1 => if sg m ≤ sg x then m else x
    | 2 => if sg m ≤ sg x then x else m
    | 3 => m &&& x
    | 4 => m ||| x
    | 5 => m ^^^ x
    | 6 => x
    | 7 => if x ≤ m then 0 else m + 1
    | _ => if m = cmp then x else m

/-- One lane's operand: lane, x, cmp. -/
abbrev AtomArg := Nat × Nat × Nat

/-- Lanes applied one after another, with the values they return (R216, R218). -/
def atomEach (t op : Nat) (pc : BitVec 57) : Nat → List AtomArg → Nat × List (Nat × Nat)
  | m, [] => (m, [])
  | m, (l, x, c) :: rest =>
    let (m', out) := atomEach t op pc (atomNew t op pc l m x c) rest
    (m', (l, m) :: out)

/-- RED and REDS: the lanes' operands combined in lane order and applied once; INC once per lane (R216, R218). -/
def atomRed (t op : Nat) (pc : BitVec 57) (m : Nat) (l : List AtomArg) : Nat :=
  if op = 7 then (atomEach t op pc m l).1
  else match l with
    | [] => m
    | (l0, x0, _) :: rest =>
      atomNew t op pc l0 m (rest.foldl (fun s a => atomNew t op pc a.1 s a.2.1 0) x0) 0

/-! ## Translation of a lane (R176, R178, R180, R190) -/

/-- Whether an access is one that a stash serves; atomics and objects are reached at their homes (R190, R210). -/
def OlEntry.stashes (e : OlEntry) : Bool :=
  match e.kind with
  | .load _ | .sld _ | .store | .sst => true
  | _ => false

/-- The line of the group's stash that serves a lane's access without a translation (R190). -/
def State.stashServes (s : State) (g : Group) (e : OlEntry) (l : OlLane) : Option StashLine :=
  match (if e.stashes then s.team g.tid else none).bind (fun t => t.stashLine l.addr.toNat) with
  | some x => if x.w || !e.stores then some x else none
  | none => none

/-- The physical address a lane's access takes through its aperture alone (R176). -/
def State.quickPa (s : State) (g : Group) (e : OlEntry) (l : OlLane) : Option Nat :=
  let stashed := (if e.stashes then s.team g.tid else none).any (fun t => (t.mapping l.addr.toNat).isSome)
  match l.fast with
  | some eff =>
    if e.ta.isSome && !stashed && decide (eff + e.size ≤ e.apt.limit.toNat) && (if e.need.stores then e.apt.w else e.apt.r) then
      some (s.chip.toNat * 2 ^ 48 + e.apt.frame.toNat + eff)
    else none
  | none => none

/-- The new state of a lane whose address is looked up: located, with kind 16 where the stash serves it, or faulted with its cause (R171,
R176, R180, R190, R220, R231); cluster memory of a team that has ended has no bytes (16 R412). -/
def State.locate (s : State) (g : Group) (e : OlEntry) (l : OlLane) : LaneState × State :=
  let fault : BitVec 8 → Option W64 → LaneState := fun c w => .faulted c (w.getD 0) s.dt
  let a := l.addr.toNat
  if a % e.align ≠ 0 then (fault 0x04 none, s)
  else if !e.scopeOk g.coRes then (fault 0x05 none, s)
  else
    match e.space with
    | .scr => if g.scratch < a + e.extent then (fault 0x07 none, s) else (.located (.scr g.tid a) 0, s)
    | .clu =>
      match (if a < 2 ^ 20 then s.cluTeam g (a / 2 ^ 18) else none) with
      | some tid => if g.scratch < a % 2 ^ 18 + e.extent then (fault 0x07 none, s) else (.located (.scr tid (a % 2 ^ 18)) 0, s)
      | none => (fault 0x07 none, s)
    | .glob =>
      if (e.ta.isSome && !e.apt.v) || 2 ^ 57 ≤ a then (fault 0x07 none, s)
      else
        let stashed := (if e.stashes then s.team g.tid else none).any (fun t => (t.mapping a).isSome)
        match s.stashServes g e l, s.quickPa g e l with
        | some x, _ => (.located (.glob (128 * x.pa + a % 128)) 16, s)
        | none, some pa =>
          let kind := match s.walk ⟨g.ctx, g.tile, e.priv⟩ a with
            | (.leaf p _ level, _) => leafKind p level / 8 * 8
            | _ => 0
          (.located (.glob pa) kind, s)
        | none, none =>
          match s.translate ⟨g.ctx, g.tile, e.priv⟩ a e.need with
          | (.error (c, w), s1) => (fault c w, s1)
          | (.ok t, s1) =>
            let kind := leafKind t.leaf t.level
            (.located (.glob (t.at a)) (if stashed && decide (kind % 8 = 0) && !s1.biased (t.at a) then kind + 16 else kind), s1)

/-- Whether a lane's address cannot be looked up yet: its walk waits for a line (R187, R195). -/
def State.lookHeld (s : State) (g : Group) (e : OlEntry) (l : OlLane) : Bool :=
  decide (e.space = .glob) && (s.stashServes g e l).isNone && (s.quickPa g e l).isNone &&
    s.transHeld ⟨g.ctx, g.tile, e.priv⟩ l.addr.toNat e.need

/-! ## When an access may be performed (R172, R250, R252, R326; R246, R256, R310, R378, R400, R402) -/

/-- Whether an earlier store or atomic of the group is still to be performed. -/
def Group.storesBefore (g : Group) (seq : Nat) : Bool :=
  g.olog.any (fun e => decide (e.seq < seq) && e.stores && e.lanes.any (fun l => l.st.unperformed))

/-- Whether an earlier load or atomic of the group has not returned. -/
def Group.loadsBefore (g : Group) (seq : Nat) : Bool :=
  g.olog.any (fun e => decide (e.seq < seq) && (e.loads || e.atomic) && e.lanes.any (fun l => l.st.isOpen))

/-- Whether a pending FENCE, or a release of another kind that is not complete, holds an access of the group back (R246, R252). -/
def Group.fenced (g : Group) (e : OlEntry) : Bool := g.fences.any (fun f => decide (f.1 < e.seq) && e.fencedBy f.2.2)

/-- The releases of LK.REL, LK.END, LAUNCH and QPOST, whose scope is written as 4, that are complete are taken out: every earlier store
performed, every acknowledgement there (R252). -/
def Group.settleReleases (g : Group) : Group :=
  { g with fences := g.fences.filter (fun f => !(decide (f.2.1 = 4) && !g.storesBefore f.1 && decide (g.acks = 0))) }

/-- Whether something but the host's ownership makes a request to a place wait: an engine's ownership, the copying of its line, a bias flip, a
routing entry that has not applied, a tile whose clock is stopped. -/
def State.placeBusy (s : State) (p : Place) : Bool :=
  match p with
  | .glob pa => s.lineBusy pa
  | .scr tid _ => match s.team tid with
    | some t => (s.tile t.tile).trans.isSome
    | none => false

/-- Whether something at a place makes a request wait, a line that the host owns among it: until the host returns it (R187). -/
def State.placeHeld (s : State) (p : Place) : Bool :=
  s.placeBusy p || (match p with
    | .glob pa => s.hostLines.contains (pa / 64)
    | .scr .. => false)

/-- Whether something makes a counter or barrier operation at an object wait: a stopped tile's objects are operated on at their points all
the same (14 R378). -/
def State.objectHeld (s : State) (p : Place) : Bool :=
  match p with
  | .glob _ => s.placeHeld p
  | .scr .. => false

/-- Whether a device-type access of some lanes waits for an earlier access of the group, or a lower lane of its own (R185). -/
def Group.deviceHeld (g : Group) (e : OlEntry) (kind : Nat) (ls : List Nat) : Bool :=
  let open_ := fun (l : OlLane) => match l.st with
    | .pending => true
    | .located _ k => decide (k % 4 = 3)
    | _ => false
  decide (kind % 4 = 3) && (g.olog.any (fun x => decide (x.seq < e.seq) && x.lanes.any open_) ||
    e.lanes.any (fun l => open_ l && ls.all (fun k => decide (l.lane < k))))

/-- The order domain of a place for a group: global memory and the scratchpads of its own tile are one, the banks of each other tile another
(R180, R250). -/
def State.bankOf (s : State) (g : Group) (p : Place) : Nat :=
  match p with
  | .glob _ => 0
  | .scr tid _ => match s.team tid with
    | some t => if t.tile = g.tile then 0 else t.tile + 1
    | none => 0

/-- The places of an entry's lanes that are still to be performed. -/
def OlEntry.places (e : OlEntry) : List Place :=
  e.lanes.filterMap (fun l => match l.st with
    | .located p _ | .half p _ _ => some p
    | _ => none)

/-- Whether an access has a lane still to be performed in an order domain of another access. -/
def State.sharesBank (s : State) (g : Group) (x e : OlEntry) : Bool :=
  x.places.any (fun p => e.places.any (fun q => decide (s.bankOf g p = s.bankOf g q)))

/-- Whether an entry stores to a queue's doorbell, which is a release at system scope (03 R79). -/
def State.rings (s : State) (e : OlEntry) : Bool :=
  e.stores && e.places.any (fun p => match p with
    | .glob pa => (match s.physKind pa with
      | .win off => decide (0x100000 ≤ off) && decide (off < 0x180000) && decide (off % 32 = 16)
      | _ => false)
    | .scr .. => false)

/-- Whether an entry is a release, as it is written or by where it stores (R251). -/
def State.isRelease (s : State) (e : OlEntry) : Bool := e.release || s.rings e

/-- Whether an earlier store or atomic of a group holds a later one back: where either is a release or the earlier an acquire, while it is not
performed; else while its address is not known, it is faulted, or it goes to the same banks (R219, R250, R252, R326). -/
def State.storeHolds (s : State) (g : Group) (x e : OlEntry) : Bool :=
  x.stores && (((s.isRelease x || s.isRelease e || x.acquire) && x.lanes.any (fun l => l.st.unperformed)) ||
    x.lanes.any (fun l => l.st.isPending || l.st.isFaulted) || s.sharesBank g x e)

/-- Whether an earlier load of a group holds a later store back (R249, R250): while it is located and not performed in the store's order domain, or its
address is still to be looked up and will be found there; a load that faults holds nothing (R326's example). -/
def State.loadHolds (s : State) (g : Group) (x e : OlEntry) : Bool :=
  x.loads && (s.sharesBank g x e || x.lanes.any (fun l => l.st.isPending &&
    (match (s.locate g x l).1 with
    | .located p _ => e.places.any (fun q => decide (s.bankOf g p = s.bankOf g q))
    | _ => false)))

/-- Whether an access is to the group's own scratchpad, by whatever path. -/
def OlEntry.ownScratch (e : OlEntry) (g : Group) : Bool :=
  e.places.any (fun p => match p with
    | .scr tid _ => decide (tid = g.tid)
    | _ => false)

/-- Whether an instruction of the group issued before a store of the scratchpad has still to read it: the scales of an MMA, the source of a
CP.OUT (06 R156; 11 R299). -/
def State.readsScratch (s : State) (g : Group) (seq : Nat) : Bool :=
  s.jobs.any (fun j => decide (j.gid = g.gid) && !j.started && decide (j.seq < seq) &&
    (match j.op with | .mma t _ _ => decide (t < 2) | _ => false)) ||
  s.cmds.any (fun c => decide (c.gid = g.gid) && decide (c.kind = 1) && !c.done && decide (c.seq < seq))

/-- Whether an access meets the scratchpad of a team whose bytes are in its save area: it waits until they are back (12 R336; log entry 99). -/
def State.bankAway (s : State) (e : OlEntry) : Bool :=
  e.places.any (fun p => match p with
    | .scr tid _ => (s.team tid).any (fun t => t.saved)
    | .glob _ => false)

/-- Whether the entry's lanes may be performed now, but for the places' own holds. -/
def State.mayPerform (s : State) (g : Group) (e : OlEntry) : Bool :=
  !g.fenced e && !s.bankAway e &&
    (if e.stores then
      !(e.lanes.any (fun l => l.st.isPending)) &&
        !(g.olog.any (fun x => decide (x.seq < e.seq) && (s.storeHolds g x e || s.loadHolds g x e))) &&
        (!s.isRelease e || decide (g.acks = 0)) && !(e.ownScratch g && s.readsScratch g e.seq)
    else
      !(e.lanes.any (fun l => l.st.isPending)) && !(g.olog.any (fun x => decide (x.seq < e.seq) &&
        ((x.loads && x.lanes.any (fun l => match l.st with | .pending | .located .. | .half .. => true | _ => false)) ||
          (x.stores && x.lanes.any (fun l => l.st.isPending)) ||
          (x.acquire && x.lanes.any (fun l => l.st.unperformed))))))

/-! ## Performing lanes -/

/-- The youngest earlier store of the group not yet performed that covers a byte (R172, R326): its byte, or none inside where an atomic
covers it. -/
def Group.forward (g : Group) (seq : Nat) (p : Place) (glob : Bool) (va : Nat) : Option (Option Byte) :=
  let hits := g.olog.flatMap (fun e =>
    if e.seq < seq && e.stores then
      e.lanes.filterMap (fun l =>
        let by_ : Option Nat := match l.st with
          | .located q _ => if q.meets e.extent p 1 then
              (match q, p with
              | .glob a, .glob b => some (b - a)
              | .scr _ a, .scr _ b => some (b - a)
              | _, _ => none) else none
          | .half q _ _ => if q.meets e.extent p 1 then some 0 else none
          | .faulted .. =>
            if decide (e.space = .glob) = glob && decide (l.addr.toNat ≤ va) && decide (va < l.addr.toNat + e.extent) then
              some (va - l.addr.toNat) else none
          | _ => none
        by_.map (fun i => (e.seq * 32 + l.lane, if e.atomic then none else some (l.data.extractLsb' (8 * i) 8))))
    else [])
  (hits.foldl (fun (best : Option (Nat × Option Byte)) h => match best with
    | none => some h
    | some b => if b.1 ≤ h.1 then some h else some b) none).map (·.2)

/-- Whether a split of a group is parked on a wait at an object that is not decided yet. -/
def Group.waitAt (g : Group) (sp : Split) (p : Place) : Option Wait :=
  match sp.park with
  | .ctr w =>
    (match g.entry w.entry with
    | some e => if w.decided.isNone && e.lanes.any (fun l => match l.st with
        | .located q _ => decide (q = p)
        | _ => false) then some w else none
    | none => none)
  | _ => none

/-- Whether a wait's target is met by a count, or a phase. -/
def Wait.reachedBy (w : Wait) (c : W64) : Bool := if w.bar then decide (w.target.toNat < c.toNat) else decide (w.target.toNat ≤ c.toNat)

/-- Whether a wait's object may be read for it now: no FENCE holds it, and no earlier store or add of its own group to the object is still to be
performed (R246, R249, R254). -/
def State.waitReady (s : State) (g : Group) (w : Wait) (p : Place) : Bool :=
  match g.entry w.entry with
  | none => false
  | some e =>
    let va := match e.lanes with
      | l :: _ => l.addr.toNat
      | [] => 0
    s.mayPerform g e && (upFrom 0 e.extent).all (fun i => (g.forward e.seq (p.plus i) (decide (e.space = .glob)) (va + i)).isNone)

/-- The waits at an object decided at its point by DT (R235; 14 R379), where they may read it: those the count or phase there meets have reached, and
of the rest those whose deadline has passed before `dt` have timed out. -/
def State.decideWaits (s : State) (p : Place) (dt : Nat) : State :=
  let c := s.word p 0
  let st := s.word p 8
  s.mapGroups (fun g =>
    if g.live && !g.away then
      { g with splits := g.splits.map (fun sp => match g.waitAt sp p with
        | some w =>
          if !s.waitReady g w p then sp
          else if w.reachedBy c then { sp with park := .ctr { w with decided := some (true, st, c) } }
          else if (match w.deadline with | some t => decide (t.toNat < dt) | none => false) then
            { sp with park := .ctr { w with decided := some (false, st, c) } }
          else sp
        | none => sp) }
    else g)

/-- COUNT := COUNT + v (R232); a wait whose deadline had passed before is decided before, one the sum reaches after. -/
def State.counterAdd (s : State) (p : Place) (v : W64) : State :=
  ((s.decideWaits p s.dt).setWord 2048 0 0 p 0 (s.word p 0 + v)).decideWaits p 0

/-- BYTES of a PEND word, signed (R229). -/
def pendBytes (w : W64) : Int := (w.extractLsb' 0 40).toInt

/-- AddBytes (R239). -/
def State.addBytes (s : State) (p : Place) (x : Int) : State :=
  let pend := s.word p 16
  let y := pendBytes pend + x
  let s1 := if y < -(2 ^ 39) || 2 ^ 39 - 1 < y then s.recordError p 0x31 else s
  s1.setWord 2048 0 0 p 16 (setField pend 0 40 (BitVec.ofInt 40 y).toNat)

/-- Complete (R239). -/
def State.completePhase (s : State) (p : Place) : State :=
  let pend := s.word p 16
  if field pend 40 16 = field (s.word p 24) 0 16 && decide (pendBytes pend = 0) then
    let ph := s.word p 0 + 1
    ((s.setWord 2048 0 0 p 0 ph).setWord 2048 0 0 p 16 (setField (setField pend 40 16 0) 56 1 (field ph 0 1))).decideWaits p 0
  else s

/-- Whether a barrier's EXPECT or PEND makes it invalid (R239). -/
def State.badBarrier (s : State) (p : Place) : Bool :=
  let ex := s.word p 24
  decide (field ex 0 16 = 0) || decide (field ex 16 48 ≠ 0) || decide (field (s.word p 16) 57 7 ≠ 0)

/-- BAR.ARV at the point: the phase as it stood, and the arrival (R239). -/
def State.barArrive (s : State) (p : Place) (bytes : Int) : W64 × State :=
  let phase := s.word p 0
  if s.badBarrier p then (phase, s.recordError p 0x32)
  else
    let pend := s.word p 16
    if field pend 40 16 = field (s.word p 24) 0 16 then (phase, s.recordError p 0x30)
    else
      let s1 := s.setWord 2048 0 0 p 16 (setField pend 40 16 (field pend 40 16 + 1))
      (phase, (s1.addBytes p bytes).completePhase p)

/-- `n` bytes landing at a barrier (R239). -/
def State.barLand (s : State) (p : Place) (n : Nat) : State :=
  let s1 := s.addBytes p (-(n : Int))
  if s1.badBarrier p then s1.recordError p 0x32 else s1.completePhase p

/-- The bytes a load of a group gets at a place, and the state with what the caches gained; none when they come poisoned (R173, R186, R190,
R199, R355, R391).  Lines of pages with host bias are not held in the L1 (log entry 84). -/
def State.fetchBytes (s : State) (g : Group) (e : OlEntry) (p : Place) (kind va : Nat) : Option (List Byte) × State :=
  match p with
  | .scr tid off =>
    if s.placeClean p e.size then (some (s.placeBytes (.scr tid off) e.size), s) else (none, s)
  | .glob pa =>
    match s.physKind pa with
    | .win off =>
      if e.size = 8 && decide (kind % 4 = 3) && s.ready 12 && (match e.kind with | .load _ | .sld _ => true | _ => false) then
        (some ((upFrom 0 8).map (fun i => (youngest (s.versOf g) (pa + i)).getD ((leBytes 8 (s.winRead off).toNat).getD i 0))), s)
      else (none, s)
    | _ =>
      let vers := s.versOf g
      let mine := vers.any (fun v => decide (v.pa / 128 = pa / 128))
      if kind / 16 % 2 = 1 && !s.biased pa && (s.team g.tid).any (fun t => (t.mapping va).isSome) then
        let s1 := s.touchStash g va pa kind false
        (s1.physRead pa e.size, s1)
      else
        let l1ok := decide (kind % 8 = 0) && !s.biased pa && !mine && (match e.kind with | .ctrRd _ | .lkDef .. => false | _ => true)
        match (if l1ok then s.l1Find g.tile (pa / 32) else none) with
        | some x => (some ((x.bytes.drop (pa % 32)).take e.size), s.account g.ctx 1)
        | none =>
          let s1 := (s.homeRead (some g.ctx) g.tid pa kind).countAccess g p kind
          if s.delivers (dieOf g.tile) pa kind && s.cleanRange pa e.size then
            let bs := (upFrom pa e.size).map (fun a => (youngest vers a).getD (s.physByte a))
            if l1ok && decide (e.hint ≠ 3) then
              (some bs, (s1.l1Put g.tile (pa / 32) e.hint ((upFrom (pa / 32 * 32) 32).map s.physByte)).account g.ctx 0)
            else (some bs, if l1ok then s1 else s1.l1Drop g.tile (pa / 32))
          else (none, s1)

/-- What an instruction of the focus reads of its descriptor of 64 bytes: they and the state with what the read used, or why not (03 R84; 11 R302). -/
abbrev DescRead := Except (BitVec 8 × Option W64) (List Byte) × State

/-- The 64 bytes of a descriptor read at device scope by the focus, its own earlier stores and its team's tentative bytes seen (R172, R355). -/
def State.readOwn (s : State) (q : Req) (va : Nat) : DescRead :=
  match s.translate q va .read with
  | (.error c, s1) => (.error c, s1)
  | (.ok e, s1) =>
    let pa := e.at va
    let kind := leafKind e.leaf e.level
    let s2 := s1.homeRead (some q.ctx) s1.g.tid pa kind
    if s1.delivers (dieOf q.tile) pa kind && s1.cleanRange pa 64 then
      (.ok ((upFrom 0 64).map (fun i => match s1.g.forward s1.g.seq (.glob (pa + i)) true (va + i) with
        | some (some b) => b
        | _ => (youngest (s1.versOf s1.g) (pa + i)).getD (s1.physByte (pa + i)))), if kind / 8 % 2 = 1 then s2.countMovable pa s.chip (dieOf q.tile) else s2)
    else (.error (0x09, none), s2)

/-- Whether the read of a descriptor waits: its walk, its line, or an atomic of the group's own that is to write it (R172, R187). -/
def State.ownHeld (s : State) (q : Req) (va : Nat) : Bool :=
  s.vaHeld q va .read || (match s.translate q va .read with
    | (.ok e, s1) => (upFrom 0 64).any (fun i => match s1.g.forward s1.g.seq (.glob (e.at va + i)) true (va + i) with
      | some none => true
      | _ => false)
    | (.error _, _) => false)

/-- A load's lanes at one place performed: the bytes of the youngest earlier stores of the group over those of memory (R170, R172). -/
def State.performLoad (s : State) (g : Group) (e : OlEntry) (p : Place) (kind : Nat) (ls : List Nat) : State :=
  let va := match e.lanes.find? (fun l => ls.contains l.lane) with
    | some l => l.addr.toNat
    | none => 0
  let off := match e.kind with
    | .ctrRd _ => (match e.lanes with | l :: _ => l.cmp.toNat * 8 | [] => 0)
    | _ => 0
  let fw := (upFrom 0 e.size).map (fun i => g.forward e.seq (p.plus (off + i)) (decide (e.space = .glob)) (va + off + i))
  if fw.any (fun f => match f with | some none => true | _ => false) then s
  else if fw.all (fun f => f.isSome) then
    let bs := fw.map (fun f => (f.getD none).getD 0)
    s.setLane g.gid e.idx ls (fun _ => .performed (BitVec.ofNat 128 (bytesVal bs)))
  else
    let (got, s1) := s.fetchBytes g e (p.plus off) kind va
    match got with
    | none => s1.faultLane g.gid e.idx ls 0x09 none
    | some base =>
      let bs := (upFrom 0 e.size).map (fun i => match fw.getD i none with
        | some (some b) => b
        | _ => base.getD i 0)
      s1.setLane g.gid e.idx ls (fun _ => .performed (BitVec.ofNat 128 (bytesVal bs)))

/-- Whether some lanes of a store, with those performed before, cover the whole 32-byte sector of a VA (R173). -/
def OlEntry.coversSector (e : OlEntry) (ls : List Nat) (va : Nat) : Bool :=
  (upFrom (va / 32 * 32) 32).all (fun a => e.lanes.any (fun l =>
    (ls.contains l.lane || (match l.st with
      | .performed _ | .done (some _) => true
      | _ => false)) && decide (l.addr.toNat ≤ a) && decide (a < l.addr.toNat + e.size)))

/-- The poison of a place's sector cleared: a store has covered it (R173). -/
def State.clearPoison (s : State) (p : Place) : State :=
  match p with
  | .glob pa => { s with poison := delNat (pa / 32) s.poison }
  | .scr tid off => s.modTeam tid (fun t => { t with scrPoison := delNat (off / 32) t.scrPoison })

/-- A store's lanes at one place of the register window performed (15 R391, R394): 8 bytes to a device-type page write the register, at their
segment's commit in a checked run (13 R355); any other store is lost (R199). -/
def State.performWindow (s : State) (g : Group) (e : OlEntry) (pa off kind : Nat) (bs : List Byte) : State :=
  if e.size ≠ 8 || kind % 4 ≠ 3 || !s.ready 12 then s.loseStore
  else if s.tentative g then s.versionWrite g e.seq pa bs
  else s.winWrite off (BitVec.ofNat 64 (bytesVal bs))

/-- A store's lanes at one place performed: the highest lane supplies the bytes (R170); a checked run's global store is tentative, and waits where it
needs a new version and Prism is full (R355); a follower's is not performed (R347). -/
def State.performStore (s : State) (g : Group) (e : OlEntry) (p : Place) (kind : Nat) (ls : List Nat) : State :=
  let data := match (e.lanes.filter (fun l => ls.contains l.lane)).getLast? with
    | some l => l.data.toNat
    | none => 0
  let va := match e.lanes.find? (fun l => ls.contains l.lane) with
    | some l => l.addr.toNat
    | none => 0
  let bs := leBytes e.size data
  let done := fun (s : State) => s.setLane g.gid e.idx ls (fun _ => .performed 0)
  let mend := fun (s : State) => if e.coversSector ls va then s.clearPoison p else s
  match p with
  | .scr tid off =>
    let s1 := mend (s.placeWrite g p kind bs)
    done (if g.role = .leader && decide (tid = g.tid) then s1.checkWrite g.tid (s1.segOf g e.seq) off bs else s1)
  | .glob pa =>
    match s.physKind pa with
    | .win off => done (s.performWindow g e pa off kind bs)
    | _ =>
      if s.tentative g then
        if s.prismFull pa && s.needsVersion g e.seq pa e.size then s else done (s.versionWrite g e.seq pa bs)
      else if !s.delivers (dieOf g.tile) pa kind then done s.loseStore
      else if kind / 16 % 2 = 1 && !s.biased pa && (s.team g.tid).any (fun t => (t.mapping va).isSome) then
        done (mend ((s.touchStash g va pa kind true).physWrite pa bs))
      else done (mend (s.placeWrite g p kind bs))

/-- The scratchpad words an operation wrote, entered in a leader's log (R346). -/
def State.logWords (s : State) (g : Group) (e : OlEntry) (p : Place) (n : Nat) : State :=
  match p with
  | .scr tid off =>
    if tid = g.tid then
      s.logVals g e.cnt ((upFrom off n).map (fun a => (300000 + a, BitVec.ofNat 64 (s.placeVal (.scr tid a) 1))))
    else s
  | _ => s

/-- The arguments of an atomic's lanes at one place, ascending. -/
def OlEntry.args (e : OlEntry) (ls : List Nat) : List AtomArg :=
  (e.lanes.filter (fun l => ls.contains l.lane)).map (fun l => (l.lane, l.data.toNat, l.cmp.toNat))

/-- Whether an atomic of a group is not performed at its address but comes back poisoned: poison or no delivery, the register window, a
device-type page of the host window (R210, R220, R221). -/
def State.atomPoison (s : State) (g : Group) (p : Place) (n kind : Nat) : Bool :=
  !s.placeClean p n || (match p with
    | .glob pa => !s.delivers (dieOf g.tile) pa kind || (match s.physKind pa with
      | .host _ => decide (kind % 4 = 3)
      | _ => false)
    | _ => false)

/-- The write of an atomic's result, after which the issuing tile holds no older L1 copy (R209, R249). -/
def State.atomWrite (s : State) (g : Group) (p : Place) (kind : Nat) (bs : List Byte) : State :=
  let s1 := s.placeWrite g p kind bs
  match p with
  | .glob pa => s1.l1Drop g.tile (pa / 32)
  | _ => s1

/-- The issuing team's own stash line of a place written back and dropped, as for another party's write (R210). -/
def State.recallOwn (s : State) (p : Place) : State :=
  match p with
  | .glob pa => s.recallStash (fun _ l => decide (l.pa = pa / 128))
  | _ => s

/-- An acquire satisfied by a group at a scope: from cluster scope on, its tile's L1 keeps nothing older (R255). -/
def State.acquired (s : State) (g : Group) (acq : Bool) (scope : Nat) : State := if acq && decide (1 ≤ scope) then s.l1Flush g.tile else s

/-- An atomic's lanes at one place applied to a value: the new value, and each lane's returned value. -/
def OlEntry.apply (e : OlEntry) (ls : List Nat) (m : Nat) : Nat × List (Nat × Nat) :=
  match e.kind with
  | .atom t op ret => if ret then atomEach t op e.pc m (e.args ls) else (atomRed t op e.pc m (e.args ls), [])
  | .binr => atomEach 0 0 e.pc m ((e.args ls).map (fun a => (a.1, 1, 0)))
  | _ => (m, [])

/-- An atomic's lanes at one place: performed in one step, or at cluster scope on global memory first read and then written by the
cluster's atomic unit (R209, R216, R218). -/
def State.performAtom (s : State) (g : Group) (e : OlEntry) (p : Place) (kind : Nat) (ls : List Nat) : State :=
  if s.atomPoison g p e.size kind then s.faultLane g.gid e.idx ls 0x09 none
  else
    let here := match p with
      | .glob pa => (match s.physKind pa with
        | .dev _ => !s.forwards pa && !s.biased pa
        | _ => false)
      | _ => false
    let two := decide (e.scope = 1) && here && decide (kind % 8 = 0)
    let busy := two && s.groups.any (fun x => x.live && decide (clusterOf x.tile = clusterOf g.tile) &&
      x.olog.any (fun y => y.lanes.any (fun l => match l.st with
        | .half q _ _ => q.meets y.size p e.size
        | _ => false)))
    if busy then s
    else
      let s0 := s.recallOwn p
      let m := s0.placeVal p e.size
      if two then s0.setLane g.gid e.idx ls (fun _ => .half p kind (BitVec.ofNat 64 m))
      else
        let (m', out) := e.apply ls m
        let s1 := ((s0.atomWrite g p kind (leBytes e.size m')).logWords g e p e.size).acquired g e.acquire e.scope
        s1.setLane g.gid e.idx ls (fun l => .performed (BitVec.ofNat 128 ((out.find? (fun o => decide (o.1 = l.lane))).map (·.2) |>.getD 0)))

/-- The write-back of a cluster-scope atomic's lanes read before, as a store of the group (R209). -/
def State.performHalf (s : State) (g : Group) (e : OlEntry) (p : Place) (kind : Nat) (m : W64) (ls : List Nat) : State :=
  if s.placeHeld p then s
  else
    let (m', out) := e.apply ls m.toNat
    let s1 := (s.atomWrite g p kind (leBytes e.size m')).acquired g e.acquire e.scope
    s1.setLane g.gid e.idx ls (fun l => .performed (BitVec.ofNat 128 ((out.find? (fun o => decide (o.1 = l.lane))).map (·.2) |>.getD 0)))

/-- The invalidations that an object operation of a group sent, made the group's own: its tile drops its copy, the others' acknowledgements
are counted for the group (R188, R249). -/
def State.ownInvals (s : State) (g : Group) (before : Nat) : State :=
  let new := s.invals.drop before
  let rest := new.filter (fun (x : Inval) => decide (x.tile ≠ g.tile))
  let s1 := { s with
    invals := s.invals.take before ++ rest.map (fun (x : Inval) => { x with gid := g.gid })
    l1 := s.l1.filter (fun (x : L1Sector) => !(decide (x.tile = g.tile) && new.any (fun y => decide (y.sector = x.sector)))) }
  s1.modGroup g.gid (fun g => { g with acks := g.acks + rest.length })

/-- A counter add or an arrival performed at its object (R232, R239). -/
def State.performObject (s : State) (g : Group) (e : OlEntry) (p : Place) (kind : Nat) (ls : List Nat) : State :=
  if s.atomPoison g p e.extent kind then s.faultLane g.gid e.idx ls 0x09 none
  else
    let data := match e.lanes with
      | l :: _ => l.data.extractLsb' 0 64
      | [] => 0
    let s0 := match p with
      | .glob pa => ((s.recallOwn p).countHome (some g.ctx) pa kind true).countAccess g p kind
      | _ => s
    match e.kind with
    | .barArv _ =>
      let (ph, s1) := s0.barArrive p data.toInt
      ((s1.ownInvals g s0.invals.length).logWords g e p 32).setLane g.gid e.idx ls (fun _ => .performed (BitVec.ofNat 128 ph.toNat))
    | _ =>
      let s1 := s0.counterAdd p data
      ((s1.ownInvals g s0.invals.length).logWords g e p 16).setLane g.gid e.idx ls (fun _ => .performed 0)

/-- The descriptor read of LK.DEF, the group's own earlier stores over memory, and the definition it makes (R172; 10 R281). -/
def State.performDef (s : State) (g : Group) (e : OlEntry) (p : Place) (kind num : Nat) (ls : List Nat) : State :=
  let va := match e.lanes with
    | l :: _ => l.addr.toNat
    | [] => 0
  let fw := (upFrom 0 32).map (fun i => g.forward e.seq (p.plus i) true (va + i))
  if fw.any (fun f => match f with | some none => true | _ => false) then s
  else if !s.atomPoison g p 32 kind || fw.all (fun f => f.isSome) then
    let mem := s.placeBytes p 32
    let bs := (upFrom 0 32).map (fun i => match fw.getD i none with
      | some (some b) => b
      | _ => mem.getD i 0)
    let q : Req := ⟨g.ctx, g.tile, e.priv⟩
    if s.defHeld q num ((domainFrom g.ctx num bs).map (·.base)) then s
    else
      let (st, s1) := s.define q num bs
      s1.setLane g.gid e.idx ls (fun _ => .performed (BitVec.ofNat 128 st))
  else s.faultLane g.gid e.idx ls 0x09 none

/-- Whether a split of the group is parked on the wait of an entry. -/
def Group.waitsOn (g : Group) (idx : Nat) : Bool :=
  g.splits.any (fun x => match x.park with
    | .ctr w => decide (w.entry = idx)
    | _ => false)

/-- Whether a place lies in the scratchpad of a team that has ended, which has no bytes (16 R412). -/
def State.goneScratch (s : State) (p : Place) : Bool :=
  match p with
  | .scr tid _ => !(s.team tid).any (fun t => !t.ended)
  | _ => false

/-- Whether a global access of a group names a line that a command the group issued before is to write, and has not started to (11 R292). -/
def State.awaitsEngine (s : State) (g : Group) (e : OlEntry) (ls : List Nat) : Bool :=
  decide (e.space = .glob) && s.cmds.any (fun c => decide (c.gid = g.gid) && decide (c.seq < e.seq) && !c.started && !c.done && c.error.isNone &&
    e.lanes.any (fun l => ls.contains l.lane && c.dest.any (fun r => decide (r.2 ≠ 0) && decide (r.1 / 128 ≤ (l.addr.toNat + e.extent - 1) / 128) &&
      decide (l.addr.toNat / 128 ≤ (r.1 + r.2 - 1) / 128))))

/-- Whether all that holds a load at a place is the ownership of commands its group issued after it, which it never meets (11 R292). -/
def State.goesBefore (s : State) (g : Group) (e : OlEntry) (p : Place) : Bool :=
  e.loads && !({ s with owners := s.owners.filter (fun o => !s.cmds.any (fun c => decide (c.id = o.id) && decide (c.gid = g.gid) && decide (e.seq < c.seq))) }).placeHeld p

/-- Whether a store's lanes at an uncached place wait for a lower lane there, which they overwrite (R170, R185). -/
def OlEntry.laneAfter (e : OlEntry) (p : Place) (kind : Nat) (ls : List Nat) : Bool :=
  e.stores && decide (kind % 4 = 1) && e.lanes.any (fun l => ls.all (fun k => decide (l.lane < k)) && (match l.st with
    | .located q _ => decide (q = p)
    | _ => false))

/-- One place's lanes of an entry performed, by kind; a wait is looked at as long as its split is parked on it. -/
def State.performAt (s : State) (gid idx : Nat) (p : Place) (kind : Nat) (ls : List Nat) : State :=
  match s.group gid with
  | none => s
  | some g =>
    match g.entry idx with
    | none => s
    | some e =>
      if (if e.object then s.objectHeld p else s.placeHeld p && !s.goesBefore g e p) || g.deviceHeld e kind ls || e.laneAfter p kind ls || s.awaitsEngine g e ls then s
      else if s.goneScratch p then s.faultLane gid idx ls 0x07 none
      else
        match e.kind with
        | .load _ | .sld _ | .ctrRd _ => s.performLoad g e p kind ls
        | .lkDef _ n => s.performDef g e p kind n.toNat ls
        | .store | .sst => s.performStore g e p kind ls
        | .atom .. | .binr => s.performAtom g e p kind ls
        | .ctrAdd | .barArv _ => s.performObject g e p kind ls
        | .wait _ =>
          if g.waitsOn idx then s
          else if s.atomPoison g p e.extent kind then s.faultLane g.gid idx ls 0x09 none
          else s.setLane g.gid idx ls (fun _ => .performed 0)

/-- Whether two lanes' accesses of an entry to pages of a kind are performed as one: not on uncached and device pages, where each lane's is performed
once, unmerged (R185), nor an atomic's on a page that is not normal (08 R210). -/
def OlEntry.sameTarget (e : OlEntry) (p q : Place) (kind l k : Nat) : Bool :=
  decide (p = q) && (decide (kind % 4 = 0) || (decide (kind % 4 = 2) && !e.atomic) || decide (l = k))

/-- The located targets of a mask's lanes with every located lane that shares them (R170, R216). -/
def OlEntry.targets (e : OlEntry) (mask : W32) : List (Place × Nat × List Nat) :=
  let at_ := e.lanes.filterMap (fun l => match l.st with
    | .located p k => some (l.lane, p, k)
    | _ => none)
  let want := at_.filter (fun x => mask.getLsbD x.1)
  want.foldl (fun acc x =>
    if acc.any (fun y => y.2.2.contains x.1) then acc
    else acc ++ [(x.2.1, x.2.2, (at_.filter (fun y => e.sameTarget y.2.1 x.2.1 x.2.2 x.1 y.1)).map (·.1))]) []

/-- The targets of a mask's lanes that the cluster unit has read. -/
def OlEntry.halves (e : OlEntry) (mask : W32) : List (Place × Nat × W64 × List Nat) :=
  let at_ := e.lanes.filterMap (fun l => match l.st with
    | .half p k m => some (l.lane, p, k, m)
    | _ => none)
  let want := at_.filter (fun x => mask.getLsbD x.1)
  want.foldl (fun acc x =>
    if acc.any (fun y => y.2.2.2.contains x.1) then acc
    else acc ++ [(x.2.1, x.2.2.1, x.2.2.2, (at_.filter (fun y => decide (y.2.1 = x.2.1))).map (·.1))]) []

/-! ## Return of an entry -/

/-- The 32-bit value of one destination register of a load, narrow values extended (R177, R178). -/
def loadWord (signExt : Bool) (size : Nat) (v : BitVec 128) (j : Nat) : W32 :=
  if size = 1 then (if signExt then (v.extractLsb' 0 8).signExtend 32 else (v.extractLsb' 0 8).setWidth 32)
  else if size = 2 then (if signExt then (v.extractLsb' 0 16).signExtend 32 else (v.extractLsb' 0 16).setWidth 32)
  else v.extractLsb' (32 * j) 32

/-- The vector writes of a lane of an entry: (register, value) (R177, R216, R218). -/
def OlEntry.laneWrites (e : OlEntry) (v : BitVec 128) : List (Nat × W32) :=
  match e.kind with
  | .load sx => (upFrom 0 (max (e.size / 4) 1)).map (fun j => (e.dst + j, loadWord sx e.size v j))
  | .atom _ _ true => (upFrom 0 (e.size / 4)).map (fun j => (e.dst + j, v.extractLsb' (32 * j) 32))
  | .binr => [(e.dst, v.extractLsb' 0 32)]
  | _ => []

/-- The s register written by an entry. -/
def OlEntry.sWrites (e : OlEntry) (v : BitVec 128) : List (Nat × W64) :=
  match e.kind with
  | .sld d | .ctrRd d | .barArv d | .lkDef d _ => [(d, v.extractLsb' 0 64)]
  | _ => []

/-- The values of a finished entry's lanes, register by register, lanes ascending. -/
def OlEntry.received (e : OlEntry) : List (Nat × W32) × List (Nat × W64) :=
  let ws := e.lanes.flatMap (fun l => match l.st with
    | .done (some v) => (e.laneWrites v).map (fun x => (x.1 * 32 + l.lane, x.2))
    | _ => [])
  let regs := (ws.map (fun x => x.1 / 32)).foldl (fun acc r => insNat r acc) []
  (regs.flatMap (fun r => ws.filter (fun x => decide (x.1 / 32 = r))),
    e.lanes.flatMap (fun l => match l.st with
      | .done (some v) => e.sWrites v
      | _ => []))

/-- An entry whose lanes are all done: freed, what it received folded, and logged where it came from outside (R324, R346, R350). -/
def State.freeDone (s : State) (gid : Nat) : State :=
  match s.group gid with
  | none => s
  | some g =>
    (g.olog.filter (fun e => e.lanes.all (fun l => l.st.isDone))).foldl (fun s e =>
      let (vw, sw) := e.received
      let whole := decide ((e.lanes.filter (fun l => match l.st with | .done (some _) => true | _ => false)).length = 32)
      let s1 := s.modGroup gid (fun g =>
        { g with
          olog := g.olog.filter (fun x => decide (x.idx ≠ e.idx))
          regPoison := if whole then g.regPoison.filter (fun r => !e.destRegs.contains r) else g.regPoison })
      let s2 := s1.addFolds g e.seq false (foldList vw sw)
      if e.logged then
        s2.logVals g e.cnt (vw.map (fun w => (w.1, BitVec.ofNat 64 w.2.toNat)) ++ sw.map (fun w => (100000 + w.1, w.2)) ++ [(doneKey, 0)])
      else s2) s

/-- The performed lanes of a mask return: their registers are written and they are done (R34, R39, R324). -/
def State.returnLanes (s : State) (gid idx : Nat) (mask : W32) : State :=
  match s.group gid with
  | none => s
  | some g =>
    match g.entry idx with
    | none => s
    | some e =>
      let hit := e.lanes.filter (fun l => mask.getLsbD l.lane && (match l.st with | .performed _ => true | _ => false))
      let g1 := hit.foldl (fun g l => match l.st with
        | .performed v =>
          let g1 := (e.laneWrites v).foldl (fun g x => g.wv x.1 l.lane x.2) g
          (e.sWrites v).foldl (fun g x => g.ws x.1 x.2) g1
        | _ => g) g
      let g2 := g1.modEntry idx (fun l => if mask.getLsbD l.lane then
          (match l.st with | .performed v => { l with st := .done (some v) } | _ => l) else l)
      (s.modGroup gid (fun _ => g2)).freeDone gid

end Sys2Proof.Machine
end

