-- ==== Sys2Proof/Machine/Cache.lean ====
section
/-! DEFINITION. Context images: where their lines stand, the tile's register and accumulator caches that hold them, evictions and write-backs,
and values that come for lines not in the tile (01 R12; 06 R145, R165; 12 R330 to R335, R427). -/

namespace Sys2Proof.Machine

/-! ## Lines (12 R330, R331) -/

/-- The number of the group-state block among a group's lines. -/
def stateLine : Nat := 2000

/-- The number of an operand-log entry among a group's lines. -/
def logLine (entry : Nat) : Nat := 2100 + entry

/-- The VA of an image line (R330): a vector register, half an accumulator row, the group-state block, or an operand-log entry. -/
def imageLine (g : Group) (line : Nat) : Nat :=
  if line < 1024 then g.image + 128 * line
  else if line < 2000 then
    let k := line - 1024
    g.image + 0x8000 + 0x2000 * (k / 64) + 256 * (k / 2 % 32) + 128 * (k % 2)
  else if line < 2100 then g.image + 0x18000
  else g.image + 0x19000 + 1024 * (line - 2100)

/-- The bytes of an image line (R330). -/
def lineSize (line : Nat) : Nat := if line < 2000 then 128 else if line < 2100 then 4096 else 1024

/-- The image lines of the group-state block and the operand log have an encoding of the device's own (R330). -/
def codedLine (line : Nat) : Bool := decide (2000 ≤ line)

/-- The bytes of a register or accumulator line as the group holds them (R330). -/
def Group.lineBytes (g : Group) (line : Nat) : List Byte :=
  if line < 1024 then laneList.flatMap (fun l => leBytes 4 (g.rv line l).toNat)
  else
    let k := line - 1024
    (upFrom 0 16).flatMap (fun j => leBytes 8 (g.racc (k / 64) (k / 2 % 32) (16 * (k % 2) + j)).toNat)

/-- The bytes of a register or accumulator line put into the group. -/
def Group.fillLine (g : Group) (line : Nat) (bs : List Byte) : Group :=
  if line < 1024 then
    let g1 := laneList.foldl (fun (g : Group) l => g.wv line l (BitVec.ofNat 32 (bytesVal ((bs.drop (4 * l)).take 4)))) g
    { g1 with dirty := delNat line g.dirty, touched := g.touched }
  else if line < 2000 then
    let k := line - 1024
    let g1 := (upFrom 0 16).foldl (fun (g : Group) j =>
      g.wacc (k / 64) (k / 2 % 32) (16 * (k % 2) + j) (BitVec.ofNat 64 (bytesVal ((bs.drop (8 * j)).take 8)))) g
    { g1 with dirty := delNat line g.dirty, touched := g.touched }
  else g

/-! ## Access to the image (R333, R427) -/

/-- A group halted by a failed access to its image, with the event that tells it (R427); an error in the group-state block is a Register Data
Error (R332). -/
def State.imageFault (s : State) (g : Group) (cause : BitVec 8) (walk : Option W64) (addr : Nat) : State :=
  let t : Trap := { Trap.plain cause 0 0 0 (BitVec.ofNat 64 addr) s.dt with walk := walk }
  let s1 := s.modGroup g.gid (fun g => { g.record t with halted := true, run := false })
  s1.pushFault (g.ctx % 64) 1 g.ctx g.ctxBase ((g.record t).tcause)

/-- The place of a range of a group's image, with privileged permission, R and W (R427): an error is told as an image fault of the group. -/
def State.imagePlace (s : State) (g : Group) (va : Nat) : Option Nat × State :=
  match s.translate ⟨g.ctx, g.tile, true⟩ va .update with
  | (.error (c, w), s1) => (none, s1.imageFault g c w va)
  | (.ok e, s1) =>
    if s1.delivers (dieOf g.tile) (e.at va) (leafKind e.leaf e.level) then (some (e.at va), s1) else (none, s1.imageFault g 0x09 none va)

/-- Whether an access to a group's image waits: its walk, or its line at the home (07 R187). -/
def State.imageHeld (s : State) (g : Group) (va : Nat) : Bool := s.vaHeld ⟨g.ctx, g.tile, true⟩ va .update

/-- Whether some part of an image line waits. -/
def State.imageLineHeld (s : State) (g : Group) (line : Nat) : Bool :=
  (upFrom 0 (lineSize line / 128)).any (fun k => s.imageHeld g (imageLine g line + 128 * k))

/-- One line of a group written to its image at device scope (R333, R427); a poisoned one goes back as poisoned.  Where the home holds the access, the
line stays to be written. -/
def State.writeLine (s : State) (gid line : Nat) : State :=
  match s.group gid with
  | none => s
  | some g =>
    if g.halted || s.imageLineHeld g line then s
    else
      match s.imagePlace g (imageLine g line) with
      | (none, s1) => s1
      | (some pa, s1) =>
        let bad := g.regPoison.contains line || g.accPoison.contains line
        let s2 := if codedLine line then (s1.countHome (some g.ctx) pa 0 true).homeCode pa (lineSize line) else s1.deviceStore (some g.ctx) pa (g.lineBytes line)
        let s3 := if bad then { s2 with poison := (upFrom (pa / 32) 4).foldl (fun l k => insNat k l) s2.poison } else s2
        s3.modGroup gid (fun g =>
          { g with
            dirty := delNat line g.dirty
            regPoison := delNat line g.regPoison
            accPoison := delNat line g.accPoison
            absent := if bad then insNat line g.absent else g.absent })

/-- The lines CTX.FL writes: dirty ones, and poisoned ones it meets (R332, R337). -/
def Group.flushLines (g : Group) (what : Nat) : List Nat :=
  let all := g.dirty ++ g.regPoison.filter (fun r => !g.dirty.contains r) ++
    (g.accPoison.filter (fun r => !g.dirty.contains r))
  all.filter (fun r => !g.absent.contains r &&
    (if what = 0 then decide (r < 1024) else if what = 1 then decide (1024 ≤ r) && decide (r < 2000) else true))

/-- The lines of a group written back. -/
def State.flushGroup (s : State) (gid what : Nat) : State :=
  match s.group gid with
  | none => s
  | some g => (g.flushLines what).foldl (fun s l => s.writeLine gid l) s

/-! ## The register and accumulator caches (01 R12; 06 R145, R165; 12 R331, R334) -/

/-- The 128-byte lines of a tile's register cache (`acc` false) or accumulator cache that a group takes. -/
def Group.cached (g : Group) (acc : Bool) : Nat :=
  if acc then 64 * g.naccs - (g.absent.filter (fun l => decide (1024 ≤ l) && decide (l < 2000))).length
  else g.allot - (g.absent.filter (fun l => decide (l < 1024))).length + (if g.absent.contains stateLine then 0 else 32) +
    8 * (g.olog.filter (fun e => !g.absent.contains (logLine e.idx))).length

/-- The groups whose lines stand in a tile's caches: those that a partition swap has moved to the shadow region do not (R339). -/
def State.cacheGroups (s : State) (tile : Nat) : List Group :=
  s.groups.filter (fun g => g.live && decide (g.tile = tile) && !s.swapTeams.contains g.tid)

/-- The lines of a tile's cache in use. -/
def State.cacheUsed (s : State) (tile : Nat) (acc : Bool) : Nat := ((s.cacheGroups tile).map (fun g => g.cached acc)).foldl (· + ·) 0

/-- A line that a group can give up: of a halted one none that the image has older (R427). -/
def Group.givesUp (g : Group) (acc : Bool) : Option Nat :=
  let all := if acc then upFrom 1024 (64 * g.naccs) else upFrom 0 g.allot ++ g.olog.map (fun e => logLine e.idx) ++ [stateLine]
  all.find? (fun l => !g.absent.contains l && (!g.halted || (!g.dirty.contains l && !codedLine l)))

/-- The line evicted for a newcomer: of a pre-empted group first, no register line of a group that holds an issue slot, and no accumulator line of the
group whose instruction the matrix engine has next (R145, R165, R334; log entry 97). -/
def State.cacheVictim (s : State) (tile keep : Nat) (acc : Bool) : Option (Nat × Nat) :=
  let next := (s.jobs.find? (fun j => decide (j.tile = tile))).map (fun j => j.gid)
  let l := (s.cacheGroups tile).filter (fun g => decide (g.gid ≠ keep) && (g.away || (if acc then decide (next ≠ some g.gid) else !g.run)))
  ((l.filter (fun g => g.away) ++ l.filter (fun g => !g.away)).filterMap (fun g => (g.givesUp acc).map (fun n => (g.gid, n)))).head?

/-- A line pushed out of its tile's cache: one that the image has older is written back first, and stays where that fails or has to wait (R145, R331,
R427). -/
def State.evict (s : State) (gid line : Nat) : State :=
  match s.group gid with
  | none => s
  | some g =>
    let back := g.dirty.contains line || codedLine line || g.regPoison.contains line || g.accPoison.contains line
    let s1 := if back then s.writeLine gid line else s
    match s1.group gid with
    | none => s1
    | some g1 =>
      if (g1.halted && !g.halted) || (back && s.imageLineHeld g line) then s1
      else s1.modGroup gid (fun g => { g with absent := insNat line g.absent })

/-- Lines of a tile's cache evicted until `need` more have room beside those of a group (R12). -/
def State.cacheRoom (tile keep need : Nat) (acc : Bool) : Nat → State → State
  | 0, s => s
  | fuel + 1, s =>
    if s.cacheUsed tile acc + need ≤ 2048 then s
    else match s.cacheVictim tile keep acc with
      | none => s
      | some x => State.cacheRoom tile keep need acc fuel (s.evict x.1 x.2)

/-- Room made in both caches of a tile for a group that has started there, whose lines come in as zeros (02 R42). -/
def State.cacheSettle (s : State) (gid tile : Nat) : State := State.cacheRoom tile gid 0 true 4096 (State.cacheRoom tile gid 0 false 4096 s)

/-! ## Values that come for lines not in the tile (R331, R335; log entry 119) -/

/-- The lines outside the tile that some values (register × 32 + lane) are written to. -/
def Group.lateLines (g : Group) (keys : List Nat) : List Nat := (dedup (keys.map (fun k => k / 32))).filter (fun r => g.absent.contains r)

/-- Whether values on their way to lines outside the tile wait for the image (07 R187). -/
def State.lateHeld (s : State) (g : Group) (keys : List Nat) : Bool := (g.lateLines keys).any (fun r => s.imageLineHeld g r)

/-- Values a group's registers have received written into the image, where their lines are not in the tile: the next fill brings them in. -/
def State.writeLate (s : State) (gid : Nat) (keys : List Nat) : State :=
  match s.group gid with
  | none => s
  | some g => (g.lateLines keys).foldl (fun s r =>
      match s.imagePlace g (imageLine g r) with
      | (none, s1) => s1
      | (some pa, s1) =>
        let s2 := (keys.filter (fun k => decide (k / 32 = r))).foldl (fun s k =>
          s.deviceStore (some g.ctx) (pa + 4 * (k % 32)) (leBytes 4 (g.rv r (k % 32)).toNat)) s1
        s2.modGroup gid (fun g => { g with dirty := delNat r g.dirty })) s

/-- What an access or reply leaves in an operand-log entry written into the image where the entry's line has been evicted (R331, R335). -/
def State.noteEntry (s : State) (gid idx : Nat) : State :=
  match s.group gid with
  | none => s
  | some g => if g.absent.contains (logLine idx) && (g.entry idx).isSome then s.writeLine gid (logLine idx) else s

/-- Whether the image line of an evicted entry of the operand log makes what is to be written there wait (07 R187). -/
def State.entryHeld (s : State) (g : Group) (idx : Nat) : Bool := g.absent.contains (logLine idx) && s.imageLineHeld g (logLine idx)


end Sys2Proof.Machine
end

