-- ==== Sys2Proof/Machine/Memory.lean ====
section
/-! DEFINITION. The lane and uniform loads and stores, prefetch, apertures, stash, cache and TLB maintenance, and the steps of a held
access: page walk, home request, reply, invalidations, aperture translation, unit moves, line fills (04 R114, R115; 07; 12 R324 to R326,
R331). -/

namespace Sys2Proof.Machine

/-! ## Taking an entry of the operand log -/

/-- Bits [28:22] of word 0. -/
def opcodeOf (i : Instr) : BitVec 7 :=
  match encode i with
  | w :: _ => w.extractLsb' 22 7
  | [] => 0

/-- The second word, or 0. -/
def secondWord (i : Instr) : W32 :=
  match encode i with
  | [_, w] => w
  | _ => 0

/-- What a held access names besides its lanes. -/
structure Held where
  kind : AccKind
  space : Space
  size : Nat
  scope : Nat := 0
  ord : Nat := 0
  dst : Nat := 0
  ta : Option Nat := none
  hint : BitVec 2 := 0
  uni : Bool := false

/-- The operand-log entry an access takes: the lowest free one, or in a follower the one its leader's access took, once it is free. -/
def State.takeEntry (s : State) : Option Nat :=
  match (if s.g.role.follows then s.lookLog s.g s.g.icount entryKey else none) with
  | some w => if (s.g.entry w.toNat).isNone then some w.toNat else none
  | none => s.g.freeEntry

/-- An access put into the operand log (R169, R324): it waits at issue for an entry, and for room for the entry's lines in the tile's register cache
(01 R12; 12 R331). -/
def State.hold (s : State) (i : Instr) (sp : Split) (m : W32) (x : Held) (lanes : List OlLane) : State × Fate :=
  match s.takeEntry with
  | none => (s, .wait)
  | some idx =>
    let s0 := State.cacheRoom s.g.tile s.g.gid 8 false 4096 s
    if 2048 < s0.cacheUsed s0.g.tile false + 8 then (s0, .wait)
    else
      let apt := match x.ta with
        | some n => s0.g.rta n
        | none => Aperture.invalid
      let e : OlEntry := ⟨idx, s0.g.seq, s0.g.icount, sp.slot, sp.pc, x.uni, opcodeOf i, secondWord i, m, s0.privileged s0.g, x.kind, x.space,
        x.size, x.scope, x.ord, x.dst, x.ta, apt, x.hint, s0.g.phase, s0.dt, lanes, none⟩
      let s1 : State := { s0 with g := { s0.g with olog := s0.g.olog ++ [e], absent := delNat (logLine idx) s0.g.absent } }
      (if e.logged then s1 else s1.logVals s1.g s1.g.icount [(entryKey, BitVec.ofNat 64 idx)], .fall)

/-- One lane of an access with nothing but an address. -/
def laneAt (l : Nat) (addr : W64) (fast : Option Nat) : OlLane := ⟨l, addr, fast, 0, 0, .pending⟩

/-- The store data of a lane: `size` bytes from the registers at d (R177). -/
def Group.storeData (g : Group) (d size l : Nat) : BitVec 128 :=
  BitVec.ofNat 128 (((upFrom 0 (max (size / 4) 1)).map (fun j => (g.rv (d + j) l).toNat * 2 ^ (32 * j))).foldl (· + ·) 0 % 2 ^ (8 * size))

/-- The VA and, where it is not negative, the offset of a lane through an aperture (R176). -/
def Group.viaTa (g : Group) (n : Nat) (eff : Int) : W64 × Option Nat :=
  let a := g.rta n
  let base := if a.v then (a.base.toNat : Int) else 0
  (BitVec.ofInt 64 (base + eff), if 0 ≤ eff then some eff.toNat else none)

/-- The contributions of a store's lanes to SS (R350): (address, value) with narrow stores by byte address. -/
def storeFolds (size : Nat) (l : List (W64 × BitVec 128)) : List (W32 × W32) :=
  l.flatMap (fun x => (upFrom 0 (max (size / 4) 1)).map (fun j =>
    (x.1.extractLsb' 0 32 + BitVec.ofNat 32 (4 * j), x.2.extractLsb' (32 * j) 32)))

/-- Whether the issuing group is a follower, whose accesses outside its own scratchpad have no effect (R347). -/
def State.mute (s : State) : Bool := s.g.role.follows

/-- The active mask read before the body runs (for what `Uses` needs of it). -/
def nowMask (h : Hdr) (s : State) : W32 := activeMask h s

/-! ## Global loads and stores (R177, R178) -/

/-- A global load through addresses given per lane. -/
def globLoad (i : Instr) (h : Hdr) (d : BitVec 6) (reads : List (Nat × Nat × Nat)) (size : Nat) (sx : Bool) (ta : Option Nat)
    (hint : BitVec 2) (addr : Group → Nat → W64 × Option Nat) (s : State) : Out :=
  let n := max (size / 4) 1
  issueLane i h { vr := reads, vw := [vN d n (if size = 16 then 4 else n)], late := true, logged := true }
    (fun m sp s => s.hold i sp m { kind := .load sx, space := .glob, size := size, dst := s.g.phys d.toNat, ta := ta, hint := hint }
      ((lanesOf m).map (fun l => laneAt l (addr s.g l).1 (addr s.g l).2))) s

/-- A global store through addresses given per lane; a trailer only folds it, a third run keeps it tentative (R347, R359). -/
def globStore (i : Instr) (h : Hdr) (d : BitVec 6) (reads : List (Nat × Nat × Nat)) (size : Nat) (ta : Option Nat)
    (hint : BitVec 2) (addr : Group → Nat → W64 × Option Nat) (s : State) : Out :=
  let n := max (size / 4) 1
  let dr := s.g.phys d.toNat
  issueLane i h
    { vr := reads ++ [vN d n (if size = 16 then 4 else n)]
      late := true
      store := true
      folds := storeFolds size ((lanesOf (nowMask h s)).map (fun l => ((addr s.g l).1, s.g.storeData dr size l))) }
    (fun m sp s =>
      if s.g.role = .trailer then (s, .fall)
      else s.hold i sp m { kind := .store, space := .glob, size := size, ta := ta, hint := hint }
        ((lanesOf m).map (fun l => { laneAt l (addr s.g l).1 (addr s.g l).2 with data := s.g.storeData dr size l }))) s

/-- The unsigned 32-bit offset of LD, ST and PREF (R177). -/
def taAddr (ta : BitVec 4) (o : BitVec 6) (g : Group) (l : Nat) : W64 × Option Nat := g.viaTa ta.toNat ((g.op o l).toNat : Int)

/-- LD.B (R177). -/
def execLdB (h : Hdr) (d : BitVec 6) (ta : BitVec 4) (o : BitVec 6) (ht : BitVec 2) (s : State) : Out :=
  globLoad (.ldB h d ta o ht) h d [v1 o] 1 false (some ta.toNat) ht (taAddr ta o) s
/-- LD.H (R177). -/
def execLdH (h : Hdr) (d : BitVec 6) (ta : BitVec 4) (o : BitVec 6) (ht : BitVec 2) (s : State) : Out :=
  globLoad (.ldH h d ta o ht) h d [v1 o] 2 false (some ta.toNat) ht (taAddr ta o) s
/-- LD.W (R177). -/
def execLdW (h : Hdr) (d : BitVec 6) (ta : BitVec 4) (o : BitVec 6) (ht : BitVec 2) (s : State) : Out :=
  globLoad (.ldW h d ta o ht) h d [v1 o] 4 false (some ta.toNat) ht (taAddr ta o) s
/-- LD.D (R177). -/
def execLdD (h : Hdr) (d : BitVec 6) (ta : BitVec 4) (o : BitVec 6) (ht : BitVec 2) (s : State) : Out :=
  globLoad (.ldD h d ta o ht) h d [v1 o] 8 false (some ta.toNat) ht (taAddr ta o) s
/-- LD.Q (R177). -/
def execLdQ (h : Hdr) (d : BitVec 6) (ta : BitVec 4) (o : BitVec 6) (ht : BitVec 2) (s : State) : Out :=
  globLoad (.ldQ h d ta o ht) h d [v1 o] 16 false (some ta.toNat) ht (taAddr ta o) s
/-- ST.B (R177). -/
def execStB (h : Hdr) (d : BitVec 6) (ta : BitVec 4) (o : BitVec 6) (ht : BitVec 2) (s : State) : Out :=
  globStore (.stB h d ta o ht) h d [v1 o] 1 (some ta.toNat) ht (taAddr ta o) s
/-- ST.H (R177). -/
def execStH (h : Hdr) (d : BitVec 6) (ta : BitVec 4) (o : BitVec 6) (ht : BitVec 2) (s : State) : Out :=
  globStore (.stH h d ta o ht) h d [v1 o] 2 (some ta.toNat) ht (taAddr ta o) s
/-- ST.W (R177). -/
def execStW (h : Hdr) (d : BitVec 6) (ta : BitVec 4) (o : BitVec 6) (ht : BitVec 2) (s : State) : Out :=
  globStore (.stW h d ta o ht) h d [v1 o] 4 (some ta.toNat) ht (taAddr ta o) s
/-- ST.D (R177). -/
def execStD (h : Hdr) (d : BitVec 6) (ta : BitVec 4) (o : BitVec 6) (ht : BitVec 2) (s : State) : Out :=
  globStore (.stD h d ta o ht) h d [v1 o] 8 (some ta.toNat) ht (taAddr ta o) s
/-- ST.Q (R177). -/
def execStQ (h : Hdr) (d : BitVec 6) (ta : BitVec 4) (o : BitVec 6) (ht : BitVec 2) (s : State) : Out :=
  globStore (.stQ h d ta o ht) h d [v1 o] 16 (some ta.toNat) ht (taAddr ta o) s

/-- Size and sign extension of an LDX type (R178). -/
def ldxType (t : BitVec 4) : Nat × Bool :=
  match t.toNat with
  | 0 => (1, false)
  | 1 => (1, true)
  | 2 => (2, false)
  | 3 => (2, true)
  | 4 => (4, false)
  | 5 => (8, false)
  | _ => (16, false)

/-- The address of LDX and STX by mode (R178). -/
def ldxAddr (ta : BitVec 4) (o : BitVec 6) (mode : BitVec 4) (disp : BitVec 8) (size : Nat) (g : Group) (l : Nat) : W64 × Option Nat :=
  let k : Int := disp.toInt * size
  match mode.toNat with
  | 0 => g.viaTa ta.toNat ((g.op o l).toNat + k)
  | 1 => g.viaTa ta.toNat ((g.op o l).toInt + k)
  | _ => (g.op64 o l + BitVec.ofInt 64 k, none)

/-- The offset operand of LDX and STX: a register, or an even pair for `.ABS`. -/
def ldxReads (o : BitVec 6) (mode : BitVec 4) : List (Nat × Nat × Nat) := if mode.toNat = 2 then [v2 o] else [v1 o]

/-- The aperture of LDX and STX, none for `.ABS`. -/
def ldxTa (ta : BitVec 4) (mode : BitVec 4) : Option Nat := if mode.toNat = 2 then none else some ta.toNat

/-- LDX (R178). -/
def execLdx (h : Hdr) (d : BitVec 6) (ta : BitVec 4) (o : BitVec 6) (ht : BitVec 2) (t mode : BitVec 4) (disp : BitVec 8) (s : State) :
    Out :=
  let (size, sx) := ldxType t
  globLoad (.ldx h d ta o ht t mode disp) h d (ldxReads o mode) size sx (ldxTa ta mode) ht (ldxAddr ta o mode disp size) s

/-- STX (R178). -/
def execStx (h : Hdr) (d : BitVec 6) (ta : BitVec 4) (o : BitVec 6) (ht : BitVec 2) (t mode : BitVec 4) (disp : BitVec 8) (s : State) :
    Out :=
  let size := (ldxType t).1
  globStore (.stx h d ta o ht t mode disp) h d (ldxReads o mode) size (ldxTa ta mode) ht (ldxAddr ta o mode disp size) s

/-! ## Prefetch (R179) -/

/-- A prefetch at its line (R179): the use at the home, and for the L1 the fill of its missing sectors, or a hit where none is missing.  A hint of 11
keeps no prefetch out of the L1 (log entry 114); lines of pages with host bias are not held in the L1 (log entry 84). -/
def State.prefetchLine (s : State) (g : Group) (x : Pref) : State :=
  let missing := (upFrom (x.pa / 128 * 4) 4).filter (fun k => (s.l1Find g.tile k).isNone)
  let l1 := x.l1 && decide (x.kind % 8 = 0) && !s.biased x.pa
  if l1 && missing.isEmpty then s.account g.ctx 1
  else if s.delivers (dieOf g.tile) x.pa x.kind then
    let s1 := (s.homeRead (some g.ctx) g.tid x.pa x.kind).countAccess g (.glob x.pa) x.kind
    if l1 then
      missing.foldl (fun s k =>
        if s.cleanRange (k * 32) 32 then (s.l1Put g.tile k x.hint ((upFrom (k * 32) 32).map s.physByte)).account g.ctx 0 else s) s1
    else s1
  else s

/-- A prefetch at its line, or waiting for it (R187). -/
def State.tryPref (s : State) (x : Pref) : State :=
  match s.group x.gid with
  | none => s
  | some g => if s.placeHeld (.glob x.pa) then { s with prefs := s.prefs ++ [x] } else s.prefetchLine g x

/-- The prefetches that waited, tried again. -/
def State.retryPrefs (s : State) : State := s.prefs.foldl State.tryPref { s with prefs := [] }

/-- What PREF looks up for a lane: an access of one byte through its aperture (R179). -/
def State.prefEntry (s : State) (g : Group) (ta : Nat) : OlEntry :=
  ⟨0, g.seq, 0, 0, 0, false, 0, 0, 0, s.privileged g, .load false, .glob, 1, 0, 0, 0, some ta, g.rta ta, 0, 0, 0, [], none⟩

/-- One lane's prefetch into the L1 or the L2 (R179): its walk's accessed bit, and the fill of its line, in a mapping of the stash that of the stash
(log entry 114); a fault is dropped, and a page that is not normal is filled nowhere (R185). -/
def State.prefetch (s : State) (g : Group) (l1 : Bool) (ta : Nat) (hint : BitVec 2) (addr : W64 × Option Nat) : State :=
  match s.locate g (s.prefEntry g ta) (laneAt 0 addr.1 addr.2) with
  | (.located (.glob pa) kind, s1) =>
    if kind % 4 ≠ 0 then s1
    else if kind / 16 % 2 = 1 then (if s1.placeHeld (.glob pa) then s1 else s1.touchStash g addr.1.toNat pa kind false)
    else s1.tryPref ⟨g.gid, pa, kind, l1, hint⟩
  | (_, s1) => s1

/-- PREF for the active lanes; a follower prefetches nothing.  It waits where its aperture's translation or a lane's walk does. -/
def prefLanes (i : Instr) (h : Hdr) (l1 : Bool) (ta : BitVec 4) (o : BitVec 6) (ht : BitVec 2) (s : State) : Out :=
  issueLane i h { vr := [v1 o], late := true }
    (fun m _ s =>
      if s.mute then (s, .fall)
      else
        let s1 := s.finishAperture s.g.gid ta.toNat
        let held := fun (l : Nat) => let a := taAddr ta o s1.g l
          s1.lookHeld s1.g (s1.prefEntry s1.g ta.toNat) (laneAt 0 a.1 a.2)
        if (s1.g.rta ta.toNat).unsettled || (lanesOf m).any held then (s, .wait)
        else ((lanesOf m).foldl (fun x l => x.prefetch x.g l1 ta.toNat ht (taAddr ta o s1.g l)) s1, .fall)) s

/-- PREF.L1 (R179). -/
def execPrefL1 (h : Hdr) (ta : BitVec 4) (o : BitVec 6) (ht : BitVec 2) (s : State) : Out := prefLanes (.prefL1 h ta o ht) h true ta o ht s
/-- PREF.L2 (R179). -/
def execPrefL2 (h : Hdr) (ta : BitVec 4) (o : BitVec 6) (ht : BitVec 2) (s : State) : Out := prefLanes (.prefL2 h ta o ht) h false ta o ht s

/-! ## Scratchpad and cluster memory (R180) -/

/-- A scratchpad load. -/
def scrLoad (i : Instr) (h : Hdr) (d a : BitVec 6) (size : Nat) (s : State) : Out :=
  let n := size / 4
  issueLane i h { vr := [v1 a], vw := [vN d n n], late := true }
    (fun m sp s => s.hold i sp m { kind := .load false, space := .scr, size := size, dst := s.g.phys d.toNat }
      ((lanesOf m).map (fun l => laneAt l ((s.g.op a l).setWidth 64) none))) s

/-- A scratchpad store. -/
def scrStore (i : Instr) (h : Hdr) (d a : BitVec 6) (size : Nat) (s : State) : Out :=
  let n := size / 4
  let dr := s.g.phys d.toNat
  issueLane i h
    { vr := [v1 a, vN d n n]
      late := true
      store := true
      folds := storeFolds size ((lanesOf (nowMask h s)).map (fun l => ((s.g.op a l).setWidth 64, s.g.storeData dr size l))) }
    (fun m sp s => s.hold i sp m { kind := .store, space := .scr, size := size }
      ((lanesOf m).map (fun l => { laneAt l ((s.g.op a l).setWidth 64) none with data := s.g.storeData dr size l }))) s

/-- LDS.W (R180). -/
def execLdsW (h : Hdr) (d a : BitVec 6) (s : State) : Out := scrLoad (.ldsW h d a) h d a 4 s
/-- LDS.D (R180). -/
def execLdsD (h : Hdr) (d a : BitVec 6) (s : State) : Out := scrLoad (.ldsD h d a) h d a 8 s
/-- LDS.Q (R180). -/
def execLdsQ (h : Hdr) (d a : BitVec 6) (s : State) : Out := scrLoad (.ldsQ h d a) h d a 16 s
/-- STS.W (R180). -/
def execStsW (h : Hdr) (d a : BitVec 6) (s : State) : Out := scrStore (.stsW h d a) h d a 4 s
/-- STS.D (R180). -/
def execStsD (h : Hdr) (d a : BitVec 6) (s : State) : Out := scrStore (.stsD h d a) h d a 8 s
/-- STS.Q (R180). -/
def execStsQ (h : Hdr) (d a : BitVec 6) (s : State) : Out := scrStore (.stsQ h d a) h d a 16 s

/-- LDC.W (R180). -/
def execLdcW (h : Hdr) (d a : BitVec 6) (s : State) : Out :=
  let i : Instr := .ldcW h d a
  issueLane i h { vr := [v1 a], vw := [v1 d], late := true, logged := true }
    (fun m sp s => s.hold i sp m { kind := .load false, space := .clu, size := 4, dst := s.g.phys d.toNat }
      ((lanesOf m).map (fun l => laneAt l ((s.g.op a l).setWidth 64) none))) s

/-- Whether some lane of a cluster access names another tile than the team's own (R351). -/
def State.namesOther (s : State) (m : W32) (a : BitVec 6) : Bool :=
  match s.team s.g.tid with
  | some t => (lanesOf m).any (fun l => decide ((s.g.op a l).toNat / 2 ^ 18 % 4 ≠ t.idx % 4))
  | none => false

/-- STC.W (R180); naming another tile it is a compare point (R351). -/
def execStcW (h : Hdr) (d a : BitVec 6) (s : State) : Out :=
  let i : Instr := .stcW h d a
  let dr := s.g.phys d.toNat
  let other := s.namesOther (nowMask h s) a
  issueLane i h
    { vr := [v1 a, v1 d]
      late := true
      cmp := other
      store := !other
      folds := storeFolds 4 ((lanesOf (nowMask h s)).map (fun l => ((s.g.op a l).setWidth 64, s.g.storeData dr 4 l))) }
    (fun m sp s =>
      let ls := (lanesOf m).filter (fun l => !(s.mute || s.doneBefore) ||
        (match s.team s.g.tid with
        | some t => decide ((s.g.op a l).toNat / 2 ^ 18 % 4 = t.idx % 4)
        | none => false))
      if ls.isEmpty then (s, .fall)
      else s.hold i sp (maskOf ls) { kind := .store, space := .clu, size := 4 }
        (ls.map (fun l => { laneAt l ((s.g.op a l).setWidth 64) none with data := s.g.storeData dr 4 l }))) s

/-! ## Uniform loads and stores (04 R114, R115) -/

/-- SLD (R114). -/
def execSld (h : Hdr) (d a : BitVec 6) (k : BitVec 32) (s : State) : Out :=
  let i : Instr := .sld h d a k
  issueUni i h { sr := [a.toNat], sw := [d.toNat], late := true, logged := true }
    (fun sp s => s.hold i sp sp.mask { kind := .sld d.toNat, space := .glob, size := 8, uni := true }
      [laneAt 0 (s.g.rs a.toNat + k.signExtend 64) none]) s

/-- SST (R114). -/
def execSst (h : Hdr) (a b : BitVec 6) (k : BitVec 32) (s : State) : Out :=
  let i : Instr := .sst h a b k
  let va := s.g.rs a.toNat + k.signExtend 64
  issueUni i h
    { sr := [a.toNat, b.toNat]
      late := true
      store := true
      folds := storeFolds 8 [(va, (s.g.rs b.toNat).setWidth 128)] }
    (fun sp s =>
      if s.g.role = .trailer then (s, .fall)
      else s.hold i sp sp.mask { kind := .sst, space := .glob, size := 8, uni := true }
        [{ laneAt 0 (s.g.rs a.toNat + k.signExtend 64) none with data := (s.g.rs b.toNat).setWidth 128 }]) s

/-! ## Apertures (R174, R175) -/

/-- TA.SET (R175): the aperture is pending until its translation is done; a base beyond 57 bits gives LIMIT 0 at once, with FRAME, R and W as
they were. -/
def execTaSet (h : Hdr) (ta : BitVec 4) (a b : BitVec 6) (s : State) : Out :=
  issueUni (.taSet h ta a b) h { sr := [a.toNat, b.toNat], late := true }
    (fun _ s =>
      let s1 := s.settleAperture s.g.gid ta.toNat
      if s1.g.wantsAperture ta.toNat then (s, .wait) else
      let base := s1.g.rs a.toNat
      let old := s1.g.rta ta.toNat
      let ap : Aperture :=
        { Aperture.invalid with
            v := true
            frame := old.frame
            r := old.r
            w := old.w
            base := base.extractLsb' 0 57
            cap := BitVec.ofNat 33 (apertureCap (s1.g.rs b.toNat))
            pending := decide (base.toNat < 2 ^ 57) }
      ({ s1 with g := s1.g.wta ta.toNat ap }, .fall)) s

/-- TA.INV (R175). -/
def execTaInv (h : Hdr) (ta : BitVec 4) (s : State) : Out :=
  issueUni (.taInv h ta) h {}
    (fun _ s =>
      let s1 := s.settleAperture s.g.gid ta.toNat
      if s1.g.wantsAperture ta.toNat then (s, .wait) else
      ({ s1 with g := s1.g.wta ta.toNat { s1.g.rta ta.toNat with v := false } }, .fall)) s

/-- The word TA.QRY writes (R175); an invalid aperture acts as LIMIT 0 (R174). -/
def Aperture.query (a : Aperture) : W64 :=
  BitVec.ofNat 64 ((if a.v then a.limit.toNat else 0) + bitOf a.v * 2 ^ 33 + bitOf a.stale * 2 ^ 34 + bitOf a.r * 2 ^ 35 + bitOf a.w * 2 ^ 36)

/-- TA.QRY (R175): it waits inside the aperture unit for a pending translation; the value is logged (R346). -/
def execTaQry (h : Hdr) (d : BitVec 6) (ta : BitVec 4) (s : State) : Out :=
  issueUni (.taQry h d ta) h { sw := [d.toNat], logged := true }
    (fun _ s =>
      let s1 := if (s.g.rta ta.toNat).pending then s.finishAperture s.g.gid ta.toNat else s
      if (s1.g.rta ta.toNat).pending then (s, .wait) else
      ({ s1 with g := s1.g.ws d.toNat (s1.g.rta ta.toNat).query }, .fall)) s

/-! ## Stash (R189, R190) -/

/-- The status of STASH.MAP, and the mapping done (R189).  Where several apply, 4 stands first, and 1 before 2 (log entry 85). -/
def State.mapStash (s : State) (tid : Nat) (va len off : Nat) : Nat × State :=
  match s.team tid with
  | none => (3, s)
  | some t =>
    if t.chord.any (fun c => decide (c.level ≠ 0)) || t.role.follows then (4, s)
    else if len = 0 then
      match t.stash.find? (fun m => decide (m.va = va)) with
      | none => (3, s)
      | some m =>
        let s1 := s.recallStash (fun x l => decide (x.tid = tid) && decide (m.va ≤ 128 * l.va) && decide (128 * l.va < m.va + m.len))
        (0, s1.modTeam tid (fun t => { t with stash := t.stash.filter (fun m => decide (m.va ≠ va)) }))
    else if 8 ≤ t.stash.length then (1, s)
    else if t.stashBytes < off + len || t.stash.any (fun m =>
        (decide (va < m.va + m.len) && decide (m.va < va + len)) || (decide (off < m.off + m.len) && decide (m.off < off + len))) then
      (2, s)
    else (0, s.modTeam tid (fun t => { t with stash := t.stash ++ [⟨va, len, off, []⟩] }))

/-- STASH.MAP (R189); an offset with bits above 17 reaches beyond the stash bytes (log entry 21). -/
def execStashMap (h : Hdr) (d a b : BitVec 6) (s : State) : Out :=
  let i : Instr := .stashMap h d a b
  let va := s.g.rs a.toNat
  let w := s.g.rs b.toNat
  issueUni i h
    { sr := [a.toNat, b.toNat], sw := [d.toNat], late := true, logged := true, cmp := true
      folds := [(BitVec.ofNat 32 a.toNat, va.extractLsb' 0 32), (BitVec.ofNat 32 a.toNat, va.extractLsb' 32 32),
        (BitVec.ofNat 32 b.toNat, w.extractLsb' 0 32), (BitVec.ofNat 32 b.toNat, w.extractLsb' 32 32)] }
    (fun sp s =>
      let len := field w 32 32
      let off := field w 0 32
      if va.toNat % 128 ≠ 0 || len % 128 ≠ 0 || off % 128 ≠ 0 || decide (2 ^ 57 ≤ va.toNat) then
        (s, ownTrap s sp 0x04 (pcAdd sp.pc 4) va)
      else
        let (st, s1) := s.mapStash s.g.tid va.toNat len off
        (s1.laterLogged sp [] [(d.toNat, BitVec.ofNat 64 st)], .fall)) s

/-- STASH.WB (R189): once the group's earlier stores are performed, the dirty lines of the range are written back; they stay, clean and owned. -/
def execStashWb (h : Hdr) (a b : BitVec 6) (s : State) : Out :=
  let i : Instr := .stashWb h a b
  let va := s.g.rs a.toNat
  let len := s.g.rs b.toNat
  issueUni i h { sr := [a.toNat, b.toNat], late := true }
    (fun sp s =>
      if va.toNat % 128 ≠ 0 || len.toNat % 128 ≠ 0 || decide (2 ^ 57 ≤ va.toNat) then (s, ownTrap s sp 0x04 (pcAdd sp.pc 4) va)
      else (s.awaiting sp [] (.stashWb va.toNat (va.toNat + len.toNat)), .fall)) s

/-- The write-back of a STASH.WB of a team: the dirty lines of its mappings in a VA range (R189). -/
def State.stashBack (s : State) (tid lo hi : Nat) : State :=
  s.cleanStash (fun t l => decide (t.tid = tid) && decide (128 * l.va < hi) && decide (lo < 128 * l.va + 128))

/-! ## CINV (R191) -/

/-- The physical lines of a VA range that translate to normal pages, page by page, none where a page's walk has to wait; other pages are skipped (R191),
those the group may not read among them (log entry 86). -/
def State.rangeLines (q : Req) : Nat → State → Nat → Nat → Option (List Nat) × State
  | 0, s, _, _ => (some [], s)
  | fuel + 1, s, va, stop =>
    if stop ≤ va then (some [], s)
    else if s.transHeld q va .read then (none, s)
    else
      let page := min stop (va / 4096 * 4096 + 4096)
      match s.translate q va .read with
      | (.ok e, s1) =>
        let (rest, s2) := State.rangeLines q fuel s1 page stop
        (if e.kind = 0 then rest.map (fun l => upFrom (e.at va / 128) ((e.at va % 128 + (page - va) + 127) / 128) ++ l) else rest, s2)
      | (.error _, s1) => State.rangeLines q fuel s1 page stop

/-- What a CINV does to its lines once neither an engine nor the host owns one (R187, R191): stash lines are recalled first; then `.L1` drops the tile's L1 copies, `.WB` leaves
the L2 lines clean, `.WBI` drops them and every L1 copy. -/
def State.cinvLines (s : State) (kind tile : Nat) (lines : List Nat) : State :=
  let s1 := if kind = 2 then s.recallStash (fun _ l => lines.contains l.pa) else s.shareLines (fun _ l => lines.contains l.pa)
  match kind with
  | 0 => { s1 with l1 := s1.l1.filter (fun (x : L1Sector) => !(decide (x.tile = tile) && lines.contains (x.sector / 4))) }
  | 1 => { s1 with l2 := s1.l2.map (fun x => if lines.contains x.line then { x with dirty := false } else x) }
  | _ =>
    { s1 with
      l1 := s1.l1.filter (fun (x : L1Sector) => !lines.contains (x.sector / 4))
      l2 := s1.l2.filter (fun x => !lines.contains x.line) }

/-- CINV: the lines of the range found, and what is done to them awaited. -/
def cinv (i : Instr) (h : Hdr) (a b : BitVec 6) (op : Nat) (s : State) : Out :=
  issueUni i h { sr := [a.toNat, b.toNat], late := true }
    (fun sp s =>
      if s.mute then (s, .fall)
      else
        let va := (s.g.rs a.toNat).toNat
        let stop := min (2 ^ 57) (va + (s.g.rs b.toNat).toNat)
        match State.rangeLines (s.req s.g) ((stop - va) / 4096 + 2) s va stop with
        | (none, _) => (s, .wait)
        | (some lines, s1) => (s1.awaiting sp [] (.lines op lines), .fall)) s

/-- CINV.L1 (R191). -/
def execCinvL1 (h : Hdr) (a b : BitVec 6) (s : State) : Out := cinv (.cinvL1 h a b) h a b 0 s
/-- CINV.WB (R191). -/
def execCinvWb (h : Hdr) (a b : BitVec 6) (s : State) : Out := cinv (.cinvWb h a b) h a b 1 s
/-- CINV.WBI (R191). -/
def execCinvWbi (h : Hdr) (a b : BitVec 6) (s : State) : Out := cinv (.cinvWbi h a b) h a b 2 s

/-! ## TLBI (R198) -/

/-- The entries of TLBs dropped and the apertures whose runs meet a dropped translation marked STALE, snapshots in operand logs too;
the stash lines of the affected pages are written back and dropped. -/
def State.shootDown (s : State) (drop : TlbEntry → Bool) (walk : WalkEntry → Bool) (ctxHit : Nat → Bool) (apt : Nat → Aperture → Bool)
    (line : Nat → StashLine → Bool) : State :=
  let mark := fun (c : Nat) (a : Aperture) => if a.v && !a.pending && apt c a then { a with stale := true } else a
  let s1 := { s with tlb := s.tlb.filter (fun e => !drop e), walks := s.walks.filter (fun w => !walk w) }
  let s2 := s1.mapGroups (fun g =>
    if g.live && ctxHit g.ctx then
      { g with
        ta := g.ta.map (fun x => (x.1, mark g.ctx x.2))
        olog := g.olog.map (fun e => if e.ta.isSome && e.lanes.any (fun l => l.st.isPending) then { e with apt := mark g.ctx e.apt } else e) }
    else g)
  s2.recallStash (fun t l => line t.ctx l)

/-- A TLBI put among the outstanding instructions after the entries are dropped. -/
def tlbi (i : Instr) (h : Hdr) (rs : List (BitVec 6)) (f : State → State) (s : State) : Out :=
  issueUni i h { sr := rs.map (·.toNat), priv := true, late := true }
    (fun sp s => ((if s.mute then s else f s).awaiting sp [] .tlb, .fall)) s

/-- TLBI.RANGE (R198). -/
def execTlbiRange (h : Hdr) (a b : BitVec 6) (s : State) : Out :=
  tlbi (.tlbiRange h a b) h [a, b] (fun s =>
    let lo := (s.g.rs a.toNat).toNat
    let hi := lo + (s.g.rs b.toNat).toNat
    let c := s.g.ctx
    s.shootDown (fun e => (e.glob || decide (e.ctx = c)) && decide (e.va < hi) && decide (lo < e.va + e.size))
      (fun w => decide (w.ctx = c) &&
        decide (w.prefix_ * 2 ^ (12 + 9 * (5 - w.level)) < hi) && decide (lo < (w.prefix_ + 1) * 2 ^ (12 + 9 * (5 - w.level))))
      (fun _ => true) (fun k x => (decide (k = c) || x.global) && decide (x.lo < hi) && decide (lo < x.hi) && decide (lo < hi))
      (fun k l => (decide (k = c) || l.glob) && decide (lo < hi) && decide (128 * l.va / l.size * l.size < hi) &&
        decide (lo < 128 * l.va / l.size * l.size + l.size))) s

/-- TLBI.CTX (R198). -/
def execTlbiCtx (h : Hdr) (b : BitVec 6) (s : State) : Out :=
  tlbi (.tlbiCtx h b) h [b] (fun s =>
    let c := field (s.g.rs b.toNat) 0 16
    s.shootDown (fun e => !e.glob && decide (e.ctx = c)) (fun w => decide (w.ctx = c)) (fun x => decide (x = c)) (fun _ x => x.local_)
      (fun k l => decide (k = c) && !l.glob)) s

/-- TLBI.GLOBAL (R198). -/
def execTlbiGlobal (h : Hdr) (s : State) : Out :=
  tlbi (.tlbiGlobal h) h [] (fun s => s.shootDown (fun e => e.glob) (fun _ => true) (fun _ => true) (fun _ x => x.global) (fun _ l => l.glob)) s

/-- TLBI.ALL (R198). -/
def execTlbiAll (h : Hdr) (s : State) : Out :=
  tlbi (.tlbiAll h) h [] (fun s => s.shootDown (fun _ => true) (fun _ => true) (fun _ => true) (fun _ x => x.global || x.local_) (fun _ _ => true)) s

/-! ## The steps of a held access -/

/-- The aperture that an entry goes through translated, if it is to be (R175, R176). -/
def State.settleEntry (s : State) (gid e : Nat) : State :=
  match (s.group gid).bind (fun g => g.entry e) with
  | some x => (match x.ta with
    | some n => if x.apt.pending || x.apt.stale then s.finishAperture gid n else s
    | none => s)
  | none => s

/-- The pending lanes of a mask of an entry located, with those of the same address (R170, R176, R192 to R197); a snapshot of an aperture that is
still to be translated is translated first, and what waits for a walk stays pending. -/
def State.walkEntry (s0 : State) (g : Group) (x : OlEntry) (lanes : W32) : State :=
  let q : Req := ⟨g.ctx, g.tile, x.priv⟩
  if x.apt.unsettled && s0.transHeld q x.apt.base.toNat .read then s0
  else
    let (apt, s1) := if x.apt.unsettled then s0.setAperture q x.apt (BitVec.ofNat 64 x.apt.base.toNat) x.apt.cap.toNat else (x.apt, s0)
    let x1 := { x with apt := apt }
    let s2 := s1.modGroup g.gid (fun g => { g with olog := g.olog.map (fun y => if y.idx = x.idx then { y with apt := apt } else y) })
    let named := x1.lanes.filter (fun l => lanes.getLsbD l.lane && l.st.isPending)
    (x1.lanes.filter (fun l => l.st.isPending && named.any (fun k => decide (k.addr = l.addr)))).foldl (fun s l =>
      if s.lookHeld g x1 l then s
      else
        let (st, s3) := s.locate g x1 l
        s3.setLane g.gid x.idx [l.lane] (fun _ => st)) s2

/-- PAGE_WALK_DONE (R176, R192 to R197): the pending lanes of a mask receive their addresses or their faults; an aperture that is
pending or stale is translated first. -/
def execPageWalkDone (gid e : Nat) (lanes : BitVec 32) (s : State) : Out :=
  let s0 := s.settleEntry gid e
  match s0.group gid with
  | none => .next s0
  | some g =>
    match g.entry e with
    | none => .next s0
    | some x => .next (if s0.entryHeld g e then s0 else (s0.walkEntry g x lanes).noteEntry gid e)

/-- The located lanes of a mask of an entry performed at their points, those that a cluster's atomic unit has read first (R209). -/
def State.performEntry (s : State) (gid : Nat) (x : OlEntry) (lanes : W32) : State :=
  let s1 := (x.halves lanes).foldl (fun s t => match s.group gid with
    | some g1 => s.performHalf g1 x t.1 t.2.1 t.2.2.1 t.2.2.2
    | none => s) s
  (x.targets lanes).foldl (fun s t => s.performAt gid x.idx t.1 t.2.1 t.2.2) s1

/-- HOME_REQUEST (R172, R186 to R188, R209, R216, R218, R232, R239): the located lanes of a mask are performed at their point, once
nothing the ordering rules name holds them. -/
def execHomeRequest (gid e : Nat) (lanes : BitVec 32) (s : State) : Out :=
  let s0 := s.modGroup gid (fun g => g.settleReleases)
  match s0.group gid with
  | none => .next s0
  | some g =>
    match g.entry e with
    | none => .next s0
    | some x => .next (if s0.mayPerform g x && !s0.entryHeld g e then (s0.performEntry gid x lanes).noteEntry gid e else s0)

/-- The register lanes (register × 32 + lane) that the performed lanes of a mask of an entry write as they return. -/
def OlEntry.replyKeys (e : OlEntry) (mask : W32) : List Nat :=
  (e.lanes.filter (fun l => mask.getLsbD l.lane)).flatMap (fun l => match l.st with
    | .performed v => (e.laneWrites v).map (fun x => 32 * x.1 + l.lane)
    | _ => [])

/-- The performed lanes of a mask of an entry returned, to registers and an entry that stand in the tile or in the image (R331, R335). -/
def State.replyEntry (s : State) (gid : Nat) (x : OlEntry) (mask : W32) : State :=
  ((s.returnLanes gid x.idx mask).writeLate gid (x.replyKeys mask)).noteEntry gid x.idx

/-- MEMORY_REPLY (R34, R324, R335): performed lanes return to a group that is present and whose tile's clock runs (R378). -/
def execMemoryReply (gid e : Nat) (lanes : BitVec 32) (s : State) : Out :=
  match s.group gid with
  | none => .next s
  | some g =>
    if g.away || (s.tile g.tile).trans.isSome then .next s
    else
      match g.entry e with
      | none => .next s
      | some x => .next (if s.lateHeld g (x.replyKeys lanes) || s.entryHeld g e then s else s.replyEntry gid x lanes)

/-- INVALIDATION_RECEIVE (R188, R378): the tile drops the sector; its acknowledgement is on its way. -/
def execInvalidationReceive (tile sector : Nat) (s : State) : Out :=
  match s.invals.findIdx? (fun x => decide (x.tile = tile) && decide (x.sector = sector) && !x.received) with
  | none => .next s
  | some i => .next (({ s with invals := s.invals.modify i (fun x => { x with received := true }) }).l1Drop tile sector)

/-- INVALIDATION_ACK (R188): an acknowledgement returns to the storing group and subtracts 1. -/
def execInvalidationAck (gid : Nat) (s : State) : Out :=
  match s.invals.findIdx? (fun x => decide (x.gid = gid) && x.received) with
  | none => .next s
  | some i =>
    let s1 := { s with invals := s.invals.eraseIdx i }
    .next (if gid = 0 then s1 else s1.modGroup gid (fun g => { g with acks := g.acks - 1 }))

/-- APERTURE_TRANSLATE_DONE (R175, R176). -/
def execApertureTranslateDone (gid : Nat) (ta : BitVec 4) (s : State) : Out := .next (s.settleAperture gid ta.toNat)

/-- What this package's L2 and directory held of a unit gone from it to another chip: the lines and the other chips' shares (R201). -/
def State.unitGone (s : State) (unit : Nat) : State :=
  { s with
    l2 := s.l2.filter (fun x => decide (128 * x.line / 65536 ≠ unit))
    chipShares := s.chipShares.filter (fun x => decide (32 * x.1 / 65536 ≠ unit)) }

/-- A unit of another chip, as that chip tells of its moves (R201; log entry 124): one acting here has left, another comes to the die that this
package's accesses named, where its pool has room. -/
def State.foreignMove (s : State) (unit : Nat) : State :=
  let u := s.unitOf (65536 * unit)
  if u.acting = s.chip then (s.setUnit { u with acting := BitVec.ofNat 12 (chipOf (65536 * unit)) }).unitGone unit
  else if (s.poolFree s.chip u.die).1 then s.setUnit { u with acting := s.chip } else s

/-- UNIT_MOVE_COMPLETE (R201, R202): when the last line has moved, the unit is at its new acting home, its counter cleared; the BOUND-th move within WINDOW settles
it. -/
def execUnitMoveComplete (unit : Nat) (s : State) : Out :=
  if chipOf (65536 * unit) ≠ s.chip.toNat then .next (if s.units.any (fun u => decide (u.unit = unit)) then s.foreignMove unit else s)
  else
    match s.units.find? (fun u => decide (u.unit = unit)) with
    | none => .next s
    | some u =>
      match u.moving with
      | none => .next s
      | some m =>
        if s.clock - m.since < 512 then .next s else
        let block := policyBlock (unit * 65536)
        let ctl := s.winGet block
        let window := field ctl 32 16 * 1000
        let moves := (u.moves ++ [s.dt]).filter (fun t => decide (s.elapsed t < window))
        let settle := field ctl 8 8 ≠ 0 && decide (field ctl 8 8 ≤ moves.length)
        let u1 : MigUnit := { u with acting := m.chip, die := m.die, chip := 0, count := 0, moving := none, moves := moves }
        let gone := fun (s : State) => if m.chip = s.chip then s else s.unitGone unit
        if settle then
          let st := s.winGet (block + 24)
          let s1 := ((s.setUnit { u1 with settled := some ((s.dt + field ctl 48 16 * 1000) % 2 ^ 64) }).winSet (block + 24)
            (setField st 0 32 (field st 0 32 + 1)))
          .next (gone { s1 with zhr := { s1.zhr with settles := s1.zhr.settles + 1 } }).newRecord
        else .next (gone (s.setUnit u1))

/-- SETTLE_HOLD_END (R202): a hold whose time is over ends and the counter restarts from zero. -/
def execSettleHoldEnd (unit : Nat) (s : State) : Out :=
  match s.units.find? (fun u => decide (u.unit = unit)) with
  | none => .next s
  | some u =>
    match u.settled with
    | none => .next s
    | some t => .next (if !s.ahead t then s.setUnit { u with settled := none, count := 0 } else s)

/-! ## Results that return (02 R34, R39; 09 R246, R247) -/

/-- Whether what an outstanding result waits for has come about.  A TLBI does not wait for a parked counter or barrier wait, which keeps the place
its entry was translated to (log entry 87). -/
def State.awaited (s : State) (g : Group) (r : Result) : Bool :=
  match r.await with
  | .nothing | .acc => true
  | .other => false
  | .log held => (!held || !g.inh) && (s.lookLog g r.cnt doneKey).isSome
  | .fence k =>
    (decide (k = 1) || !g.loadsBefore r.seq) && (decide (k = 0) || (!g.storesBefore r.seq && decide (g.acks = 0)))
  | .stores | .stashWb .. => !g.storesBefore r.seq
  | .lines _ l => !l.any (fun k => s.lineHeld (128 * k) || s.lineHeld (128 * k + 64))
  | .post _ n _ => !g.storesBefore r.seq && decide (g.acks = 0) &&
    !(decide (n < 16384) && s.deviceHeld (field (s.winGet (queueBase n)) 32 16) (s.ringVa n (s.qTail n)) .write)
  | .flush what => (decide (what = 0) || !s.jobs.any (fun j => decide (j.gid = g.gid))) && !g.halted && !(g.flushLines what).any (s.imageLineHeld g)
  | .preempt ctx | .ended ctx => !s.groups.any (fun x => x.live && x.stop && decide (x.ctx = ctx))
  | .tlb => s.groups.all (fun x => !x.live || x.olog.all (fun e => x.waitsOn e.idx || e.lanes.all (fun l => match l.st with
      | .located .. => false
      | .half .. => false
      | _ => true)))
  | .victim tile => !g.loadsBefore r.seq && s.groups.all (fun x => !x.live || decide (x.tile ≠ tile) ||
      (decide (x.acks = 0) && x.olog.all (fun e => !e.stores || e.lanes.all (fun l => !l.st.unperformed))))

/-- Some lanes of a result written to their registers, the uniform writes with lane 0.  The result is gone when nothing is left of it, and with it
the poison of the registers it wrote in all 32 lanes (12 R332); a release of R252 stays until it is complete. -/
def Group.landResult (g : Group) (r : Result) (lanes : W32) : Group :=
  let whole := (dedup (r.vw.map (fun w => w.1 / 32))).filter (fun n => laneList.all (fun l => r.vw.any (fun w => decide (w.1 = n * 32 + l))))
  let g0 := { g with mends := g.mends ++ whole.map (fun n => (r.seq, n)) }
  let g1 := (r.vw.filter (fun w => lanes.getLsbD (w.1 % 32))).foldl (fun g w => g.wv (w.1 / 32) (w.1 % 32) w.2) g0
  let vw := r.vw.filter (fun w => !lanes.getLsbD (w.1 % 32))
  let g2 := if lanes.getLsbD 0 then r.sw.foldl (fun g w => g.ws w.1 w.2) g1 else g1
  let sw := if lanes.getLsbD 0 then [] else r.sw
  if vw.isEmpty && sw.isEmpty then
    { g2 with
      results := g2.results.filter (fun x => decide (x.seq ≠ r.seq))
      regPoison := g2.regPoison.filter (fun n => !g2.mends.any (fun m => decide (m = (r.seq, n))))
      mends := g2.mends.filter (fun m => decide (m.1 ≠ r.seq))
      fpstat := g2.fpstat ||| r.flags
      fences := g2.fences.filter (fun f => decide (f.1 ≠ r.seq) || decide (f.2.1 = 4)) }
  else { g2 with results := g2.results.map (fun x => if x.seq = r.seq then { x with vw := vw, sw := sw } else x) }

end Sys2Proof.Machine
end

