-- ==== Sys2Proof/Machine/Atomics.lean ====
section
/-! DEFINITION. Atomics, reductions and binning: what each captures at issue (08 R208 to R224).  Their performing is in Access. -/

namespace Sys2Proof.Machine

/-- A 32- or 64-bit lane operand. -/
def atomOperand (g : Group) (t : Nat) (f : BitVec 6) (l : Nat) : BitVec 128 :=
  if atomSize t = 8 then (g.op64 f l).setWidth 128 else (g.op f l).setWidth 128

/-- A vector operand of an atomic's type. -/
def vT (t : Nat) (f : BitVec 6) : Nat × Nat × Nat := if atomSize t = 8 then v2 f else v1 f

/-- The contributions of a compare-point atomic (R350): per lane the operand, and for CAS the compare value after it, at the address. -/
def atomFolds (size : Nat) (l : List (W64 × BitVec 128 × Option (BitVec 128))) : List (W32 × W32) :=
  l.flatMap (fun x => storeFolds size [(x.1, x.2.1)] ++ (match x.2.2 with
    | some c => storeFolds size [(x.1, c)]
    | none => []))

/-- The common issue of the atomics: the address of a lane, x, and cmp. -/
def atomIssue (i : Instr) (h : Hdr) (vr vw : List (Nat × Nat × Nat)) (k : Held) (t : Nat) (addr : Group → Nat → W64 × Option Nat)
    (x : Group → Nat → BitVec 128) (c : Option (Group → Nat → BitVec 128)) (s : State) : Out :=
  let lanes := lanesOf (nowMask h s)
  issueLane i h
    { vr := vr
      vw := vw
      late := true
      logged := true
      cmp := true
      folds := atomFolds (atomSize t) (lanes.map (fun l => ((addr s.g l).1, x s.g l, c.map (fun f => f s.g l)))) }
    (fun m sp s => s.hold i sp m k ((lanesOf m).map (fun l =>
      { laneAt l (addr s.g l).1 (addr s.g l).2 with
        data := x s.g l
        cmp := match c with
          | some f => (f s.g l).extractLsb' 0 64
          | none => 0 }))) s

/-- ATOM (R215, R216). -/
def execAtom (h : Hdr) (d : BitVec 6) (ta : BitVec 4) (o c : BitVec 6) (t : BitVec 4) (sc : BitVec 2) (op : BitVec 4) (ord : BitVec 2)
    (s : State) : Out :=
  let ty := t.toNat
  atomIssue (.atom h d ta o c t sc op ord) h [v1 o, vT ty c] [vT ty d]
    { kind := .atom ty op.toNat true, space := .glob, size := atomSize ty, scope := sc.toNat, ord := ord.toNat, dst := s.g.phys d.toNat,
      ta := some ta.toNat } ty (taAddr ta o) (fun g l => atomOperand g ty c l) none s

/-- RED (R215, R216). -/
def execRed (h : Hdr) (d : BitVec 6) (ta : BitVec 4) (o : BitVec 6) (t : BitVec 4) (sc : BitVec 2) (op : BitVec 4) (ord : BitVec 2)
    (s : State) : Out :=
  let ty := t.toNat
  atomIssue (.red h d ta o t sc op ord) h [v1 o, vT ty d] []
    { kind := .atom ty op.toNat false, space := .glob, size := atomSize ty, scope := sc.toNat, ord := ord.toNat, ta := some ta.toNat }
    ty (taAddr ta o) (fun g l => atomOperand g ty d l) none s

/-- CAS (R215, R216): cmp is read from d at issue. -/
def execCas (h : Hdr) (d : BitVec 6) (ta : BitVec 4) (o c : BitVec 6) (t : BitVec 4) (sc : BitVec 2) (ord : BitVec 2) (s : State) : Out :=
  let ty := t.toNat
  atomIssue (.cas h d ta o c t sc ord) h [v1 o, vT ty c, vT ty d] [vT ty d]
    { kind := .atom ty 8 true, space := .glob, size := atomSize ty, scope := sc.toNat, ord := ord.toNat, dst := s.g.phys d.toNat,
      ta := some ta.toNat } ty (taAddr ta o) (fun g l => atomOperand g ty c l) (some (fun g l => atomOperand g ty d l)) s

/-- The offset operand of the scratchpad forms (R217). -/
def offAddr (a : BitVec 6) (g : Group) (l : Nat) : W64 × Option Nat := ((g.op a l).setWidth 64, none)

/-- ATOMS and ATOMC: x in b, for CAS cmp in b and the new value in c (R217). -/
def atomLocal (i : Instr) (h : Hdr) (sp : Space) (d a b c : BitVec 6) (t : BitVec 4) (sc : BitVec 2) (op : BitVec 4) (ord : BitVec 2)
    (s : State) : Out :=
  let ty := t.toNat
  let cas := decide (op.toNat = 8)
  atomIssue i h ([v1 a, vT ty b] ++ (if cas then [vT ty c] else [])) [vT ty d]
    { kind := .atom ty op.toNat true, space := sp, size := atomSize ty, scope := sc.toNat, ord := ord.toNat, dst := s.g.phys d.toNat } ty
    (offAddr a) (fun g l => atomOperand g ty (if cas then c else b) l)
    (if cas then some (fun g l => atomOperand g ty b l) else none) s

/-- ATOMS (R217, R218). -/
def execAtoms (h : Hdr) (d a b c : BitVec 6) (t : BitVec 4) (sc : BitVec 2) (op : BitVec 4) (ord : BitVec 2) (s : State) : Out :=
  atomLocal (.atoms h d a b c t sc op ord) h .scr d a b c t sc op ord s

/-- ATOMC (R217, R218). -/
def execAtomc (h : Hdr) (d a b c : BitVec 6) (t : BitVec 4) (sc : BitVec 2) (op : BitVec 4) (ord : BitVec 2) (s : State) : Out :=
  atomLocal (.atomc h d a b c t sc op ord) h .clu d a b c t sc op ord s

/-- REDS (R217, R218). -/
def execReds (h : Hdr) (a b : BitVec 6) (t : BitVec 4) (sc : BitVec 2) (op : BitVec 4) (ord : BitVec 2) (s : State) : Out :=
  let ty := t.toNat
  atomIssue (.reds h a b t sc op ord) h [v1 a, vT ty b] []
    { kind := .atom ty op.toNat false, space := .scr, size := atomSize ty, scope := sc.toNat, ord := ord.toNat } ty (offAddr a)
    (fun g l => atomOperand g ty b l) none s

/-! ## Binning (R223, R224) -/

/-- The count word a lane of BINR names, exact. -/
def binOffset (g : Group) (a b : BitVec 6) (l : Nat) : W64 := BitVec.ofNat 64 ((g.op b l).toNat + 4 * (g.op a l).toNat)

/-- BINR (R224): lanes whose cell is all ones get all ones and count nothing. -/
def execBinr (h : Hdr) (d a b : BitVec 6) (s : State) : Out :=
  let i : Instr := .binr h d a b
  let counted := fun (g : Group) (m : W32) => (lanesOf m).filter (fun l => decide (g.op a l ≠ 0xFFFFFFFF))
  issueLane i h
    { vr := [v1 a, v1 b]
      vw := [v1 d]
      late := true
      logged := true
      cmp := true
      folds := (counted s.g (nowMask h s)).map (fun l => ((binOffset s.g a b l).extractLsb' 0 32, 1)) }
    (fun m sp s =>
      let dr := s.g.phys d.toNat
      let ls := counted s.g m
      let lanes := (lanesOf m).map (fun l =>
        if ls.contains l then laneAt l (binOffset s.g a b l) none
        else { laneAt l 0 none with st := .performed 0xFFFFFFFF })
      s.hold i sp m { kind := .binr, space := .scr, size := 4, dst := dr } lanes) s

/-- Whether a decoded value is finite. -/
def FVal.finite : FVal → Bool
  | .num .. => true
  | _ => false

/-- A finite value as an integer over 2^k, for k at least every exponent used. -/
def FVal.fixed (k : Int) : FVal → Int
  | .num s m e => (if s then -1 else 1) * ((m * 2 ^ (e + k).toNat : Nat) : Int)
  | _ => 0

/-- floor((x − o) × inv), exact (R223); none where an operand is not finite. -/
def cellIndex (x o inv : FVal) : Option Int :=
  if x.finite && o.finite && inv.finite then
    some (((x.fixed 200 - o.fixed 200) * inv.fixed 200) / (2 ^ 400 : Int))
  else none

/-- CELL (R223). -/
def execCell (h : Hdr) (d a b c : BitVec 6) (dim : BitVec 4) (n : BitVec 6) (s : State) : Out :=
  let k := dim.toNat + 1
  let r := fun (j : Nat) => s.g.rs (n.toNat + j)
  let nx := field (r 3) 0 16
  let ny := if 2 ≤ k then field (r 3) 16 16 else 1
  let nz := if 3 ≤ k then field (r 3) 32 16 else 1
  let bad := decide (nx = 0) || decide (ny = 0) || decide (nz = 0) || decide (2 ^ 32 ≤ nx * ny * nz) || decide (field (r 3) 48 16 ≠ 0)
  let f := fun (j lo : Nat) => fmtF32.decode (field (r j) lo 32)
  issueLane (.cell h d a b c dim n) h
    { vr := [v1 a] ++ (if 2 ≤ k then [v1 b] else []) ++ (if 3 ≤ k then [v1 c] else [])
      vw := [v1 d]
      sr := [n.toNat, n.toNat + 1, n.toNat + 2, n.toNat + 3]
      illegal := bad }
    (setLanes d (fun g l =>
      let axis := fun (v : BitVec 6) (o inv : FVal) (cnt : Nat) => match cellIndex (asF32 (g.op v l)) o inv with
        | some q => if q < 0 || (cnt : Int) ≤ q then none else some q.toNat
        | none => none
      let cx := axis a (f 0 0) (f 1 32) nx
      let cy := if 2 ≤ k then axis b (f 0 32) (f 2 0) ny else some 0
      let cz := if 3 ≤ k then axis c (f 1 0) (f 2 32) nz else some 0
      match cx, cy, cz with
      | some x, some y, some z => BitVec.ofNat 32 (x + nx * (y + ny * z))
      | _, _, _ => 0xFFFFFFFF)) s

end Sys2Proof.Machine
end

