-- ==== Sys2Proof/Machine/Special.lean ====
section
/-! DEFINITION. The special registers and the window base (02 R40, R43 to R45; 03 R90, R91; 04 R112, R113; 05 R123; 07 R206; 09 R241;
10 R289; 11 R314; 12 R322, R341; 13 R364, R365; 14 R386, R387). -/

namespace Sys2Proof.Machine

/-! ## Reading -/

/-- Whether a group's splits have class 32 (03 R62). -/
def Group.raised (g : Group) : Bool := !g.wounds.isEmpty || g.inh

/-- SCHEDST (R91). -/
def Group.schedst (g : Group) (sp : Split) : W64 :=
  BitVec.ofNat 64 (g.prio.toNat + bitOf g.raised * 32 + sp.passed % 128 * 64)

/-- The entries of a die's device queue in use (R80). -/
def State.deviceQueue (s : State) (die : Nat) : List Grid :=
  s.grids.filter (fun x => x.child && !x.accepted && decide (x.die = die))

/-- Entries reserved on a die: two for every team that has started there and not retired (R80); the runs of a checked team are one
team. -/
def State.reservedEntries (s : State) (die : Nat) : Nat :=
  2 * (s.teams.filter (fun t => decide (dieOf t.tile = die) && !t.role.follows)).length

/-- Shared entries free on a die. -/
def State.sharedFree (s : State) (die : Nat) : Nat :=
  8192 - s.reservedEntries die - ((s.deviceQueue die).filter (fun x => !x.reserved)).length

/-- Reserved entries of a team free. -/
def State.ownFree (s : State) (die tid : Nat) : Nat :=
  2 - ((s.deviceQueue die).filter (fun x => x.reserved && decide (x.parent = some tid))).length

/-- DQSTAT (R91). -/
def State.dqstat (s : State) (g : Group) : W64 :=
  let die := dieOf g.tile
  BitVec.ofNat 64 ((s.deviceQueue die).length % 2 ^ 14 + s.sharedFree die % 2 ^ 14 * 2 ^ 14 + s.ownFree die g.tid * 2 ^ 28)

/-- SPLITSEL (R91). -/
def Group.splitselWord (g : Group) (sp : Split) : W64 :=
  BitVec.ofNat 64 (field g.splitSel 0 6 + field g.splitSel 8 1 * 2 ^ 8 + g.stack.length * 2 ^ 16 +
    ([0, 1, 2, 3].map (fun n => bitOf (g.split n).isSome * 2 ^ (24 + n))).foldl (· + ·) 0 + 2 ^ (28 + sp.slot))

/-- The stack entry of an index counted from the bottom. -/
def Group.stackAt (g : Group) (i : Nat) : Option (BitVec 57 × W32) := if i < g.stack.length then g.stack[g.stack.length - 1 - i]? else none

/-- SPLITDATA (R91). -/
def Group.splitdata (g : Group) : W64 :=
  let i := field g.splitSel 0 6
  let part := g.splitSel.getLsbD 8
  if i < 4 then
    match g.split i with
    | some x => if part then x.mask.setWidth 64 else (wordPc x.pc).setWidth 64
    | none => if part then 0 else (wordPc (mapGet (fun _ => 0) g.keptPc i)).setWidth 64
  else
    match g.stackAt (i - 4) with
    | some x => if part then x.2.setWidth 64 else (wordPc x.1).setWidth 64
    | none => 0

/-- LKSTAT (R289). -/
def Group.lkstat (g : Group) : W64 :=
  let pend := (match g.lreq with | some r => !r.granted && r.try_.isNone | none => false)
  BitVec.ofNat 64 (g.lset.length % 128 + bitOf g.agev * 2 ^ 7 + bitOf g.agehold * 2 ^ 8 + bitOf (!g.wounds.isEmpty) * 2 ^ 9 +
    bitOf pend * 2 ^ 10 + bitOf (decide (1 < g.wounds.length)) * 2 ^ 11)

/-- LKDATA (R289). -/
def Group.lkdata (g : Group) : W64 :=
  match g.lset[field g.lkSel 0 6]? with
  | none => 0
  | some x =>
    if g.lkSel.getLsbD 8 then
      BitVec.ofNat 64 (x.mode % 8 + (match x.upg with | some m => 8 + m % 8 * 16 | none => 0))
    else x.name

/-- TSTAT (R341). -/
def State.tstat (s : State) (g : Group) : W64 :=
  BitVec.ofNat 64 (bitOf g.inh + bitOf (s.privileged g) * 2 + bitOf g.haz * 4 + g.olog.length % 64 * 2 ^ 8 +
    (g.olog.filter OlEntry.faulty).length % 64 * 2 ^ 14)

/-- The header of an operand-log entry (R341). -/
def OlEntry.header (e : OlEntry) : W64 :=
  let first := match e.destS with
    | d :: _ => d
    | [] => e.dst
  let stores := match e.kind with
    | .load _ | .sld _ | .ctrRd _ | .lkDef .. | .wait _ => false
    | _ => true
  let mask := if e.uni then 1 else e.mask.toNat
  BitVec.ofNat 64 (e.opc.toNat + first % 256 * 2 ^ 8 + e.size.log2 % 16 * 2 ^ 16 + bitOf stores * 2 ^ 20 + mask * 2 ^ 32)

/-- Whether an entry is a CAS, whose captured compare value stands after its data (R341; log entry 104). -/
def OlEntry.isCas (e : OlEntry) : Bool :=
  match e.kind with
  | .atom _ op _ => decide (op = 8)
  | _ => false

/-- OLDATA (R341). -/
def Group.oldata (g : Group) : W64 :=
  match g.olog.find? (fun e => decide (e.idx = field g.olSel 0 5)) with
  | none => 0
  | some e =>
    let part := field g.olSel 5 3
    if part = 0 then e.header
    else if part = 1 then
      (maskOf ((e.lanes.filter (fun l => l.st.isDone)).map (·.lane))) ++ (maskOf ((e.lanes.filter (fun l => l.st.isFaulted)).map (·.lane)))
    else
      match e.lanes.find? (fun l => decide (l.lane = field g.olSel 8 5)) with
      | none => 0
      | some l =>
        if part = 2 then l.addr
        else if part = 3 then l.data.extractLsb' 0 64
        else if part = 4 then (if e.isCas then l.cmp else l.data.extractLsb' 64 64)
        else 0

/-- CHORDST (R364): the leader's values. -/
def State.chordst (s : State) (g : Group) : W64 :=
  let red := match s.grid (g.gridId.extractLsb' 0 32) with
    | some x => x.desc.red.toNat
    | none => 0
  let flags := match s.grid (g.gridId.extractLsb' 0 32) with
    | some x => x.desc.flags
    | none => 0
  let grid := red % 8 * 8 + bitOf (flags.getLsbD 3) * 2 ^ 49 + bitOf (flags.getLsbD 4) * 2 ^ 50
  match s.chordOf g with
  | none => BitVec.ofNat 64 grid
  | some c =>
    let checked := decide (c.level ≠ 0)
    let role := if checked then (match g.role with | .plain => 0 | .leader => 1 | .trailer => 2 | .third => 3) else 0
    BitVec.ofNat 64 (bitOf checked + role * 2 + grid + c.open_ % 2 ^ 24 * 2 ^ 8 + min 255 c.mism * 2 ^ 32 + min 255 c.late * 2 ^ 40 +
      bitOf c.released * 2 ^ 48)

/-- GEARST (R386). -/
def State.gearst (s : State) (g : Group) : W64 :=
  let t := s.tile g.tile
  let c := s.clu (clusterOf g.tile)
  let mhz := if t.fgear then c.fmhz else c.nmhz
  BitVec.ofNat 64 (bitOf g.gearReq + bitOf t.fgear * 16 + bitOf t.trans.isSome * 32 + bitOf t.deferred.isSome * 64 + 
    bitOf (t.fgear && s.groups.any (fun x => x.live && !x.away && decide (x.tile = g.tile) && s.forcedF x)) * 128 +
    mhz.toNat * 2 ^ 16)

/-- TILECLK (R387). -/
def State.tileclk (s : State) (g : Group) : W64 :=
  let c := s.clu (clusterOf g.tile)
  BitVec.ofNat 64 (c.fmhz.toNat + c.nmhz.toNat * 2 ^ 12 + c.droops.toNat * 2 ^ 32)

/-- BALST (R387). -/
def State.balst (s : State) (g : Group) : W64 :=
  let p := s.pair (pairOf g.tile)
  BitVec.ofNat 64 (min 255 p.imb + min 255 p.pend * 2 ^ 8 + bitOf p.burn * 2 ^ 16 + p.defers.toNat * 2 ^ 32)

/-- The value SRD reads at an index for a split of a group (R43, R44). -/
def State.readSpecial (s : State) (g : Group) (sp : Split) (idx : Nat) : W64 :=
  let c := s.ctx g.ctx
  match idx with
  | 0x00 => g.gidx.setWidth 64
  | 0x01 => g.teamIdx
  | 0x02 => g.teamDim.setWidth 64
  | 0x03 => g.gridId
  | 0x04 => g.gridDim
  | 0x05 => BitVec.ofNat 64 g.tile
  | 0x06 => BitVec.ofNat 64 (clusterOf g.tile)
  | 0x07 => BitVec.ofNat 64 (dieOf g.tile)
  | 0x08 => s.chip.setWidth 64
  | 0x09 => g.depth.setWidth 64
  | 0x0B => g.argptr
  | 0x0C => g.fpstat.setWidth 64
  | 0x0D => g.fpctl.setWidth 64
  | 0x0E => s.gearst g
  | 0x0F => s.chordst g
  | 0x10 => g.batchSeq
  | 0x11 => g.batchDone
  | 0x12 => if g.agev then g.age else 0
  | 0x13 => g.phase.setWidth 64
  | 0x14 => g.tcause
  | 0x15 => g.tpc.setWidth 64
  | 0x16 => g.tresume.setWidth 64
  | 0x17 => g.tmask.setWidth 64
  | 0x18 => g.taddr
  | 0x19 => g.tdt
  | 0x1A => g.tother.setWidth 64
  | 0x1B => g.tlanecause
  | 0x20 => g.schedst sp
  | 0x21 => s.dqstat g
  | 0x22 => g.splitselWord sp
  | 0x23 => g.splitdata
  | 0x24 => c.ptroot &&& 0x0FFFFFFFFFFFF000
  | 0x25 => g.twalk
  | 0x26 => g.acctSel &&& 7
  | 0x27 => mapGet (fun _ => 0) c.acct (field g.acctSel 0 3)
  | 0x28 => c.lkdtab &&& 0x01FFFFFFFFFE0000
  | 0x29 => g.lkstat
  | 0x2A => g.lkSel &&& 0x13F
  | 0x2B => g.lkdata
  | 0x2C => g.engErr
  | 0x2D => g.engAddr
  | 0x2E => s.pgtab &&& 0x0000FFFFFFFFF000
  | 0x30 => (wordPc c.tvec).setWidth 64
  | 0x31 => s.tstat g
  | 0x32 => g.txb.setWidth 64
  | 0x33 => g.olSel &&& 0x1FFF
  | 0x34 => g.oldata
  | 0x35 => g.ctxBase &&& 0x01FFFFFFFFFFF000
  | 0x36 => BitVec.ofNat 64 (c.num % 2 ^ 16 + bitOf c.priv * 2 ^ 16)
  | 0x38 => c.chseed
  | 0x39 => c.prhold
  | 0x3A => c.recbase &&& 0x01FFFFFFFFFFFFC0
  | 0x3B => if field c.chctl 0 4 = 0 then (c.chctl &&& 0x10) ||| 1 else c.chctl &&& 0x1F
  | 0x3C => BitVec.ofNat 64 (bitOf c.auto)
  | 0x3D => s.tileclk g
  | 0x3E => s.balst g
  | _ => 0

/-! ## Writing -/

/-- A write of SPLITSEL (R91): the stack takes the depth written, new entries on top reading 0. -/
def Group.writeSplitsel (g : Group) (v : W64) : Group :=
  let n := min 32 (field v 16 6)
  let st := if n ≤ g.stack.length then g.stack.drop (g.stack.length - n)
    else (upFrom 0 (n - g.stack.length)).map (fun _ => ((0 : BitVec 57), (0 : W32))) ++ g.stack
  { g with splitSel := v &&& 0x13F, stack := st }

/-- The lanes of every other split, entry or split to be created of a group: a write of a mask cannot take them (R91). -/
def Group.lanesElsewhere (g : Group) (slot stackPos : Option Nat) : W32 :=
  let a := (g.splits.filter (fun x => decide (some x.slot ≠ slot))).foldl (fun m x => m ||| x.mask) 0
  let b := (g.newSplits.filter (fun x => decide (some x.1 ≠ slot))).foldl (fun m x => m ||| x.2) 0
  let c := ((upFrom 0 g.stack.length).filter (fun i => decide (some i ≠ stackPos))).foldl (fun m i =>
    m ||| (match g.stack[i]? with | some x => x.2 | none => 0)) 0
  a ||| b ||| c

/-- A write of SPLITDATA by a split (R91). -/
def Group.writeSplitdata (g : Group) (self : Nat) (v : W64) : Group :=
  let i := field g.splitSel 0 6
  let part := g.splitSel.getLsbD 8
  let pc : BitVec 57 := wordPc (v.extractLsb' 0 57)
  if i = self then g
  else if i < 4 then
    if part then
      let m := v.extractLsb' 0 32 &&& ~~~(g.lanesElsewhere (some i) none)
      match g.split i with
      | some x =>
        if m = 0 then
          { g with splits := g.splits.filter (fun y => decide (y.slot ≠ i)), keptPc := mapSet (fun _ => 0) g.keptPc i x.pc }
        else g.setSplit { x with mask := m }
      | none =>
        let rest := g.newSplits.filter (fun x => decide (x.1 ≠ i))
        { g with newSplits := if m = 0 then rest else rest ++ [(i, m)] }
    else
      match g.split i with
      | some x => g.setSplit { x with pc := pc }
      | none => { g with keptPc := mapSet (fun _ => 0) g.keptPc i pc }
  else
    let k := i - 4
    if k < g.stack.length then
      let pos := g.stack.length - 1 - k
      let m := v.extractLsb' 0 32 &&& ~~~(g.lanesElsewhere none (some pos))
      { g with stack := g.stack.modify pos (fun x => if part then (x.1, m) else (pc, x.2)) }
    else g

/-- A write of OLDATA (R341): parts 2 to 4 change what the entry captured. -/
def Group.writeOldata (g : Group) (v : W64) : Group :=
  let part := field g.olSel 5 3
  let lane := field g.olSel 8 5
  g.modEntry (field g.olSel 0 5) (fun l =>
    if l.lane = lane then
      (if part = 2 then { l with addr := v, fast := none }
      else if part = 3 then { l with data := l.data.extractLsb' 64 64 ++ v }
      else if part = 4 then
        (if (g.entry (field g.olSel 0 5)).any OlEntry.isCas then { l with cmp := v } else { l with data := v ++ l.data.extractLsb' 0 64 })
      else l)
    else l)

/-- A context-wide register written; a run that follows a log performs no effect on other parties (13 R347, R360). -/
def State.setCtx (s : State) (f : Context → Context) : State := if s.g.role.follows then s else s.modCtx s.g.ctx f

/-- The effect of SWR at an index (R6, R43, R44). -/
def State.writeSpecial (s : State) (sp : Split) (idx : Nat) (v : W64) : State :=
  match idx with
  | 0x0C => { s with g := { s.g with fpstat := v.extractLsb' 0 5 } }
  | 0x0D => { s with g := { s.g with fpctl := v.extractLsb' 0 2 } }
  | 0x14 => { s with g := { s.g with tcause := v &&& 0x3FFF } }
  | 0x15 => { s with g := { s.g with tpc := wordPc (v.extractLsb' 0 57) } }
  | 0x16 => { s with g := { s.g with tresume := wordPc (v.extractLsb' 0 57) } }
  | 0x17 => { s with g := { s.g with tmask := v.extractLsb' 0 32 } }
  | 0x18 => { s with g := { s.g with taddr := v } }
  | 0x19 => { s with g := { s.g with tdt := v } }
  | 0x1A => { s with g := { s.g with tother := v.extractLsb' 0 2 } }
  | 0x1B => { s with g := { s.g with tlanecause := v } }
  | 0x22 => { s with g := s.g.writeSplitsel v }
  | 0x23 => { s with g := s.g.writeSplitdata sp.slot v }
  | 0x26 => { s with g := { s.g with acctSel := v &&& 7 } }
  | 0x2A => { s with g := { s.g with lkSel := v &&& 0x13F } }
  | 0x2C => { s with g := { s.g with engErr := if v.getLsbD 7 then setField s.g.engErr 7 1 0 else s.g.engErr } }
  | 0x30 => s.setCtx (fun c => { c with tvec := wordPc (v.extractLsb' 0 57) })
  | 0x31 => { s with g := { s.g with haz := v.getLsbD 2 } }
  | 0x32 => { s with g := { s.g with txb := v.extractLsb' 0 8 } }
  | 0x33 => { s with g := { s.g with olSel := v &&& 0x1FFF } }
  | 0x34 => { s with g := s.g.writeOldata v }
  | 0x38 => s.setCtx (fun c => { c with chseed := v })
  | 0x39 => s.setCtx (fun c => { c with prhold := v })
  | 0x3A => s.setCtx (fun c => { c with recbase := v &&& 0x01FFFFFFFFFFFFC0 })
  | 0x3B => s.setCtx (fun c => { c with chctl := v &&& 0x1F })
  | 0x3C => s.setCtx (fun c => { c with auto := v.getLsbD 0 })
  | _ => s

/-! ## SRD, SWR and the window base -/

/-- Whether an SRD of an index is logged (13 R346). -/
def srLogged (idx : Nat) : Bool :=
  [0x05, 0x06, 0x07, 0x08, 0x09, 0x0B, 0x0E, 0x0F, 0x11, 0x12].contains idx || decide (0x20 ≤ idx)

/-- Whether earlier instructions that update FPSTAT have not completed (R113). -/
def State.flagsOut (s : State) : Bool :=
  s.jobs.any (fun j => decide (j.gid = s.g.gid)) || s.g.results.any (fun r => decide (r.flags ≠ 0))

/-- Whether a lock instruction that is on its way, not parked, and updates the group's lock registers has not completed (R113): LOCKAGE, LKSTAT
and LKDATA wait for it. -/
def Group.locksOut (g : Group) : Bool :=
  match g.lockSeq with
  | some q => g.results.any (fun r => decide (r.seq = q))
  | none => false

/-- Whether the register of an index waits for an earlier instruction that updates it (R113). -/
def State.registerOut (s : State) (idx : Nat) : Bool :=
  (decide (idx = 0x0C) && s.flagsOut) || (decide (idx = 0x10) && s.g.splits.any (fun sp => match sp.park with
    | .batchClose .. => true
    | _ => false)) || ((decide (idx = 0x12) || decide (idx = 0x29) || decide (idx = 0x2B)) && s.g.locksOut)

/-- SRD (R112, R113). -/
def execSrd (h : Hdr) (d idx : BitVec 6) (s : State) : Out :=
  issueUni (.srd h d idx) h { sw := [d.toNat], priv := decide (0x20 ≤ idx.toNat), logged := srLogged idx.toNat }
    (fun sp s =>
      if s.registerOut idx.toNat then (s, .wait)
      else ({ s with g := s.g.ws d.toNat (s.readSpecial s.g sp idx.toNat) }, .fall)) s

/-- SWR (R112, R113). -/
def execSwr (h : Hdr) (a idx : BitVec 6) (s : State) : Out :=
  issueUni (.swr h a idx) h
    { sr := [a.toNat], priv := decide (0x20 ≤ idx.toNat) || (decide (0x14 ≤ idx.toNat) && decide (idx.toNat ≤ 0x1B)) }
    (fun sp s =>
      if s.registerOut idx.toNat then (s, .wait)
      else (s.writeSpecial sp idx.toNat (s.g.rs a.toNat), .fall)) s

/-- A new window base (R40): taken when it lies in the allotment, else Register Bounds with the base in TADDR (R428). -/
def moveWindow (sp : Split) (base : Int) (s : State) : State × Fate :=
  if base < 0 || (s.g.allot : Int) - 1 < base then
    (s, ownTrap s sp 0x03 sp.pc (boundsAddr (BitVec.ofInt 9 base).toNat false 2))
  else ({ s with g := { s.g with xb := BitVec.ofInt 8 base } }, .fall)

/-- XB.SET, immediate form (R40). -/
def execXbSetImm (h : Hdr) (imm : BitVec 12) (s : State) : Out :=
  issueUni (.xbSetImm h imm) h {} (fun sp s => moveWindow sp (imm.toNat : Int) s) s

/-- XB.SET, register form (R40). -/
def execXbSetReg (h : Hdr) (a : BitVec 6) (s : State) : Out :=
  issueUni (.xbSetReg h a) h { sr := [a.toNat] } (fun sp s => moveWindow sp ((s.g.rs a.toNat).toNat : Int) s) s

/-- XB.ADD, immediate form (R40). -/
def execXbAddImm (h : Hdr) (imm : BitVec 12) (s : State) : Out :=
  issueUni (.xbAddImm h imm) h {} (fun sp s => moveWindow sp ((s.g.xb.toNat : Int) + imm.toInt) s) s

/-- XB.ADD, register form (R40). -/
def execXbAddReg (h : Hdr) (a : BitVec 6) (s : State) : Out :=
  issueUni (.xbAddReg h a) h { sr := [a.toNat] } (fun sp s => moveWindow sp ((s.g.xb.toNat : Int) + (s.g.rs a.toNat).toInt) s) s

end Sys2Proof.Machine
end

