-- ==== Sys2Proof/Machine/Control.lean ====
section
/-! DEFINITION. Branches, calls, loops, divergence, joins and the end of lanes (03 R66 to R74). -/

namespace Sys2Proof.Machine

/-- A branch offset in words as bytes added to a PC (R67). -/
def pcWords (pc : BitVec 57) (words : Int) : BitVec 57 := pc + BitVec.ofInt 57 (4 * words)

/-- BRA (R67). -/
def execBra (h : Hdr) (off : BitVec 18) (s : State) : Out :=
  issueUni (.bra h off) h {} (fun sp s => (s, .jump (pcWords sp.pc off.toInt))) s

/-- CALL (R67). -/
def execCall (h : Hdr) (off : BitVec 18) (s : State) : Out :=
  issueUni (.call h off) h { sw := [63] }
    (fun sp s => ({ s with g := s.g.ws 63 ((pcAdd sp.pc 4).setWidth 64) }, .jump (pcWords sp.pc off.toInt))) s

/-- The jump of RET and JMP to a register's value (R67). -/
def jumpTo (t : W64) (sp : Split) (s : State) : State × Fate :=
  if t.extractLsb' 0 2 ≠ 0 then (s, ownTrap s sp 0x04 sp.pc t) else (s, .jump (t.extractLsb' 0 57))

/-- RET (R67). -/
def execRet (h : Hdr) (a : BitVec 6) (s : State) : Out :=
  issueUni (.ret h a) h { sr := [a.toNat] } (fun sp s => jumpTo (s.g.rs a.toNat) sp s) s

/-- JMP (R67). -/
def execJmp (h : Hdr) (a : BitVec 6) (s : State) : Out :=
  issueUni (.jmp h a) h { sr := [a.toNat] } (fun sp s => jumpTo (s.g.rs a.toNat) sp s) s

/-- LOOP (R67). -/
def execLoop (h : Hdr) (a : BitVec 6) (k : BitVec 32) (s : State) : Out :=
  issueUni (.loop h a k) h { sr := [a.toNat], sw := [a.toNat] }
    (fun sp s =>
      let x := s.g.rs a.toNat - 1
      ({ s with g := s.g.ws a.toNat x }, if x ≠ 0 then .jump (pcWords sp.pc k.toInt) else .fall)) s

/-- BRL (R69): no lane takes it, every lane takes it, or the split is divided. -/
def execBrl (h : Hdr) (k : BitVec 32) (s : State) : Out :=
  issueLaneAll (.brl h k) h {}
    (fun t sp s =>
      let target := pcWords sp.pc k.toInt
      let f := sp.mask &&& ~~~t
      if t = 0 then (s, .fall)
      else if f = 0 then (s, .jump target)
      else
        match s.g.placeSplit sp.slot target t s.clock with
        | none => (s, ownTrap s sp 0x13 sp.pc (target.setWidth 64))
        | some g1 =>
          let sp1 := { sp with mask := f }
          (({ s with g := g1.setSplit sp1 }).advance h sp1 (pcAdd sp.pc 8) true (s.clock + 4), .placed)) s

/-- JOIN (R70). -/
def execJoin (h : Hdr) (s : State) : Out := issueLaneAll (.join h) h {} (fun _ _ s => (s, .park .join)) s

/-- NOP (R71). -/
def execNop (h : Hdr) (s : State) : Out := issueLaneAll (.nop h) h {} (fun _ _ s => (s, .fall)) s

/-- YIELD (R72). -/
def execYieldR (h : Hdr) (s : State) : Out := issueUni (.yieldR h) h {} (fun _ s => (s, .stop)) s

/-- SYNCS (R73): the split parks, merging at once with one parked at the same SYNCS. -/
def execSyncs (h : Hdr) (s : State) : Out :=
  issueUni (.syncs h) h {}
    (fun sp s =>
      match s.g.splits.find? (fun x => decide (x.slot ≠ sp.slot) && decide (x.park = .syncs) && decide (x.pc = sp.pc)) with
      | none => (s, .park .syncs)
      | some x =>
        let g1 := s.g.endPark sp.slot .syncs 4 h.w
        match g1.split sp.slot with
        | none => (s, .park .syncs)
        | some me =>
          let lo := min sp.slot x.slot
          let hi := max sp.slot x.slot
          let g2 := ((g1.relabel hi lo).setSplit (mergePair me x)).dropSlot hi s.clock
          let g3 := if (g2.split hi).isSome then Group.mergeAt s.clock 40 g2 hi else g2
          ({ s with g := g3 }, .placed)) s

/-- Whether lanes ending now would end the group. -/
def Group.lastLanes (g : Group) (sp : Split) (lanes : W32) : Bool :=
  decide (sp.mask &&& ~~~lanes = 0) && g.stack.isEmpty && g.newSplits.isEmpty && g.splits.all (fun x => decide (x.slot = sp.slot))

/-- Whether a group of a team is ending: over, or its last lanes are draining. -/
def Group.ending (g : Group) : Bool :=
  !g.live || (match g.splits with
    | [x] => (match x.park with
      | .exitDrain l => g.lastLanes x l
      | _ => false)
    | _ => false)

/-- Whether an EXIT of some lanes by the issuing split is the end of its team (13 R351). -/
def State.teamEnds (s : State) (lanes : W32) : Bool :=
  match s.g.running with
  | none => false
  | some sp => s.g.lastLanes sp lanes &&
      s.groups.all (fun x => decide (x.tid ≠ s.g.tid) || decide (x.gid = s.g.gid) || x.ending)

/-- EXIT (R72): the split drains, then its lanes end. -/
def execExit (h : Hdr) (s : State) : Out :=
  issueUni (.exit h) h { cmp := s.teamEnds 0xFFFFFFFF } (fun sp s => (s, .park (.exitDrain sp.mask))) s

/-- EXIT.L (R71): the split drains, then the active lanes end. -/
def execExitL (h : Hdr) (s : State) : Out :=
  issueLaneAll (.exitL h) h { cmp := s.teamEnds (nowLanes s) } (fun m _ s => (s, .park (.exitDrain m))) s
where
  /-- The lanes that end. -/
  nowLanes (s : State) : W32 := activeMask h s

end Sys2Proof.Machine
end

