-- ==== Sys2Proof/Machine/Image.lean ====
section
/-! DEFINITION. The fill of an image line and a team's scratchpad save area (12 R330 to R332, R336, R427). -/

namespace Sys2Proof.Machine

/-- REGISTER_LINE_FILL (R331, R332, R427): an absent line is filled from the image, room made for it first; a poisoned one comes in poisoned;
a failed access halts the group, and so does an error in the group-state block.  A line in the device's own encoding brings back what the
group holds (log entry 94). -/
def execRegisterLineFill (gid line : Nat) (s : State) : Out :=
  match s.group gid with
  | none => .next s
  | some g =>
    if !g.absent.contains line || g.halted || (s.tile g.tile).trans.isSome then .next s
    else
      let acc := decide (1024 ≤ line) && decide (line < 2000)
      let n := (lineSize line + 127) / 128
      let s0 := State.cacheRoom g.tile gid n acc 4096 s
      if 2048 < s0.cacheUsed g.tile acc + n then .next s0
      else
        if s0.imageLineHeld g line then .next s0 else
        match s0.imagePlace g (imageLine g line) with
        | (none, s1) => .next s1
        | (some pa, s1) =>
          let poisoned := !s1.cleanRange pa (lineSize line)
          if poisoned && codedLine line then .next (s1.imageFault g 0x12 none 512)
          else
            let bs := (upFrom pa 128).map s1.physByte
            .next (s1.modGroup gid (fun g =>
              let g1 := { g.fillLine line bs with absent := delNat line g.absent }
              if !poisoned then g1
              else if line < 1024 then { g1 with regPoison := insNat line g1.regPoison }
              else { g1 with accPoison := insNat line g1.accPoison }))

/-! ## The scratchpad save area (R330, R336) -/

/-- The group of a team whose image its save area follows. -/
def State.firstGroup (s : State) (tid : Nat) : Option Group := s.groups.find? (fun g => decide (g.tid = tid) && decide (g.gidx = 0))

/-- The VA of a byte of a team's scratchpad in its save area (R330). -/
def saveVa (g : Group) (off : Nat) : Nat := g.image + 0x21000 + off

/-- Whether an access to some bytes of a team's save area waits (07 R187). -/
def State.saveHeld (s : State) (tid off n : Nat) : Bool :=
  (s.firstGroup tid).any (fun g => (upFrom (off / 128) ((off % 128 + n + 127) / 128)).any (fun k => s.imageHeld g (saveVa g (128 * k))))

/-- Bytes of a team's scratchpad written to its save area at device scope (R336). -/
def State.saveBytes (s : State) (tid off : Nat) (bs : List Byte) : State :=
  match s.firstGroup tid with
  | none => s
  | some g =>
    match s.imagePlace g (saveVa g off) with
    | (none, s1) => s1
    | (some pa, s1) => s1.deviceStore (some g.ctx) pa bs

/-- One byte of a team's save area, none where it cannot be read or is poisoned. -/
def State.savedByte (s : State) (tid off : Nat) : Option Byte × State :=
  match s.firstGroup tid with
  | none => (none, s)
  | some g =>
    match s.imagePlace g (saveVa g off) with
    | (none, s1) => (none, s1)
    | (some pa, s1) => ((s1.physRead pa 1).map (fun bs => bs.headD 0), s1)

/-- Bytes of a team's save area. -/
def State.savedBytes (s : State) (tid off n : Nat) : Option (List Byte) × State :=
  (upFrom off n).foldl (fun (x : Option (List Byte) × State) k => match x.1 with
    | none => x
    | some bs =>
      let (b, s1) := x.2.savedByte tid k
      (b.map (fun b => bs ++ [b]), s1)) (some [], s)

/-- The poison of a sector of a team's scratchpad carried to its save area. -/
def State.savePoison (s : State) (tid sector : Nat) : State :=
  match s.firstGroup tid with
  | none => s
  | some g =>
    match s.imagePlace g (saveVa g (32 * sector)) with
    | (none, s1) => s1
    | (some pa, s1) => { s1 with poison := insNat (pa / 32) s1.poison }

/-- A pre-empted team's scratchpad bytes copied to its save area and its banks released (R336). -/
def State.saveScratch (s : State) (tid : Nat) : State :=
  match s.team tid with
  | none => s
  | some t =>
    if t.saved then s
    else
      let s1 := (upFrom 0 ((t.scratch + 31) / 32)).foldl (fun s k => s.saveBytes tid (32 * k) (memGetList t.scr (32 * k) (min 32 (t.scratch - 32 * k)))) s
      let s2 := t.scrPoison.foldl (fun s k => s.savePoison tid k) s1
      if (s2.firstGroup tid).any (fun g => g.halted) then s2
      else s2.modTeam tid (fun t => { t with saved := true, scr := [], scrPoison := [], badWords := [] })

/-- One sector of a team's scratchpad read back from its save area (R336). -/
def State.loadSector (s : State) (tid k : Nat) : State :=
  match s.firstGroup tid with
  | none => s
  | some g =>
    match s.imagePlace g (saveVa g (32 * k)) with
    | (none, s1) => s1
    | (some pa, s1) =>
      let bs := (upFrom pa 32).map s1.physByte
      let bad := !s1.cleanRange pa 32
      s1.modTeam tid (fun t =>
        { t with
          scr := memSetList t.scr (32 * k) (bs.take (t.scratch - 32 * k))
          scrPoison := if bad then insNat k t.scrPoison else t.scrPoison })

/-- A team's scratchpad reloaded from its save area; where its image cannot be read the bytes stay there (R336, R427). -/
def State.loadScratch (s : State) (tid : Nat) : State :=
  match s.team tid with
  | none => s
  | some t =>
    if !t.saved then s
    else
      let s1 := (upFrom 0 ((t.scratch + 31) / 32)).foldl (fun s k => s.loadSector tid k) s
      if (s1.firstGroup tid).any (fun g => g.halted) then s1.modTeam tid (fun t => { t with scr := [], scrPoison := [] })
      else s1.modTeam tid (fun t => { t with saved := false })

end Sys2Proof.Machine
end

