-- ==== Sys2Proof/Machine/Sync.lean ====
section
/-! DEFINITION. Counters, barriers, batches, phase tags, QUIET, FENCE and ACQ.REM (09 R227 to R247). -/

namespace Sys2Proof.Machine

/-! ## Counter and barrier instructions -/

/-- The contributions of a compare point's s registers and imm16 to SS (13 R350). -/
def regFolds (g : Group) (regs : List Nat) (imm : Option (BitVec 16)) : List (W32 × W32) :=
  regs.flatMap (fun n => [(BitVec.ofNat 32 n, (g.rs n).extractLsb' 0 32), (BitVec.ofNat 32 n, (g.rs n).extractLsb' 32 32)]) ++
    (match imm with
    | some k => [((0x200 : W32), k.setWidth 32)]
    | none => [])

/-- The space of a mode code (R227). -/
def modeSpace (mode : Nat) : Space := if mode = 0 then .glob else if mode = 1 then .scr else .clu

/-- The address operand of a mode (R227). -/
def modeAddr (mode : Nat) (v : W64) : W64 := if mode = 0 then v else if mode = 1 then v &&& 0xFFFFFFFF else v &&& 0xFFFFF

/-- The operand of kind 0 (a register) or kind 1 (imm16) (R232). -/
def kindOperand (g : Group) (kind : BitVec 4) (b : BitVec 6) (imm : BitVec 16) : W64 :=
  if kind.toNat = 0 then g.rs b.toNat else imm.setWidth 64

/-- The registers of the form. -/
def kindRegs (kind : BitVec 4) (a b : BitVec 6) : List Nat := if kind.toNat = 0 then [a.toNat, b.toNat] else [a.toNat]

/-- The imm16 of the form. -/
def kindImm (kind : BitVec 4) (imm : BitVec 16) : Option (BitVec 16) := if kind.toNat = 0 then none else some imm

/-- CTR.ADD (R231, R232). -/
def execCtrAdd (h : Hdr) (a b : BitVec 6) (mode : BitVec 4) (sc : BitVec 2) (kind : BitVec 4) (imm : BitVec 16) (s : State) : Out :=
  let i : Instr := .ctrAdd h a b mode sc kind imm
  issueUni i h
    { sr := kindRegs kind a b, late := true, logged := true, cmp := true
      folds := regFolds s.g (kindRegs kind a b) (kindImm kind imm) }
    (fun sp s => s.hold i sp sp.mask { kind := .ctrAdd, space := modeSpace mode.toNat, size := 8, scope := sc.toNat, uni := true }
      [{ laneAt 0 (modeAddr mode.toNat (s.g.rs a.toNat)) none with data := (kindOperand s.g kind b imm).setWidth 128 }]) s

/-- BAR.ARV (R231, R238, R239). -/
def execBarArv (h : Hdr) (d a b : BitVec 6) (mode : BitVec 4) (sc : BitVec 2) (kind : BitVec 4) (imm : BitVec 16) (s : State) : Out :=
  let i : Instr := .barArv h d a b mode sc kind imm
  issueUni i h
    { sr := kindRegs kind a b, sw := [d.toNat], late := true, logged := true, cmp := true
      folds := regFolds s.g (kindRegs kind a b) (kindImm kind imm) }
    (fun sp s => s.hold i sp sp.mask { kind := .barArv d.toNat, space := modeSpace mode.toNat, size := 8, scope := sc.toNat, uni := true }
      [{ laneAt 0 (modeAddr mode.toNat (s.g.rs a.toNat)) none with data := (kindOperand s.g kind b imm).setWidth 128 }]) s

/-- CTR.RD of a word (R237). -/
def ctrRead (i : Instr) (h : Hdr) (d a : BitVec 6) (w : Nat) (s : State) : Out :=
  issueUni i h { sr := [a.toNat], sw := [d.toNat], late := true, logged := true }
    (fun sp s => s.hold i sp sp.mask { kind := .ctrRd d.toNat, space := .glob, size := 8, uni := true }
      [{ laneAt 0 (s.g.rs a.toNat) none with cmp := BitVec.ofNat 64 w }]) s

/-- CTR.RD (R237). -/
def execCtrRd (h : Hdr) (d a : BitVec 6) (s : State) : Out := ctrRead (.ctrRd h d a) h d a 0 s
/-- CTR.RD.ST (R237). -/
def execCtrRdSt (h : Hdr) (d a : BitVec 6) (s : State) : Out := ctrRead (.ctrRdSt h d a) h d a 1 s

/-- A wait: it takes an entry of the operand log, which translates its object, and parks its split (R231, R235). -/
def waitOn (i : Instr) (h : Hdr) (bar : Bool) (d a : BitVec 6) (regs : List Nat) (imm : Option (BitVec 16)) (mode : BitVec 4) (sc : BitVec 2)
    (target : Group → W64) (q : Option Nat) (deadline : Group → Option W64) (s : State) : Out :=
  issueUni i h
    { sr := regs, sw := [d.toNat], late := true, logged := true, cmp := true, parks := true
      folds := regFolds s.g regs imm }
    (fun sp s =>
      match s.g.freeEntry with
      | none => (s, .wait)
      | some idx =>
        let w : Wait := ⟨bar, idx, sc.toNat, target s.g, d.toNat, q, deadline s.g, none⟩
        let (s1, _) := s.hold i sp sp.mask { kind := .wait bar, space := modeSpace mode.toNat, size := 8, scope := sc.toNat, uni := true }
          [laneAt 0 (modeAddr mode.toNat (s.g.rs a.toNat)) none]
        (s1, .park (.ctr w))) s

/-- CTR.WAIT (R233, R235). -/
def execCtrWait (h : Hdr) (d a b : BitVec 6) (mode : BitVec 4) (sc : BitVec 2) (kind : BitVec 4) (imm : BitVec 16) (s : State) : Out :=
  waitOn (.ctrWait h d a b mode sc kind imm) h false d a (kindRegs kind a b) (kindImm kind imm) mode sc
    (fun g => kindOperand g kind b imm) none (fun _ => none) s

/-- CTR.WAITT (R234, R235). -/
def execCtrWaitt (h : Hdr) (d a b c : BitVec 6) (mode : BitVec 4) (sc : BitVec 2) (q : BitVec 3) (s : State) : Out :=
  waitOn (.ctrWaitt h d a b c mode sc q) h false d a [a.toNat, b.toNat, c.toNat] none mode sc (fun g => g.rs b.toNat) (some q.toNat)
    (fun g => some (g.rs c.toNat)) s

/-- BAR.WAIT (R240). -/
def execBarWait (h : Hdr) (d a b : BitVec 6) (mode : BitVec 4) (sc : BitVec 2) (s : State) : Out :=
  waitOn (.barWait h d a b mode sc) h true d a [a.toNat, b.toNat] none mode sc (fun g => g.rs b.toNat) none (fun _ => none) s

/-! ## The outcome of a park -/

/-- A parked split goes on at the next instruction (R58): at once, or after the W park its instruction asks for (R33). -/
def Group.wakeNext (g : Group) (slot clock : Nat) : Group :=
  match g.split slot with
  | none => g
  | some sp =>
    g.setSplit { sp with pc := pcAdd sp.pc sp.plen, park := if sp.wAfter then .wbit else .ready, age := clock, hold := 0, wAfter := false, plen := 0 }

/-- A parked split issues its instruction again. -/
def Group.wakeHere (g : Group) (slot clock : Nat) : Group :=
  match g.split slot with
  | none => g
  | some sp => g.setSplit { sp with park := .ready, age := clock, hold := 0, wAfter := false, plen := 0 }

/-- The s-register results of a park that has ended: written, folded at the instruction's place, and logged (13 R346, R350). -/
def State.parkResult (s : State) (gid seq cnt : Nat) (sw : List (Nat × W64)) (q : Option (Nat × Bool)) : State :=
  match s.group gid with
  | none => s
  | some g =>
    let s1 := s.modGroup gid (fun g =>
      let g1 := sw.foldl (fun (g : Group) (w : Nat × W64) => g.ws w.1 w.2) g
      match q with
      | some (n, b) => g1.wq n b
      | none => g1)
    let s2 := s1.addFolds g seq false (foldList [] sw)
    let qs : List (Nat × W64) := match q with
      | some (n, b) => [(200000 + n, BitVec.ofNat 64 (bitOf b))]
      | none => []
    s2.logVals g cnt (sw.map (fun (w : Nat × W64) => (100000 + w.1, w.2)) ++ qs ++ [(doneKey, 0)])

/-- What a wait finds at its object: COUNT or PHASE and STATUS, read in one step; none where it cannot be read (yet) (R235). -/
def State.waitReads (s : State) (g : Group) (w : Wait) : Option (Place × Nat × W64 × W64) :=
  match g.entry w.entry with
  | none => none
  | some e =>
    match e.lanes with
    | l :: _ =>
      (match l.st with
      | .located p k =>
        if s.objectHeld p || !s.waitReady g w p then none else some (p, k, s.word p 0, s.word p 8)
      | _ => none)
    | [] => none

/-- The end of a wait: its entry is free, its results written, with the count or phase read entered in a leader's log (R236); its tile keeps no older copy
of the object (R249), and a reached one is an acquire (R235, R255). -/
def State.endWait (s : State) (g : Group) (slot : Nat) (w : Wait) (reached : Bool) (status count : W64) : State :=
  match g.entry w.entry with
  | none => s
  | some e =>
    let s1 := s.modGroup g.gid (fun g => ({ g with olog := g.olog.filter (fun x => decide (x.idx ≠ w.entry)) }).wakeNext slot s.clock)
    let s2 := (s1.logVals g e.cnt [(countKey, count)]).parkResult g.gid e.seq e.cnt [(w.d, status)] (w.q.map (fun n => (n, reached)))
    let s3 := e.places.foldl (fun s p => match p with
      | .glob pa => s.l1Drop g.tile (pa / 32)
      | .scr .. => s) s2
    s3.acquired g reached w.scope

/-- The evaluation of a wait; `late` looks at the deadline too (R234, R235).  What is decided at the object's point stands, and while the
tile's clock is stopped nothing completes (14 R379). -/
def State.evalWait (s : State) (gid slot : Nat) (late : Bool) : State :=
  match s.group gid with
  | none => s
  | some g =>
    match g.split slot with
    | none => s
    | some sp =>
      match sp.park with
      | .ctr w =>
        if g.away || (s.tile g.tile).trans.isSome then s
        else
          match w.decided with
          | some (reached, st, c) => s.endWait g slot w reached st c
          | none =>
            match s.waitReads g w with
            | none => s
            | some (p, k, c, st) =>
              if s.goneScratch p then s.faultLane gid w.entry [0] 0x07 none
              else if s.atomPoison g p (if w.bar then 32 else 16) k then s.faultLane gid w.entry [0] 0x09 none
              else if w.reachedBy c then s.endWait g slot w true st c
              else if late && (match w.deadline with | some t => decide (t.toNat ≤ s.dt) | none => false) then s.endWait g slot w false st c
              else s
      | _ => s

/-- WAIT_SATISFIED (R235, R240): a wait whose object meets its target ends. -/
def execWaitSatisfied (gid slot : Nat) (s : State) : Out := .next (s.evalWait gid slot false)

/-- CTR_WAITT_DEADLINE (R234, R235): at its deadline a wait ends, reached or timed out. -/
def execCtrWaittDeadline (gid slot : Nat) (s : State) : Out := .next (s.evalWait gid slot true)

/-! ## Batches (R241 to R243) -/

/-- The batches of a group advanced over those that are complete (R241). -/
def State.advanceBatches (s : State) (gid : Nat) : State :=
  s.modGroup gid (fun g =>
    let n := (g.batchSeq.toNat - 1) - g.batchDone.toNat
    let done := (upFrom (g.batchDone.toNat + 1) n).takeWhile (fun b => s.cmds.all (fun c => decide (c.gid ≠ gid) || decide (c.batch.toNat ≠ b) || c.done))
    { g with batchDone := BitVec.ofNat 64 (g.batchDone.toNat + done.length) })

/-- BATCH.CLOSE (R242); a follower's batches are its leader's, so it does not park. -/
def execBatchClose (h : Hdr) (d : BitVec 6) (s : State) : Out :=
  issueUni (.batchClose h d) h { sw := [d.toNat] }
    (fun _ s =>
      if s.g.batchSeq - 1 - s.g.batchDone = 16 && !s.mute then (s, .park (.batchClose d.toNat s.g.seq))
      else
        (({ s with g := { (s.g.ws d.toNat s.g.batchSeq) with batchSeq := s.g.batchSeq + 1 } }).advanceBatches s.g.gid, .fall)) s

/-- The batch number a BATCH.WAIT waits for (R243): at most the last closed one, 0 for no wait, which a number below 1 is. -/
def batchTarget (g : Group) (kind : BitVec 4) (a : BitVec 6) (imm : BitVec 16) : Nat :=
  let last : Int := (g.batchSeq.toNat : Int) - 1
  let n : Int := if kind.toNat = 0 then (g.rs a.toNat).toInt else last - imm.toNat
  (min n last).toNat

/-- BATCH.WAIT (R243). -/
def execBatchWait (h : Hdr) (a : BitVec 6) (kind : BitVec 4) (imm : BitVec 16) (s : State) : Out :=
  issueUni (.batchWait h a kind imm) h
    { sr := if kind.toNat = 0 then [a.toNat] else [], late := true, logged := true, parks := true }
    (fun _ s => (s, .park (.batchWait (BitVec.ofNat 64 (batchTarget s.g kind a imm))))) s

/-! ## PHASE and QUIET (R244, R245) -/

/-- PHASE (R244). -/
def execPhase (h : Hdr) (t : BitVec 1) (s : State) : Out :=
  issueUni (.phase h t) h {} (fun _ s => ({ s with g := { s.g with phase := t } }, .fall)) s

/-- QUIET (R245). -/
def execQuiet (h : Hdr) (sc : BitVec 2) (t : BitVec 1) (s : State) : Out :=
  issueUni (.quiet h sc t) h { late := true, logged := true, parks := true, cmp := decide (1 ≤ sc.toNat) }
    (fun _ s => (s, .park (.quiet sc.toNat t s.dt))) s

/-- Whether a scope, taken from a group, covers a group of the package (R248). -/
def inScope (sc : Nat) (g x : Group) : Bool :=
  if sc = 0 then decide (x.tid = g.tid) else if sc = 1 then decide (clusterOf x.tile = clusterOf g.tile) else true

/-- Whether the traffic a QUIET waits for has drained (R245): stores, atomics and object operations performed, engine commands complete;
tentative stores count from their commit. -/
def State.drained (s : State) (g : Group) (sc : Nat) (t : BitVec 1) (since : Nat) : Bool :=
  s.groups.all (fun x => decide (x.ctx ≠ g.ctx) || !inScope sc g x ||
    x.olog.all (fun e => !e.stores || decide (e.tag ≠ t) || decide (s.elapsed e.dt ≤ s.elapsed since) ||
      (s.tentative x && decide (e.space = .glob) && !e.atomic) || e.lanes.all (fun l => !l.st.unperformed))) &&
  s.cmds.all (fun c => decide (c.ctx ≠ g.ctx) || !inScope sc g { g with tid := c.tid, tile := c.tile } || c.done || decide (c.tag ≠ t) ||
    decide (s.elapsed c.dt ≤ s.elapsed since))

/-- QUIET_DRAINED (R245): the park ends, an acquire at its scope. -/
def execQuietDrained (gid slot : Nat) (s : State) : Out :=
  match s.group gid with
  | none => .next s
  | some g =>
    match g.split slot with
    | none => .next s
    | some sp =>
      match sp.park with
      | .quiet sc t since =>
        if g.away || (s.tile g.tile).trans.isSome || !s.drained g sc t since then .next s
        else
          let s1 := (s.modGroup gid (fun g => g.wakeNext slot s.clock)).logVals g sp.cnt [(doneKey, 0)]
          .next (s1.acquired g true sc)
      | _ => .next s

/-! ## FENCE and ACQ.REM (R246, R247) -/

/-- A pending FENCE of a kind and scope entered for the issuing instruction. -/
def State.addFence (s : State) (sc kind : Nat) : State :=
  { s with g := { s.g with fences := s.g.fences ++ [(s.g.seq, sc, kind)] } }

/-- The release of LK.REL, LK.END, LAUNCH or QPOST entered for the issuing instruction: the group's later stores and atomics wait for it (R252). -/
def State.addRelease (s : State) : State := s.addFence 4 1

/-- FENCE (R246): a release wider than team is a compare point (13 R351). -/
def execFence (h : Hdr) (sc : BitVec 2) (kind : BitVec 4) (s : State) : Out :=
  issueUni (.fence h sc kind) h
    { late := true, logged := true, cmp := decide (kind.toNat ≠ 0) && decide (1 ≤ sc.toNat) }
    (fun sp s => ((s.addFence sc.toNat kind.toNat).awaiting sp [] (.fence kind.toNat), .fall)) s

/-- ACQ.REM (R247); a run that follows a log drains nothing outside itself. -/
def execAcqRem (h : Hdr) (d a : BitVec 6) (s : State) : Out :=
  issueUni (.acqRem h d a) h { sr := [a.toNat], sw := [d.toNat], late := true }
    (fun sp s =>
      let v := (s.g.rs a.toNat).toNat
      let ok := decide (v < 1024) && isTile v && s.dieOn (dieOf v) && !(s.tile v).fencedMfr
      let r : Nat × W64 := (d.toNat, if ok then 0 else 1)
      if s.mute then (s.awaiting sp [r] (.fence 0), .fall)
      else if ok then ((s.addFence 2 0).awaiting sp [r] (.victim v), .fall)
      else ((s.addFence 2 0).awaiting sp [r] (.fence 0), .fall)) s

end Sys2Proof.Machine
end

