-- ==== Sys2Proof/Machine/Locus.lean ====
section
/-! DEFINITION. Lock instructions, the decisions at a lock's slice, and wounds (10 R266 to R288). -/

namespace Sys2Proof.Machine

/-! ## Ages and compatibility -/

/-- A group by its number, live or ended. -/
def State.anyGroup (s : State) (gid : Nat) : Option Group := s.groups.find? (fun g => decide (g.gid = gid))

/-- The age of a group with its tie key (R268). -/
def Group.ageKey (g : Group) : List Nat := [g.age.toNat, field g.gridId 0 32, field g.teamIdx 0 32, g.gidx.toNat]

/-- The order of lists of numbers. -/
def lexLt : List Nat → List Nat → Bool
  | a :: as, b :: bs => decide (a < b) || (decide (a = b) && lexLt as bs)
  | _, _ => false

/-- Whether a group is older than another (R268). -/
def State.older (s : State) (g1 g2 : Nat) : Bool :=
  match s.anyGroup g1, s.anyGroup g2 with
  | some a, some b => lexLt a.ageKey b.ageKey
  | _, _ => false

/-- Whether a request in mode r is compatible with a mode h (R265). -/
def compat (mat : BitVec 36) (r h : Nat) : Bool := mat.getLsbD (6 * r + h)

/-- The records of a lock at its slice. -/
def State.recsOf (s : State) (ctx : Nat) (n : W64) : List LockRec := s.locks.filter (fun (r : LockRec) => decide (r.ctx = ctx) && decide (r.name = n))

/-- The mode a record waits for, if it waits (R288). -/
def LockRec.wants (r : LockRec) : Option Nat := if r.held then r.upg else some r.mode

/-- The waiting requests of a lock: (group, mode). -/
def State.waiters (s : State) (ctx : Nat) (n : W64) : List (Nat × Nat) := (s.recsOf ctx n).filterMap (fun r => r.wants.map (fun m => (r.gid, m)))

/-- Whether a request is granted by rule 1 of R271, and by R272 in a scan: compatible with every other holder and every older waiter of a
list. -/
def State.admits (s : State) (ctx : Nat) (n : W64) (gid mode : Nat) (waiting : List (Nat × Nat)) : Bool :=
  let mat := (s.ctx ctx).mat
  ((s.recsOf ctx n).filter (fun r => r.held && decide (r.gid ≠ gid))).all (fun r => compat mat mode r.mode) &&
    (waiting.filter (fun w => decide (w.1 ≠ gid) && s.older w.1 gid)).all (fun w => compat mat mode w.2 && compat mat w.2 mode)

/-! ## Where a lock is kept (R266) -/

/-- The die whose slice keeps a lock, with the translation that finds a line's home. -/
def State.lockDie (s : State) (g : Group) (n : W64) : Nat × State :=
  match s.domain g.ctx (lockDomain n) with
  | none => (0, s)
  | some d =>
    if lockLevel n = 2 then
      match s.translate (s.req g) (d.base + 128 * lockIndex n) .read with
      | (.error _, s1) => (d.die, s1)
      | (.ok e, s1) =>
        match s1.physKind (e.at (d.base + 128 * lockIndex n)) with
        | .dev die => (if e.leaf.getLsbD 62 then d.die else die, s1)
        | _ => (d.die, s1)
    else (d.die, s)

/-- The die that keeps the lock a request names, found without changing anything. -/
def State.reqDie (s : State) (g : Group) (r : LockReq) : Nat := (s.lockDie g r.name).1

/-- Whether a group's traffic reaches the slices of a die (01 R11). -/
def State.lockReaches (s : State) (g : Group) (die : Nat) : Bool := s.pathUp (dieOf g.tile) die

/-- Whether a request cannot be decided yet: the walk for its line waits (07 R195), or the die of its slice is cut off (log entry 123). -/
def State.requestHeld (s : State) (g : Group) (r : LockReq) : Bool :=
  (decide (lockLevel r.name = 2) && (match s.domain g.ctx (lockDomain r.name) with
    | some d => s.transHeld (s.req g) (d.base + 128 * lockIndex r.name) .read
    | none => false)) || !s.lockReaches g (s.reqDie g r)

/-- Whether the pool of a die has a free lock entry, requests on their way counted (R266). -/
def State.poolHas (s : State) (die : Nat) : Bool :=
  let coming := s.groups.filter (fun x => x.live && (match x.lreq with
    | some r => !r.arrived && !r.upg && decide (s.reqDie x r = die)
    | none => false))
  decide ((s.locks.filter (fun (r : LockRec) => decide (r.die = die))).length + coming.length < 65536)

/-! ## The scan of a queue (R272) -/

/-- A waiter put in by age, oldest first. -/
def State.insertByAge (s : State) (w : Nat × Nat) : List (Nat × Nat) → List (Nat × Nat)
  | [] => [w]
  | x :: rest => if s.older w.1 x.1 then w :: x :: rest else x :: State.insertByAge s w rest

/-- A waiting request granted at the slice. -/
def State.grantRec (s : State) (ctx : Nat) (n : W64) (gid mode : Nat) : State :=
  let s1 := { s with locks := s.locks.map (fun (r : LockRec) =>
    if r.ctx = ctx && decide (r.name = n) && decide (r.gid = gid) then { r with held := true, mode := mode, upg := none } else r) }
  s1.modGroup gid (fun g => { g with lreq := g.lreq.map (fun r => { r with granted := true }) })

/-- The waiters of a list, oldest first, each granted or left waiting. -/
def State.scanList (ctx : Nat) (n : W64) : List (Nat × Nat) → State → List (Nat × Nat) → State
  | [], s, _ => s
  | w :: rest, s, left =>
    if s.admits ctx n w.1 w.2 left then State.scanList ctx n rest (s.grantRec ctx n w.1 w.2) left
    else State.scanList ctx n rest s (left ++ [w])

/-- The scan of a lock's queue after it lost a holder or a waiter (R272). -/
def State.scanLock (s : State) (ctx : Nat) (n : W64) : State :=
  State.scanList ctx n ((s.waiters ctx n).foldl (fun l w => s.insertByAge w l) []) s []

/-- A group's record of a lock freed, and its queue scanned. -/
def State.freeRec (s : State) (ctx gid : Nat) (n : W64) : State :=
  ({ s with locks := s.locks.filter (fun (r : LockRec) => !(decide (r.ctx = ctx) && decide (r.name = n) && decide (r.gid = gid))) }).scanLock ctx n

/-- A waiting request of a group withdrawn (R274, R275): its entry freed, or its upgrade dropped with the source mode kept. -/
def State.withdraw (s : State) (gid : Nat) : State :=
  match s.group gid with
  | none => s
  | some g =>
    match g.lreq with
    | none => s
    | some r =>
      if r.granted || r.try_.isSome then s
      else
        let s1 := s.modGroup gid (fun g =>
          { g with lreq := none, lset := g.lset.map (fun (x : LockHold) => if x.name = r.name then { x with upg := none } else x) })
        if !r.arrived then s1
        else if r.upg then
          ({ s1 with locks := s1.locks.map (fun (x : LockRec) =>
              if x.ctx = g.ctx && decide (x.name = r.name) && decide (x.gid = gid) then { x with upg := none } else x) }).scanLock g.ctx r.name
        else s1.freeRec g.ctx gid r.name

/-- The waiting splits of a group in a handler go on without their locks (R275). -/
def State.withdrawOn (s : State) (gid : Nat) : State :=
  match s.group gid with
  | none => s
  | some g =>
    match g.lreq with
    | none => s
    | some r =>
      if r.granted || r.try_.isSome then s
      else
        let cnt := match g.split r.slot with
          | some sp => sp.cnt
          | none => 0
        ((s.withdraw gid).modGroup gid (fun g => g.wakeNext r.slot s.clock)).logVals g cnt [(doneKey, 0)]

/-! ## The checks of R270 -/

/-- The entry of a group's lock set for a lock. -/
def Group.holds (g : Group) (n : W64) : Option LockHold := g.lset.find? (fun x => decide (x.name = n))

/-- The modes in which an ancestor may be held for a mode below it (R270). -/
def ancestorModes (mode : Nat) : List Nat :=
  if mode = 0 || mode = 3 then [0, 2, 3, 5] else if mode = 1 || mode = 4 then [1, 2, 4, 5] else [2, 5]

/-- Whether every ancestor is held as the mode asks. -/
def State.ancestorsHeld (s : State) (g : Group) (n : W64) (mode : Nat) : Bool :=
  (s.ancestors g.ctx n).all (fun a => match g.holds a with
    | some x => (ancestorModes mode).contains x.mode
    | none => false)

/-- Whether an upgrade's modes are a pair of R279. -/
def upgradePair (m t : Nat) : Bool := (t == 2 && (m == 0 || m == 1)) || (t == 5 && (m == 3 || m == 4))

/-- Whether a handler's lock requests stop at once, until RTE: a wound reached it, or was recorded when it was entered (R275). -/
def Group.stopped (g : Group) : Bool := g.inh && g.lkStop

/-- Whether a request breaks the protocol (R270); a stopped handler's rows on ancestors and the lock set are not checked, the
pair of an upgrade among them (log entry 90). -/
def State.breaks (s : State) (g : Group) (n : W64) (mode : Nat) (upg : Bool) : Bool :=
  !g.agev || !s.validLock g.ctx n ||
    (!g.stopped && (
      (if upg then (match g.holds n with
        | some x => !upgradePair x.mode mode
        | none => true) else (g.holds n).isSome) || !s.ancestorsHeld g n mode))

/-! ## Instructions -/

/-- Whether an earlier lock instruction of the group is outstanding (R269). -/
def Group.lockBusy (g : Group) : Bool :=
  g.lreq.isSome || !g.lrel.isEmpty || (match g.lockSeq with
    | some q => g.results.any (fun r => decide (r.seq = q)) || g.olog.any (fun e => decide (e.seq = q))
    | none => false)

/-- A lock instruction: held behind an earlier one of its group (R269), when it adds nothing to the signatures yet, else its effect after the checks of
R31; a compare point but for LK.BEGIN (R287). -/
def lockIssue (i : Instr) (h : Hdr) (u : Uses) (body : Split → State → State × Fate) (s : State) : Out :=
  let busy := s.g.lockBusy && !s.mute
  issueUni i h { u with logged := true, parks := true, cmp := u.cmp && !busy, folds := if busy then [] else u.folds }
    (fun sp s => if s.g.lockBusy then (s, .park .lockHeld) else body sp s) s

/-- The issuing instruction is the group's outstanding lock instruction. -/
def State.markLock (s : State) : State := { s with g := { s.g with lockSeq := some s.g.seq } }

/-- A status of a lock instruction that returns later (R34). -/
def lockStatus (sp : Split) (d : Nat) (v : W64) (s : State) : State × Fate := (s.markLock.laterLogged sp [] [(d, v)], .fall)

/-- LK.DEF (R281). -/
def execLkDef (h : Hdr) (d a b : BitVec 6) (s : State) : Out :=
  let i : Instr := .lkDef h d a b
  lockIssue i h { sr := [a.toNat, b.toNat], sw := [d.toNat], late := true, cmp := true, folds := regFolds s.g [a.toNat, b.toNat] none }
    (fun sp s =>
      let n := (s.g.rs b.toNat).toNat
      let va := s.g.rs a.toNat
      if 4095 < n then lockStatus sp d.toNat 2 s
      else if va = 0 then
        if s.defHeld (s.req s.g) n none then (s, .wait) else
        let (st, s1) := s.undefine (s.req s.g) n
        lockStatus sp d.toNat (BitVec.ofNat 64 st) s1
      else s.markLock.hold i sp sp.mask { kind := .lkDef d.toNat (BitVec.ofNat 64 n), space := .glob, size := 32, uni := true } [laneAt 0 va none]) s

/-- LK.BEGIN (R276): not a compare point (R287). -/
def execLkBegin (h : Hdr) (d : BitVec 6) (s : State) : Out :=
  lockIssue (.lkBegin h d) h { sw := [d.toNat] }
    (fun _ s =>
      let g1 := if s.g.agev then s.g else { s.g with age := BitVec.ofNat 64 s.dt, agev := true }
      let g2 := { g1 with agehold := false }
      ({ s with g := g2.ws d.toNat g2.age }, .fall)) s

/-- The Lock Protocol trap (R316). -/
def protocolTrap (s : State) (sp : Split) (n : W64) : State × Fate := (s, ownTrap s sp 0x0E sp.pc n)

/-- The Scope trap of a scope that is neither cluster nor device (R280). -/
def lockScopeBad (sc : BitVec 2) : Bool := decide (sc.toNat ≠ 1) && decide (sc.toNat ≠ 2)

/-- A request on its way to its slice. -/
def State.sendRequest (s : State) (sp : Split) (n : W64) (mode : Nat) (upg : Bool) (try_ : Option Nat) (sc : Nat) : State :=
  let r : LockReq := ⟨n, mode, upg, try_, sc, sp.slot, s.g.seq, false, false⟩
  let g1 := { s.g with lreq := some r, lockSeq := some s.g.seq }
  { s with g := if upg then { g1 with lset := g1.lset.map (fun (x : LockHold) => if x.name = n then { x with upg := some mode } else x) } else g1 }

/-- LK.ACQ (R282). -/
def execLkAcq (h : Hdr) (a : BitVec 6) (mode : BitVec 3) (sc : BitVec 2) (s : State) : Out :=
  lockIssue (.lkAcq h a mode sc) h { sr := [a.toNat], late := true, cmp := true, folds := regFolds s.g [a.toNat] none }
    (fun sp s =>
      let n := s.g.rs a.toNat
      if lockScopeBad sc then (s, ownTrap s sp 0x05 (pcAdd sp.pc 8) n)
      else if s.breaks s.g n mode.toNat false then protocolTrap s sp n
      else if s.g.stopped then (s.logVals s.g s.g.icount [(doneKey, 0)], .fall)
      else
        let (die, s1) := s.lockDie s.g n
        if 64 ≤ s.g.lset.length || !s1.poolHas die then (s1, ownTrap s sp 0x10 sp.pc n)
        else (s1.sendRequest sp n mode.toNat false none sc.toNat, .park .lock)) s

/-- LK.UPG (R278, R279, R282). -/
def execLkUpg (h : Hdr) (a : BitVec 6) (mode : BitVec 3) (sc : BitVec 2) (s : State) : Out :=
  lockIssue (.lkUpg h a mode sc) h { sr := [a.toNat], late := true, cmp := true, folds := regFolds s.g [a.toNat] none }
    (fun sp s =>
      let n := s.g.rs a.toNat
      if lockScopeBad sc then (s, ownTrap s sp 0x05 (pcAdd sp.pc 8) n)
      else if s.breaks s.g n mode.toNat true then protocolTrap s sp n
      else if s.g.stopped then (s.logVals s.g s.g.icount [(doneKey, 0)], .fall)
      else (s.sendRequest sp n mode.toNat true none sc.toNat, .park .lock)) s

/-- LK.TRY (R282): until it is answered, the group's later loads and atomics wait, for a grant is an acquire (R286). -/
def execLkTry (h : Hdr) (d a : BitVec 6) (mode : BitVec 3) (sc : BitVec 2) (s : State) : Out :=
  lockIssue (.lkTry h d a mode sc) h
    { sr := [a.toNat], sw := [d.toNat], late := true, cmp := true, folds := regFolds s.g [a.toNat] none }
    (fun sp s =>
      let n := s.g.rs a.toNat
      if lockScopeBad sc then (s, ownTrap s sp 0x05 (pcAdd sp.pc 8) n)
      else if s.breaks s.g n mode.toNat false then protocolTrap s sp n
      else if s.g.stopped then lockStatus sp d.toNat 1 s
      else
        let (die, s1) := s.lockDie s.g n
        if 64 ≤ s.g.lset.length || !s1.poolHas die then lockStatus sp d.toNat 2 s1
        else (((s1.sendRequest sp n mode.toNat false (some d.toNat) sc.toNat).addFence sc.toNat 0).pendingResult sp [] [d.toNat], .fall)) s

/-- LK.REL (R283): outstanding until the slice has confirmed. -/
def execLkRel (h : Hdr) (a : BitVec 6) (s : State) : Out :=
  lockIssue (.lkRel h a) h { sr := [a.toNat], late := true, cmp := true, folds := regFolds s.g [a.toNat] none }
    (fun sp s =>
      let n := s.g.rs a.toNat
      if !s.validLock s.g.ctx n || (s.g.holds n).isNone || s.g.lset.any (fun x => (s.ancestors s.g.ctx x.name).contains n) then
        protocolTrap s sp n
      else
        let s1 := s.addRelease.markLock.pendingResult sp [] []
        ({ s1 with g := { s1.g with lrel := [n] } }, .fall)) s

/-- LK.END (R276, R283): outstanding until every slice has confirmed. -/
def execLkEnd (h : Hdr) (s : State) : Out :=
  lockIssue (.lkEnd h) h { late := true, cmp := true }
    (fun sp s =>
      let s1 := s.addRelease.markLock.pendingResult sp [] []
      ({ s1 with g := { s1.g with lrel := s1.g.lset.map (·.name), lend := true } }, .fall)) s

/-- The word LK.QRY writes (R284). -/
def State.lockQuery (s : State) (g : Group) (n : W64) : W64 :=
  let recs := s.recsOf g.ctx n
  let mine := recs.find? (fun r => r.held && decide (r.gid = g.gid))
  let others := recs.filter (fun r => r.held && decide (r.gid ≠ g.gid))
  let own := match mine with
    | some r => 1 + r.mode % 8 * 2 + bitOf r.upg.isSome * 16
    | none => 0
  let modes := (upFrom 0 6).foldl (fun w m => w + bitOf (others.any (fun r => decide (r.mode = m))) * 2 ^ (8 + m)) 0
  BitVec.ofNat 64 (own + bitOf (!g.wounds.isEmpty) * 32 + modes + min 65535 others.length * 2 ^ 16 +
    min 65535 (s.waiters g.ctx n).length * 2 ^ 32)

/-- LK.QRY (R284). -/
def execLkQry (h : Hdr) (d a : BitVec 6) (s : State) : Out :=
  lockIssue (.lkQry h d a) h { sr := [a.toNat], sw := [d.toNat], late := true, cmp := true, folds := regFolds s.g [a.toNat] none }
    (fun sp s =>
      let n := s.g.rs a.toNat
      if !s.validLock s.g.ctx n then protocolTrap s sp n else lockStatus sp d.toNat (s.lockQuery s.g n) s) s

/-- LKMAT (R285): operand bits that must be zero are told before a busy context (log entry 115); for a context that does not exist the spec states no
status, which is a free value (log entry 22). -/
def execLkmat (h : Hdr) (d a b : BitVec 6) (s : State) : Out :=
  issueUni (.lkmat h d a b) h
    { sr := [a.toNat, b.toNat], sw := [d.toNat], priv := true, late := true, logged := true, cmp := true
      folds := regFolds s.g [a.toNat, b.toNat] none }
    (fun sp s =>
      let m := s.g.rs a.toNat
      let c := (s.g.rs b.toNat).toNat
      let busy := s.locks.any (fun r => decide (r.ctx = c)) || s.groups.any (fun g => g.live && decide (g.ctx = c) && g.lreq.isSome)
      if 2 ^ 36 ≤ m.toNat || 2 ^ 16 ≤ c then (s.laterLogged sp [] [(d.toNat, 2)], .fall)
      else if !s.hasCtx c then
        let (w, s1) := s.fresh
        (s1.laterLogged sp [] [(d.toNat, w)], .fall)
      else if busy then (s.laterLogged sp [] [(d.toNat, 1)], .fall)
      else ((s.modCtx c (fun x => { x with mat := m.extractLsb' 0 36 })).laterLogged sp [] [(d.toNat, 0)], .fall)) s

/-! ## At the slices -/

/-- The wounds a queued request sends: one to every younger holder it is not compatible with (R271). -/
def State.sendWounds (s : State) (g : Group) (n : W64) (mode : Nat) : State :=
  let hit := (s.recsOf g.ctx n).filter (fun r => r.held && decide (r.gid ≠ g.gid) && s.older g.gid r.gid && !compat (s.ctx g.ctx).mat mode r.mode)
  { s with woundMsgs := s.woundMsgs ++ hit.map (fun r => (⟨r.gid, n, BitVec.ofNat 64 s.dt⟩ : WoundMsg)) }

/-- A request granted at its slice (R271, R278). -/
def State.grantRequest (s : State) (g : Group) (r : LockReq) (die : Nat) : State :=
  (if r.upg then s.grantRec g.ctx r.name g.gid r.mode
    else { s with locks := s.locks ++ [(⟨g.ctx, r.name, g.gid, true, r.mode, none, die⟩ : LockRec)] }).modGroup g.gid (fun g =>
    { g with lreq := some { r with arrived := true, granted := true } })

/-- A request that must wait at its slice: queued, or an upgrade noted at its hold, and its wounds sent (R271, R278). -/
def State.queueRequest (s : State) (g : Group) (r : LockReq) (die : Nat) : State :=
  let s1 := if r.upg then
      { s with locks := s.locks.map (fun (x : LockRec) =>
        if x.ctx = g.ctx && decide (x.name = r.name) && decide (x.gid = g.gid) then { x with upg := some r.mode } else x) }
    else { s with locks := s.locks ++ [(⟨g.ctx, r.name, g.gid, false, r.mode, none, die⟩ : LockRec)] }
  (s1.modGroup g.gid (fun g => { g with lreq := some { r with arrived := true, granted := false } })).sendWounds g r.name r.mode

/-- An LK.TRY turned away at its slice (R282). -/
def State.turnAway (s : State) (g : Group) (r : LockReq) (d : Nat) : State :=
  (s.modGroup g.gid (fun g => { g with lreq := none })).resolve g.gid r.seq [] [(d, 1)] 0 true

/-- LOCK_REQUEST_ARRIVE (R271, R278, R282): a request is granted, queued, or for LK.TRY turned away. -/
def execLockRequestArrive (gid : Nat) (s : State) : Out :=
  match s.group gid with
  | none => .next s
  | some g =>
    match g.lreq with
    | none => .next s
    | some r =>
      if r.arrived || s.requestHeld g r then .next s
      else
        let (die, s1) := s.lockDie g r.name
        if s1.admits g.ctx r.name gid r.mode (s1.waiters g.ctx r.name) then .next (s1.grantRequest g r die)
        else
          match r.try_ with
          | some d => .next (s1.turnAway g r d)
          | none => .next (s1.queueRequest g r die)

/-- A grant taken in by its group: in its lock set, its tile's L1 emptied, and the split that waits for it, or LK.TRY's status, goes on (R282,
R286). -/
def State.takeGrant (s : State) (g : Group) (r : LockReq) : State :=
  let s1 := s.modGroup g.gid (fun g =>
    { g with
      lreq := none
      lset := if r.upg then g.lset.map (fun (x : LockHold) => if x.name = r.name then { x with mode := r.mode, upg := none } else x)
        else g.lset ++ [(⟨r.name, r.mode, none⟩ : LockHold)] })
  let s2 := s1.l1Flush g.tile
  match r.try_ with
  | some d => s2.resolve g.gid r.seq [] [(d, 0)] 0 true
  | none =>
    let cnt := match g.split r.slot with
      | some sp => sp.cnt
      | none => 0
    (s2.modGroup g.gid (fun g => g.wakeNext r.slot s.clock)).logVals g cnt [(doneKey, 0)]

/-- LOCK_GRANT_ARRIVE (R282, R286): a granted lock enters the group's lock set, an acquire at its scope. -/
def execLockGrantArrive (gid : Nat) (s : State) : Out :=
  match s.group gid with
  | none => .next s
  | some g =>
    match g.lreq with
    | none => .next s
    | some r => .next (if !r.granted || (s.tile g.tile).trans.isSome then s else s.takeGrant g r)

/-- Whether tentative stores of a checked leader's group that has ended are still to be committed (R252, R267). -/
def State.uncommitted (s : State) (g : Group) : Bool :=
  decide (g.role = .leader) && (match s.chordOf g with
    | some c => c.vers.any (fun v => decide (v.seg ≤ s.segOf g g.seq))
    | none => false)

/-- The instruction of a group at which its locks are given up: its last lock instruction, or its end. -/
def Group.releaseSeq (g : Group) : Nat := if g.live then g.lockSeq.getD g.seq else g.seq

/-- Whether a group's locks leave now: its earlier stores are performed and acknowledged, an ended leader's tentative ones committed (R252, R267). -/
def State.releases (s : State) (g : Group) : Bool :=
  (!g.lrel.isEmpty || g.lend) && !g.storesBefore g.releaseSeq && decide (g.acks = 0) && (g.live || !s.uncommitted g) &&
    s.locks.all (fun r => decide (r.gid ≠ g.gid) || !g.lrel.contains r.name || s.lockReaches g r.die)

/-- The locks a group gives up gone from their slices, whose queues are scanned; LK.END ends its wounds and, unless the age is kept, its age (R272,
R276, R283). -/
def State.releaseLocks (s : State) (g : Group) : State :=
  let s1 := g.lrel.foldl (fun s n => s.freeRec g.ctx g.gid n) s
  let s2 := s1.modGroup g.gid (fun x =>
    let y := { x with lset := x.lset.filter (fun l => !g.lrel.contains l.name), lrel := [], lend := false }
    if g.lend then { y with wounds := [], agev := if y.agehold then y.agev else false } else y)
  s2.resolve g.gid g.releaseSeq [] [] 0 true

/-- LOCK_RELEASE_ARRIVE (R272, R276, R283): a group's release reaches the slices. -/
def execLockReleaseArrive (gid : Nat) (s : State) : Out :=
  match s.anyGroup gid with
  | none => .next s
  | some g => .next (if s.releases g then s.releaseLocks g else s)

/-- A wound taken in by its group: recorded, a waiting request withdrawn, and where its splits stand at a compare point or the slack limit, its trailer
forced to F gear until the segment that is open now has matched at the leader's next compare point (R274, R275). -/
def State.takeWound (s : State) (g : Group) (m : WoundMsg) : State :=
  let s2 := s.modGroup g.gid (fun g => { g with wounds := g.wounds ++ [⟨m.name, m.dt⟩], lkStop := g.lkStop || g.inh })
  let s3 := if g.inh then s2.withdrawOn g.gid else s2.withdraw g.gid
  if g.role = .leader && g.splits.any (fun x => decide (x.park = .compare) || x.park.isSlack) then
    s3.modChord g.tid (fun c => { c with forced := some c.open_ })
  else s3

/-- WOUND_ARRIVE (R274, R275): a wound reaches its group; one that is ending discards it. -/
def execWoundArrive (gid : Nat) (s : State) : Out :=
  match s.woundMsgs.findIdx? (fun m => decide (m.gid = gid)) with
  | none => .next s
  | some i =>
    let s1 := { s with woundMsgs := s.woundMsgs.eraseIdx i }
    match s1.group gid, s.woundMsgs[i]? with
    | some (g : Group), some (m : WoundMsg) => .next (if g.ending then s1 else if (s.tile g.tile).trans.isSome then s else s1.takeWound g m)
    | _, _ => .next s1

end Sys2Proof.Machine
end

