-- ==== Sys2Proof/Machine/Launch.lean ====
section
/-! DEFINITION. Launch descriptors, the launch instructions and the hardware and device queues (03 R75 to R85). -/

namespace Sys2Proof.Machine

/-! ## Descriptors -/

/-- A field of bytes. -/
def bytesAt (b : List Byte) (o n : Nat) : Nat := bytesVal ((b.drop o).take n)

/-- A descriptor from its 64 bytes (R75). -/
def Desc.ofBytes (b : List Byte) : Desc where
  entry := BitVec.ofNat 64 (bytesAt b 0x00 8)
  argptr := BitVec.ofNat 64 (bytesAt b 0x08 8)
  x := BitVec.ofNat 32 (bytesAt b 0x10 4)
  y := BitVec.ofNat 32 (bytesAt b 0x14 4)
  z := BitVec.ofNat 32 (bytesAt b 0x18 4)
  groups := BitVec.ofNat 8 (bytesAt b 0x1C 1)
  regs := BitVec.ofNat 8 (bytesAt b 0x1D 1)
  accs := BitVec.ofNat 8 (bytesAt b 0x1E 1)
  flags := BitVec.ofNat 8 (bytesAt b 0x1F 1)
  scratch := BitVec.ofNat 32 (bytesAt b 0x20 4)
  stash := BitVec.ofNat 32 (bytesAt b 0x24 4)
  red := BitVec.ofNat 8 (bytesAt b 0x28 1)
  prio := BitVec.ofNat 8 (bytesAt b 0x29 1)
  depth := BitVec.ofNat 8 (bytesAt b 0x2A 1)
  rsv := BitVec.ofNat 40 (bytesAt b 0x2B 5)
  completion := BitVec.ofNat 64 (bytesAt b 0x30 8)
  add := BitVec.ofNat 64 (bytesAt b 0x38 8)

/-- Teams of a grid (R75). -/
def Desc.total (d : Desc) : Nat := d.x.toNat * d.y.toNat * d.z.toNat

/-- Registers of a group (R75). -/
def Desc.allot (d : Desc) : Nat := 8 * (d.regs.toNat + 1)

/-- Whether a descriptor keeps R75. -/
def Desc.legal (d : Desc) : Bool :=
  decide (field d.entry 0 2 = 0) && decide (d.entry.toNat < 2 ^ 57) && decide (d.total ≤ 2 ^ 32) && decide (1 ≤ d.groups.toNat) &&
    decide (d.groups.toNat ≤ 32) && decide (d.regs.toNat ≤ 31) && [0, 2, 4, 8].contains d.accs.toNat && decide (d.flags.toNat < 64) &&
    decide (d.scratch.toNat % 4 = 0) && decide (d.stash.toNat % 128 = 0) && decide (d.scratch.toNat + d.stash.toNat ≤ Config.scratch) &&
    decide (d.red.toNat ≤ 6) && decide (d.prio.toNat ≤ 31) && decide (d.rsv = 0) &&
    (!d.flags.getLsbD 0 || decide (d.total % 4 = 0))

/-- Whether a completion counter address is unusable (R76). -/
def badCompletion (c : W64) : Bool := decide (c ≠ 0) && (decide (c.toNat % 16 ≠ 0) || decide (2 ^ 57 ≤ c.toNat))

/-! ## Entries of the device queue (R80, R85) -/

/-- Whether a free entry of a team's device queue is a reserved one; none where no entry is free. -/
def State.freeQueueEntry (s : State) (g : Group) : Option Bool :=
  let die := dieOf g.tile
  if 0 < s.ownFree die g.tid then some true else if 0 < s.sharedFree die then some false else none

/-- A launch entry that waits to be accepted: what its acceptance gives it is still to come (R77; 13 R365). -/
def Grid.queued (d : Desc) (ctx die : Nat) : Grid where
  serial := 0
  desc := d
  ctx := ctx
  queue := 0
  child := false
  parent := none
  die := die
  reserved := false
  accepted := false
  key := 0
  prio := d.prio.toNat
  nextTeam := 0
  retired := 0
  err := none
  done := false
  rel := none
  chseed := 0
  prhold := 0
  recbase := 0
  chctl := 0
  cross := false
  recStop := false

/-- A descriptor queued as a child of the issuing group's team (R82), to be accepted after the release of R84. -/
def State.enqueueChild (s : State) (g : Group) (seq : Nat) (reserved : Bool) (d : Desc) : State :=
  let x := { Grid.queued d g.ctx (dieOf g.tile) with child := true, parent := some g.tid, reserved := reserved, rel := some (g.gid, seq) }
  { s with grids := s.grids ++ [x] }

/-- Whether the release a queued grid waits for has come about (R84, R252). -/
def State.released (s : State) (x : Grid) : Bool :=
  match x.rel with
  | none => true
  | some (gid, seq) =>
    match s.anyGroup gid with
    | none => true
    | some g => !g.storesBefore seq && decide (g.acks = 0)

/-! ## The launch instructions -/

/-- The descriptor of a launch read at device scope, or the trap of R84; the group's own earlier stores are seen. -/
def State.readDesc (s : State) (sp : Split) (va : W64) : Except Trap (List Byte) × State :=
  let trap := fun (c : BitVec 8) (w : Option W64) => { Trap.plain c sp.pc (pcAdd sp.pc 4) sp.mask va s.dt with walk := w }
  if va.toNat % 64 ≠ 0 then (.error (trap 0x04 none), s)
  else
    match s.readOwn (s.req s.g) va.toNat with
    | (.error (c, w), s1) => (.error (trap c w), s1)
    | (.ok bs, s1) => (.ok bs, s1)

/-- Whether the read of a launch's descriptor waits (07 R172, R187). -/
def State.descHeld (s : State) (va : W64) : Bool := decide (va.toNat % 64 = 0) && s.ownHeld (s.req s.g) va.toNat

/-- The priority clamp of R82. -/
def State.clampPrio (s : State) (g : Group) (p : BitVec 8) : BitVec 8 :=
  if s.privileged g then p else BitVec.ofNat 8 (min p.toNat g.prio.toNat)

/-- LAUNCH and LAUNCH.TRY (R82). -/
def launchWith (i : Instr) (h : Hdr) (try_ : Bool) (d a : BitVec 6) (s : State) : Out :=
  issueUni i h
    { sr := [a.toNat], sw := [d.toNat], late := true, logged := true, cmp := true, parks := !try_, folds := regFolds s.g [a.toNat] none }
    (fun sp s =>
      let va := s.g.rs a.toNat
      if s.g.depth = 9 then (s, ownTrap s sp 0x0D sp.pc va)
      else if s.descHeld va then (s, .wait)
      else
        match s.readDesc sp va with
        | (.error t, s1) => (s1, .trap t)
        | (.ok bs, s1) =>
          let x := Desc.ofBytes bs
          let y := { x with prio := s1.clampPrio s1.g x.prio, depth := BitVec.ofNat 8 (s1.g.depth.toNat + 1) }
          if badCompletion x.completion then (s1.laterLogged sp [] [(d.toNat, 3)], .fall)
          else
            match s1.freeQueueEntry s1.g with
            | some r => ((s1.addRelease.enqueueChild s1.g s1.g.seq r y).laterLogged sp [] [(d.toNat, 0)], .fall)
            | none =>
              if try_ then (s1.laterLogged sp [] [(d.toNat, 1)], .fall) else (s1.addRelease, .park (.launch d.toNat s1.g.seq y))) s

/-- LAUNCH (R82). -/
def execLaunch (h : Hdr) (d a : BitVec 6) (s : State) : Out := launchWith (.launch h d a) h false d a s
/-- LAUNCH.TRY (R82). -/
def execLaunchTry (h : Hdr) (d a : BitVec 6) (s : State) : Out := launchWith (.launchTry h d a) h true d a s

/-- A parked LAUNCH tried again (R82). -/
def State.retryLaunch (s : State) (g : Group) (slot cnt : Nat) (d seq : Nat) (x : Desc) : State :=
  match s.freeQueueEntry g with
  | none => s
  | some r => (((s.enqueueChild g seq r x).modGroup g.gid (fun g => g.wakeNext slot s.clock)).parkResult g.gid seq cnt [(d, 0)] none)

/-- QPOST (R82): the ring is written when the release of R84 is complete. -/
def execQpost (h : Hdr) (d a b : BitVec 6) (s : State) : Out :=
  issueUni (.qpost h d a b) h
    { sr := [a.toNat, b.toNat], sw := [d.toNat], late := true, logged := true, cmp := true, folds := regFolds s.g [a.toNat, b.toNat] none }
    (fun sp s =>
      if s.descHeld (s.g.rs a.toNat) then (s, .wait) else
      match s.readDesc sp (s.g.rs a.toNat) with
      | (.error t, s1) => (s1, .trap t)
      | (.ok bs, s1) =>
        let x := Desc.ofBytes bs
        if badCompletion x.completion then (s1.laterLogged sp [] [(d.toNat, 3)], .fall)
        else
          let bs' := bs.set 0x29 (s1.clampPrio s1.g x.prio)
          let r : Result := ⟨s1.g.seq, s1.g.icount, sp.slot, [], [(d.toNat, 0)], 0, .post d.toNat (field (s1.g.rs b.toNat) 0 14) bs'⟩
          let s2 := s1.addRelease
          ({ s2 with g := { s2.g with results := s2.g.results ++ [r] } }, .fall)) s

/-- The posting of QPOST (R82): the status, and the ring written and its TAIL advanced.  A ring entry that cannot be written is lost, and TAIL
advances all the same (log entry 88). -/
def State.performPost (s : State) (g : Group) (q : Nat) (desc : List Byte) : Nat × State :=
  let ctl := s.winGet (queueBase q)
  let ctx := field ctl 32 16
  if !ctl.getLsbD 0 || !ctl.getLsbD 2 || (decide (ctx ≠ g.ctx) && !s.privileged g) then (2, s)
  else
    let head := s.qHead q
    let tail := s.qTail q
    if 2 ^ s.qLog q ≤ (tail + 2 ^ 32 - head) % 2 ^ 32 then (1, s)
    else
      let p := min (bytesAt desc 0x29 1) (field ctl 24 5)
      let bs := desc.set 0x29 (BitVec.ofNat 8 p)
      let s2 := match s.deviceTranslate ctx (s.ringVa q tail) .write with
        | (.ok pa, s1) => s1.deviceStore (some ctx) pa bs
        | (.error _, s1) => s1
      (0, s2.winSet (queueBase q + 16) (BitVec.ofNat 64 ((tail + 1) % 2 ^ 32)))

/-- QPRIO (R82, R83). -/
def execQprio (h : Hdr) (d a b : BitVec 6) (s : State) : Out :=
  issueUni (.qprio h d a b) h
    { sr := [a.toNat, b.toNat], sw := [d.toNat], late := true, logged := true, cmp := true, folds := regFolds s.g [a.toNat, b.toNat] none }
    (fun sp s =>
      let serial := (s.g.rs a.toNat).extractLsb' 0 32
      let p := field (s.g.rs b.toNat) 0 5
      let p' := if s.privileged s.g then p else min p s.g.prio.toNat
      match s.grid serial with
      | some x =>
        if x.ctx = s.g.ctx then ((s.modGrid serial (fun x => { x with prio := p' })).laterLogged sp [] [(d.toNat, 0)], .fall)
        else (s.laterLogged sp [] [(d.toNat, 1)], .fall)
      | none => (s.laterLogged sp [] [(d.toNat, 1)], .fall)) s

/-! ## Queue registers and ring entries (R76, R78, R79) -/

/-- QUEUE_DOORBELL: a write of QTAIL (R78). -/
def execQueueDoorbell (n : Nat) (tail : BitVec 32) (s : State) : Out := .next (if n < 16384 then s.doorbell n tail.toNat else s)

/-- QCTL_WRITE (R78). -/
def execQctlWrite (n : Nat) (v : BitVec 64) (s : State) : Out := .next (if n < 16384 then s.writeQctl n v else s)

/-- Whether the entry at a queue's HEAD may be read now: the queue enabled and not stopped, an entry there, the one before accepted, and with the
serial bit every one before retired (R78, R79). -/
def State.headReady (s : State) (n : Nat) : Bool :=
  let ctl := s.winGet (queueBase n)
  ctl.getLsbD 0 && !(s.winGet (queueBase n + 24)).getLsbD 32 && decide (s.qHead n ≠ s.qTail n) &&
    !s.grids.any (fun x => !x.child && decide (x.queue = n) && !x.accepted) &&
    !(ctl.getLsbD 1 && s.grids.any (fun x => !x.child && decide (x.queue = n) && x.accepted))

/-- The context of a queue (R78). -/
def State.queueCtx (s : State) (n : Nat) : Nat := field (s.winGet (queueBase n)) 32 16

/-- QUEUE_ENTRY_READ (R76, R78, R79): the distributor reads the entry at HEAD; it then waits to be accepted, or the queue stops. -/
def execQueueEntryRead (n : Nat) (s : State) : Out :=
  let ctx := s.queueCtx n
  if 16384 ≤ n || !s.headReady n then .next s
  else if !s.hasCtx ctx then .next (s.queueErr n 0x27)
  else if s.deviceHeld ctx (s.ringVa n (s.qHead n)) .read then .next s
  else
    match s.deviceTranslate ctx (s.ringVa n (s.qHead n)) .read with
    | (.error _, s1) => .next (s1.queueErr n 0x22)
    | (.ok pa, s1) =>
      if s1.cleanRange pa 64 then
        let d := Desc.ofBytes ((upFrom pa 64).map s1.physByte)
        if badCompletion d.completion then .next (s1.queueErr n 0x26)
        else
          let x := { Grid.queued { d with depth := 0 } ctx (s1.ctxDie ctx) with queue := n }
          .next { s1 with grids := s1.grids ++ [x] }
      else .next (s1.queueErr n 0x22)

end Sys2Proof.Machine
end

