-- ==== Sys2Proof/Machine/Grids.lean ====
section
/-! DEFINITION. Grids and teams: acceptance, placement, distribution, the end of groups, retirement and completion (03 R74 to R77, R80,
R83, R84, R86 to R89; 02 R42; 13 R343 to R345, R349, R367). -/

namespace Sys2Proof.Machine

/-! ## Selection of checked teams (13 R343, R344) -/

/-- The hash h of R344. -/
def checkHash (key x : Nat) (seed : W64) : W64 :=
  let k : W64 := BitVec.ofNat 64 (key % 2 ^ 32 * 2 ^ 32 + x % 2 ^ 32) ^^^ seed
  let h := k ^^^ (k >>> 31)
  let h := h * (0x9A3C5E71D2B48F65 : W64)
  let h := h ^^^ (h >>> 29)
  let h := h * (0xC61D7A934E58B2F7 : W64)
  h ^^^ (h >>> 32)

/-- T of R344. -/
def checkBound (level : Nat) : Nat :=
  match level with
  | 0 => 0
  | 1 => 1
  | 2 => 4
  | 3 => 16
  | 4 => 64
  | _ => 256

/-- Whether a team of a grid is checked (R343, R344); record and replay are no checking. -/
def State.checked (s : State) (x : Grid) (idx : Nat) : Bool :=
  let co := x.desc.flags.getLsbD 0
  let replay := x.desc.flags.getLsbD 4
  !replay && decide (field (checkHash x.key.toNat (if co then idx / 4 * 4 else idx) x.chseed) 0 8 < checkBound x.desc.red.toNat)

/-! ## Places (R86, R87, R345) -/

/-- The dies of the partition a grid runs in. -/
def State.gridDies (s : State) (x : Grid) : List Nat := (s.partOf x.die).filter (fun d => s.dieOn d)

/-- The tiles of a die that satisfy a condition. -/
def tilesBy (ok : Nat → Bool) (die : Nat) : List Nat := (upFrom 0 144).map (fun i => die * 256 + i) |>.filter ok

/-- The tiles of a die that teams may be placed on. -/
def State.dieTiles (s : State) (die : Nat) : List Nat := tilesBy s.usable die

/-- The teams resident on a tile: not pre-empted away and not freed. -/
def State.residents (s : State) (tile : Nat) : List Team := s.teams.filter (fun t => decide (t.tile = tile) && !t.ended && !t.away)

/-- The live groups on a tile. -/
def State.tileGroups (s : State) (tile : Nat) : List Group := s.groups.filter (fun g => g.live && !g.away && decide (g.tile = tile))

/-- Scratchpad and stash bytes a descriptor's team takes (R168). -/
def Desc.bytes (d : Desc) : Nat := d.scratch.toNat + d.stash.toNat

/-- What a tile holds, as R86 counts it: teams, groups of each quadrant, registers, accumulators, and the pieces of its banks (from, to). -/
structure Load where
  teams : Nat
  quads : List Nat
  regs : Nat
  accs : Nat
  pieces : List (Nat × Nat)
  deriving DecidableEq, Repr

/-- An idle tile. -/
def Load.idle : Load := ⟨0, [0, 0, 0, 0], 0, 0, []⟩

/-- The lowest free contiguous piece of n units below a limit, beside pieces taken (R86). -/
def findPiece (limit : Nat) (taken : List (Nat × Nat)) (n : Nat) : Option Nat :=
  least ((0 :: taken.map (·.2)).filter (fun b => decide (b + n ≤ limit) && taken.all (fun p => decide (p.2 ≤ b) || decide (b + n ≤ p.1))))

/-- The quadrant with the fewest groups, the lower on a tie (R86). -/
def freest (quads : List Nat) : Nat := [1, 2, 3].foldl (fun best q => if quads.getD q 0 < quads.getD best 0 then q else best) 0

/-- A tile's load with one team of a descriptor more, where it qualifies (R86). -/
def Load.add (l : Load) (d : Desc) : Option Load :=
  let n := d.groups.toNat
  let b := freest l.quads
  let quads := (upFrom 0 4).map (fun q => l.quads.getD q 0 + ((upFrom 0 n).filter (fun i => decide ((b + i) % 4 = q))).length)
  let regs := l.regs + n * d.allot
  let accs := l.accs + n * d.accs.toNat
  if l.teams < 16 && quads.all (fun k => decide (k ≤ 16)) && decide (regs ≤ 4096) && decide (accs ≤ 64) then
    (findPiece Config.scratch l.pieces d.bytes).map (fun base => ⟨l.teams + 1, quads, regs, accs, (base, base + d.bytes) :: l.pieces⟩)
  else none

/-- How many teams of a descriptor fit beside a load, up to a bound. -/
def Load.room (d : Desc) : Nat → Load → Nat
  | 0, _ => 0
  | fuel + 1, l => match l.add d with
    | some m => Load.room d fuel m + 1
    | none => 0

/-- What a tile holds now; the bytes of a pre-empted team count as free (R86, R336). -/
def State.load (s : State) (tile : Nat) : Load :=
  let gs := s.tileGroups tile
  let ts := s.residents tile
  ⟨ts.length, (upFrom 0 4).map (fun q => (gs.filter (fun g => decide (g.place / 16 = q))).length), (gs.map (·.allot)).foldl (· + ·) 0,
    (gs.map (·.naccs)).foldl (· + ·) 0, ts.map (fun t => (t.base, t.base + t.scratch + t.stashBytes))⟩

/-- Whether a team of a descriptor fits a tile beside what is there (R86). -/
def State.fits (s : State) (d : Desc) (tile : Nat) : Bool := ((s.load tile).add d).isSome

/-- How many teams of a descriptor an idle tile holds (R86). -/
def Desc.perTile (d : Desc) : Nat := Load.idle.room d 16

/-- The clusters of a die whose four tiles all satisfy a condition (R87). -/
def clustersBy (ok : Nat → Bool) (die : Nat) : List Nat := (upFrom 0 36).filter (fun c => (upFrom 0 4).all (fun t => ok (die * 256 + c * 4 + t)))

/-- The clusters of a die whose four tiles all take teams (R87). -/
def State.wholeClusters (s : State) (die : Nat) : List Nat := clustersBy s.usable die

/-- The sites of a die for the teams of a grid, of tiles that satisfy a condition: the first tiles of its whole clusters for co-resident sets, its
tiles otherwise (R87). -/
def sitesBy (ok : Nat → Bool) (x : Grid) (die : Nat) : List Nat :=
  if x.desc.flags.getLsbD 0 then (clustersBy ok die).map (fun c => die * 256 + 4 * c) else tilesBy ok die

/-- The sites of a die that the teams of a grid may be placed on (R87). -/
def State.sites (s : State) (x : Grid) (die : Nat) : List Nat := sitesBy s.usable x die

/-- The sites of a die's enabled tiles, whether they are ready or not: what a grid's acceptance goes by (R86, R87; 13 R345). -/
def State.allSites (s : State) (x : Grid) (die : Nat) : List Nat := sitesBy s.enabledTile x die

/-- The tiles of a site, which is as many teams: four of a co-resident set, else one. -/
def Grid.width (x : Grid) : Nat := if x.desc.flags.getLsbD 0 then 4 else 1

/-- The first tile of the site of a grid that a tile belongs to. -/
def Grid.siteOf (x : Grid) (tile : Nat) : Nat := if x.width = 4 then tile / 4 * 4 else tile

/-- LVLSIZE of a die (13 R368). -/
def State.lvlSize (s : State) (die : Nat) : Nat := field (s.winGet (0x030000 + 0x1000 * die + 0x18)) 0 32

/-- The dies of a grid's partition that can hold runs of checked teams: with an enabled tile and a nonzero LVLSIZE (R345). -/
def State.checkDies (s : State) (x : Grid) : List Nat :=
  (s.gridDies x).filter (fun d => !(tilesBy s.enabledTile d).isEmpty && decide (s.lvlSize d ≠ 0))

/-- Whether level 6 puts trailers on another die of the partition, decided at acceptance (R345). -/
def State.crossDie (s : State) (x : Grid) : Bool := decide (x.desc.red.toNat = 6) && decide (2 ≤ (s.checkDies x).length)

/-- The pairs of a die with a site for a grid's teams. -/
def State.sitePairs (s : State) (x : Grid) (die : Nat) : List Nat := dedup ((s.allSites x die).map pairOf)

/-- The pairs of a die with a tile. -/
def State.tilePairs (s : State) (die : Nat) : List Nat := dedup ((tilesBy s.enabledTile die).map pairOf)

/-- Whether the places of a checked team exist at all (R345): leader and trailer sites in different pairs of one die, or on different dies
where level 6 puts them there, and a tile for a third run outside both pairs, on a third die where there is one. -/
def State.checkable (s : State) (x : Grid) : Bool :=
  let ds := s.checkDies x
  if x.desc.perTile = 0 then false
  else if s.crossDie x then
    ds.any (fun a => ds.any (fun b => decide (a ≠ b) && (s.sitePairs x a).any (fun p => (s.sitePairs x b).any (fun q =>
      if ds.any (fun c => decide (c ≠ a) && decide (c ≠ b)) then true
      else ds.any (fun c => (s.tilePairs c).any (fun r => decide (r ≠ p) && decide (r ≠ q)))))))
  else
    ds.any (fun a => (s.sitePairs x a).any (fun p => (s.sitePairs x a).any (fun q => decide (p ≠ q) &&
      (s.tilePairs a).any (fun r => decide (r ≠ p) && decide (r ≠ q)))))

/-- Whether some team of a grid is checked, from one on. -/
def State.someChecked (s : State) (x : Grid) : Nat → Nat → Bool
  | 0, _ => false
  | n + 1, idx => s.checked x idx || s.someChecked x n (idx + 1)

/-- The largest number of checked sets up to a bound whose two runs each take places in different parts, of the capacities given. -/
def mostPairs (caps : List Nat) : Nat → Nat
  | 0 => 0
  | n + 1 => if 2 * (n + 1) ≤ (caps.map (fun k => min k (n + 1))).foldl (· + ·) 0 then n + 1 else mostPairs caps n

/-- Whether the partition's enabled tiles could hold every team of a grid, and the trailers of its checked ones, if they were idle (R87, R345). -/
def State.idleHolds (s : State) (x : Grid) : Bool :=
  let per := x.desc.perTile
  let w := x.width
  let cap := fun (d : Nat) => per * (s.allSites x d).length
  let all := ((s.gridDies x).map cap).foldl (· + ·) 0
  let sets := x.desc.total / w
  if all < sets then false
  else
    let c := ((upFrom 0 sets).filter (fun k => s.checked x (w * k))).length
    let slices := fun (d : Nat) => s.lvlSize d / (w * sliceMib x.chctl)
    if c = 0 then true
    else if all < sets + c then false
    else if s.crossDie x then
      let ds := s.checkDies x
      decide (c ≤ mostPairs (ds.map cap) c) && decide (c ≤ (ds.map (fun d => min (cap d) (slices d))).foldl (· + ·) 0)
    else
      let most := fun (d : Nat) => min (slices d) (mostPairs ((s.sitePairs x d).map (fun p =>
        per * ((s.allSites x d).filter (fun t => decide (pairOf t = p))).length)) c)
      decide (c ≤ ((s.checkDies x).map most).foldl (· + ·) 0)

/-- The error code of a descriptor that cannot run (R76): invalid, or never placeable. -/
def State.acceptError (s : State) (x : Grid) : Option (BitVec 7) :=
  let d := x.desc
  if !d.legal then some 0x20
  else if d.total = 0 then none
  else if d.perTile = 0 || (s.gridDies x).all (fun n => (s.allSites x n).isEmpty) || (d.flags.getLsbD 1 && !s.idleHolds x) then some 0x21
  else if decide (d.red.toNat ≠ 0) && s.someChecked x d.total 0 && !s.checkable x then some 0x21
  else none

/-! ## Acceptance (R76, R77, R79, R80, R90) -/

/-- The priority of a grid as the distributor uses it (R78, R83): the queue's PRIOMAX bounds one that QPRIO has set too (log entry 89). -/
def State.gridPrio (s : State) (x : Grid) : Nat :=
  if x.child then x.prio else min x.prio (field (s.winGet (queueBase x.queue)) 24 5)

/-- Whether the queue of a waiting entry accepts it: a hardware queue with EN = 1 and no error (R78). -/
def State.queueTakes (s : State) (x : Grid) : Bool :=
  x.child || ((s.winGet (queueBase x.queue)).getLsbD 0 && !(s.winGet (queueBase x.queue + 24)).getLsbD 32)

/-- The entry accepted next: of those whose release is complete and whose queue accepts, the highest priority, then the first queued (R78, R80).  No grid of
a pre-empted context is accepted while it is away (log entry 110). -/
def State.nextEntry (s : State) : Option Nat :=
  let l := (upFrom 0 s.grids.length).filterMap (fun i => match s.grids[i]? with
    | some x => if !x.accepted && s.released x && s.queueTakes x && !(s.ctx x.ctx).away then some (i, s.gridPrio x) else none
    | none => none)
  (l.foldl (fun (b : Option (Nat × Nat)) x => match b with
    | none => some x
    | some y => if y.2 < x.2 then some x else some y) none).map (·.1)

/-- GRIDKEY (05 R122; 13 R367): the serial, or the recorded one. -/
def State.gridKey (s : State) (x : Grid) (serial : BitVec 32) : BitVec 32 × State :=
  if x.desc.flags.getLsbD 4 then
    match s.deviceTranslate x.ctx (x.recbase.toNat + 24) .read with
    | (.ok pa, s1) => (BitVec.ofNat 32 (bytesVal ((upFrom pa 4).map s1.physByte)), s1.homeRead (some x.ctx) 0 pa 0)
    | (.error _, s1) => (serial, s1)
  else (serial, s)

/-- The GRIDKEY of a recorded launch written to its record descriptor (13 R367). -/
def State.writeKey (s : State) (x : Grid) (key : BitVec 32) : State :=
  if x.desc.flags.getLsbD 3 then
    match s.deviceTranslate x.ctx (x.recbase.toNat + 24) .write with
    | (.ok pa, s1) => s1.deviceStore (some x.ctx) pa (leBytes 8 key.toNat)
    | (.error _, s1) => s1
  else s

/-- Whether the acceptance of an entry waits for its record descriptor's line (07 R187). -/
def State.keyHeld (s : State) (x : Grid) : Bool :=
  (x.desc.flags.getLsbD 3 || x.desc.flags.getLsbD 4) && s.deviceHeld x.ctx ((s.ctx x.ctx).recbase.toNat + 24) (if x.desc.flags.getLsbD 3 then .write else .read)

/-- Entry i accepted (R76, R77, R79, R80, R90; 13 R345, R365): it gets its serial and what its context's registers hold now, and its descriptor is
checked; a hardware queue's HEAD moves on. -/
def State.acceptEntry (s : State) (i : Nat) (x : Grid) : State :=
  let serial := s.serialNext
  let c := s.ctx x.ctx
  let x0 := { x with
    accepted := true
    serial := serial
    rel := none
    reserved := false
    chseed := c.chseed
    prhold := c.prhold
    recbase := c.recbase
    chctl := c.chctl }
  let (key, s0) := s.gridKey x0 serial
  let x1 := { x0 with key := key, cross := s.crossDie x0 }
  let err := if x1.err.isSome then x1.err else s.acceptError x1
  let x2 := { x1 with err := err, done := err.isSome || decide (x1.desc.total = 0) }
  let s1 := { s0 with serialNext := serial + 1, grids := s.grids.eraseIdx i ++ [x2] }
  let s2 := if x.child then s1 else
    s1.winSet (queueBase x.queue + 24) (setField (s1.winGet (queueBase x.queue + 24)) 0 32 ((s1.qHead x.queue + 1) % 2 ^ 32))
  if err.isSome then s2 else s2.writeKey x2 x2.key

/-- GRID_ACCEPT (R80): the next entry is accepted. -/
def execGridAccept (s : State) : Out :=
  match s.nextEntry with
  | none => .next s
  | some i =>
    match s.grids[i]? with
    | none => .next s
    | some x => .next (if s.keyHeld x then s else s.acceptEntry i x)

/-! ## Distribution (R80, R84, R86, R87; 02 R42) -/

/-- The quadrant of a tile with the most free group places, the lower on a tie (R86). -/
def State.freestQuad (s : State) (tile : Nat) : Nat := freest (s.load tile).quads

/-- The lowest free place of a quadrant (R86). -/
def State.freePlace (s : State) (tile quad : Nat) : Option Nat :=
  (upFrom 0 16).find? (fun i => !(s.tileGroups tile).any (fun g => decide (g.place = 16 * quad + i))) |>.map (fun i => 16 * quad + i)

/-- A group at its start (02 R42; 03 R57; 14 R375): every line of its image is the device's zeros, not yet in memory. -/
def Group.start (x : Grid) (prio gid tid idx i tile place : Nat) (role : Role) (ctxBase : W64) (clock : Nat) : Group :=
  let d := x.desc
  let req := d.flags.getLsbD 2
  let lines := upFrom 0 d.allot ++ upFrom 1024 (64 * d.accs.toNat) ++ [2000]
  { Group.idle with
    gid := gid
    tid := tid
    ctx := x.ctx
    live := true
    role := role
    gidx := BitVec.ofNat 5 i
    teamIdx := BitVec.ofNat 64 (idx + (d.total - 1) * 2 ^ 32)
    teamDim := BitVec.ofNat 6 d.groups.toNat
    gridId := BitVec.ofNat 64 (x.serial.toNat + x.queue * 2 ^ 32 + bitOf x.child * 2 ^ 46)
    gridKey := x.key
    gridDim := d.y ++ d.x
    depth := d.depth.extractLsb' 0 4
    argptr := d.argptr
    prio := BitVec.ofNat 5 prio
    coRes := d.flags.getLsbD 0
    tile := tile
    place := place
    ctxBase := ctxBase
    allot := d.allot
    naccs := d.accs.toNat
    scratch := d.scratch.toNat
    dirty := lines
    splits := [Split.fresh 0 (d.entry.extractLsb' 0 57) 0xFFFFFFFF clock]
    haz := d.flags.getLsbD 5
    gearReq := req
    gearStart := req }

/-- The Chord state of a checked or recorded team as its first segment opens (13 R352). -/
def Chord.start (level dt trailer die slice : Nat) (ck : List (Nat × Group)) : Chord where
  level := level
  open_ := 0
  openDt := dt
  stores := 0
  segs := []
  vers := []
  thirdVers := []
  log := []
  kept := []
  runs := []
  traps := []
  checks := [⟨0, ck, [], [], [], [], 0⟩]
  trailer := trailer
  trailerSeg := 0
  third := none
  thirdWait := false
  mism := 0
  late := 0
  released := false
  owed := []
  slice := slice
  sliceDie := die
  forced := none

/-- The groups of a team put on a tile, one after another (R86), room made in the tile's caches for their lines. -/
def State.addGroups (x : Grid) (tid idx tile quad : Nat) (role : Role) : List Nat → State → State
  | [], s => s
  | i :: rest, s =>
    let q := (quad + i) % 4
    let place := (s.freePlace tile q).getD (16 * q)
    let c := s.ctx x.ctx
    let base := BitVec.ofNat 64 (c.imageBase.toNat + c.imageStride * c.started)
    let gid := s.nextId
    let g := Group.start x (s.gridPrio x) gid tid idx i tile place role base s.clock
    let s1 := { s with nextId := s.nextId + 1, others := s.others ++ [g] }
    State.addGroups x tid idx tile quad role rest ((s1.modCtx x.ctx (fun c => { c with started := c.started + 1 })).cacheSettle gid tile)

/-- The base of a free piece of a tile's banks; the pre-empted teams whose bytes lie there are moved to their save areas (R86, R336). -/
def State.takeBanks (s : State) (tile n : Nat) : Nat × State :=
  let base := (findPiece Config.scratch (s.load tile).pieces n).getD 0
  let clash := s.teams.filter (fun t => decide (t.tile = tile) && t.away && !t.ended && !t.saved && decide (t.base < base + n) &&
    decide (base < t.base + t.scratch + t.stashBytes))
  (base, clash.foldl (fun s t => s.saveScratch t.tid) s)

/-- One run of a team placed on a tile and started: an acquire for its tile (R84). -/
def State.addTeam (s : State) (x : Grid) (idx tile : Nat) (role : Role) (replay : Option Nat) : State :=
  let (base, s0) := s.takeBanks tile x.desc.bytes
  let tid := s0.nextId
  let t : Team :=
    { tid := tid, serial := x.serial, idx := idx, ctx := x.ctx, tile := tile, role := role, groups := x.desc.groups.toNat,
      scratch := x.desc.scratch.toNat, stashBytes := x.desc.stash.toNat, base := base, saved := false, scr := [], scrPoison := [],
      badWords := [], sectors := [], stash := [], ended := false, away := false, chord := none, folds := [], closes := [], replay := replay,
      compared := 0 }
  let s1 := { s0 with nextId := s0.nextId + 1, teams := s0.teams ++ [t] }
  (State.addGroups x tid idx tile (s0.freestQuad tile) role (upFrom 0 x.desc.groups.toNat) s1).l1Flush tile

/-- The checkpoint groups of a team at its start. -/
def State.groupsOf (s : State) (tid : Nat) : List (Nat × Group) :=
  (s.groups.filter (fun g => decide (g.tid = tid) && g.live)).map (fun g => (g.gidx.toNat, g))

/-- The MiB of a die's log carve-out taken by the slices of checked teams (13 R349): from, to. -/
def State.slices (s : State) (die : Nat) : List (Nat × Nat) :=
  s.teams.filterMap (fun t => match t.chord with
    | some c => if decide (c.sliceDie = die) && decide (c.level ≠ 0) then some (c.slice, c.slice + sliceMib (s.chctlOf t)) else none
    | none => none)

/-- The physical address of a team's slice (R349, R368): at LVLBASE of the die that held its leader. -/
def State.sliceAt (s : State) (die slice : Nat) : Nat :=
  s.chip.toNat * 2 ^ 48 + (field (s.winGet (0x030000 + 0x1000 * die + 0x10)) 0 48 + slice * 1048576) % 2 ^ 48

/-- The physical address at which a context's VA reads, if it can be read by the device. -/
def State.deviceAt (s : State) (ctx va : Nat) : Option Nat :=
  match s.deviceTranslate ctx va .read with
  | (.ok pa, _) => some pa
  | (.error _, _) => none

/-- Whether a piece of a record lies in a buffer of a context. -/
def State.inBuffer (s : State) (ctx base size : Nat) (r : Rec) : Bool :=
  match r.ranges with
  | [] => false
  | x :: _ => (upFrom (base / 4096) ((base % 4096 + size + 4095) / 4096)).any (fun k =>
      (s.deviceAt ctx (4096 * k)).any (fun pa => decide (pa ≤ x.1) && decide (x.1 < pa + 4096)))

/-- The record that a team of a replayed grid runs from: the last piece for it in the buffer that the record descriptor names (13 R367). -/
def State.recordFor (s : State) (x : Grid) (idx : Nat) : Option Nat :=
  match s.deviceAt x.ctx x.recbase.toNat with
  | none => none
  | some pa =>
    let word := fun (off : Nat) => bytesVal ((upFrom (pa + off) 8).map s.physByte)
    ((upFrom 0 s.records.length).filter (fun i => s.records[i]?.any (fun r => decide (r.teamIdx = idx) && s.inBuffer x.ctx (word 0) (word 8) r))).getLast?

/-- A team of a grid started: unchecked, checked with its trailer (13 R345) and its slice (13 R349), recorded, or replayed from the record last
written for it in the buffer that its grid's RECBASE leads to (13 R367). -/
def State.startTeam (s : State) (x : Grid) (idx tile trailerTile : Nat) : State :=
  let rec_ := x.desc.flags.getLsbD 3
  if x.desc.flags.getLsbD 4 then s.addTeam x idx tile .trailer (some ((s.recordFor x idx).getD s.records.length))
  else if s.checked x idx then
    let die := dieOf tile
    let slice := (findPiece (s.lvlSize die) (s.slices die) (sliceMib x.chctl)).getD 0
    let s0 := s.homeCode (s.sliceAt die slice) (sliceMib x.chctl * 1048576)
    let tid := s.nextId
    let s1 := s0.addTeam x idx tile .leader none
    let trailer := s1.nextId
    let s2 := s1.addTeam x idx trailerTile .trailer none
    s2.modTeam tid (fun t => { t with chord := some (Chord.start x.desc.red.toNat s.dt trailer die slice (s2.groupsOf tid)) })
  else if rec_ then
    let s1 := s.addTeam x idx tile .leader none
    s1.modTeam s.nextId (fun t => { t with chord := some (Chord.start 0 s.dt 0 0 0 []) })
  else s.addTeam x idx tile .plain none

/-- Whether a die has slices for a number of checked teams (13 R349). -/
def State.slicesFree (s : State) (die mib : Nat) : Nat → List (Nat × Nat) → Bool
  | 0, _ => true
  | n + 1, taken => match findPiece (s.lvlSize die) taken mib with
    | some b => s.slicesFree die mib n ((b, b + mib) :: taken)
    | none => false

/-- Whether the trailers of a grid's site may be placed at another site beside the leaders (R86; 13 R343, R345). -/
def State.trailerFits (s : State) (x : Grid) (site other : Nat) : Bool :=
  (upFrom other x.width).all (fun t => s.usable t && s.fits x.desc t) && (s.gridDies x).contains (dieOf other) &&
    decide (pairOf other ≠ pairOf site) && decide (dieOf other ≠ dieOf site) == x.cross && decide (s.lvlSize (dieOf other) ≠ 0)

/-- Whether the teams of a grid's set that begins with a team may be placed at a site now, its trailers at another (R80, R86, R87; 13 R343,
R345, R349). -/
def State.placeable (s : State) (x : Grid) (idx site other : Nat) : Bool :=
  let die := dieOf site
  (upFrom site x.width).all (fun t => s.usable t && s.fits x.desc t) && (s.gridDies x).contains die &&
    decide (x.width = 1 ∨ site % 4 = 0) && decide (2 * x.width ≤ s.sharedFree die) &&
    (!s.checked x idx ||
      (s.trailerFits x site other && decide (x.width = 1 ∨ other % 4 = 0) && decide (s.lvlSize die ≠ 0) &&
        s.slicesFree die (sliceMib x.chctl) x.width (s.slices die)))

/-- The groups on the cluster of a tile, and on the other cluster of its pair. -/
def State.layerLoads (s : State) (tile : Nat) : Nat × Nat :=
  let on := fun (c : Nat) => (s.groups.filter (fun g => g.live && !g.away && decide (g.tile / 4 = c))).length
  let c := tile / 4
  (on c, on (c / 2 * 2 + (1 - c % 2)))

/-- Whether a team placed on a tile keeps its cluster pair's load balanced (R86; 01 R13; 14 R380): it goes to the layer that draws less where a
transition of the pair is deferred, else to the one with no more groups than the other (log entry 103). -/
def State.keepsBalance (s : State) (tile : Nat) : Bool :=
  let p := s.pair (pairOf tile)
  if p.pend ≠ 0 then decide (p.light = decide (tile / 4 % 2 = 1))
  else decide ((s.layerLoads tile).1 ≤ (s.layerLoads tile).2)

/-- How much the distributor prefers a tile (R86; 14 R380): the lighter cluster of a pair with a deferred transition first, then tiles that keep their
pair's load balanced. -/
def State.siteRank (s : State) (tile : Nat) : Nat :=
  if !s.keepsBalance tile then 0 else if (s.pair (pairOf tile)).pend ≠ 0 then 2 else 1

/-- The tile preferred most among some, the first among equals. -/
def State.preferred (s : State) (l : List Nat) : Option Nat :=
  (l.foldl (fun (b : Option (Nat × Nat)) t => match b with
    | none => some (s.siteRank t, t)
    | some y => if y.1 < s.siteRank t then some (s.siteRank t, t) else some y) none).map (·.2)

/-- Those among some tiles that are preferred most. -/
def State.preferredAll (s : State) (l : List Nat) : List Nat :=
  let top := l.foldl (fun m t => max m (s.siteRank t)) 0
  l.filter (fun t => decide (s.siteRank t = top))

/-- Whether another site would be preferred to a grid's (R86): one that qualifies and ranks higher. -/
def State.betterSite (s : State) (x : Grid) (idx site other : Nat) : Bool :=
  decide (s.siteRank site < 2) && ((s.gridDies x).flatMap (s.sites x)).any (fun t => decide (s.siteRank site < s.siteRank t) && s.placeable x idx t other)

/-- Whether another site would be preferred for its trailers. -/
def State.betterOther (s : State) (x : Grid) (idx site other : Nat) : Bool :=
  s.checked x idx && decide (s.siteRank other < 2) &&
    ((s.gridDies x).flatMap (s.sites x)).any (fun t => decide (s.siteRank other < s.siteRank t) && s.trailerFits x site t)

/-- Whether the next teams of a grid may be placed anywhere now. -/
def State.placeableNow (s : State) (x : Grid) : Bool :=
  let sites := (s.gridDies x).flatMap (s.sites x)
  sites.any (fun a => if s.checked x x.nextTeam then sites.any (s.placeable x x.nextTeam a) else s.placeable x x.nextTeam a a)

/-- Whether a grid has teams to distribute. -/
def Grid.waiting (x : Grid) : Bool := x.accepted && !x.done && decide (x.nextTeam < x.desc.total)

/-- Whether two grids share a partition. -/
def State.samePart (s : State) (x y : Grid) : Bool := decide (s.gridDies x = s.gridDies y)

/-- Whether another grid goes first (R79, R86, R87): an earlier one of its queue, or one of higher priority or of the same and older that
may be placed now or waits for whole residency. -/
def State.goesFirst (s : State) (x y : Grid) : Bool :=
  y.waiting && decide (y.serial ≠ x.serial) && !(s.ctx y.ctx).away &&
    ((!x.child && !y.child && decide (x.queue = y.queue) && decide (y.serial.toNat < x.serial.toNat)) ||
      (s.samePart x y &&
        (if y.desc.flags.getLsbD 1 then decide (s.gridPrio x ≤ s.gridPrio y) && (decide (s.gridPrio x < s.gridPrio y) || decide (y.serial.toNat < x.serial.toNat) || !x.desc.flags.getLsbD 1)
          else (decide (s.gridPrio x < s.gridPrio y) || (decide (s.gridPrio x = s.gridPrio y) && decide (y.serial.toNat < x.serial.toNat))) &&
            s.placeableNow y)))

/-- The teams of one set of a grid started at a site, their trailers at another. -/
def State.startSet (s : State) (x : Grid) (n site other : Nat) : State :=
  (upFrom 0 x.width).foldl (fun s t => s.startTeam x (n + t) (site + t) (other + t)) s

/-- One set of teams of a grid placed: one team, or the four of a co-resident set on a cluster (R87). -/
def State.placeSet (s : State) (serial : BitVec 32) (tile trailerTile : Nat) : Option State :=
  match s.grid serial with
  | none => none
  | some x =>
    let n := x.nextTeam
    let site := x.siteOf tile
    let other := x.siteOf trailerTile
    if s.placeable x n site other && !s.betterSite x n site other && !s.betterOther x n site other then
      some ((s.startSet x n site other).modGrid serial (fun x => { x with nextTeam := n + x.width }))
    else none

/-- How many sets of a grid's teams the sites of a tile's pair still hold. -/
def State.pairRoom (s : State) (x : Grid) (site : Nat) : Nat :=
  (((s.sites x (dieOf site)).filter (fun t => decide (pairOf t = pairOf site))).map (fun t =>
    (upFrom t x.width).foldl (fun m n => min m ((s.load n).room x.desc 16)) 16)).foldl (· + ·) 0

/-- The site among some whose pair holds most sets more, the first among equals. -/
def State.roomiest (s : State) (x : Grid) (l : List Nat) : Option Nat :=
  (l.foldl (fun (b : Option (Nat × Nat)) t => match b with
    | none => some (s.pairRoom x t, t)
    | some y => if y.1 < s.pairRoom x t then some (s.pairRoom x t, t) else some y) none).map (·.2)

/-- Every set of a whole-residency grid placed at once (R87), in an order and on sites that leave room for those still to come: a checked set
on the sites with the most room; with `rank`, of the sites preferred most (R86). -/
def State.placeEach (x : Grid) (rank : Bool) (sites : List Nat) : List Nat → State → Option State
  | [], s => some s
  | n :: rest, s =>
    let best := fun (l : List Nat) => if rank then s.preferredAll l else l
    if s.checked x n then
      match s.roomiest x (best (sites.filter (fun a => sites.any (fun b => s.placeable x n a b)))) with
      | none => none
      | some a => match s.roomiest x (best (sites.filter (fun b => s.placeable x n a b))) with
        | none => none
        | some b => State.placeEach x rank sites rest (s.startSet x n a b)
    else
      match (best (sites.filter (fun a => s.placeable x n a a))).head? with
      | some a => State.placeEach x rank sites rest (s.startSet x n a a)
      | none => none

/-- Every team of a whole-residency grid placed at once, or none (R87): the checked sets first, then the others; on the sites preferred most where the
grid can be placed so. -/
def State.placeAll (s : State) (serial : BitVec 32) (tile : Nat) : Option State :=
  match s.grid serial with
  | none => none
  | some x =>
    let sites := dedup (x.siteOf tile :: (s.gridDies x).flatMap (s.sites x))
    let all := (upFrom 0 (x.desc.total / x.width)).map (fun k => k * x.width)
    let order := all.filter (s.checked x) ++ all.filter (fun n => !s.checked x n)
    let placed := match State.placeEach x true sites order s with
      | some t => some t
      | none => State.placeEach x false sites order s
    placed.map (fun t => t.modGrid serial (fun x => { x with nextTeam := x.desc.total }))

/-- The tiles a third run may take (13 R345): outside the pairs of the two runs, at level 6 on a third die where the partition has one. -/
def State.thirdFits (s : State) (t : Team) (c : Chord) (tile : Nat) : Bool :=
  match s.team c.trailer, s.grid t.serial with
  | some u, some x =>
    let other := (s.checkDies x).any (fun d => decide (d ≠ dieOf t.tile) && decide (d ≠ dieOf u.tile))
    s.usable tile && (s.checkDies x).contains (dieOf tile) && s.fits x.desc tile && decide (pairOf tile ≠ pairOf t.tile) &&
      decide (pairOf tile ≠ pairOf u.tile) &&
      (if x.cross && other then decide (dieOf tile ≠ dieOf t.tile) && decide (dieOf tile ≠ dieOf u.tile)
        else x.cross || decide (dieOf tile = dieOf t.tile))
  | _, _ => false

/-- Whether a third run waits for which the partition has a place now: it goes ahead of every team of a grid waiting to be placed there (13 R345). -/
def State.thirdWants (s : State) (x : Grid) : Bool :=
  s.teams.any (fun t => match t.chord with
    | some c => c.thirdWait && (s.gridDies x).any (fun d => (s.dieTiles d).any (s.thirdFits t c))
    | none => false)

/-- Whether a pre-empted team whose bytes stand in the banks of some tiles waits for lines of its save area (07 R187; 12 R336). -/
def State.areaHeld (s : State) (tiles : List Nat) : Bool :=
  s.teams.any (fun t => t.away && !t.ended && !t.saved && tiles.any (fun n => decide (n / 4 = t.tile / 4)) && s.saveHeld t.tid 0 t.scratch)

/-- TEAM_DISTRIBUTE (R80, R83, R84, R86, R87; 13 R343 to R345): the grid's next team, set or whole grid placed from a tile on, a checked one
with its trailer, if nothing goes first. -/
def execTeamDistribute (serial : BitVec 32) (tile trailerTile : Nat) (s : State) : Out :=
  match s.grid serial with
  | none => .next s
  | some x =>
    if !x.waiting || (s.ctx x.ctx).away || s.swapped.contains (dieOf tile) || s.thirdWants x || s.grids.any (s.goesFirst x) || s.areaHeld [tile, trailerTile] then .next s
    else if x.desc.flags.getLsbD 1 then .next ((s.placeAll serial tile).getD s)
    else .next ((s.placeSet serial tile trailerTile).getD s)

/-! ## The end of a group (R74, R88; 10 R267) -/

/-- A group ended: nothing of it issues again; its locks are released after its last store, its open segment is closed for it. -/
def State.endGroup (s : State) (gid : Nat) : State :=
  match s.group gid with
  | none => s
  | some g =>
    let s0 := match s.chordOf g with
      | some c => if g.role = Role.leader then s.closeGroup g c.open_ g.icount g.seq else s.closeFollower g
      | none => s.closeFollower g
    let s1 := s0.modGroup gid (fun g =>
      { g with
        live := false
        run := false
        splits := []
        stack := []
        newSplits := []
        lreq := none
        lrel := g.lrel ++ (g.lset.map (fun (x : LockHold) => x.name)).filter (fun n => !g.lrel.contains n)
        lend := g.lend || !g.lset.isEmpty })
    if s1.groups.any (fun x => x.live && decide (x.tid = g.tid)) then s1
    else
      let s2 := s1.dropStash g.tid
      s2.modTeam g.tid (fun t => { t with ended := true, stash := [] })

/-- The locks and requests of a group removed with no release (10 R267). -/
def State.dropLocks (s : State) (gid : Nat) : State :=
  match s.anyGroup gid with
  | none => s
  | some g =>
    let names := ((s.locks.filter (fun (r : LockRec) => decide (r.gid = gid))).map (·.name))
    let s1 := names.foldl (fun s n => s.freeRec g.ctx gid n) s
    { s1 with woundMsgs := s1.woundMsgs.filter (fun m => decide (m.gid ≠ gid)) }

/-- The flips a group still waits for answered with status 1 (13 R363). -/
def State.failFlips (s : State) (gid : Nat) : State :=
  match s.anyGroup gid with
  | none => s
  | some g => g.flip.foldl (fun s (f : Flip) => s.resolve f.issuer f.seq [] [(f.d, 1)] 0 true) (s.modGroup gid (fun g => { g with flip := [] }))

/-- A group taken out of the machine. -/
def State.removeGroup (s0 : State) (gid : Nat) : State :=
  let s := s0.failFlips gid
  { s with g := if s.g.gid = gid then Group.idle else s.g, others := s.others.filter (fun g => decide (g.gid ≠ gid)) }

/-- The groups of a team taken out. -/
def State.removeTeam (s : State) (tid : Nat) : State :=
  let gids := (s.groups.filter (fun g => decide (g.tid = tid))).map (·.gid)
  let s1 := gids.foldl (fun s g => s.removeGroup g) s
  { s1 with teams := s1.teams.filter (fun t => decide (t.tid ≠ tid)) }

/-! ## Retirement and completion (R88, R89) -/

/-- The runs that follow a team. -/
def Team.followers (t : Team) : List Nat :=
  match t.chord with
  | some c => [c.trailer] ++ c.third.toList
  | none => []

/-- Whether a team has retired (R88): its groups over, its commands complete, its children retired, its stores performed, its locks released,
and every segment of a checked one committed. -/
def State.teamDone (s : State) (t : Team) : Bool :=
  t.ended && !s.cmds.any (fun c => decide (c.tid = t.tid) && !c.done) && !s.grids.any (fun x => decide (x.parent = some t.tid)) &&
    s.groups.all (fun g => decide (g.tid ≠ t.tid) || (decide (g.acks = 0) && g.lrel.isEmpty && !g.lend &&
      g.olog.all (fun e => e.lanes.all (fun l => !l.st.isOpen)))) &&
    (match t.chord with
    | some c => decide (c.level = 0) || (c.segs.isEmpty && c.vers.isEmpty)
    | none => true)

/-- The bytes a record of a team takes in its buffer: 16 for each value (log entry 9). -/
def recBytes (t : Team) : Nat :=
  match t.chord with
  | some c => 16 * (c.kept.length + c.log.length + c.runs.length + c.traps.length + t.closes.length)
  | none => 0

/-- The physical ranges of a range of a context's virtual memory that the device is to write, page by page; none where a page cannot be written. -/
def State.pagesOf (ctx : Nat) : Nat → Nat → Nat → State → Option (List (Nat × Nat) × State)
  | 0, _, n, s => if n = 0 then some ([], s) else none
  | fuel + 1, va, n, s =>
    if n = 0 then some ([], s)
    else
      let k := min n (4096 - va % 4096)
      match s.deviceTranslate ctx va .write with
      | (.error _, _) => none
      | (.ok pa, s1) => (State.pagesOf ctx fuel (va + k) (n - k) s1).map (fun x => ((pa, pa + k) :: x.1, x.2))

/-- Whether two lists of ranges meet. -/
def rangesMeet (a b : List (Nat × Nat)) : Bool := a.any (fun x => b.any (fun y => decide (x.1 < y.2) && decide (y.1 < x.2)))

/-- What a record descriptor's line holds as a team's record is appended: BASE, SIZE and WOFF (13 R367). -/
def State.recordHead (s : State) (pa : Nat) : Nat × Nat × Nat :=
  let word := fun (off : Nat) => bytesVal ((upFrom (pa + off) 8).map s.physByte)
  (word 0, word 8, word 16)

/-- Whether the appending of a team's record waits for a line of its descriptor or buffer (07 R187). -/
def State.recordHeld (s : State) (x : Grid) (t : Team) : Bool :=
  x.desc.flags.getLsbD 3 && !x.recStop && t.chord.isSome && (s.deviceHeld x.ctx x.recbase.toNat .update ||
    (match s.deviceAt x.ctx x.recbase.toNat with
    | none => false
    | some pa =>
      let (base, _, woff) := s.recordHead pa
      (upFrom ((base + woff) / 128) (recBytes t / 128 + 2)).any (fun k => s.deviceHeld x.ctx (128 * k) .write)))

/-- A recorded team's log and signatures appended at system scope to the buffer of its grid's record descriptor (13 R367): WOFF moves on past the piece, or
code 0x65 where the buffer is full or cannot be written, and recording stops; an older piece that stood there is gone. -/
def State.appendRecord (s : State) (x : Grid) (t : Team) : State :=
  match t.chord with
  | none => s
  | some c =>
    if !x.desc.flags.getLsbD 3 || x.recStop then s
    else
      let fail := s.modGrid x.serial (fun x => { x with err := if x.err.isSome then x.err else some 0x65, recStop := true })
      match s.deviceTranslate x.ctx x.recbase.toNat .update with
      | (.error _, _) => fail
      | (.ok pa, s1) =>
        if !s1.cleanRange pa 32 then fail
        else
          let (base, size, woff) := s1.recordHead pa
          let n := recBytes t
          if size < woff + n then fail
          else
            match State.pagesOf x.ctx (n / 4096 + 2) (base + woff) n (s1.homeRead (some x.ctx) 0 pa 0) with
            | none => fail
            | some (l, s2) =>
              let s3 := l.foldl (fun s y => (s.countHome (some x.ctx) y.1 0 true).homeCode y.1 (y.2 - y.1)) s2
              let s4 := s3.deviceStore (some x.ctx) (pa + 16) (leBytes 8 (woff + n))
              { s4 with records := s4.records.filter (fun y => !rangesMeet y.ranges l) ++ [⟨l, t.idx, c.kept ++ c.log, c.runs, c.traps, t.closes, t.folds⟩] }

/-- Whether a team retires by itself: a trailer or a third run goes with its leader. -/
def Team.own (t : Team) : Bool :=
  match t.role with
  | .plain | .leader => true
  | _ => t.replay.isSome

/-- A team retired with the runs that follow it (R88): its record appended, its groups and commands gone, its grid's count moved on. -/
def State.retire (s : State) (t : Team) : State :=
  let s1 := match s.grid t.serial with
    | some x => s.appendRecord x t
    | none => s
  let s2 := (t.followers ++ [t.tid]).foldl (fun s i => s.removeTeam i) s1
  let s3 := { s2 with cmds := s2.cmds.filter (fun c => !(t.followers ++ [t.tid]).contains c.tid) }
  s3.modGrid t.serial (fun x => { x with retired := x.retired + 1, done := x.done || decide (x.retired + 1 = x.desc.total) })

/-- TEAM_RETIRE (R88). -/
def execTeamRetire (tid : Nat) (s : State) : Out :=
  match s.team tid with
  | none => .next s
  | some t => .next (if t.own && s.teamDone t && !(s.grid t.serial).any (fun x => s.recordHeld x t) then s.retire t else s)

/-- The completion of a grid (R76, R89): its error recorded, then the add; a failed one is told to the context's fault queue. -/
def State.complete (s : State) (x : Grid) : State :=
  let c := x.desc.completion
  if c = 0 || badCompletion c then s
  else
    let id := BitVec.ofNat 64 (x.serial.toNat + x.queue * 2 ^ 32 + bitOf x.child * 2 ^ 46)
    match s.deviceTranslate x.ctx c.toNat .update with
    | (.error _, s1) => s1.pushFault (x.ctx % 64) 8 x.ctx c id
    | (.ok pa, s1) =>
      if s1.cleanRange pa 16 then
        let s2 := s1.countHome (some x.ctx) pa 0 true
        let s3 := match x.err with
          | some e => s2.recordError (.glob pa) e.toNat
          | none => s2
        s3.counterAdd (.glob pa) x.desc.add
      else s1.pushFault (x.ctx % 64) 8 x.ctx c id

/-- Whether a grid's completion waits for its counter's line (07 R187). -/
def State.completeHeld (s : State) (x : Grid) : Bool :=
  decide (x.desc.completion ≠ 0) && !badCompletion x.desc.completion && s.deviceHeld x.ctx x.desc.completion.toNat .update

/-- GRID_RETIRE (R88, R89). -/
def execGridRetire (serial : BitVec 32) (s : State) : Out :=
  match s.grid serial with
  | none => .next s
  | some x =>
    if x.done && !s.teams.any (fun t => decide (t.serial = serial)) && !s.completeHeld x then
      let s1 := s.complete x
      .next { s1 with grids := s1.grids.filter (fun y => !(decide (y.serial = serial) && y.accepted)) }
    else .next s

/-! ## A grid ended by system software or containment (R76; 10 R267; 11 R311) -/

/-- A command abandoned with a code: its completion is still to be performed with that error (11 R307, R311). -/
def Cmd.abandon (c : Cmd) (code : BitVec 7) : Cmd := if c.done || c.error.isSome then c else { c with error := some code }

/-- Every team of a grid ended at once, with a code for its completion: locks removed with no release, commands abandoned. -/
def State.endGrid (s : State) (serial : BitVec 32) (code : BitVec 7) : State :=
  let tids := (s.teams.filter (fun t => decide (t.serial = serial))).map (·.tid)
  let gids := (s.groups.filter (fun g => tids.contains g.tid)).map (·.gid)
  let s1 := gids.foldl (fun s g => s.dropLocks g) s
  let s2 := gids.foldl (fun s g => s.removeGroup g) s1
  let s3 := { s2 with
    teams := s2.teams.filter (fun t => decide (t.serial ≠ serial))
    cmds := s2.cmds.map (fun (c : Cmd) => if tids.contains c.tid then c.abandon 0x4D else c)
    jobs := s2.jobs.filter (fun j => !gids.contains j.gid)
    owners := s2.owners.filter (fun o => !(s2.cmds.any (fun c => decide (c.id = o.id) && tids.contains c.tid))) }
  s3.modGrid serial (fun x => { x with err := if x.err.isSome then x.err else some code, done := true })

end Sys2Proof.Machine
end

