-- ==== Sys2Proof/Machine/Traps.lean ====
section
/-! DEFINITION. Traps taken at run boundaries, the handler's instructions, context images, pre-emption and partition swaps (12 R316 to
R341; 10 R274, R275; 11 R308), and the return of outstanding results (02 R34, R39). -/

namespace Sys2Proof.Machine

/-! ## When a recorded cause is taken (R325, R308, R274; 06 R164) -/

/-- A cause that is due, with the slot of the split that takes it. -/
inductive Due where
  | fault (slot : Nat) (e : OlEntry)
  | matrix (slot : Nat) (m : MatErr)
  | engine (slot : Nat) (pc : BitVec 57)
  | wound (slot : Nat)
  deriving DecidableEq, Repr

/-- The faulted entries a trap would report: in a handler only those of the handler's own instructions (R320, R325). -/
def Group.dueEntries (g : Group) : List OlEntry := g.olog.filter (fun e => e.faulty && (!g.inh || decide (g.trapSeq ≤ e.seq)))

/-- Whether a split stands in an EXIT's drain with nothing it covers outstanding. -/
def Group.drainedExit (g : Group) (sp : Split) : Bool :=
  (match sp.park with
  | .exitDrain _ => true
  | _ => false) && !g.outstanding sp.slot

/-- Whether a split's waiting park ends for a trap: one whose lock has been granted goes on instead. -/
def Group.interruptible (g : Group) (sp : Split) : Bool :=
  sp.waits && !(decide (sp.park = .lock) && (match g.lreq with
    | some r => decide (r.slot = sp.slot) && r.granted
    | none => false))

/-- The ready split that issues first after a resumption (R63): one passed over 64 times, else the oldest. -/
def Group.oldestReady (g : Group) : Option Nat :=
  let key := fun (sp : Split) => [if 64 ≤ sp.passed then 0 else 1, sp.age, sp.slot]
  ((g.splits.filter (fun sp => decide (sp.park = .ready))).foldl (fun (best : Option Split) sp => match best with
    | none => some sp
    | some b => if lexLt (key sp) (key b) then some sp else some b) none).map (fun (x : Split) => x.slot)

/-- The slots at which a recorded cause may be taken now: a run has ended there, the split waits, or the group was just resumed (R325). -/
def Group.boundarySlots (g : Group) : List Nat :=
  let here := g.atEnd.toList ++ (g.splits.filter (fun sp => g.interruptible sp)).map (fun (sp : Split) => sp.slot) ++
    (if g.resumed then g.oldestReady.toList else [])
  if g.inh then here.filter (fun n => decide (n = g.cur)) else here

/-- The slot that takes a cause: a preferred one where it is at a boundary, else the lowest. -/
def prefer (n : Option Nat) (l : List Nat) : Option Nat :=
  match n with
  | some k => if l.contains k then some k else least l
  | none => least l

/-- The split whose lock request a wound has withdrawn (R274). -/
def Group.withdrawn (g : Group) : Option Nat :=
  ((g.splits.filter (fun sp => decide (sp.park = .lock) && !g.lreq.any (fun r => decide (r.slot = sp.slot)))).map (fun (sp : Split) => sp.slot)).head?

/-- The cause a group takes now, in the order of R325, at an EXIT once its accesses are in: an engine's error at the BATCH.WAIT that covers it (R308),
a wound in the split it took from its wait (R274). -/
def Group.due (g : Group) : Option Due :=
  let at_ := g.boundarySlots
  let exits := g.splits.filter (fun sp => g.drainedExit sp && (!g.inh || decide (sp.slot = g.cur)))
  let mat := g.matErr.find? (fun m => !(g.inh && decide (m.seq < g.trapSeq)))
  match least (if g.dueEntries.isEmpty then [] else at_ ++ exits.map (fun (sp : Split) => sp.slot)), g.dueEntries with
  | some n, e :: rest => some (.fault n (rest.foldl (fun (b : OlEntry) x => if x.seq < b.seq then x else b) e))
  | _, _ =>
    match least (at_ ++ exits.map (fun (sp : Split) => sp.slot)), mat with
    | some n, some m => some (.matrix n m)
    | _, _ =>
      if g.inh then none
      else
        match g.engDue.bind (fun x => (least at_).map (fun n => Due.engine (if (g.split x.1).isSome then x.1 else n) x.2)) with
        | some d => some d
        | none =>
          match exits.find? (fun sp => g.engErr.getLsbD 7 && (match sp.park with
            | .exitDrain l => g.lastLanes sp l
            | _ => false)) with
          | some sp => some (.engine sp.slot sp.pc)
          | none => if g.wounds.isEmpty then none else (prefer g.withdrawn at_).map .wound

/-- Whether a group can take a trap now at all. -/
def State.trappable (s : State) (g : Group) : Bool := g.live && !g.halted && !g.run && !g.away && (s.tile g.tile).trans.isNone

/-- The slot and record of the trap that a follower's log gives at this boundary (13 R346, R347): not before a close the follower still owes,
nor while its own accesses are open. -/
def State.followTrap (s : State) (g : Group) : Option TrapLog :=
  match s.boundaryTrap g with
  | some l =>
    if g.olog.any (fun e => e.lanes.any (fun x => x.st.isOpen)) then none
    else match s.closesHere g with
      | some c => (match s.team g.tid with
        | some t => if t.closes.any (fun y => decide (y.seg = c.seg) && decide (y.gidx = c.gidx)) then some l else none
        | none => some l)
      | none => some l
  | none => none

/-- The cause a group takes now: a follower goes by its log, but for the data errors of its own tile (R340). -/
def State.dueOf (s : State) (g : Group) : Option Due :=
  if !s.trappable g then none
  else if g.role.follows then
    match g.due with
    | some (.matrix n m) => some (.matrix n m)
    | _ => none
  else g.due

/-- Whether a group stands before a trap. -/
def State.trapPending (s : State) (g : Group) : Bool :=
  (s.dueOf g).isSome || (s.trappable g && g.role.follows && (s.followTrap g).isSome)

/-! ## The record of a cause (R316, R317, R322) -/

/-- The faulted lanes of an entry: lane, cause, page-table entry, address and DT. -/
def OlEntry.faults (e : OlEntry) : List (Nat × BitVec 8 × W64 × W64 × Nat) :=
  e.lanes.filterMap (fun l => match l.st with
    | .faulted c w dt => some (l.lane, c, w, l.addr, dt)
    | _ => none)

/-- The nibbles of TLANECAUSE. -/
def causeNibbles (l : List (BitVec 8)) : Nat :=
  ((l.take 8).foldr (fun c n => n * 16 + c.toNat % 16) 0)

/-- The trap of a faulted entry (R317). -/
def faultTrap (g : Group) (sp : Split) (e : OlEntry) : Trap :=
  let fs := e.faults
  let cause := fs.foldl (fun (m : Nat) f => min m f.2.1.toNat) 255
  let hit := fs.filter (fun f => decide (f.2.1.toNat = cause))
  let first := hit.head?
  { cause := BitVec.ofNat 8 cause
    entry := some e.idx
    pc := e.pc
    resume := sp.pc
    mask := if e.uni then e.mask else maskOf (hit.map (fun f => f.1))
    addr := match first with | some f => f.2.2.2.1 | none => 0
    dt := match first with | some f => f.2.2.2.2 | none => 0
    other := BitVec.ofNat 2 (bitOf (decide (hit.length ≠ fs.length)) + 2 * bitOf (decide (1 < (g.olog.filter OlEntry.faulty).length)))
    lanes := BitVec.ofNat 64 ((maskOf (fs.map (fun f => f.1))).toNat * 2 ^ 32 + causeNibbles (fs.map (fun f => f.2.1)))
    walk := match first with
      | some f => if 6 ≤ cause && cause ≤ 8 then some f.2.2.1 else none
      | none => none }

/-- The trap of a due cause in a split. -/
def dueTrap (g : Group) (sp : Split) (dt : Nat) : Due → Trap
  | .fault _ e => faultTrap g sp e
  | .matrix _ m => { Trap.plain 0x11 m.pc sp.pc m.mask m.addr m.dt.toNat with mask := m.mask }
  | .engine _ pc => Trap.plain 0x14 pc sp.pc sp.mask g.engAddr g.engDt
  | .wound _ =>
    let w := g.wounds.head?
    { Trap.plain 0x0F sp.pc sp.pc sp.mask (match w with | some x => x.name | none => 0) (match w with | some x => x.dt.toNat | none => dt) with
      other := BitVec.ofNat 2 (bitOf (decide (1 < g.wounds.length))) }

/-- The slot of a due cause. -/
def Due.slot : Due → Nat
  | .fault n _ | .matrix n _ | .engine n _ | .wound n => n

/-- What taking a cause clears: the Matrix Data Error, the engine error's VALID bit, the recorded wounds (06 R164; R308; R274). -/
def Group.clearDue (g : Group) (d : Due) : Group :=
  match d with
  | .fault .. => g
  | .matrix _ m => { g with matErr := g.matErr.erase m }
  | .engine .. => { g with engErr := setField g.engErr 7 1 0, engDue := none }
  | .wound _ => { g with wounds := [], agehold := true }

/-- The waiting park of a trapping split given up: an unfaulted wait's entry, a lock request not yet granted (R325, R274). -/
def State.leavePark (s : State) (gid slot : Nat) : State :=
  match s.group gid with
  | none => s
  | some g =>
    match g.split slot with
    | none => s
    | some sp =>
      match sp.park with
      | .ctr w => s.modGroup gid (fun g => { g with olog := g.olog.filter (fun e => decide (e.idx ≠ w.entry) || e.faulty) })
      | .lock => (match g.lreq with
        | some r => if r.slot = slot then s.withdraw gid else s
        | none => s)
      | _ => s

/-- A leader's logged instructions that a fault holds back, marked in its log where a trap is taken for one: what they have received
by then stands before the mark (R346). -/
def State.markHeld (s : State) (g : Group) : State :=
  let held := (g.olog.filter (fun e => e.logged && (e.faulty || g.stuck e))).map (fun e =>
      (e.cnt, e.received.1.map (fun w => (w.1, BitVec.ofNat 64 w.2.toNat)) ++ e.received.2.map (fun w => (100000 + w.1, w.2)))) ++
    (g.results.filter g.stuckResult).map (fun r => (r.cnt, []))
  held.foldl (fun (s : State) (x : Nat × List (Nat × W64)) =>
    if (s.lookLog g x.1 faultKey).isSome then s else s.logVals g x.1 (x.2 ++ [(faultKey, 0)])) s

/-- A due cause taken in a group's split: what the split waits for is given up, the cause cleared, the trap taken and logged, and with a
wound recorded the group's lock request withdrawn (R318, R325; 10 R274, R275; 12 R340). -/
def State.takeDue (s : State) (g : Group) (sp : Split) (d : Due) : State :=
  let s0 := match d with
    | .fault .. => s.markHeld g
    | _ => s
  let s1 := (s0.leavePark g.gid d.slot).modGroup g.gid (fun g => g.clearDue d)
  let s2 := s1.takeTrap g.gid d.slot (dueTrap g sp s.dt d)
  let s3 := match s2.group g.gid with
    | some g2 => s2.logTrap g2 d.slot
    | none => s2
  if (s3.group g.gid).any (fun x => x.stopped) then s3.withdrawOn g.gid else s3

/-- A follower takes its log's trap, the record whole (12 R340). -/
def State.takeLogged (s : State) (g : Group) (l : TrapLog) : State :=
  ((s.leavePark g.gid l.slot).takeTrap g.gid l.slot l.trap).modGroup g.gid (fun g =>
    { g with
      tdt := l.dt
      trapsTaken := g.trapsTaken + 1
      agehold := g.agehold || decide (field l.cause 0 8 = 0x0F) })

/-- TRAP_ENTRY (R318, R325): a group at a run boundary takes what is due there; a follower takes its log's trap. -/
def execTrapEntry (gid : Nat) (s : State) : Out :=
  match s.group gid with
  | none => .next s
  | some g =>
    match s.dueOf g with
    | some d =>
      (match g.split d.slot with
      | none => .next s
      | some sp => .next (s.takeDue g sp d))
    | none =>
      if s.trappable g && g.role.follows then
        match s.followTrap g with
        | some l => .next (s.takeLogged g l)
        | none => .next s
      else .next s

/-! ## TRAP, BRK and RTE (R323, R328) -/

/-- TRAP (R328). -/
def execTrap (h : Hdr) (code : BitVec 12) (s : State) : Out :=
  issueUni (.trap h code) h {} (fun sp s => (s, ownTrap s sp 0x0B (pcAdd sp.pc 4) (code.setWidth 64))) s

/-- BRK (R328). -/
def execBrk (h : Hdr) (code : BitVec 12) (s : State) : Out :=
  issueUni (.brk h code) h {} (fun sp s => (s, ownTrap s sp 0x0C sp.pc (code.setWidth 64))) s

/-- The faulted lanes of a group's entries issued again: a split waits for them as well as the one that issued them (R323). -/
def Group.reissue (g : Group) (slot : Nat) : Group :=
  { g with olog := g.olog.map (fun e =>
      if e.faulty then { e with again := some slot, lanes := e.lanes.map (fun l => if l.st.isFaulted then { l with st := .pending } else l) } else e) }

/-- RTE (R323). -/
def execRte (h : Hdr) (s : State) : Out :=
  let i : Instr := .rte h
  issueUni i h {}
    (fun sp s =>
      if !s.g.inh then (s, ownTrap s sp 0x02 sp.pc (wordsAddr i))
      else
        let g1 := (s.g.reissue sp.slot).leaveTrap
        let g2 := (g1.setSplit { sp with pc := g1.tresume }).endPark sp.slot .rte 0 false
        ({ s with g := g2 }, .placed)) s

/-! ## OLOG (R327) -/

/-- The lanes of the selected entry that are faulted and selected. -/
def Group.selected (g : Group) (sel : W64) : List Nat :=
  match g.entry (field sel 0 5) with
  | none => []
  | some e => (e.faults.map (fun f => f.1)).filter (fun l => decide (field sel 32 32 = 0) || sel.getLsbD (32 + l))

/-- Whether a selector is illegal: a bit of [31:5] set (R327). -/
def badSelector (sel : W64) : Bool := decide (field sel 5 27 ≠ 0)

/-- What a follower's log holds back until its handler retries it or returns comes when the log has it. -/
def Group.released (g : Group) : Group :=
  { g with results := g.results.map (fun (r : Result) => if r.await = .log true then { r with await := .log false } else r) }

/-- OLOG.RETRY (R327). -/
def execOlogRetry (h : Hdr) (a : BitVec 6) (s : State) : Out :=
  issueUni (.ologRetry h a) h { sr := [a.toNat], handler := true, illegal := badSelector (s.g.rs a.toNat) }
    (fun sp s =>
      let sel := s.g.rs a.toNat
      let ls := s.g.selected sel
      let g1 := s.g.modEntry (field sel 0 5) (fun l => if ls.contains l.lane then { l with st := .pending } else l)
      let g2 : Group := { g1 with olog := g1.olog.map (fun (e : OlEntry) =>
        if decide (e.idx = field sel 0 5) && !ls.isEmpty then { e with again := some sp.slot } else e) }
      ({ s with g := g2.released }, .fall)) s

/-- OLOG.DROP (R327). -/
def execOlogDrop (h : Hdr) (a : BitVec 6) (s : State) : Out :=
  issueUni (.ologDrop h a) h { sr := [a.toNat], handler := true, illegal := badSelector (s.g.rs a.toNat) }
    (fun _ s =>
      let sel := s.g.rs a.toNat
      let ls := s.g.selected sel
      let g1 := s.g.modEntry (field sel 0 5) (fun l => if ls.contains l.lane then { l with st := .done none } else l)
      (({ s with g := g1.released }).freeDone s.g.gid, .fall)) s

/-- OLOG.STAT (R327). -/
def execOlogStat (h : Hdr) (d : BitVec 6) (s : State) : Out :=
  issueUni (.ologStat h d) h { sw := [d.toNat], logged := true }
    (fun _ s =>
      let m := maskOf ((s.g.olog.filter OlEntry.faulty).map (fun (e : OlEntry) => e.idx))
      ({ s with g := s.g.ws d.toNat (BitVec.ofNat 64 (m.toNat + s.g.olog.length * 2 ^ 32)) }, .fall)) s

/-! ## CTX.FL and CTX.LD (R330, R331, R333, R337) -/

/-- CTX.FL: outstanding until every line has been written. -/
def ctxFlush (i : Instr) (h : Hdr) (what : Nat) (s : State) : Out :=
  issueUni i h { late := true } (fun sp s => (s.awaiting sp [] (.flush what), .fall)) s

/-- CTX.FL.V (R337). -/
def execCtxFlV (h : Hdr) (s : State) : Out := ctxFlush (.ctxFlV h) h 0 s
/-- CTX.FL.A (R337). -/
def execCtxFlA (h : Hdr) (s : State) : Out := ctxFlush (.ctxFlA h) h 1 s
/-- CTX.FL.ALL (R337). -/
def execCtxFlAll (h : Hdr) (s : State) : Out := ctxFlush (.ctxFlAll h) h 2 s

/-- Absent lines of a group filled (R331), as REGISTER_LINE_FILL fills one. -/
def State.fillLines (s : State) (gid : Nat) (lines : List Nat) : State :=
  lines.foldl (fun s l => match execRegisterLineFill gid l s with
    | .next t => t
    | _ => s) s

/-- CTX.LD.V (R337): lines beyond the allotment are skipped. -/
def execCtxLdV (h : Hdr) (a b : BitVec 6) (s : State) : Out :=
  issueUni (.ctxLdV h a b) h { sr := [a.toNat, b.toNat] }
    (fun _ s =>
      let r := field (s.g.rs a.toNat) 0 8
      let n := field (s.g.rs b.toNat) 0 9
      (s.fillLines s.g.gid ((upFrom r n).filter (fun l => decide (l < s.g.allot) && s.g.absent.contains l)), .fall)) s

/-- CTX.LD.A (R337): the lines of the accumulators of the mask. -/
def execCtxLdA (h : Hdr) (a : BitVec 6) (s : State) : Out :=
  issueUni (.ctxLdA h a) h { sr := [a.toNat] }
    (fun _ s =>
      let m := s.g.rs a.toNat
      (s.fillLines s.g.gid (((upFrom 0 8).filter (fun n => m.getLsbD n && decide (n < s.g.naccs))).flatMap (fun n =>
        (upFrom (1024 + 64 * n) 64).filter (fun l => s.g.absent.contains l))), .fall)) s

/-! ## PREEMPT (R334, R338) -/

/-- The dies of a group's partition. -/
def State.partDies (s : State) (g : Group) : List Nat := s.partOf (dieOf g.tile)

/-- Every resident team of a context in some dies pre-empted, and the context held back (R334, R338). -/
def State.preemptCtx (s : State) (ctx : Nat) (dies : List Nat) : State :=
  let hit := (s.teams.filter (fun (t : Team) => decide (t.ctx = ctx) && !t.ended && !t.away && dies.contains (dieOf t.tile))).map (fun t => t.tid)
  (hit.foldl (fun s t => s.preemptTeam t) s).modCtx ctx (fun c => { c with away := true })

/-- Whether a partition begins at a die. -/
def State.partitionAt (s : State) (die : Nat) : Bool := s.dieOn die && decide ((s.partOf die).head? = some die)

/-- A partition swap begun (R339): its tiles halt at run boundaries. -/
def State.beginSwap (s : State) (die : Nat) (out : Bool) (gid seq : Nat) : State :=
  let dies := s.partOf die
  let hit := if out then (s.teams.filter (fun (t : Team) => !t.ended && !t.away && dies.contains (dieOf t.tile))).map (fun t => t.tid) else []
  let s1 := hit.foldl (fun s t =>
    let s2 := (s.groups.filter (fun g => g.live && decide (g.tid = t))).foldl (fun s g => s.stopGroup g.gid) s
    s2.modTeam t (fun x => { x with away := true })) s
  { s1 with swap := some ⟨die, out, gid, seq⟩, swapTeams := if out then s1.swapTeams ++ hit else s1.swapTeams }

/-- The resident and pre-empted runs of a context (R338 op 5). -/
def State.ctxTeams (s : State) (ctx : Nat) : W64 :=
  let n := fun (away : Bool) => min 65535 (s.teams.filter (fun (t : Team) => decide (t.ctx = ctx) && !t.ended && decide (t.away = away))).length
  BitVec.ofNat 64 (n false + n true * 65536)

/-- A context resumed: its teams are eligible again, and its halted groups go on (R320, R338, R427; log entry 96); a team whose scratchpad could not be
read back has it read now (R336). -/
def State.restart (s : State) (ctx : Nat) : State :=
  let s1 := (s.modCtx ctx (fun c => { c with away := false })).mapGroups (fun g =>
    if g.live && decide (g.ctx = ctx) && g.halted then { g with halted := false, resumed := true } else g)
  (s1.teams.filter (fun t => decide (t.ctx = ctx) && t.saved && !t.away && !t.ended)).foldl (fun s t => s.loadScratch t.tid) s1

/-- PREEMPT (R338); a follower takes the status from its log (13 R347). -/
def execPreempt (h : Hdr) (d a b : BitVec 6) (s : State) : Out :=
  issueUni (.preempt h d a b) h
    { sr := [a.toNat, b.toNat], sw := [d.toNat], priv := true, late := true, logged := true, cmp := true
      folds := regFolds s.g [a.toNat, b.toNat] none }
    (fun sp s =>
      let st := fun (s : State) (v : W64) => (s.laterLogged sp [] [(d.toNat, v)], Fate.fall)
      let op := field (s.g.rs b.toNat) 0 3
      let ctx := field (s.g.rs a.toNat) 0 16
      let die := field (s.g.rs a.toNat) 0 2
      if field (s.g.rs b.toNat) 3 61 ≠ 0 || 6 ≤ op then st s 3
      else if op = 3 || op = 4 then
        if !s.partitionAt die then st s 2
        else if (s.partDies s.g).contains die || s.swap.isSome || decide (s.swapped.contains die = decide (op = 3)) then st s 1
        else ((s.pendingResult sp [] [d.toNat]).beginSwap die (decide (op = 3)) s.g.gid s.g.seq, .fall)
      else if (op = 0 || op = 2) && decide (ctx = s.g.ctx) then st s 1
      else if !s.hasCtx ctx then st s 2
      else if op = 5 then st s (s.ctxTeams ctx)
      else if op = 1 then st (s.restart ctx) 0
      else
        let r : Result := ⟨s.g.seq, s.g.icount, sp.slot, [], [(d.toNat, 0)], 0, if op = 0 then .preempt ctx else .ended ctx⟩
        ((({ s with g := { s.g with results := s.g.results ++ [r] } }).preemptCtx ctx (s.partDies s.g)), .fall)) s

/-- Every grid of a context ended with code 0x23 (R76, R338): the accepted ones at once, those still queued as they are accepted. -/
def State.endContext (s : State) (ctx : Nat) : State :=
  let serials := (s.grids.filter (fun x => x.accepted && decide (x.ctx = ctx) && !x.done)).map (fun (x : Grid) => x.serial)
  let s1 := serials.foldl (fun s n => s.endGrid n 0x23) s
  { s1 with grids := s1.grids.map (fun x => if !x.accepted && decide (x.ctx = ctx) then { x with err := some 0x23 } else x) }

/-! ## Resuming (R334 to R336; 10 R274) -/

/-- Whether some group of a team has a recorded wound. -/
def State.wounded (s : State) (tid : Nat) : Bool := s.groups.any (fun g => g.live && decide (g.tid = tid) && !g.wounds.isEmpty)

/-- Whether a pre-empted team may be resumed at all: its context and partition are not held, its groups stand still. -/
def State.resumable (s : State) (t : Team) : Bool :=
  t.away && !t.ended && !(s.ctx t.ctx).away && !s.swapTeams.contains t.tid && !s.swapped.contains (dieOf t.tile) &&
    s.groups.all (fun g => !g.live || decide (g.tid ≠ t.tid) || !g.stop)

/-- The priority at which a team is resumed: wounded first, then its class (R274, R338). -/
def State.resumePrio (s : State) (t : Team) : Nat :=
  (if s.wounded t.tid then 32 else 0) + (match s.groups.find? (fun g => g.live && decide (g.tid = t.tid)) with
    | some g => g.prio.toNat
    | none => 0)

/-- Whether the resumption of a group on a tile waits for lines of its image, those it writes back as it leaves its tile among them (07 R187; R335). -/
def State.resumeHeld (s : State) (gid tile : Nat) : Bool :=
  match s.group gid with
  | none => false
  | some g =>
    let keys := g.olog.flatMap (fun e => e.replyKeys 0xFFFFFFFF)
    if g.tile = tile then s.lateHeld g keys || g.olog.any (fun e => s.entryHeld g e.idx)
    else (g.flushLines 2 ++ dedup (keys.map (fun k => k / 32)) ++ g.olog.map (fun e => logLine e.idx)).any (s.imageLineHeld g)

/-- A group put back on a tile (R335, R336), in its old place or in the layout of R86 from a quadrant on: on another tile its lines are written back and absent there; replies that came meanwhile are
applied in the order of its log, and what a wait had found is found afresh (09 R236). -/
def State.resumeGroup (s : State) (gid tile : Nat) (quad : Option Nat) : State :=
  match s.group gid with
  | none => s
  | some g =>
    let s0 := if g.tile = tile then s else s.flushGroup gid 2
    let place := (quad.bind (fun q => s0.freePlace tile ((q + g.gidx.toNat) % 4))).getD g.place
    let lines := upFrom 0 g.allot ++ upFrom 1024 (64 * g.naccs) ++ g.olog.map (fun (e : OlEntry) => logLine e.idx) ++ [stateLine]
    let s1 := s0.modGroup gid (fun x =>
      { x with
        tile := tile
        place := place
        away := false
        resumed := true
        splits := x.splits.map Split.undecided
        absent := if g.tile = tile then x.absent else lines.filter (fun l => !x.dirty.contains l) })
    match s1.group gid with
    | none => s1
    | some g1 => (State.cacheRoom tile gid 0 false 4096 (State.cacheRoom tile gid 0 true 4096 (g1.olog.foldl (fun s e => s.replyEntry gid e 0xFFFFFFFF) s1)))

/-- Whether a team's groups find their old places on a tile free (R86). -/
def State.placesFree (s : State) (tid tile : Nat) : Bool :=
  s.groups.all (fun g => !g.live || decide (g.tid ≠ tid) ||
    (decide (g.tile = tile) && !(s.tileGroups tile).any (fun x => decide (x.gid ≠ g.gid) && decide (x.place = g.place))))

/-- A team put back on a tile with its groups, in their old places where all are free (R86): on its own with its scratchpad still in the banks, else on a piece of its banks that the
scratchpad is reloaded into before any of its groups issues (R336). -/
def State.resumeTeam (s : State) (tid tile : Nat) : State :=
  match s.team tid with
  | none => s
  | some t =>
    let s0 := if t.saved || decide (t.tile = tile) then s else s.saveScratch tid
    let (base, s1) := if t.saved || decide (t.tile ≠ tile) then s0.takeBanks tile (t.scratch + t.stashBytes) else (t.base, s0)
    let quad := if s1.placesFree tid tile then none else some (s1.freestQuad tile)
    let s2 := (s1.modTeam tid (fun t => { t with tile := tile, base := base, away := false })).loadScratch tid
    let gids := (s2.groups.filter (fun g => g.live && decide (g.tid = tid))).map (fun (g : Group) => g.gid)
    gids.foldl (fun s g => s.resumeGroup g tile quad) s2

/-- Whether a team fits a tile as it is resumed (R86, R336). -/
def State.fitsBack (s : State) (t : Team) (tile : Nat) : Bool :=
  s.usable tile && (match s.grid t.serial with
    | some x => s.fits x.desc tile
    | none => true)

/-- The dies a team's grid runs on. -/
def State.teamDies (s : State) (t : Team) : List Nat :=
  match s.grid t.serial with
  | some x => s.gridDies x
  | none => s.partOf (dieOf t.tile)

/-- Whether a tile keeps a checked team's runs in different cluster pairs (13 R345). -/
def State.apart (s : State) (t : Team) (tile : Nat) : Bool :=
  s.teams.all (fun x => decide (x.tid = t.tid) || decide (pairOf x.tile ≠ pairOf tile) || !(t.followers.contains x.tid || x.followers.contains t.tid ||
    s.teams.any (fun y => y.followers.contains t.tid && y.followers.contains x.tid)))

/-- The teams of a co-resident set of one role with a team, each with its tile of a cluster (R87). -/
def State.setTiles (s : State) (t : Team) (cluster : Nat) : List (Team × Nat) :=
  (s.teams.filter (fun x => decide (x.serial = t.serial) && decide (x.role = t.role) && decide (x.idx / 4 = t.idx / 4) && !x.ended)).map (fun x =>
    (x, 4 * cluster + x.idx % 4))

/-- Whether a co-resident set can be resumed on a cluster: one that takes such sets, with its own scratchpads where they still are, or room on
every tile. -/
def State.setFits (s : State) (t : Team) (cluster : Nat) : Bool :=
  (s.wholeClusters (cluster / 64)).contains (cluster % 64) && (s.setTiles t cluster).all (fun x => !x.1.away || (s.fitsBack x.1 x.2 && (decide (x.1.tile = x.2) || s.apart x.1 x.2)))

/-- Whether a team's scratchpad still stands in the banks of its own tile (R336): unless that has been fenced it is resumed there alone. -/
def State.stands (s : State) (t : Team) : Bool := !t.saved && s.tileOk t.tile

/-- The tile a team is resumed on, a hint given (R336): its own if its scratchpad still stands there, else the one that the distributor prefers of those
that take it (R86; 01 R13); of a co-resident set the cluster its members have gone to or stand in, else such a one of those that take them all (R87). -/
def State.backTile (s : State) (t : Team) (hint : Nat) : Option Nat :=
  let co := match s.grid t.serial with
    | some x => x.desc.flags.getLsbD 0
    | none => false
  if co then
    let set := s.setTiles t 0
    let all := (s.teamDies t).flatMap (fun d => (s.wholeClusters d).map (fun c => d * 64 + c))
    let fit := ((t.tile / 4 :: hint / 4 :: all).filter (fun c => (s.teamDies t).contains (c / 64) && s.setFits t c)).map (fun c => 4 * c)
    (match set.find? (fun (x : Team × Nat) => !x.1.away), set.find? (fun (x : Team × Nat) => s.stands x.1) with
      | some x, _ => some (x.1.tile / 4 * 4)
      | none, some x => if s.setFits t (x.1.tile / 4) then some (x.1.tile / 4 * 4) else none
      | none, none => s.preferred fit).map (fun b => b + t.idx % 4)
  else if s.stands t then (if s.fitsBack t t.tile then some t.tile else none)
  else s.preferred ((t.tile :: hint :: (s.teamDies t).flatMap s.dieTiles).filter (fun n => (s.teamDies t).contains (dieOf n) && s.fitsBack t n &&
    (decide (n = t.tile) || s.apart t n)))

/-- Whether what a team's resumption on a tile reads and writes of its groups' images and of save areas waits (07 R187; R335, R336). -/
def State.backHeld (s : State) (t : Team) (tile : Nat) : Bool :=
  s.areaHeld [tile] || ((t.saved || decide (t.tile ≠ tile)) && s.saveHeld t.tid 0 t.scratch) ||
    s.groups.any (fun g => g.live && decide (g.tid = t.tid) && s.resumeHeld g.gid tile)

/-- Teams resumed one after another, all or none. -/
def State.resumeAll (hint : Nat) : List Nat → State → Option State
  | [], s => some s
  | i :: rest, s =>
    match s.team i with
    | none => none
    | some t =>
      match s.backTile t hint with
      | none => none
      | some dest =>
        let still := s.groups.all (fun g => !g.live || decide (g.tid ≠ i) || (!g.storesBefore g.seq && decide (g.acks = 0)))
        if !s.resumable t || !s.fitsBack t dest || (decide (dest ≠ t.tile) && !still) || s.backHeld t dest then none
        else State.resumeAll hint rest (s.resumeTeam i dest)

/-- GROUP_RESUME (R335, R336): a pre-empted team, with the teams it is resumed together with, goes on, wounded and higher-priority teams
first. -/
def execGroupResume (tid tile : Nat) (s : State) : Out :=
  match s.team tid with
  | none => .next s
  | some t =>
    if !s.resumable t || s.teams.any (fun x => s.resumable x && decide (x.tile = t.tile) && decide (s.resumePrio t < s.resumePrio x)) then .next s
    else .next ((State.resumeAll tile (s.setOf tid) s).getD s)

/-! ## Partition swap (R339) -/

/-- The status register of the PREEMPT that began a swap. -/
def State.swapReg (s : State) (w : Swap) : Nat :=
  match (s.group w.issuer).bind (fun g => g.results.find? (fun r => decide (r.seq = w.seq))) with
  | some r => (match r.sw with
    | x :: _ => x.1
    | [] => 0)
  | none => 0

/-- The physical address of a die's shadow region (15 R396). -/
def State.shadowAt (s : State) (die : Nat) : Nat := s.chip.toNat * 2 ^ 48 + field (s.winGet (dieBlock die + 0x18)) 21 27 * 2 ^ 21

/-- The tile state of a die written to its shadow region in the device's own encoding (R339; 11 R313; 15 R396): 144 tiles of 800 KiB. -/
def State.codeShadow (s : State) (die : Nat) : State :=
  if s.physKind (s.shadowAt die) = .dev die && s.dieReady die then s.homeCode (s.shadowAt die) 117964800 else s

/-- A partition's tile state moved out to the shadow region (R339): TLB and L1 contents are dropped, stash lines written back (07 R190), and the
PREEMPT's status is 0. -/
def State.swapOut (s : State) (w : Swap) : State :=
  let dies := s.partOf w.die
  let mine := fun (tile : Nat) => dies.contains (dieOf tile)
  let s1 := { s with
    swap := none
    swapped := s.swapped ++ dies
    tlb := s.tlb.filter (fun e => if e.l2 then !dies.contains (e.unit / 64) else !mine e.unit)
    l1 := s.l1.filter (fun x => !mine x.tile) }
  (dies.foldl (fun s d => s.codeShadow d) s1.dropStopped).resolve w.issuer w.seq [] [(s1.swapReg w, 0)] 0 true

/-- A partition's tile state moved back into its tiles (R339): the teams that were swapped out go on where they were. -/
def State.swapIn (s : State) (w : Swap) : State :=
  let dies := s.partOf w.die
  let back := (s.teams.filter (fun (t : Team) => s.swapTeams.contains t.tid && dies.contains (dieOf t.tile))).map (fun t => t.tid)
  let s1 := { s with
    swap := none
    swapped := s.swapped.filter (fun d => !dies.contains d)
    swapTeams := s.swapTeams.filter (fun t => !back.contains t) }
  let s2 := back.foldl (fun s t => match s.team t with
    | some x => s.resumeTeam t x.tile
    | none => s) s1
  s2.resolve w.issuer w.seq [] [(s2.swapReg w, 0)] 0 true

/-- Whether a group of a partition that is being swapped out still runs or streams. -/
def State.swapBusy (s : State) (w : Swap) : Bool :=
  s.streaming || s.groups.any (fun g => g.live && (s.partOf w.die).contains (dieOf g.tile) && !g.away)

/-- PARTITION_SWAP_DONE (R339): the tile state of the partition is in the shadow region, or back in its tiles. -/
def execPartitionSwapDone (die : Nat) (s : State) : Out :=
  match s.swap with
  | none => .next s
  | some w =>
    if w.die ≠ die then .next s
    else if w.out then .next (if s.swapBusy w then s else s.swapOut w)
    else .next (s.swapIn w)

/-! ## Results that return (02 R34, R39) -/

/-- The rest of a logged instruction that a trap held back: what the log has of it after the trap's mark (R346, R347). -/
def State.landHeld (s : State) (g : Group) (r : Result) : State :=
  let all : List (Nat × W64) := s.logged g r.cnt
  let first := all.takeWhile (fun (x : Nat × W64) => decide (x.1 ≠ faultKey))
  let rest := (all.drop first.length).filter (fun (x : Nat × W64) => decide (200000 ≤ x.1) || !first.any (fun y => decide (y.1 = x.1)))
  let words := rest.filter (fun (x : Nat × W64) => decide (300000 ≤ x.1) && decide (x.1 < landKey))
  let s0 := s.modGroup g.gid (fun (g : Group) => rest.foldl (fun (g : Group) (x : Nat × W64) =>
    if x.1 < 100000 then g.wv (x.1 / 32) (x.1 % 32) (x.2.extractLsb' 0 32)
    else if x.1 < 200000 then g.ws (x.1 - 100000) x.2
    else g) g)
  let s1 := s0.modTeam g.tid (fun (t : Team) =>
    { t with scr := words.foldl (fun m (x : Nat × W64) => memSet m (x.1 - 300000) (x.2.extractLsb' 0 8)) t.scr })
  let last := (all.drop first.length)
  let s2 := s1.addFolds g r.seq false (foldList
    ((last.filter (fun (x : Nat × W64) => decide (x.1 < 100000))).map (fun (x : Nat × W64) => (x.1, x.2.extractLsb' 0 32)))
    ((last.filter (fun (x : Nat × W64) => decide (100000 ≤ x.1) && decide (x.1 < 200000))).map (fun (x : Nat × W64) => (x.1 - 100000, x.2))))
  s2.modGroup g.gid (fun g => { g with results := g.results.filter (fun x => decide (x.seq ≠ r.seq)) })

/-- The register lanes (register × 32 + lane) that some lanes of a result write. -/
def Result.keys (r : Result) (lanes : W32) : List Nat := (r.vw.map (fun w => w.1)).filter (fun k => lanes.getLsbD (k % 32))

/-- The values of an outstanding result land in a group's registers, whose lines stand in the tile or in the image (R331). -/
def State.land (s : State) (g : Group) (r : Result) (lanes : W32) : State :=
  (s.modGroup g.gid (fun g => g.landResult r lanes)).writeLate g.gid (r.keys lanes)

/-- A result whose time has come returned (R34, R39): a QPOST is performed when its release is complete (03 R82), the lines of a CTX.FL are
written (R337) and the grids of a PREEMPT end (R338); an ended acquire at cluster scope or wider leaves the tile no older L1 copy (09 R255), and
ACQ.REM empties the victim's L1 (09 R247). -/
def State.returnResult (s : State) (g : Group) (r : Result) (lanes : W32) : State :=
  match r.await with
  | .post d q bs =>
    let (st, s1) := s.performPost g q bs
    (s1.resolve g.gid r.seq [] [(d, BitVec.ofNat 64 st)] 0 true).land g { r with sw := [(d, BitVec.ofNat 64 st)] } lanes
  | .flush what =>
    let s1 := s.flushGroup g.gid what
    (match s1.group g.gid with
    | some g1 => if g1.halted then s1 else s1.land g r lanes
    | none => s1)
  | .log _ => s.landHeld g r
  | .stashWb lo hi => (s.stashBack g.tid lo hi).land g r lanes
  | .lines kind l => (s.cinvLines kind g.tile l).land g r lanes
  | .preempt _ => (s.resolve g.gid r.seq [] r.sw 0 true).land g r lanes
  | .ended c => ((s.endContext c).resolve g.gid r.seq [] r.sw 0 true).land g r lanes
  | _ =>
    let s0 := match r.await with
      | .fence _ => s.logVals g r.cnt [(doneKey, 0)]
      | _ => s
    let s1 := s0.land g r lanes
    let wide := g.fences.any (fun f => decide (f.1 = r.seq) && decide (1 ≤ f.2.1) && decide (f.2.2 ≠ 1))
    let s2 := if wide then s1.l1Flush g.tile else s1
    (match r.await with
    | .victim t => s2.l1Flush t
    | _ => s2)

/-- RESULT_RETURN (R34, R39): a result that waits for nothing more returns to a group that is present and whose tile's clock runs (14 R378). -/
def execResultReturn (gid seq : Nat) (lanes : BitVec 32) (s : State) : Out :=
  match s.group gid with
  | none => .next s
  | some g =>
    match g.results.find? (fun r => decide (r.seq = seq)) with
    | none => .next s
    | some r =>
      .next (if g.away || (s.tile g.tile).trans.isSome || !s.awaited g r || s.lateHeld g (r.keys lanes) then s
        else s.returnResult g r lanes)

end Sys2Proof.Machine
end

