-- ==== Sys2Proof/Machine/Engines.lean ====
section
/-! DEFINITION. The engine commands and the engines' steps (11 R291 to R312). -/

namespace Sys2Proof.Machine

/-! ## Issue (R293 to R298, R301) -/

/-- A word of a command's operand block. -/
def Cmd.word (c : Cmd) (i : Nat) : W64 := c.blk.getD i 0

/-- Whether two ranges meet. -/
def meets (a n b m : Nat) : Bool := decide (a < b + m) && decide (b < a + n)

/-- STRIDE of a tile command. -/
def Cmd.stride (c : Cmd) : Int := (c.word 1).toInt
/-- ROWS of a tile command. -/
def Cmd.rows (c : Cmd) : Nat := field (c.word 2) 0 32
/-- RB of a tile command. -/
def Cmd.rb (c : Cmd) : Nat := field (c.word 2) 32 32
/-- SOFF of a tile command. -/
def Cmd.soff (c : Cmd) : Nat := field (c.word 3) 0 32
/-- PITCH of a tile command. -/
def Cmd.pitch (c : Cmd) : Nat := field (c.word 3) 32 32

/-- Whether a tile command moves anything (R298). -/
def Cmd.moves (c : Cmd) : Bool := decide (c.rows ≠ 0) && decide (c.rb ≠ 0)

/-- The first misaligned value of a command: its address or offset, or none where the value is no address (R297 row 1; log entry 40). -/
def Cmd.misaligned (c : Cmd) (list : Option W64) : Option (Option W64) :=
  let bad := fun (x : W64) (n : Nat) => decide (x.toNat % n ≠ 0)
  if c.kind = 4 then (if bad (c.word 0) 64 then some (some (c.word 0)) else none)
  else if c.kind = 3 then
    if bad (c.word 0) 4 then some (some (c.word 0))
    else if c.op = 0 && bad (c.word 1) 4 then some (some (c.word 1))
    else if bad (c.word 2) 4 then some none
    else none
  else if bad (c.word 0) 4 then some (some (c.word 0))
  else if bad (c.word 1) 4 || decide (c.rb % 4 ≠ 0) then some none
  else if c.soff % 4 ≠ 0 then some (some (BitVec.ofNat 64 c.soff))
  else if c.pitch % 4 ≠ 0 then some none
  else match list with
    | some l => if field l 0 32 % 4 ≠ 0 then some (some (BitVec.ofNat 64 (field l 0 32))) else none
    | none => none

/-- The size and alignment of a completion object (R228). -/
def Cmd.objSize (c : Cmd) : Nat := if c.comp = 2 then 32 else 16

/-- A completion object's offset as its space takes it (09 R227). -/
def Cmd.objAddr (c : Cmd) (space : Nat) : W64 := modeAddr space c.compAddr

/-- The scratchpad offset of a range of a command that reaches beyond the team's bytes (R297 row 3). -/
def Cmd.beyond (c : Cmd) (g : Group) (space : Nat) (list : Option W64) : Option W64 :=
  let tile := decide (c.kind ≤ 2) && c.moves
  if tile && decide (g.scratch < c.soff + (c.rows - 1) * c.pitch + c.rb) then some (BitVec.ofNat 64 c.soff)
  else
    match (match list with
      | some l => if tile && decide (g.scratch < field l 0 32 + 4 * c.rows) then some (BitVec.ofNat 64 (field l 0 32)) else none
      | none => none) with
    | some a => some a
    | none =>
      let o := (c.objAddr space).toNat
      if c.comp ≠ 0 && ((decide (space = 1) && decide (g.scratch < o + c.objSize)) ||
          (decide (space = 2) && decide (g.scratch < o % 2 ^ 18 + c.objSize))) then some (c.objAddr space)
      else none

/-- The geometry errors of R298 and R301. -/
def Cmd.badGeometry (c : Cmd) (list : Option W64) : Bool :=
  let highBits := fun (w : W64) => decide (2 ^ 57 ≤ w.toNat)
  if c.kind = 4 then false
  else if c.kind = 3 then
    let n := (c.word 2).toNat
    decide (2 ^ 40 < n) || highBits (c.word 0) ||
      (decide (c.op = 0) && (highBits (c.word 1) || (decide (n ≠ 0) && meets (c.word 0).toNat n (c.word 1).toNat n)))
  else
    highBits (c.word 0) || decide (1048576 < c.rows) || decide (262144 < c.rb) || (decide (1 < c.rows) && decide (c.pitch < c.rb)) ||
      (decide (c.kind = 1) && decide (1 < c.rows) && decide (c.stride.natAbs < c.rb)) ||
      (match list with
      | some l => decide (field l 32 32 ≠ 0)
      | none => false)

/-- Whether the space and scope of a completion object are allowed (09 R227). -/
def objScopeOk (space scope : Nat) (coRes : Bool) : Bool :=
  if space = 0 then true else if space = 1 then decide (scope = 0) else decide (scope = 1) && coRes

/-- The trap of R297, in its order; a value that is no address leaves TADDR a free value. -/
def Cmd.check (c : Cmd) (g : Group) (space : Nat) (list : Option W64) (s : State) : Option (BitVec 8 × W64) :=
  let o := c.objAddr space
  match c.misaligned list with
  | some (some a) => some (0x04, a)
  | some none => some (0x04, Config.freeValue s.free)
  | none =>
    if c.comp ≠ 0 && decide (o.toNat % c.objSize ≠ 0) then some (0x04, o)
    else if c.comp ≠ 0 && !objScopeOk space c.scope g.coRes then some (0x05, o)
    else match c.beyond g space list with
      | some a => some (0x07, a)
      | none => if c.badGeometry list then some (0x14, BitVec.ofNat 64 (0x50 + c.kind * 256)) else none

/-- A byte of the issuing team's scratchpad as a load at this place in program order sees it; none inside where an atomic is still to be
performed there, or an earlier store's address is not known yet. -/
def State.scrSeen (s : State) (off : Nat) : Option Byte :=
  if s.g.olog.any (fun e => e.stores && decide (e.space ≠ .glob) && e.lanes.any (fun l => l.st.isPending)) then none
  else match s.g.forward s.g.seq (.scr s.g.tid off) false off with
  | some (some b) => some b
  | some none => none
  | none => some (match s.team s.g.tid with
    | some t => memGet t.scr off
    | none => 0)

/-- The index list of CP.GATH; none while an atomic on it is still to be performed. -/
def State.readList (s : State) (c : Cmd) (list : Option W64) : Option (List W32) :=
  match list with
  | none => some []
  | some l =>
    if !c.moves then some []
    else
      let bs := (upFrom (field l 0 32) (4 * c.rows)).map s.scrSeen
      if bs.any (fun b => b.isNone) then none
      else some ((upFrom 0 c.rows).map (fun r => BitVec.ofNat 32 (bytesVal ((bs.drop (4 * r)).take 4 |>.map (fun b => b.getD 0)))))

/-- Whether every source byte of a CP.OUT of a checked team can be read: it is folded as the command is accepted (R312). -/
def State.outReady (s : State) (c : Cmd) : Bool :=
  decide (c.kind ≠ 1) || !c.moves || (upFrom 0 c.rows).all (fun (r : Nat) => (upFrom (c.soff + r * c.pitch) c.rb).all (fun a => (s.scrSeen a).isSome))

/-- The row of a CP.GATH whose index is the first to be read poisoned. -/
def State.badIndex (s : State) (c : Cmd) (list : Option W64) : Option Nat :=
  match list with
  | none => none
  | some l => if !c.moves then none else (upFrom 0 c.rows).find? (fun r => !s.placeClean (.scr c.tid (field l 0 32 + 4 * r)) 4)

/-- The source words of CP.OUT as stores at their global addresses (R312). -/
def State.outFolds (s : State) (c : Cmd) : List (W32 × W32) :=
  if c.kind ≠ 1 || !c.moves then []
  else (upFrom 0 c.rows).flatMap (fun (r : Nat) => (upFrom 0 (c.rb / 4)).map (fun (k : Nat) =>
    (BitVec.ofInt 32 (((c.word 0).toNat : Int) + (r : Int) * c.stride + (4 * k : Nat)),
      BitVec.ofNat 32 (bytesVal ((upFrom (c.soff + r * c.pitch + 4 * k) 4).map (fun a => (s.scrSeen a).getD 0))))))

/-- The completion object's place where it lies in a scratchpad. -/
def State.objPlace (s : State) (g : Group) (space : Nat) (a : W64) : Option Place :=
  if space = 0 then none
  else if space = 1 then some (.scr g.tid a.toNat)
  else some (.scr ((s.cluTeam g (a.toNat / 2 ^ 18)).getD 0) (a.toNat % 2 ^ 18))

/-- The destination VA ranges of a tile command or CP.BULK, in the order in which it writes them. -/
def Cmd.ranges (c : Cmd) : List (Nat × Nat) :=
  if c.kind = 3 then [((c.word 0).toNat, (c.word 2).toNat)]
  else if c.kind = 1 then (upFrom 0 c.rows).map (fun (r : Nat) => ((((c.word 0).toNat : Int) + (r : Int) * c.stride).toNat, c.rb))
  else []

/-- A command as its instruction captures it (R295). -/
def State.capture (s : State) (kind op : Nat) (regs : List Nat) (b : BitVec 6) (comp space sc : BitVec 2) (imm : BitVec 16) : Cmd where
  id := s.nextId
  gid := s.g.gid
  tid := s.g.tid
  ctx := s.g.ctx
  tile := s.g.tile
  priv := s.privileged s.g
  seq := s.g.seq
  cnt := s.g.icount
  batch := s.g.batchSeq
  kind := kind
  op := op
  blk := regs.map s.g.rs
  idxList := []
  comp := comp.toNat
  compPlace := s.objPlace s.g space.toNat (modeAddr space.toNat (s.g.rs b.toNat))
  compAddr := s.g.rs b.toNat
  scope := sc.toNat
  imm := imm.toNat
  tag := s.g.phase
  dt := s.dt
  dest := []
  nth := 0
  started := false
  pos := 0
  landed := 0
  subtracted := 0
  mirrored := 0
  logged := 0
  seen := []
  ahead := []
  asked := 0
  peers := []
  shard := []
  error := none
  done := false

/-- TCE entries in use on a tile (R291). -/
def State.tceUsed (s : State) (tile : Nat) : Nat := (s.cmds.filter (fun c => decide (c.tile = tile) && !c.done)).length

/-- The first error of a group's commands recorded (R307, R314). -/
def State.engineError (s : State) (c : Cmd) (code : BitVec 7) (addr : W64) : State :=
  s.modGroup c.gid (fun g =>
    if g.engErr.getLsbD 7 then g
    else { g with
      engErr := BitVec.ofNat 64 (code.toNat + 128 + c.kind * 256 + c.batch.toNat % 2 ^ 32 * 2 ^ 32)
      engAddr := addr
      engDt := s.dt })

/-- Element bytes of a COLL type. -/
def collSize (t : Nat) : Nat := match t with | 0 => 4 | 1 => 2 | 2 => 2 | 3 => 8 | 4 => 4 | 5 => 4 | _ => 8

/-- A COLL as its descriptor gives it, with its peer group (R302, R304). -/
structure Coll where
  send : Nat
  recv : Nat
  n : Nat
  typ : Nat
  red : Nat
  root : Nat
  mirror : Option Nat
  buddy : Nat
  rank : Nat
  members : List Nat
  deriving DecidableEq, Repr

/-- Elements that a rank sends and receives (R303). -/
def Coll.counts (x : Coll) (op : Nat) : Nat × Nat :=
  let p := x.members.length
  match op with
  | 0 => (x.n, x.n)
  | 1 => (x.n, x.n / p)
  | 2 => (x.n / p, x.n)
  | _ => (if x.rank = x.root then x.n else 0, x.n)

/-- The descriptor read and checked (R302, R304): the COLL, or its error code; a member list without this chip is found before another field that breaks the
table (log entry 118). -/
def State.parseColl (s : State) (op : Nat) (d : List Byte) : Except (BitVec 7) Coll :=
  let w := fun (o n : Nat) => bytesAt d o n
  let entry := field s.pgtab 12 36 * 4096 + 16 * w 0x18 2
  let e := (upFrom entry 16).map (fun a => memGet s.mem a)
  let p := bytesAt e 0 2
  let list := bytesAt e 8 8
  let members := (upFrom 0 p).map (fun k => bytesVal ((upFrom (list + 2 * k) 2).map (fun a => memGet s.mem a)))
  let z := collSize (w 0x1A 1)
  let mirror := decide (w 0x1D 1 = 1)
  let per := if op = 1 || op = 2 then decide (w 0x10 8 % p = 0) else true
  let x : Coll :=
    { send := w 0 8, recv := w 8 8, n := w 0x10 8, typ := w 0x1A 1, red := w 0x1B 1, root := w 0x1C 1,
      mirror := if mirror then some (w 0x20 8) else none, buddy := bytesAt e 2 2 % 4096,
      rank := members.findIdx (fun (m : Nat) => decide (m % 4096 = s.chip.toNat)), members := members }
  if 255 < w 0x18 2 || decide (p = 0) || decide (4096 < p) then .error 0x47
  else if !members.any (fun m => decide (m % 4096 = s.chip.toNat)) then .error 0x4C
  else if 7 < w 0x1A 1 || decide (2 < w 0x1B 1) || (decide (2 ≤ op) && decide (w 0x1B 1 ≠ 0)) || decide (2 ^ 40 < w 0x10 8) || !per ||
      decide (w 0 8 % z ≠ 0) || decide (w 8 8 % z ≠ 0) ||
      (if op = 3 then decide (p ≤ w 0x1C 1) else decide (w 0x1C 1 ≠ 0)) || decide (1 < w 0x1D 1) ||
      (mirror && !(decide (op = 1) || decide (op = 2))) || (!mirror && decide (w 0x20 8 ≠ 0)) || decide (w 0x1E 2 ≠ 0) ||
      decide (bytesAt d 0x28 24 ≠ 0) then .error 0x47
  else
    let (a, b) := x.counts op
    if x.send ≠ x.recv && meets x.send (a * z) x.recv (b * z) && decide (a ≠ 0) && decide (b ≠ 0) then .error 0x47
    else .ok x

/-- The COLL of an accepted command. -/
def State.collOf (s : State) (c : Cmd) : Option Coll :=
  match s.parseColl c.op ((c.blk.drop 1).flatMap (fun w => leBytes 8 w.toNat)) with
  | .ok x => some x
  | .error _ => none

/-- A byte of the descriptor that a COLL has read. -/
def Cmd.descField (c : Cmd) (o n : Nat) : Nat := bytesAt ((c.blk.drop 1).flatMap (fun w => leBytes 8 w.toNat)) o n

/-- The number a COLL has among those its context has issued on its peer group from this chip (R303), counted as it is accepted. -/
def State.numberColl (s : State) (c : Cmd) : Nat × State :=
  let k := c.descField 0x18 2
  let n := mapGet (fun _ => 0) (s.ctx c.ctx).colls k
  (n, s.modCtx c.ctx (fun x => { x with colls := mapSet (fun _ => 0) x.colls k (n + 1) }))

/-- A COLL accepted: its descriptor read; one that cannot be read or is invalid ends at once with its code (R302, R304). -/
def State.acceptColl (s : State) (c : Cmd) : State × Cmd :=
  match s.readOwn (s.req s.g) (c.word 0).toNat with
  | (.error _, s1) => (s1.engineError c 0x46 (c.word 0), { c with error := some 0x46 })
  | (.ok d, s1) =>
    let c1 := { c with blk := c.word 0 :: (upFrom 0 8).map (fun i => BitVec.ofNat 64 (bytesAt d (8 * i) 8)) }
    let (n, s2) := s1.numberColl c1
    match s2.parseColl c.op d with
    | .error code => (s2.engineError c code (c.word 0), { c1 with error := some code, nth := n })
    | .ok x => (s2, { c1 with nth := n, dest := [(x.recv, (x.counts c.op).2 * collSize x.typ)] })

/-- A command by its number. -/
def State.cmd (s : State) (id : Nat) : Option Cmd := s.cmds.find? (fun c => decide (c.id = id) && !c.done)

/-- A command changed. -/
def State.modCmd (s : State) (id : Nat) (f : Cmd → Cmd) : State := { s with cmds := s.cmds.map (fun c => if c.id = id then f c else c) }

/-- A command that stops on an error: recorded in its group, its ownership given up. -/
def State.failCmd (s : State) (c : Cmd) (code : BitVec 7) (addr : W64) : State :=
  let s1 := (s.engineError c code addr).modCmd c.id (fun c => { c with error := some code })
  { s1 with owners := s1.owners.filter (fun o => decide (o.id ≠ c.id)) }

/-- Bytes a rank's contribution to this device has (R303). -/
def Coll.share (x : Coll) (op rank : Nat) : Nat :=
  let z := collSize x.typ
  match op with
  | 0 => x.n * z
  | 1 => x.n / x.members.length * z
  | 2 => x.n / x.members.length * z
  | _ => if rank = x.root then x.n * z else 0

/-- A member's part of a COLL taken in by the command it is matched with (R303, R307): parameters that differ, or an error it reports, end it. -/
def State.takePeer (s : State) (c : Cmd) (m : PeerMsg) : State :=
  match s.collOf c with
  | none => s
  | some x =>
    if decide (m.op ≠ c.op) || decide (m.n ≠ x.n) || decide (m.typ ≠ x.typ) || decide (m.red ≠ x.red) || decide (m.root ≠ x.root) then
      s.failCmd c 0x4A (c.word 0)
    else if m.code = 0x48 || m.code = 0x49 || m.code = 0x4A then s.failCmd c m.code (c.word 0)
    else if decide (m.rank < x.members.length) && decide (m.rank ≠ x.rank) && !c.peers.any (fun p => decide (p.1 = m.rank)) &&
        decide (m.data.length = x.share c.op m.rank) then
      s.modCmd c.id (fun c => { c with peers := c.peers ++ [(m.rank, m.data)] })
    else s

/-- Whether a member's part belongs to a COLL: the same context, peer group and number (R303). -/
def Cmd.matchedBy (c : Cmd) (m : PeerMsg) : Bool :=
  decide (c.kind = 4) && decide (c.ctx = m.ctx) && decide (c.descField 0x18 2 = m.group) && decide (c.nth = m.nth) && decide (c.blk.length = 9)

/-- The members' parts that have come taken in by the commands they are matched with; those of a COLL not issued yet wait for it. -/
def State.matchPeers (s : State) : State :=
  let issued := fun (m : PeerMsg) => decide (m.nth < mapGet (fun _ => 0) (s.ctx m.ctx).colls m.group)
  (s.peerMsgs.filter issued).foldl (fun s m =>
    match s.cmds.find? (fun c => !c.done && c.error.isNone && c.matchedBy m) with
    | some c => s.takePeer c m
    | none => s) { s with peerMsgs := s.peerMsgs.filter (fun m => !issued m) }

/-- Commands of a kind on a die that occupy an entry of its engines, from acceptance on (R291). -/
def State.dieUsed (s : State) (die kind : Nat) : Nat :=
  (s.cmds.filter (fun c => !c.done && decide (c.kind = kind) && decide (dieOf c.tile = die))).length

/-- Whether the engines of a command's die have an entry for it: 16 in each of 8 DCEs, 32 for COLL (R291); where they have none the command waits at issue as for
a TCE entry (log entry 116). -/
def State.engineRoom (s : State) (kind tile : Nat) : Bool :=
  if kind = 3 then decide (s.dieUsed (dieOf tile) 3 < 128) else if kind = 4 then decide (s.dieUsed (dieOf tile) 4 < 32) else true

/-- Whether a command waits for an entry of an engine. -/
def State.engineFull (s : State) (kind tile : Nat) : Bool := decide (8 ≤ s.tceUsed tile) || !s.engineRoom kind tile

/-- Whether some command that occupies the entries a command waits for is not held itself by a store of the issuing group (R295, R296). -/
def State.engineMoves (s : State) (kind tile : Nat) : Bool :=
  s.engineFull kind tile && s.cmds.any (fun c => !c.done && (decide (c.gid ≠ s.g.gid) || c.started) &&
    (if 8 ≤ s.tceUsed tile then decide (c.tile = tile) else decide (c.kind = kind) && decide (dieOf c.tile = dieOf tile)))

/-- Poison left by a command in a sector of its team's scratchpad, and logged (R307, R312). -/
def State.poisonScr (s : State) (c : Cmd) (sector : Nat) : State :=
  let s1 := if (s.team c.tid).any (fun t => t.saved) then s.savePoison c.tid sector
    else s.modTeam c.tid (fun t => { t with scrPoison := insNat sector t.scrPoison })
  match s1.anyGroup c.gid with
  | some g => s1.logVals g c.cnt [(landKey + 32 * sector, BitVec.ofNat 64 (2 ^ 32))]
  | none => s1

/-- Poison left at the first destination sector of a row of a CP.GATH whose index is poisoned, and the command ended (R307). -/
def State.refuseList (s : State) (c : Cmd) (list : Option W64) (r : Nat) : State × Cmd :=
  ((s.poisonScr c ((c.soff + r * c.pitch) / 32)).engineError c 0x42 (BitVec.ofNat 64 (match list with | some l => field l 0 32 + 4 * r | none => 0)),
    { c with error := some 0x42 })

/-- An engine command (R295 to R297); what it reads at its acceptance waits at issue for the accesses before it (log entry 127).  A follower has it
performed by its leader alone, but lands what it brings from the log (R312). -/
def engineCmd (i : Instr) (h : Hdr) (kind op : Nat) (d : BitVec 6) (regs : List Nat) (b : BitVec 6) (list : Option (BitVec 6))
    (comp space sc : BitVec 2) (imm : BitVec 16) (s : State) : Out :=
  let reads := regs ++ (if comp = 0 then [] else [b.toNat]) ++ (match list with | some l => [l.toNat] | none => [])
  let c := s.capture kind op regs b comp space sc imm
  let lw := list.map (fun l => s.g.rs l.toNat)
  issueUni i h
    { sr := reads, sw := [d.toNat], cmp := true
      waits := decide (s.g.role ≠ .plain) && s.g.guardTrue h.g && (c.check s.g space.toNat lw s).isNone && !s.outReady c
      queued := s.engineMoves kind s.g.tile
      room := if (kind = 0 || kind = 2) && (c.check s.g space.toNat lw s).isNone then Cmd.room (c.rows * c.rb) c.rows else 0
      folds := if s.g.role = .plain then [] else s.outFolds c ++ regFolds s.g reads (if comp = 1 then some imm else none) }
    (fun sp s =>
      let c := s.capture kind op regs b comp space sc imm
      let lw := list.map (fun l => s.g.rs l.toNat)
      match c.check s.g space.toNat lw s with
      | some (cause, a) => ({ s with free := s.free + 1 }, ownTrap s sp cause (pcAdd sp.pc (instrBytes i)) a)
      | none =>
        if s.engineFull kind s.g.tile then (s, .wait)
        else
          match s.readList c lw with
          | none => (s, .wait)
          | some idx =>
            let take := fun (s : State) (c : Cmd) =>
              ({ s with g := s.g.ws d.toNat s.g.batchSeq, cmds := s.cmds ++ [c], nextId := s.nextId + 1 }, Fate.fall)
            if s.mute || s.doneBefore then
              if s.mute && (kind = 0 || kind = 2) then take s { c with idxList := idx, done := true }
              else ({ s with g := s.g.ws d.toNat s.g.batchSeq }, .fall)
            else if kind = 4 then
              if s.ownHeld (s.req s.g) (c.word 0).toNat then (s, .wait) else
              let (s1, c1) := s.acceptColl c
              let r := take s1 c1
              (r.1.matchPeers, r.2)
            else match s.badIndex c lw with
              | some r =>
                let (s1, c1) := s.refuseList c lw r
                take s1 c1
              | none => take s { c with idxList := idx, dest := c.ranges }) s

/-- The registers of a block. -/
def blockRegs (a : BitVec 6) (n : Nat) : List Nat := upFrom a.toNat n

/-- CP.IN (R298, R299). -/
def execCpIn (h : Hdr) (d a b : BitVec 6) (comp sp sc : BitVec 2) (imm : BitVec 16) (s : State) : Out :=
  engineCmd (.cpIn h d a b comp sp sc imm) h 0 0 d (blockRegs a 4) b none comp sp sc imm s
/-- CP.OUT (R298, R299). -/
def execCpOut (h : Hdr) (d a b : BitVec 6) (comp sp sc : BitVec 2) (imm : BitVec 16) (s : State) : Out :=
  engineCmd (.cpOut h d a b comp sp sc imm) h 1 0 d (blockRegs a 4) b none comp sp sc imm s
/-- CP.GATH (R298, R299). -/
def execCpGath (h : Hdr) (d a b c : BitVec 6) (comp sp sc : BitVec 2) (imm : BitVec 16) (s : State) : Out :=
  engineCmd (.cpGath h d a b c comp sp sc imm) h 2 0 d (blockRegs a 4) b (some c) comp sp sc imm s
/-- CP.BULK (R301). -/
def execCpBulk (h : Hdr) (d a b : BitVec 6) (comp sp sc : BitVec 2) (imm : BitVec 16) (s : State) : Out :=
  engineCmd (.cpBulk h d a b comp sp sc imm) h 3 0 d (blockRegs a 3) b none comp sp sc imm s
/-- CP.BULK.FILL (R301). -/
def execCpBulkFill (h : Hdr) (d a b : BitVec 6) (comp sp sc : BitVec 2) (imm : BitVec 16) (s : State) : Out :=
  engineCmd (.cpBulkFill h d a b comp sp sc imm) h 3 1 d (blockRegs a 3) b none comp sp sc imm s
/-- COLL.ALLRED (R302, R303). -/
def execCollAllred (h : Hdr) (d a b : BitVec 6) (comp sp sc : BitVec 2) (imm : BitVec 16) (s : State) : Out :=
  engineCmd (.collAllred h d a b comp sp sc imm) h 4 0 d [a.toNat] b none comp sp sc imm s
/-- COLL.REDSCAT (R302, R303). -/
def execCollRedscat (h : Hdr) (d a b : BitVec 6) (comp sp sc : BitVec 2) (imm : BitVec 16) (s : State) : Out :=
  engineCmd (.collRedscat h d a b comp sp sc imm) h 4 1 d [a.toNat] b none comp sp sc imm s
/-- COLL.ALLGATH (R302, R303). -/
def execCollAllgath (h : Hdr) (d a b : BitVec 6) (comp sp sc : BitVec 2) (imm : BitVec 16) (s : State) : Out :=
  engineCmd (.collAllgath h d a b comp sp sc imm) h 4 2 d [a.toNat] b none comp sp sc imm s
/-- COLL.BCAST (R302, R303). -/
def execCollBcast (h : Hdr) (d a b : BitVec 6) (comp sp sc : BitVec 2) (imm : BitVec 16) (s : State) : Out :=
  engineCmd (.collBcast h d a b comp sp sc imm) h 4 3 d [a.toNat] b none comp sp sc imm s

/-- Bytes in the landing buffer of a tile's cluster (R310). -/
def State.landingBytes (s : State) (tile : Nat) : Nat :=
  ((s.tiles.filter (fun t => decide (clusterOf t.id = clusterOf tile))).flatMap (fun (t : Tile) => t.landing.map (fun (x : Landed) => x.segs.foldl (fun n y => n + y.2.length) 0))).foldl
    (· + ·) 0

/-- CP.STAT (R309). -/
def execCpStat (h : Hdr) (d : BitVec 6) (which : BitVec 2) (s : State) : Out :=
  issueUni (.cpStat h d which) h { sw := [d.toNat], logged := true }
    (fun _ s =>
      let n := fun (p : Cmd → Bool) => (s.cmds.filter (fun c => !c.done && p c)).length
      let here := fun (c : Cmd) => decide (dieOf c.tile = dieOf s.g.tile)
      let v : Nat := match which.toNat with
        | 0 => n (fun c => decide (c.gid = s.g.gid)) % 65536 + field s.g.engErr 7 1 * 2 ^ 16 + field s.g.engErr 0 7 * 2 ^ 24 +
            field s.g.engErr 32 32 * 2 ^ 32
        | 1 => s.tceUsed s.g.tile + bitOf (!(s.tile s.g.tile).landing.isEmpty) * 16 + s.landingBytes s.g.tile * 2 ^ 16
        | _ => n (fun c => decide (c.kind = 3) && here c) % 65536 + n (fun c => decide (c.kind = 4) && here c) % 65536 * 65536
      ({ s with g := s.g.ws d.toNat (BitVec.ofNat 64 v) }, .fall)) s

/-! ## Start (R292, R296) -/

/-- The bytes a command writes to its destination (R306); of a COLL refused at acceptance, those its descriptor asks for (log entry 93). -/
def State.cmdTotal (s : State) (c : Cmd) : Nat :=
  if c.kind = 4 then
    (if c.blk.length = 9 then
      let p := bytesVal ((upFrom (field s.pgtab 12 36 * 4096 + 16 * c.descField 0x18 2) 2).map (fun a => memGet s.mem a))
      (if c.op = 1 then c.descField 0x10 8 / p else c.descField 0x10 8) * collSize (c.descField 0x1A 1)
    else 0)
  else if c.kind = 3 then (c.word 2).toNat
  else c.rows * c.rb

/-- A posted range put after the others, joined to the command's last one where it goes on from it (R292). -/
def State.postOne (s : State) (id pa n : Nat) : State :=
  match s.owners.getLast? with
  | some o => if o.id = id && decide (o.pa + o.len = pa) then { s with owners := s.owners.dropLast ++ [{ o with len := o.len + n }] }
    else { s with owners := s.owners ++ [(⟨id, pa, n⟩ : Owner)] }
  | none => { s with owners := s.owners ++ [(⟨id, pa, n⟩ : Owner)] }

/-- The owned ranges of a VA range, page by page; a page that does not translate for writing is not posted. -/
def State.postRange (q : Req) (id : Nat) : Nat → State → Nat → Nat → State
  | 0, s, _, _ => s
  | fuel + 1, s, va, stop =>
    if stop ≤ va then s
    else
      let page := min stop (va / 4096 * 4096 + 4096)
      match s.translate q va .write with
      | (.ok e, s1) => State.postRange q id fuel (s1.postOne id (e.at va) (page - va)) page stop
      | (.error _, s1) => State.postRange q id fuel s1 page stop

/-- The destination ranges of a command posted at the home slices (R292). -/
def State.postAll (s : State) (c : Cmd) : State :=
  c.dest.foldl (fun s r => State.postRange ⟨c.ctx, c.tile, c.priv⟩ c.id (r.2 / 4096 + 2) s r.1 (min (2 ^ 57) (r.1 + r.2))) s

/-- The ranges posted at the slices of a die. -/
def State.posted (s : State) (die : Nat) : Nat := (s.owners.filter (fun o => decide (localOf o.pa / Config.dieBytes = die))).length

/-- Whether the ranges a command posts fit beside those of the others: 4,096 on each die (R292); a command that finds none posted has room
(log entry 92). -/
def State.postFits (s s1 : State) : Bool := (upFrom 0 4).all (fun d => decide (s1.posted d ≤ 4096) || decide (s.posted d = 0))

/-- The lines a command has come to own taken from every other holder: stash lines are written back and dropped, L1 copies invalidated (R187,
R190, R292). -/
def State.takeLines (s : State) (id : Nat) : State :=
  let mine := fun (line : Nat) => s.owners.any (fun o => decide (o.id = id) && decide (o.pa / 128 ≤ line) && decide (line ≤ (o.pa + o.len - 1) / 128))
  let s1 := s.recallStash (fun _ l => mine l.pa)
  { s1 with l1 := s1.l1.filter (fun (x : L1Sector) => !mine (x.sector / 4)) }

/-- Whether two destination ranges share a line. -/
def lineMeets (a b : Nat × Nat) : Bool :=
  decide (a.2 ≠ 0) && decide (b.2 ≠ 0) && decide (a.1 / 128 ≤ (b.1 + b.2 - 1) / 128) && decide (b.1 / 128 ≤ (a.1 + a.2 - 1) / 128)

/-- The physical ranges that a command would post now. -/
def State.destRanges (s : State) (c : Cmd) : List (Nat × Nat) :=
  ((s.postAll c).owners.filter (fun o => decide (o.id = c.id))).map (fun o => (o.pa, o.len))

/-- Whether an earlier-accepted command that has not started names a destination line of a command: it writes first (R292). -/
def State.behind (s : State) (c : Cmd) : Bool :=
  s.cmds.any (fun x => decide (x.id < c.id) && !x.done && !x.started && x.error.isNone && !x.dest.isEmpty && !c.dest.isEmpty &&
    (s.destRanges x).any (fun a => (s.destRanges c).any (fun b => lineMeets a b)))

/-- Whether a command's partition is swapped out, or being swapped: its engines do nothing (R311). -/
def State.cmdSwapped (s : State) (c : Cmd) : Bool :=
  s.swapped.contains (dieOf c.tile) || (match s.swap with
    | some w => (s.partOf w.die).contains (dieOf c.tile)
    | none => false)

/-- Whether a command is bound for a scratchpad that has no bytes any more: of its own team, or with its completion object, of one that has ended
(16 R412). -/
def State.cmdBound (s : State) (c : Cmd) : Bool :=
  ((decide (c.kind = 0) || decide (c.kind = 2)) && s.goneScratch (.scr c.tid 0)) || c.compPlace.any (fun p => s.goneScratch p)

/-- The destination of byte `pos` of a command: a scratchpad offset or a VA. -/
def State.destAt (s : State) (c : Cmd) (pos : Nat) : Int :=
  let r := pos / c.rb
  let o := pos % c.rb
  if c.kind = 0 || c.kind = 2 then ((c.soff + r * c.pitch + o : Nat) : Int)
  else if c.kind = 1 then (c.word 0).toNat + r * c.stride + o
  else if c.kind = 3 then (c.word 0).toNat + pos
  else match s.collOf c with
    | some x => x.recv + pos
    | none => 0

/-- A command bound for a scratchpad without bytes abandoned with code 0x4D; ENGADDR has the first destination byte not written (R314; 16 R412). -/
def State.abandonCmd (s : State) (c : Cmd) : State := s.failCmd c 0x4D (BitVec.ofInt 64 (s.destAt c c.pos))

/-- Whether a command waits to start: for the stores and atomics its group issued before it and their acknowledgements, where it is to own lines
for the group's earlier loads as well, which never meet its ownership, for its partition, for its tile's clock, or behind an earlier command for the same lines
(R292, R296, R311; 14 R378).  A command that moves nothing waits as well (log entry 117). -/
def State.startHeld (s : State) (c : Cmd) : Bool :=
  (match s.anyGroup c.gid with
  | some g => g.storesBefore c.seq || decide (g.acks ≠ 0) || (!c.dest.isEmpty && g.loadsBefore c.seq)
  | none => false) || s.cmdSwapped c || (decide (c.kind ≤ 2) && (s.tile c.tile).trans.isSome) || s.behind c

/-- Whether a COLL cannot reach a member of its group (R307). -/
def State.unreachable (s : State) (c : Cmd) : Bool :=
  match s.collOf c with
  | some x => decide (c.kind = 4) && x.members.any (fun m => decide (m % 4096 ≠ s.chip.toNat) && !s.routeUp (m % 4096))
  | none => false

/-- A command started: its destination ranges are posted, once they fit, and are its own (R292). -/
def State.startCmd (s : State) (c : Cmd) : State :=
  let s1 := s.postAll c
  if s.postFits s1 then (s1.takeLines c.id).modCmd c.id (fun c => { c with started := true }) else s

/-- ENGINE_COMMAND_START (R292, R296): a command starts when the group's earlier stores and atomics have been performed; a COLL that cannot reach
a member ends with code 0x48. -/
def execEngineCommandStart (id : Nat) (s : State) : Out :=
  match s.cmd id with
  | none => .next s
  | some c =>
    if c.started || c.error.isSome || s.startHeld c then .next s
    else if s.cmdBound c then .next (s.abandonCmd c)
    else if s.unreachable c then .next ((s.engineError c 0x48 (c.word 0)).modCmd id (fun c => { c with error := some 0x48 }))
    else .next (s.startCmd c)

/-! ## Moving data (R299, R301, R303, R307, R310) -/

/-- The error code of a translation cause (R307). -/
def engineCode (cause : BitVec 8) : BitVec 7 :=
  if cause = 0x06 then 0x4E else if cause = 0x07 then 0x40 else if cause = 0x08 then 0x41 else 0x42

/-- Written bytes given back from the front of a command's owned ranges. -/
def State.disown (s : State) (id pa n : Nat) : State :=
  { s with owners := s.owners.filterMap (fun o =>
      if o.id = id && decide (o.pa = pa) then (if o.len ≤ n then none else some { o with pa := o.pa + n, len := o.len - n }) else some o) }

/-- Whether an earlier command, a bias flip or a route holds a line that a command reaches. -/
def State.engineHeld (s : State) (c : Cmd) (p : Place) : Bool :=
  ({ s with owners := s.owners.filter (fun o => decide (o.id < c.id)) }).placeHeld p

/-- Whether a command's read of a line waits: every other command's ownership holds it, but a later one's that waits itself for a line this command is
to write (R292; log entry 121). -/
def State.readHeld (s : State) (c : Cmd) (pa : Nat) : Bool :=
  let after := fun (o : Owner) => decide (c.id < o.id) && s.owners.any (fun a => decide (a.id = c.id) &&
    s.owners.any (fun b => decide (b.id = o.id) && lineMeets (a.pa, a.len) (b.pa, b.len)))
  ({ s with owners := s.owners.filter (fun o => decide (o.id ≠ c.id) && !after o) }).lineHeld pa

/-- The number under which a command's own invalidations are counted. -/
def Cmd.mark (c : Cmd) : Nat := 2 ^ 32 + c.id

/-- A global byte address of a command, translated, with the kind bits of its leaf; an address outside the virtual space does not translate (R299). -/
def State.engineAt (s : State) (c : Cmd) (va : Int) (n : Need) : Except (BitVec 7) (Nat × Nat) × State :=
  if va < 0 || (2 ^ 57 : Int) ≤ va then (.error 0x40, s)
  else
    match s.translate ⟨c.ctx, c.tile, c.priv⟩ va.toNat n with
    | (.error (cause, _), s1) => (.error (engineCode cause), s1)
    | (.ok e, s1) => (.ok (e.at va.toNat, leafKind e.leaf e.level), s1)

/-- Whether the walk for a global byte address of a command waits (07 R187, R195). -/
def State.engineWaits (s : State) (c : Cmd) (va : Int) (n : Need) : Bool :=
  decide (0 ≤ va) && s.transHeld ⟨c.ctx, c.tile, c.priv⟩ va.toNat n

/-- An engine's access counted at its home for its command's context (R200, R204). -/
def State.engineCount (s : State) (c : Cmd) (pa kind : Nat) (wr : Bool) : State :=
  let s1 := s.countHome (some c.ctx) pa kind wr
  if kind / 8 % 2 = 1 then s1.countMovable pa s.chip (dieOf c.tile) else s1

/-- What a source gives: bytes, a wait, or an error code with the address. -/
inductive Source where
  | bytes (b : List Byte) (pas : List (Nat × Nat))
  | held
  | error (code : BitVec 7) (addr : W64) (poison : Bool)

/-- Bytes of one sector read at a global VA at device scope as a load of the group would be; a stash line is written back first (R292). -/
def State.sourceGlob (s : State) (c : Cmd) (va : Int) (n : Nat) : Source × State :=
  if s.engineWaits c va .read then (.held, s) else
  match s.engineAt c va .read with
  | (.error code, s1) => (.error code (BitVec.ofInt 64 va) false, s1)
  | (.ok (pa, kind), s1) =>
    if s1.readHeld c pa then (.held, s1)
    else if s1.delivers (dieOf c.tile) pa kind && s1.cleanRange pa n then
      (.bytes ((upFrom pa n).map s1.physByte) [(pa, n)], (s1.takeStash 0 pa).engineCount c pa kind false)
    else
      let code : BitVec 7 := match s1.physKind pa with
        | .win _ => 0x42
        | _ => if s1.delivers (dieOf c.tile) pa kind then 0x42 else 0x43
      (.error code (BitVec.ofInt 64 va) true, s1)

/-- Bytes of the team's scratchpad read at the banks, or where they have been moved to the save area, there (R311; 12 R336). -/
def State.sourceScr (s : State) (c : Cmd) (off n : Nat) : Source × State :=
  let bad : Source := .error 0x42 (BitVec.ofNat 64 off) true
  match s.team c.tid with
  | none => (bad, s)
  | some t =>
    if t.saved then
      if s.saveHeld c.tid off n then (.held, s) else
      match s.savedBytes c.tid off n with
      | (some bs, s1) => (.bytes bs [], s1)
      | (none, s1) => (bad, s1)
    else if (s.tile t.tile).trans.isSome then (.held, s)
    else if s.placeClean (.scr c.tid off) n then (.bytes (s.placeBytes (.scr c.tid off) n) [], s)
    else (bad, s)

/-- What a command writes at byte `pos` of its destination, and how many bytes the piece may have: to the end of the row and of a 32-byte
sector. -/
def Cmd.piece (c : Cmd) (total pos : Nat) (dst : Int) : Nat :=
  let row := if c.kind ≤ 2 then c.rb - pos % c.rb else total - pos
  min row (32 - (dst % 32).toNat)

/-- An integer or float value of a COLL type combined (R303; 08 R212). -/
def collStep (t red a b : Nat) : Nat :=
  let fmt : Option Fmt := match t with
    | 0 => some fmtF32
    | 1 => some fmtBF16
    | 2 => some fmtF16
    | 3 => some fmtF64
    | _ => none
  match fmt with
  | some f =>
    (match red with
    | 0 => (f.add .rne (f.originNan 0 0) (f.decode a) (f.decode b)).1
    | 1 => (f.minmax false a b).1
    | _ => (f.minmax true a b).1)
  | none =>
    let w := 8 * collSize t
    let neg := fun (x : Nat) => if (t = 4 || t = 6) && decide (2 ^ (w - 1) ≤ x) then (x : Int) - 2 ^ w else (x : Int)
    match red with
    | 0 => (a + b) % 2 ^ w
    | 1 => if neg b < neg a then b else a
    | _ => if neg a < neg b then b else a

/-- Values combined two at a time in an order that free values choose: the order of the steps is unspecified (R303, R222). -/
def collReduce (t red : Nat) : Nat → Nat → List Nat → Nat × Nat
  | 0, k, l => (l.headD 0, k)
  | fuel + 1, k, l =>
    match l with
    | [] => (0, k)
    | [x] => (x, k)
    | _ =>
      let i := (Config.freeValue k).toNat % l.length
      let l1 := l.eraseIdx i
      let j := (Config.freeValue (k + 1)).toNat % l1.length
      collReduce t red fuel (k + 2) (l1.eraseIdx j ++ [collStep t red (l.getD i 0) (l1.getD j 0)])

/-- What a rank contributed. -/
def Cmd.from_ (c : Cmd) (rank : Nat) : List Byte :=
  match c.peers.find? (fun p => decide (p.1 = rank)) with
  | some p => p.2
  | none => []

/-- Bytes of this device's own contribution to its result, and their VA. -/
def Coll.own (x : Coll) (op : Nat) : Nat × Nat := (x.send + (if op = 1 then x.rank * x.share 1 x.rank else 0), x.share op x.rank)

/-- The result's bytes [pos, pos + n) of a COLL. -/
def collBytes (s : State) (c : Cmd) (x : Coll) (pos n : Nat) : List Byte × State :=
  let z := collSize x.typ
  match c.op with
  | 2 =>
    let sh := max 1 (x.share 2 0)
    ((upFrom pos n).map (fun i => (c.from_ (i / sh)).getD (i % sh) 0), s)
  | 3 => (((c.from_ x.root).drop pos).take n, s)
  | _ =>
    let first := pos / z
    let last := (pos + n + z - 1) / z
    let (vals, k) := (upFrom first (last - first)).foldl (fun (acc : List Byte × Nat) i =>
      let l := (upFrom 0 x.members.length).map (fun r => bytesVal (((c.from_ r).drop (i * z)).take z))
      let (v, k) := collReduce x.typ x.red l.length acc.2 l
      (acc.1 ++ leBytes z v, k)) ([], s.free)
    ((vals.drop (pos - first * z)).take n, { s with free := k })

/-- What one access of a command's source gives for its bytes from `pos` on: they end with the row and with the 32-byte sector of the source (R292,
R300). -/
def State.cmdSource (s : State) (c : Cmd) (total pos : Nat) : Source × State :=
  let r := pos / c.rb
  let o := pos % c.rb
  let glob := fun (va : Int) => s.sourceGlob c va (c.piece total pos va)
  match c.kind with
  | 0 => glob ((c.word 0).toNat + r * c.stride + o)
  | 1 => s.sourceScr c (c.soff + r * c.pitch + o) (c.piece total pos (c.soff + r * c.pitch + o : Nat))
  | 2 =>
    let i := c.idxList.getD r 0
    if i = 0xFFFFFFFF then (.bytes (List.replicate (c.piece total pos 0) 0) [], s)
    else glob ((c.word 0).toNat + i.toNat * c.stride + o)
  | 3 =>
    if c.op = 1 then (.bytes ((upFrom pos (c.piece total pos 0)).map (fun k => (leBytes 8 (c.word 1).toNat).getD (k % 8) 0)) [], s)
    else glob ((c.word 1).toNat + pos)
  | _ => match s.collOf c with
    | some x => let (b, s1) := collBytes s c x pos (c.piece total pos (s.destAt c pos))
      (.bytes b [], s1)
    | none => (.bytes [] [], s)

/-- Data logged as it lands in a leader's scratchpad (R312), with the sector that it leaves unpoisoned. -/
def State.logLanding (s : State) (c : Cmd) (segs : List (Nat × List Byte)) : State :=
  match s.anyGroup c.gid with
  | none => s
  | some g =>
    let n := segs.foldl (fun n x => n + x.2.length) 0
    let clean := match segs with
      | (off, _) :: _ => if n = 32 then [(landKey + off / 32 * 32, BitVec.ofNat 64 (2 ^ 33))] else []
      | [] => []
    s.logVals g c.cnt (segs.flatMap (fun x => (upFrom 0 (x.2.length / 4)).map (fun k =>
      (landKey + x.1 + 4 * k, BitVec.ofNat 64 (bytesVal ((x.2.drop (4 * k)).take 4))))) ++ clean)

/-- Bytes of one sector put where a team's scratchpad is held: its banks, or its save area (R311; 12 R336). -/
def State.landAt (s : State) (tid : Nat) (segs : List (Nat × List Byte)) : State :=
  match s.team tid with
  | none => s
  | some t =>
    if t.saved then segs.foldl (fun s x => s.saveBytes tid x.1 x.2) s
    else s.modTeam tid (fun t => segs.foldl (fun t x => t.put x.1 x.2) t)

/-- Bytes of one sector arriving for a command's team, in one step (R292, R300); a sector written whole is no longer poisoned. -/
def State.landBytes (s : State) (id tid : Nat) (segs : List (Nat × List Byte)) : State :=
  let n := segs.foldl (fun n x => n + x.2.length) 0
  let s1 := (s.landAt tid segs).modTeam tid (fun t =>
    { t with scrPoison := if n = 32 then t.scrPoison.filter (fun k => !segs.any (fun x => decide (x.1 / 32 = k))) else t.scrPoison })
  let s2 := s1.modCmd id (fun c => { c with landed := c.landed + n })
  match s.cmds.find? (fun c => decide (c.id = id)) with
  | some c => s2.logLanding c segs
  | none => s2

/-- The landing buffer of a tile drained into its banks, in arrival order (R310). -/
def State.drainLanding (s : State) (tile : Nat) : State :=
  let l := (s.tile tile).landing
  l.foldl (fun s (x : Landed) => s.landBytes x.cmd x.tid x.segs) (s.modTile tile (fun t => { t with landing := [] }))

/-- A sector's bytes put into the team's scratchpad, or into the landing buffer while its tile's clock is stopped, `rest` having been read beyond them; none
where it throttles, or where the save area's line waits. -/
def State.putScr (s : State) (c : Cmd) (segs : List (Nat × List Byte)) (rest : List Byte) : Option State :=
  let n := segs.foldl (fun n x => n + x.2.length) 0
  let step := fun (s : State) => s.modCmd c.id (fun c => { c with pos := c.pos + n, ahead := rest })
  if (s.team c.tid).any (fun t => t.saved) && segs.any (fun x => s.saveHeld c.tid x.1 x.2.length) then none else
  let tile := match s.team c.tid with
    | some t => t.tile
    | none => c.tile
  if (s.tile tile).trans.isSome then
    if 16384 < s.landingBytes tile + n then none
    else some (step (s.modTile tile (fun t => { t with landing := t.landing ++ [(⟨c.id, c.tid, segs⟩ : Landed)] })))
  else some (step (s.landBytes c.id c.tid segs))

/-- Poison left at the destination sector of a poisoned source (R307). -/
def State.poisonDest (s : State) (c : Cmd) (dst : Int) : State :=
  if c.kind = 0 || c.kind = 2 then s.poisonScr c (dst.toNat / 32)
  else
    match s.engineAt c dst .write with
    | (.ok (pa, _), s1) => if s1.deliverable pa then { s1 with poison := insNat (pa / 32) s1.poison } else s1
    | (.error _, s1) => s1

/-- Whether a new source and destination range of a copy meet a byte already met on the other side, or each other (R301). -/
def overlapFound (seen : List (Bool × Nat × Nat)) (src dst : Nat) (m n : Nat) : Bool :=
  meets src m dst n || seen.any (fun x => if x.1 then meets x.2.1 x.2.2 src m else meets x.2.1 x.2.2 dst n)

/-- A range joined to the last one of its kind it continues. -/
def addSeen (l : List (Bool × Nat × Nat)) (d : Bool) (pa n : Nat) : List (Bool × Nat × Nat) :=
  match l.findIdx? (fun x => decide (x.1 = d) && decide (x.2.1 + x.2.2 = pa)) with
  | some i => l.modify i (fun x => (x.1, x.2.1, x.2.2 + n))
  | none => l ++ [(d, pa, n)]

/-- A piece written at a global destination, `rest` having been read beyond it; none where it waits. -/
def State.putGlob (s : State) (c : Cmd) (dst : Int) (bs : List Byte) (src : List (Nat × Nat)) (rest : List Byte) : Option State :=
  if s.engineWaits c dst .write then none else
  some <| match s.engineAt c dst .write with
  | (.error code, s1) => s1.failCmd c code (BitVec.ofInt 64 dst)
  | (.ok (pa, kind), s1) =>
    if s1.engineHeld c (.glob pa) then s1
    else if !s1.delivers (dieOf c.tile) pa kind then s1.failCmd c 0x43 (BitVec.ofInt 64 dst)
    else if c.kind = 3 && src.any (fun x => overlapFound c.seen x.1 pa x.2 bs.length) then s1.failCmd c 0x44 (BitVec.ofInt 64 dst)
    else
      let s2 := ((s1.engineCount c pa kind true).homeWrite 2048 c.mark 0 pa bs).disown c.id pa bs.length
      s2.modCmd c.id (fun c =>
        { c with
          pos := c.pos + bs.length
          landed := c.landed + bs.length
          ahead := rest
          shard := if c.kind = 4 && decide (c.op = 1) then c.shard ++ bs else c.shard
          seen := if c.kind = 3 && decide (c.op = 0) then
              addSeen (src.foldl (fun l x => addSeen l false x.1 x.2) c.seen) true pa bs.length
            else c.seen })

/-- The pieces of a command's destination from byte `pos` on that lie in one 32-byte sector of the scratchpad, in order (R292, R300): their places and lengths; of a
global destination one piece. -/
def State.sectorPieces (s : State) (c : Cmd) (total : Nat) (sector : Int) : Nat → Nat → List (Int × Nat)
  | 0, _ => []
  | fuel + 1, pos =>
    let dst := s.destAt c pos
    if decide (total ≤ pos) || decide (dst / 32 ≠ sector) then []
    else (dst, c.piece total pos dst) :: s.sectorPieces c total sector fuel (pos + c.piece total pos dst)

/-- What a command has read: bytes, the physical ranges they came from, and the error that stops it behind them. -/
structure ReadOut where
  bytes : List Byte
  pas : List (Nat × Nat)
  stop : Option (BitVec 7 × W64 × Bool)

/-- A command's source read, one 32-byte sector after another, until `want` bytes from its next one on are there (R292, R300); none where a read
waits. -/
def State.readAhead (c : Cmd) (total want : Nat) : Nat → State → List Byte → List (Nat × Nat) → Option ReadOut × State
  | 0, s, bs, pas => (some ⟨bs, pas, none⟩, s)
  | fuel + 1, s, bs, pas =>
    if want ≤ bs.length then (some ⟨bs, pas, none⟩, s)
    else
      match s.cmdSource c total (c.pos + bs.length) with
      | (.held, s1) => (none, s1)
      | (.error code a bad, s1) => (some ⟨bs, pas, some (code, a, bad)⟩, s1)
      | (.bytes more p, s1) => State.readAhead c total want fuel s1 (bs ++ more) (pas ++ p)

/-- Bytes laid out over pieces, as far as they reach. -/
def layOut : List (Int × Nat) → List Byte → List (Int × List Byte)
  | [], _ => []
  | x :: l, bs => if bs.isEmpty then [] else (x.1, bs.take x.2) :: layOut l (bs.drop x.2)

/-- A command stopped by an error of its source: a poisoned one leaves the destination sector poisoned (R307). -/
def State.stopCmd (s : State) (c : Cmd) (code : BitVec 7) (a : W64) (bad : Bool) (dst : Int) : State :=
  (if bad && decide (code = 0x42) then s.poisonDest c dst else s).failCmd c code a

/-- One piece of a command moved, of a scratchpad destination the whole sector: its source is read by whole sectors, what lies beyond the piece is kept for the next
one, and an error of the source stops the command behind what was read before it (R292, R300, R307). -/
def State.movePiece (s : State) (c : Cmd) (total : Nat) : State :=
  let dst := s.destAt c c.pos
  let scr := decide (c.kind = 0) || decide (c.kind = 2)
  let ps := s.sectorPieces c total (dst / 32) (if scr then 8 else 1) c.pos
  match State.readAhead c total (ps.foldl (fun n x => n + x.2) 0) 20 s c.ahead [] with
  | (none, s1) => s1
  | (some r, s1) =>
    let segs := layOut ps r.bytes
    let rest := r.bytes.drop (segs.foldl (fun n x => n + x.2.length) 0)
    let put : Option State := match segs with
      | [] => some s1
      | (d, bs) :: _ => if scr then s1.putScr c (segs.map (fun (x : Int × List Byte) => (x.1.toNat, x.2))) rest else s1.putGlob c d bs r.pas rest
    match put, r.stop with
    | none, _ => s1
    | some s2, none => s2
    | some s2, some (code, a, bad) =>
      if (s2.cmd c.id).any (fun (x : Cmd) => x.error.isNone && decide (x.pos = c.pos + r.bytes.length)) then s2.stopCmd c code a bad (s.destAt c (c.pos + r.bytes.length))
      else s2

/-- The rest of one 32-byte sector of a COLL's own contribution read. -/
def State.ownPiece (s : State) (c : Cmd) (x : Coll) : State :=
  let have_ := (c.from_ x.rank).length
  let (va, n) := x.own c.op
  match s.sourceGlob c (va + have_ : Nat) (min (32 - (va + have_) % 32) (n - have_)) with
  | (.bytes bs _, s1) =>
    s1.modCmd c.id (fun c => { c with peers := (c.peers.filter (fun p => decide (p.1 ≠ x.rank))) ++ [(x.rank, c.from_ x.rank ++ bs)] })
  | (.held, s1) => s1
  | (.error code a bad, s1) => s1.stopCmd c code a bad ((x.recv + (if c.op = 2 then x.rank * x.share 2 x.rank else 0) + have_ : Nat) : Int)

/-- Whether every rank's contribution to a COLL is here. -/
def Cmd.gathered (c : Cmd) (x : Coll) : Bool :=
  (upFrom 0 x.members.length).all (fun r => decide ((c.from_ r).length = x.share c.op r) && (decide (r = x.rank) || c.peers.any (fun p => decide (p.1 = r))))

/-- A piece of a COLL's mirror copy, of the shard as it was combined or sent, written at system scope to the buddy's memory (R305). -/
def State.mirrorPiece (s : State) (c : Cmd) (x : Coll) (va : Nat) : State :=
  let dst : Int := ((va + c.mirrored : Nat) : Int)
  let n := min (32 - (va + c.mirrored) % 32) (x.share c.op x.rank - c.mirrored)
  let bs := ((if c.op = 2 then c.from_ x.rank else c.shard).drop c.mirrored).take n
  if s.engineWaits c dst .write then s else
  match s.engineAt c dst .write with
  | (.error _, s1) => s1.failCmd c 0x4B (BitVec.ofInt 64 dst)
  | (.ok (pa, kind), s1) =>
    if chipOf pa ≠ x.buddy || !s1.delivers (dieOf c.tile) pa kind then s1.failCmd c 0x4B (BitVec.ofInt 64 dst)
    else if s1.engineHeld c (.glob pa) then s1
    else ((s1.engineCount c pa kind true).homeWrite 2048 c.mark 0 pa bs).modCmd c.id (fun c => { c with mirrored := c.mirrored + n })

/-! ## Completion (R306, R307) -/

/-- The completion object of a command; none where it cannot be reached. -/
def State.objectOf (s : State) (c : Cmd) : Option Place × State :=
  let size := c.objSize
  match c.compPlace with
  | some p => (if s.placeClean p size && !s.goneScratch p then some p else none, s)
  | none =>
    match s.engineAt c c.compAddr.toNat .update with
    | (.error _, s1) => (none, s1)
    | (.ok (pa, kind), s1) =>
      (if s1.delivers (dieOf c.tile) pa kind && s1.cleanRange pa size then some (.glob pa) else none, s1.engineCount c pa kind true)

/-- Whether the walk to a command's completion object waits (07 R195). -/
def State.objectWaits (s : State) (c : Cmd) : Bool := c.compPlace.isNone && s.engineWaits c c.compAddr.toNat .update

/-- The piece of byte subtractions of a command's engine (R306). -/
def Cmd.subPiece (c : Cmd) : Nat := if c.kind ≤ 2 then 1024 else 65536

/-- The bytes of the next subtraction that are due. -/
def Cmd.subDue (c : Cmd) (total : Nat) : Option Nat :=
  if c.comp ≠ 2 || decide (total ≤ c.subtracted) then none
  else
    let n := min c.subPiece (total - c.subtracted)
    if c.subtracted + n ≤ c.landed then some n else none

/-- One byte subtraction at the barrier (R239); an unreachable object is recorded in the group (R307 code 0x45). -/
def State.subtract (s : State) (c : Cmd) (n : Nat) : State :=
  if s.objectWaits c then s else
  match s.objectOf c with
  | (none, s1) => s1.failCmd c 0x45 c.compAddr
  | (some p, s1) => if s1.objectHeld p then s1 else (s1.barLand p n).modCmd c.id (fun c => { c with subtracted := c.subtracted + n })

/-- Whether a COLL still has its mirror copy to write. -/
def Coll.mirrorLeft (x : Coll) (c : Cmd) : Bool := x.mirror.isSome && decide (c.mirrored < x.share c.op x.rank)

/-- Whether every acknowledgement of a command's writes is back (R306). -/
def State.cmdSettled (s : State) (c : Cmd) : Bool := !s.invals.any (fun v => decide (v.gid = c.mark))

/-- A step of a started command: a due byte subtraction, else its next piece of data, of a COLL its own contribution first and its mirror copy
last.  A tile's own TCE is stopped with its clock: what lands meanwhile was asked for before (R310; 14 R378). -/
def State.moveCmd (s : State) (c : Cmd) : State :=
  let total := s.cmdTotal c
  match c.subDue total with
  | some n => if s.cmdSettled c then s.subtract c n else s
  | none =>
    if decide (c.kind ≤ 2) && (s.tile c.tile).trans.isSome && (decide (c.kind = 1) || decide (c.asked ≤ c.pos)) then s
    else if c.kind = 4 then
      match s.collOf c with
      | none => s
      | some x =>
        if (c.from_ x.rank).length < (x.own c.op).2 then s.ownPiece c x
        else if !c.gathered x then s
        else if c.pos < total then s.movePiece c total
        else match x.mirror with
          | some va => if x.mirrorLeft c then s.mirrorPiece c x va else s
          | none => s
    else if c.pos < total then s.movePiece c total
    else s

/-- ENGINE_TRANSFER_STEP (R299, R301, R303, R305 to R307, R310): one step of a command. -/
def execEngineTransferStep (id : Nat) (s : State) : Out :=
  match s.cmd id with
  | none => .next s
  | some c =>
    if !c.started || c.error.isSome || s.cmdSwapped c then .next s
    else .next (if s.cmdBound c then s.abandonCmd c else s.moveCmd c)

/-- COLL_PEER_MESSAGE (R303, R307): a member's part of a COLL reaches this chip, and the command it is matched with takes it in. -/
def execCollPeerMessage (m : CollMember) (c : CollCall) (code : BitVec 7) (data : List (BitVec 8)) (s : State) : Out :=
  .next ({ s with peerMsgs := s.peerMsgs ++ [(⟨m.ctx, m.group, m.nth, m.rank, c.op, c.n, c.typ, c.red, c.root, code, data⟩ : PeerMsg)] }).matchPeers

/-- What an error records at a completion object and still owes it (R230, R307). -/
def State.finishError (s : State) (c : Cmd) (p : Place) (total : Nat) (code : BitVec 7) : State :=
  let s1 := if code = 0x45 then s else s.recordError p code.toNat
  if c.comp = 2 then (if c.subtracted < total then s1.barLand p (total - c.subtracted) else s1)
  else s1.counterAdd p (BitVec.ofNat 64 c.imm)

/-- Whether a command may complete: all it writes is written and acknowledged, nothing of it is buffered, its COLL gathered and mirrored, its
subtractions made; or it has ended in error (R306, R307). -/
def State.cmdOver (s : State) (c : Cmd) : Bool :=
  let left := match s.collOf c with
    | some x => decide (c.kind = 4) && (x.mirrorLeft c || !c.gathered x)
    | none => false
  !s.tiles.any (fun t => t.landing.any (fun x => decide (x.cmd = c.id))) && s.cmdSettled c && !s.cmdSwapped c &&
    (c.error.isSome || (c.started && decide (s.cmdTotal c ≤ c.landed) && !left && (c.subDue (s.cmdTotal c)).isNone))

/-- A complete command out of its queue and its batch, the lines it owned with it (R241, R306). -/
def State.leaveQueue (s : State) (c : Cmd) : State :=
  let s1 := { s with
    cmds := s.cmds.filter (fun x => decide (x.id ≠ c.id))
    owners := s.owners.filter (fun o => decide (o.id ≠ c.id)) }
  s1.advanceBatches c.gid

/-- The completion of a command performed at its object, which an unreachable one has as an error of its group (R306, R307). -/
def State.completeCmd (s : State) (c : Cmd) : State :=
  if (match c.error with | some _ => decide (c.comp = 0) | none => decide (c.comp ≠ 1)) then s.leaveQueue c
  else if s.objectWaits c then s
  else
    match s.objectOf c with
    | (none, s1) => (s1.engineError c 0x45 c.compAddr).leaveQueue c
    | (some p, s1) =>
      if s1.objectHeld p then s1
      else (match c.error with
        | some code => s1.finishError c p (s.cmdTotal c) code
        | none => s1.counterAdd p (BitVec.ofNat 64 c.imm)).leaveQueue c

/-- ENGINE_COMMAND_COMPLETE (R241, R306, R307): every write performed, the completion is performed and the command leaves its batch. -/
def execEngineCommandComplete (id : Nat) (s : State) : Out :=
  match s.cmd id with
  | none => .next s
  | some c => .next (if s.cmdOver c then s.completeCmd c else s)

end Sys2Proof.Machine
end

