-- ==== Sys2Proof/Machine/Chord.lean ====
section
/-! DEFINITION. Chord and Prism: SEG and FINJ, the comparison and commit of segments, the third run, the vote and the hold limits (13
R345 to R363, R367). -/

namespace Sys2Proof.Machine

/-! ## SEG and SEG.SYNC (R362) -/

/-- SEG (R351, R354, R362): a checked leader closes the segment and goes on; at the slack limit it parks before that. -/
def execSeg (h : Hdr) (s : State) : Out :=
  let i : Instr := .seg h
  let leads := decide (s.g.role = .leader) && (match s.chordOf s.g with
    | some c => decide (c.level ≠ 0)
    | none => false)
  match s.g.running with
  | none => .next s
  | some sp =>
    if leads && s.g.guardTrue h.g && s.slackFull s.g then .next ((s.slackPark i h sp false).takeChecks s.g.tid)
    else
      issueUni i h {}
        (fun _ s => (if s.g.role = .leader then s.closeSegment s.g (s.g.icount + 1) (s.g.seq + 1) else s, .fall)) s

/-- SEG.SYNC (R351, R362): a compare point that parks a checked leader until the commit; an acquire at team scope of nothing more. -/
def execSegSync (h : Hdr) (s : State) : Out := issueUni (.segSync h) h { cmp := true } (fun _ s => (s, .fall)) s

/-! ## FINJ (R363) -/

/-- The resident group at a place of a tile. -/
def State.groupAt (s : State) (tile place : Nat) : Option Group :=
  s.groups.find? (fun g => g.live && !g.away && decide (g.tile = tile) && decide (g.place = place))

/-- Whether FINJ's operands have a nonzero bit that must be zero, a lane for an s register or a bit past 31 of a vector register. -/
def badFlip (a b : W64) : Bool :=
  decide (field a 16 48 ≠ 0) || decide (field b 20 44 ≠ 0) ||
    (if b.getLsbD 0 then decide (field b 9 5 ≠ 0) || decide (64 ≤ field b 1 8) else decide (32 ≤ field b 14 6))

/-- One bit of a register flipped: no register write (R363), yet a change of its line, which the checkpoint copies before it (16 R417). -/
def Group.applyFlip (g : Group) (f : Flip) : Group :=
  let line := if f.sreg then stateLine else f.reg
  let g1 := { g with dirty := insNat line g.dirty, touched := insNat line g.touched }
  if f.sreg then { g1 with s := mapSet (fun _ => 0) g.s f.reg (g.rs f.reg ^^^ BitVec.ofNat 64 (2 ^ f.bit)) }
  else { g1 with v := mapSet (fun _ => 0) g.v (f.reg * 32 + f.lane) (g.rv f.reg f.lane ^^^ BitVec.ofNat 32 (2 ^ f.bit)) }

/-- The vector register lines a group's flips go to that its tile's cache does not hold. -/
def Group.flipLines (g : Group) : List Nat := (g.flip.filter (fun f => !f.sreg && g.absent.contains f.reg)).map (fun f => f.reg)

/-- The flips a group waits for made, and the statuses returned (R363): lines they go to are filled first (12 R331), and while one cannot
be the flips wait. -/
def State.applyFlips (s : State) (g : Group) : State :=
  let s0 := g.flipLines.foldl (fun s line => match execRegisterLineFill g.gid line s with
    | .next t => t
    | _ => s) s
  if ((s0.anyGroup g.gid).map (fun x => !x.flipLines.isEmpty)).getD false then s0
  else
    let s1 := s0.modGroup g.gid (fun g => { g.flip.foldl Group.applyFlip g with flip := [] })
    g.flip.foldl (fun s (f : Flip) => s.resolve f.issuer f.seq [] [(f.d, 0)] 0 true) s1

/-- FINJ (R363): the flip of a group that stands at a run boundary is made at once (17 R417), that of a running one waits for its run's end; a failing
status comes back at once. -/
def execFinj (h : Hdr) (d a b : BitVec 6) (s : State) : Out :=
  issueUni (.finj h d a b) h
    { sr := [a.toNat, b.toNat], sw := [d.toNat], priv := true, late := true, logged := true }
    (fun sp s =>
      let x := s.g.rs a.toNat
      let y := s.g.rs b.toNat
      let st := fun (v : W64) => (s.laterLogged sp [] [(d.toNat, v)], Fate.fall)
      if badFlip x y then st 3
      else
        match s.groupAt (field x 0 10) (field x 10 6) with
        | none => st 1
        | some t =>
          if !(s.partDies s.g).contains (dieOf t.tile) then st 1
          else if !y.getLsbD 0 && decide (t.allot ≤ field y 1 8) then st 2
          else
            let f : Flip := ⟨y.getLsbD 0, field y 1 8, field y 9 5, field y 14 6, s.g.gid, s.g.seq, d.toNat⟩
            let s1 := (s.pendingResult sp [] [d.toNat]).modGroup t.gid (fun g => { g with flip := g.flip ++ [f] })
            (if t.run then s1 else s1.applyFlips { t with flip := t.flip ++ [f] }, .fall)) s

/-- The flips of groups that stand at a run boundary made, before anything else of those groups goes on (R363). -/
def State.settleFlips (s : State) : State :=
  (s.groups.filter (fun g => !g.flip.isEmpty && !g.run && g.live && !g.away)).foldl (fun s g => s.applyFlips g) s

/-- FINJ_APPLY (R363): at a run boundary of the target its flips are made and the statuses returned; a target that ended or is away
fails them. -/
def execFinjApply (gid : Nat) (s : State) : Out :=
  match s.anyGroup gid with
  | none => .next s
  | some g =>
    if !g.live || g.away then .next (s.failFlips gid)
    else .next (if g.run then s else s.applyFlips g)

/-! ## Signatures of a segment (R350, R353) -/

/-- Where a group closed a segment. -/
def closeOf (l : List Close) (gidx n : Nat) : Option Close := l.find? (fun c => decide (c.gidx = gidx) && decide (c.seg = n))

/-- The issue number from which a group's contributions belong to segment n or later. -/
def segLo (l : List Close) (gidx n : Nat) : Nat :=
  (l.filter (fun c => decide (c.gidx = gidx) && decide (c.seg < n))).foldl (fun m c => max m c.seq) 0

/-- A group's contributions to segment n in the order of issue: those of its window, those of an instruction parked then that has come out
since, and none of one still parked. -/
def segFolds (folds : List Fold) (closes : List Close) (before now : List (Nat × Nat)) (gidx n : Nat) : List Fold :=
  match closeOf closes gidx n with
  | none => []
  | some c =>
    let lo := segLo closes gidx n
    let mine := folds.filter (fun f => decide (f.gidx = gidx) && decide (f.seq < c.seq) && !now.contains (gidx, f.seq) &&
      (decide (lo ≤ f.seq) || before.contains (gidx, f.seq)))
    (mine.foldl (fun acc f => insNat f.seq acc) []).flatMap (fun q => mine.filter (fun f => decide (f.seq = q)))

/-- The pair (SS, RS) of a group for a segment (R350). -/
def signature (l : List Fold) : W64 × W64 :=
  (l.foldl (fun sig f => if f.ss then foldSig sig f.a f.d else sig) 0, l.foldl (fun sig f => if f.ss then sig else foldSig sig f.a f.d) 0)

/-- The signatures of a run of a team for a segment, group by group. -/
def Team.sigs (t : Team) (before now : List (Nat × Nat)) (n : Nat) : List (W64 × W64) :=
  (upFrom 0 t.groups).map (fun i => signature (segFolds t.folds t.closes before now i n))

/-- Whether an entry is a store that returns nothing. -/
def OlEntry.isStore (e : OlEntry) : Bool :=
  match e.kind with
  | .store | .sst => true
  | _ => false

/-- The instructions of a run that stand in a park which will write registers, or that a fault holds back: a compare does not wait for
them, since what ends the park or the fault may itself wait for the commit. -/
def State.owedNow (s : State) (tid : Nat) : List (Nat × Nat) :=
  (s.groups.filter (fun g => g.live && decide (g.tid = tid))).flatMap (fun g => g.splits.filterMap (fun sp => match sp.park with
    | .ctr w => (g.entry w.entry).map (fun e => (g.gidx.toNat, e.seq))
    | .lock => g.lreq.map (fun r => (g.gidx.toNat, r.seq))
    | .launch _ q _ => some (g.gidx.toNat, q)
    | .batchClose _ q => some (g.gidx.toNat, q)
    | _ => none) ++ (g.olog.filter (fun e => !e.isStore && (e.faulty || g.stuck e))).map (fun e => (g.gidx.toNat, e.seq)) ++
    (g.results.filter (fun r => g.stuckResult r)).map (fun r => (g.gidx.toNat, r.seq)))

/-- The instructions of a follower that its leader's fault holds back. -/
def State.heldNow (s : State) (tid : Nat) : List (Nat × Nat) :=
  (s.groups.filter (fun g => g.live && decide (g.tid = tid))).flatMap (fun g =>
    (g.results.filter (fun r => decide (r.await = .log true))).map (fun r => (g.gidx.toNat, r.seq)))

/-- Whether a group's contributions up to an issue number are all known (R350). -/
def State.settledTo (s : State) (g : Group) (owed : List (Nat × Nat)) (seq cnt : Nat) : Bool :=
  g.olog.all (fun e => decide (seq ≤ e.seq) || owed.contains (g.gidx.toNat, e.seq) || e.faulty || g.stuck e ||
    (match e.kind with
    | .wait _ => true
    | _ => false)) &&
  g.results.all (fun r => decide (seq ≤ r.seq) || owed.contains (g.gidx.toNat, r.seq) || (match r.await with
    | .other | .log _ => false
    | _ => true)) &&
  s.jobs.all (fun j => decide (j.gid ≠ g.gid) || decide (seq ≤ j.seq)) &&
  g.splits.all (fun sp => (match sp.park with
    | .log _ => decide (cnt ≤ sp.cnt) || !((s.lookLog g sp.cnt doneKey).isSome || (s.lookLog g sp.cnt againKey).isSome)
    | _ => true))

/-- Whether every group of a run that still lives has closed a segment, and its contributions to it are known. -/
def State.runClosed (s : State) (t : Team) (owed : List (Nat × Nat)) (n : Nat) : Bool :=
  s.groups.all (fun g => decide (g.tid ≠ t.tid) || (match closeOf t.closes g.gidx.toNat n with
    | some c => s.settledTo g owed c.seq c.cnt
    | none => !g.live))

/-- Whether a follower's team has closed a segment wherever its leader did, and its contributions to it are known. -/
def State.followClosed (s : State) (lead : List Close) (u : Team) (owed : List (Nat × Nat)) (n : Nat) : Bool :=
  (lead.filter (fun c => decide (c.seg = n))).all (fun c => (closeOf u.closes c.gidx n).isSome) &&
  s.groups.all (fun g => decide (g.tid ≠ u.tid) || (match closeOf u.closes g.gidx.toNat n with
    | some c => s.settledTo g owed c.seq c.cnt
    | none => true))

/-- Every standing group of a run closes what its leader closed where it stands. -/
def State.closeRun (s : State) (tid : Nat) : State :=
  (s.groups.filter (fun g => decide (g.tid = tid) && !g.run)).foldl (fun s g => s.closeStanding g) s

/-! ## Commit (R356) -/

/-- The mark of the invalidations that a team's commit sends. -/
def commitMark (tid : Nat) : Nat := 2 ^ 33 + tid

/-- Invalidations without repeats. -/
def dedupInvals (l : List Inval) : List Inval := l.foldl (fun acc k => if acc.contains k then acc else acc ++ [k]) []

/-- The tentative bytes of one sector laid over the committed ones: a whole sector at once, else byte by byte (R356). -/
def State.laySector (s : State) (tile tid : Nat) (l : List Version) (k : Nat) : State :=
  let here := (upFrom (32 * k) 32).filterMap (fun pa => l.find? (fun v => decide (v.pa = pa)))
  let s1 := if here.length = 32 then s.homeWrite tile (commitMark tid) tid (32 * k) (here.map (fun (v : Version) => v.val))
    else here.foldl (fun s (v : Version) => s.homeWrite tile (commitMark tid) tid v.pa [v.val]) s
  { s1 with invals := dedupInvals s1.invals }

/-- The stores of eight bytes that versions in the register window are, in their order: address and value. -/
def windowStores : Nat → List Version → List (Nat × Nat)
  | 0, _ => []
  | n + 1, l => match l with
    | [] => []
    | v :: _ => (v.pa, bytesVal ((l.take 8).map (fun (x : Version) => x.val))) :: windowStores n (l.drop 8)

/-- A register of the window written at a commit, or the store lost where the window's function is not ready (15 R391, R394). -/
def State.layWindow (s : State) (x : Nat × Nat) : State :=
  if s.ready 12 then s.winWrite (localOf x.1 % 2 ^ 24) (BitVec.ofNat 64 x.2) else s.loseStore

/-- The versions of one segment committed at their homes as stores of the team at device scope, each line charged to its context
(R204, R356); those of the register window as the stores of eight bytes that they are, in their order (15 R391). -/
def State.layVersions (s : State) (t : Team) (l : List Version) : State :=
  let mem := l.filter (fun v => !isWindow v.pa)
  let s1 := (dedup (mem.map (fun (v : Version) => v.pa / 32))).foldl (fun s k => s.laySector t.tile t.tid mem k) s
  let s2 := (dedup (mem.map (fun (v : Version) => v.pa / 128))).foldl (fun s k => s.countHome (some t.ctx) (128 * k) 0 true) s1
  (windowStores l.length (l.filter (fun v => isWindow v.pa))).foldl State.layWindow s2

/-- Whether a checkpoint still to be used has an instruction in flight whose value the log must keep. -/
def Chord.needed (c : Chord) (n : Nat) (v : LogVal) : Bool :=
  c.checks.any (fun k => decide (n < k.seg) && k.groups.any (fun x => decide (x.1 = v.gidx) &&
    (x.2.olog.any (fun e => decide (e.cnt = v.cnt)) || x.2.results.any (fun r => decide (r.cnt = v.cnt)) ||
      x.2.splits.any (fun sp => decide (sp.cnt = v.cnt) && decide (sp.park ≠ .ready)))))

/-- Log entries, checkpoints and the segment itself freed once segment n is over (R349, R359); a recording keeps the entries. -/
def Chord.free (c : Chord) (closes : List Close) (n : Nat) (record : Bool) (open_ : LogVal → Bool) : Chord :=
  let gone := fun (v : LogVal) => (match closeOf closes v.gidx n with
    | some x => decide (v.cnt + 1 < x.cnt) && (decide (v.key < landKey) || decide (900000 ≤ v.key)) && !c.needed n v && !open_ v
    | none => false)
  { c with
    segs := c.segs.filter (fun x => decide (x.n ≠ n))
    checks := c.checks.filter (fun k => decide (n < k.seg))
    log := c.log.filter (fun v => !gone v)
    kept := if record then c.kept ++ c.log.filter gone else c.kept }

/-- Whether a team's grid records (R367). -/
def State.recordsTeam (s : State) (t : Team) : Bool :=
  match s.grid t.serial with
  | some x => x.desc.flags.getLsbD 3
  | none => false

/-- The versions of segment n laid down and removed (R356). -/
def State.commitVersions (s : State) (tid n : Nat) : State :=
  match s.team tid with
  | none => s
  | some t =>
    match t.chord with
    | none => s
    | some c =>
      let s1 := s.layVersions t (c.vers.filter (fun v => decide (v.seg = n)))
      s1.modChord tid (fun c => { c with vers := c.vers.filter (fun v => decide (v.seg ≠ n)) })

/-- Whether a line that versions of segment n go to is held, so that their commit waits as a store would (R356; 07 R187). -/
def State.commitHeld (s : State) (l : List Version) (n : Nat) : Bool := l.any (fun v => decide (v.seg = n) && s.lineHeld v.pa)

/-- Whether a value of a log is one that a follower still waits for. -/
def State.heldValue (s : State) (c : Chord) (v : LogVal) : Bool :=
  s.groups.any (fun g => (decide (g.tid = c.trailer) || decide (c.third = some g.tid)) && decide (g.gidx.toNat = v.gidx) &&
    g.results.any (fun r => decide (r.cnt = v.cnt) && (match r.await with
      | .log _ => true
      | _ => false)))

/-- Segment n over: what it holds is freed, and a wound's forcing of the trailer into F gear that lasts until its match ends (10 R274). -/
def State.segmentOver (s : State) (tid n : Nat) (owed : List (Nat × Nat)) : State :=
  match s.team tid with
  | none => s
  | some t => s.modChord tid (fun c =>
      { (c.free t.closes n (s.recordsTeam t) (s.heldValue c)) with
        owed := owed
        forced := match c.forced with
          | some m => if m ≤ n then none else some m
          | none => none })

/-! ## The trailer's segments (R347) and the comparison (R353, R358) -/

/-- The DT at which the leader began the segment that its trailer begins next (R347, R352). -/
def Chord.trailerDt (c : Chord) : Nat :=
  match c.segs.find? (fun x => decide (x.n = c.trailerSeg)) with
  | some x => x.startDt
  | none => c.openDt

/-- TRAILER_SEGMENT_START (R347): the trailer's next segment begins 2,000 ns after the leader's, once the one before has been compared. -/
def execTrailerSegmentStart (tid : Nat) (s : State) : Out :=
  match (s.team tid).bind (fun t => t.chord) with
  | none => .next s
  | some c =>
    if decide (c.level ≠ 0) && decide (c.trailerSeg ≤ c.open_) && decide (2000 ≤ s.elapsed c.trailerDt) &&
        !c.segs.any (fun x => decide (x.n < c.trailerSeg)) then
      .next (s.modChord tid (fun x => { x with trailerSeg := c.trailerSeg + 1 }))
    else .next s

/-- A replayed run compared with its record at its next segment (R367): the first difference records code 0x64 and raises Breakpoint. -/
def State.replayCompare (s0 : State) (tid : Nat) (i : Nat) : State :=
  let s := s0.closeRun tid
  match s.team tid, s.records[i]? with
  | some t, some r =>
    let n := t.compared
    if !r.closes.any (fun c => decide (c.seg = n)) || !s.followClosed r.closes t [] n then s
    else
      let bad := (upFrom 0 t.groups).find? (fun k => decide (signature (segFolds t.folds t.closes [] [] k n) ≠
        signature (segFolds r.folds r.closes [] [] k n)))
      match bad with
      | none => s.modTeam tid (fun t => { t with compared := n + 1 })
      | some k =>
        match s.groups.find? (fun g => decide (g.tid = tid) && decide (g.gidx.toNat = k) && g.live && !g.halted) with
        | none => (s.modTeam tid (fun t => { t with compared := 2 ^ 32 })).modGrid t.serial (fun x =>
            { x with err := if x.err.isSome then x.err else some 0x64 })
        | some g =>
          if g.run || g.away then s
          else
            match (match g.split g.cur with
              | some sp => some sp
              | none => g.splits.head?) with
            | none => s
            | some sp =>
              let s1 := (s.leavePark g.gid sp.slot).takeTrap g.gid sp.slot
                (Trap.plain 0x0C sp.pc sp.pc sp.mask (BitVec.ofNat 64 n) s.dt)
              (s1.modTeam tid (fun t => { t with compared := 2 ^ 32 })).modGrid t.serial (fun x =>
                { x with err := if x.err.isSome then x.err else some 0x64 })
  | _, _ => s

/-- Whether a sector of a checked team's slice of the log is poisoned (R349, R366). -/
def State.sliceBad (s : State) (t : Team) (c : Chord) : Bool :=
  let pa := s.sliceAt c.sliceDie c.slice
  s.poison.any (fun k => decide (pa / 32 ≤ k) && decide (k * 32 < pa + sliceMib (s.chctlOf t) * 1048576))

/-- A mismatch found on a released segment reported (R357, R358; log entry 102). -/
def State.reportLate (s : State) (tid : Nat) : State :=
  ({ s with zhr := { s.zhr with lates := s.zhr.lates + 1 } }.newRecord).modChord tid (fun c => { c with late := c.late + 1 })

/-- A third run called for a team's segment (R353, R358). -/
def State.callThird (s : State) (tid n : Nat) : State :=
  s.modChord tid (fun c => { c with
    segs := c.segs.map (fun (y : Seg) => if y.n = n then { y with st := .voting } else y)
    thirdWait := true })

/-- A segment whose signatures agree committed, unless it was released, and over (R353, R358). -/
def State.passSegment (s : State) (tid : Nat) (x : Seg) (owed : List (Nat × Nat)) : State :=
  (if x.rel then s else s.commitVersions tid x.n).segmentOver tid x.n owed

/-- SEGMENT_COMPARE (R353, R358): the oldest closed segment, once both runs have closed it and every contribution is known: equal
signatures commit it, unless it was released; a difference calls a third run, and is a late mismatch where the segment was released; a poisoned
slice ends the grid with code 0x62 (R366). -/
def execSegmentCompare (tid : Nat) (s0 : State) : Out :=
  match s0.team tid with
  | none => .next s0
  | some t0 =>
    match t0.replay with
    | some i => .next (s0.replayCompare tid i)
    | none =>
      match t0.chord with
      | none => .next s0
      | some c0 =>
        let s := s0.closeRun c0.trailer
        match s.team tid, s.team c0.trailer, c0.segs.head? with
        | some t, some u, some x =>
          let owed := s.owedNow tid ++ s.heldNow u.tid
          if x.st = .voting || !s.runClosed t owed x.n || !s.followClosed t.closes u owed x.n then .next s
          else if s.sliceBad t c0 then .next (s.endGrid t.serial 0x62)
          else if t.sigs c0.owed owed x.n = u.sigs c0.owed owed x.n then
            .next (if !x.rel && s.commitHeld c0.vers x.n then s else s.passSegment tid x owed)
          else .next ((if x.rel then s.reportLate tid else s).callThird tid x.n)
        | _, _, _ => .next s

/-! ## The third run (R345, R359) -/

/-- Whether the log of a leader has the outcome of an instruction of a group. -/
def Chord.has (c : Chord) (gidx cnt : Nat) : Bool :=
  c.log.any (fun v => decide (v.gidx = gidx) && decide (v.cnt = cnt) && decide (v.key = doneKey))

/-- Whether everything a checkpoint has in flight is known: values from outside have come into the log (R359). -/
def Chord.checkKnown (c : Chord) (k : Check) : Bool :=
  k.groups.all (fun x =>
    x.2.olog.all (fun e => !e.logged || e.faulty || x.2.stuck e || c.has x.1 e.cnt) &&
    x.2.results.all (fun r => x.2.stuckResult r || (match r.await with
      | .other => c.has x.1 r.cnt || k.jobs.any (fun j => decide (j.gid = x.2.gid) && decide (j.seq = r.seq))
      | .post .. | .preempt _ | .ended _ => c.has x.1 r.cnt
      | _ => true)))

/-- Logged values put into a group's registers. -/
def Group.putValues (g : Group) (l : List LogVal) : Group :=
  l.foldl (fun (g : Group) (v : LogVal) =>
    if v.key < 100000 then g.wv (v.key / 32) (v.key % 32) (v.val.extractLsb' 0 32)
    else if v.key < 200000 then g.ws (v.key - 100000) v.val
    else if v.key < 300000 then g.wq (v.key - 200000) (v.val.getLsbD 0)
    else g) g

/-- The park of a checkpoint's split as a third run takes it over: what waits for another party waits for the log. -/
def Group.restoredPark (g : Group) (p : Park) : Park :=
  match p with
  | .slack _ => .ready
  | .ctr w => .log (match g.entry w.entry with
    | some e => e.seq
    | none => 0)
  | .lock => .log (match g.lreq with
    | some r => r.seq
    | none => 0)
  | .launch _ q _ => .log q
  | .batchWait _ | .quiet .. | .lockHeld => .log 0
  | p => p


/-- An access of a checkpoint that a third run performs again from its own scratchpad. -/
def OlEntry.restored (e : OlEntry) : OlEntry :=
  { e with lanes := e.lanes.map (fun (l : OlLane) => match l.st with
      | .located .. | .half .. => { l with st := .pending }
      | _ => l) }

/-- A BATCH.CLOSE that a leader stands at, ended: a third run has no engine to wait for. -/
def Group.closeBatches (g : Group) (clock : Nat) : Group :=
  g.splits.foldl (fun (g : Group) (sp : Split) => match sp.park with
    | .batchClose d _ => ({ (g.ws d g.batchSeq) with batchSeq := g.batchSeq + 1 }).wakeNext sp.slot clock
    | _ => g) g

/-- The registers of a group with every logged value of what it has in flight. -/
def Group.inFlightValues (g : Group) (c : Chord) : List LogVal :=
  c.log.filter (fun v => decide (v.gidx = g.gidx.toNat) &&
    (g.olog.any (fun e => e.logged && !e.faulty && !g.stuck e && decide (e.cnt = v.cnt)) || g.results.any (fun r => decide (r.cnt = v.cnt))))

/-- A checkpoint's group as a group of the third run (R359). -/
def Group.restore (g : Group) (c : Chord) (jobs : List AccJob) (gid tid tile place : Nat) (base : W64) (clock : Nat) : Group :=
  let vals := g.inFlightValues c
  let keepRes := g.results.filter (fun r => !c.has g.gidx.toNat r.cnt)
  let mine := fun (r : Result) => jobs.any (fun j => decide (j.gid = g.gid) && decide (j.seq = r.seq))
  let g1 := g.putValues vals
  let g2 := { g1 with
    gid := gid
    tid := tid
    role := .third
    tile := tile
    place := place
    ctxBase := base
    away := false
    stop := false
    run := false
    runLen := 0
    atEnd := none
    resumed := false
    absent := []
    dirty := upFrom 0 g.allot ++ upFrom 1024 (64 * g.naccs) ++ [2000]
    splits := g.splits.map (fun (sp : Split) => { sp with park := g.restoredPark sp.park })
    olog := (g.olog.filter (fun (e : OlEntry) => !e.logged && decide (e.space ≠ Space.glob) && !e.isWait)).map OlEntry.restored
    results := keepRes.map (fun (r : Result) => if decide (r.await = Await.other) && mine r then r else { r with await := Await.nothing }) ++
      (g.olog.filter (fun (e : OlEntry) => e.logged && (e.faulty || g.stuck e))).map (fun (e : OlEntry) =>
        (⟨e.seq, e.cnt, e.slot, [], [], 0, Await.log true⟩ : Result))
    fences := []
    acks := 0
    lset := []
    wounds := []
    lreq := none
    lrel := []
    lend := false
    lockSeq := none
    engDue := none
    flip := [] }
  g2.closeBatches clock

/-- One group of a checkpoint put on the third run's tile. -/
def State.addRestored (s : State) (t : Team) (c : Chord) (k : Check) (tid3 tile quad : Nat) (x : Nat × Group) : State :=
  match s.freePlace tile ((quad + x.1) % 4) with
  | none => s
  | some place =>
    let cx := s.ctx t.ctx
    let base := BitVec.ofNat 64 (cx.imageBase.toNat + cx.imageStride * cx.started)
    let gid := s.nextId
    let g := x.2.restore c k.jobs gid tid3 tile place base s.clock
    let old := x.2
    let jobs := (k.jobs.filter (fun j => decide (j.gid = old.gid))).map (fun (j : AccJob) => { j with gid := gid, tile := tile })
    let cmds := (k.cmds.filter (fun c => decide (c.gid = old.gid)))
    let s1 := { s with nextId := s.nextId + 1, others := s.others ++ [g], jobs := s.jobs ++ jobs }
    let s2 := cmds.foldl (fun (s : State) (q : Cmd) =>
      { s with
        nextId := s.nextId + 1
        cmds := s.cmds ++ [{ q with id := s.nextId, gid := gid, tid := tid3, tile := tile, done := true }] }) s1
    (s2.modCtx t.ctx (fun c => { c with started := c.started + 1 })).cacheSettle gid tile

/-- The third run of a vote put on a tile from a checkpoint (R359). -/
def State.placeThird (s : State) (t : Team) (c : Chord) (k : Check) (tile : Nat) : State :=
  let (base, s0) := s.takeBanks tile (t.scratch + t.stashBytes)
  let tid3 := s0.nextId
  let words := k.groups.flatMap (fun y => (y.2.inFlightValues c).filter (fun v => decide (300000 ≤ v.key) && decide (v.key < landKey)))
  let t3 : Team := { t with
    tid := tid3
    tile := tile
    role := .third
    base := base
    saved := false
    scr := words.foldl (fun m v => memSet m (v.key - 300000) (v.val.extractLsb' 0 8)) k.scr
    scrPoison := k.scrPoison
    badWords := []
    sectors := []
    stash := []
    ended := k.groups.all (fun y => !y.2.live)
    away := false
    chord := none
    folds := []
    closes := t.closes.filter (fun y => decide (y.seg < k.seg))
    replay := none }
  let s1 := { s0 with nextId := s0.nextId + 1, teams := s0.teams ++ [t3] }
  let s2 := k.groups.foldl (fun s y => s.addRestored t c k tid3 tile (s0.freestQuad tile) y) s1
  (s2.l1Flush tile).modChord t.tid (fun c => { c with third := some tid3, thirdWait := false })

/-- The checkpoint of a team's oldest segment. -/
def Chord.oldestCheck (c : Chord) : Option Check := c.segs.head?.bind (fun x => c.checks.find? (fun k => decide (k.seg = x.n)))

/-- Whether a third run would be placed on another tile first, one that keeps its pair's load balanced better (01 R13; 03 R86). -/
def State.betterThird (s : State) (t : Team) (c : Chord) (tile : Nat) : Bool :=
  decide (s.siteRank tile < 2) && ((upFrom 0 4).flatMap s.dieTiles).any (fun n => decide (s.siteRank tile < s.siteRank n) && s.thirdFits t c n)

/-- THIRD_RUN_PLACE (R345, R359): the third run of a vote put on a tile from the checkpoint of its segment; a poisoned slice ends the grid with
code 0x62 (R366). -/
def execThirdRunPlace (tid tile : Nat) (s : State) : Out :=
  match s.team tid with
  | none => .next s
  | some t =>
    match t.chord with
    | none => .next s
    | some c =>
      match c.oldestCheck with
      | none => .next s
      | some k =>
        .next (if !c.thirdWait || !s.thirdFits t c tile || s.betterThird t c tile || !c.checkKnown k then s
          else if s.sliceBad t c then s.endGrid t.serial 0x62
          else s.placeThird t c k tile)

/-! ## The vote (R360) -/

/-- A team's trailer exchanged for its third run (R360): the old trailer's groups end. -/
def State.thirdTrails (s : State) (tid old new : Nat) : State :=
  let s1 := s.removeTeam old
  let s2 := { s1 with cmds := s1.cmds.filter (fun c => decide (c.tid ≠ old)), jobs := s1.jobs.filter (fun j => s1.groups.any (fun g => decide (g.gid = j.gid))) }
  let s3 := (s2.mapGroups (fun g => if g.tid = new then { g with role := .trailer } else g)).modTeam new (fun t => { t with role := .trailer })
  s3.modChord tid (fun c => { c with trailer := new, third := none, thirdVers := [] })

/-- A group paused inside a run ends it, as a leader does that goes on from there (R360). -/
def Group.pauseEnds (g : Group) (clock : Nat) : Group := if g.run then g.endRun g.cur clock 0 else g

/-- A leader's group continued by the third run's: its identity, its locks and its engine state stay, all else is the third run's. -/
def Group.takeOver (lead third : Group) (clock : Nat) : Group :=
  let g := third.pauseEnds clock
  { g with
    gid := lead.gid
    tid := lead.tid
    role := .leader
    stop := false
    away := false
    atEnd := none
    cleared := none
    lset := lead.lset
    age := lead.age
    agev := lead.agev
    agehold := lead.agehold
    wounds := lead.wounds
    lreq := lead.lreq
    lrel := lead.lrel
    lend := lead.lend
    lockSeq := lead.lockSeq
    acks := lead.acks
    batchDone := lead.batchDone
    engErr := lead.engErr
    engAddr := lead.engAddr
    engDt := lead.engDt
    engDue := lead.engDue
    flip := [] }

/-- Whether a leader that lost a released segment has nothing more on its way to other parties. -/
def State.leadStill (s : State) (tid : Nat) : Bool :=
  s.groups.all (fun g => decide (g.tid ≠ tid) || (g.results.all (fun r => decide (r.await ≠ .other)) &&
    g.olog.all (fun e => !e.lanes.any (fun l => l.st.isOpen) || g.waitsOn e.idx)))

/-- The third run continues as the leader from the end of segment n (R360): what the log has of the compare points of later segments that were
released stays, so that they are not performed again; flips that wait for the old leader's groups come to nothing (R363). -/
def State.thirdLeads (s0 : State) (tid tid3 trailer n : Nat) (released : Bool) : State :=
  let sf := (s0.groups.filter (fun g => decide (g.tid = tid))).foldl (fun s g => s.failFlips g.gid) (s0.dropStash tid)
  let s := (s0.groups.filter (fun g => decide (g.tid = tid3))).foldl (fun s g => s.landLogged g) sf
  match s.team tid, s.team tid3 with
  | some t, some u =>
    let at_ := fun (gidx : Nat) => (closeOf t.closes gidx n).map (fun (c : Close) => c.cnt)
    let upTo := fun (gidx cnt : Nat) => (match at_ gidx with
      | some k => decide (cnt ≤ k)
      | none => true)
    let after := (t.chord.map (fun c => (c.segs.filter (fun x => x.rel && decide (n < x.n))).map (fun (x : Seg) => x.n))).getD []
    let marked := (t.chord.map (fun c => c.log.filter (fun v => decide (v.key = trigKey)))).getD []
    let performed := fun (gidx cnt : Nat) => marked.any (fun v => decide (v.gidx = gidx) && decide (v.cnt = cnt)) &&
      t.closes.any (fun y => decide (y.gidx = gidx) && decide (y.cnt = cnt + 1) && after.contains y.seg)
    let keepVal := fun (v : LogVal) => (match at_ v.gidx with
      | some k => decide (v.cnt + 1 < k) || (released && decide (v.cnt + 1 = k)) || (decide (landKey ≤ v.key) && decide (v.key < 900000)) ||
          performed v.gidx v.cnt
      | none => true)
    let thirds := s.groups.filter (fun g => decide (g.tid = tid3))
    let leads := s.groups.filter (fun g => decide (g.tid = tid))
    let gidOf := fun (i : Nat) => ((leads.find? (fun g => decide (g.gidx.toNat = i))).map (fun (g : Group) => g.gid)).getD 0
    let jobs := (s.jobs.filter (fun j => !leads.any (fun g => decide (g.gid = j.gid)))).map (fun (j : AccJob) =>
      match thirds.find? (fun g => decide (g.gid = j.gid)) with
      | some g => { j with gid := gidOf g.gidx.toNat }
      | none => j)
    let s1 := { s with jobs := jobs, cmds := (s.cmds.filter (fun c => decide (c.tid ≠ tid3))).map (fun (c : Cmd) =>
      if c.tid = tid then { c with tile := u.tile } else c) }
    let s2 := leads.foldl (fun (s : State) (g : Group) =>
      match thirds.find? (fun x => decide (x.gidx = g.gidx)) with
      | some x => s.modGroup g.gid (fun g => g.takeOver x s.clock)
      | none => s) s1
    let s3 := s2.mapGroups (fun g => if g.tid = trailer then { g.pauseEnds s.clock with cleared := none } else g)
    let cut := fun (l : List Close) => l.filter (fun c => decide (c.seg ≤ n))
    let runs := (s2.groups.filter (fun g => decide (g.tid = tid))).map (fun (g : Group) => (⟨g.gidx.toNat, g.cur, g.icount⟩ : RunLog))
    let s4 := s3.modTeam tid (fun t => { t with
      tile := u.tile
      base := u.base
      saved := u.saved
      scr := u.scr
      scrPoison := u.scrPoison
      badWords := u.badWords
      sectors := []
      ended := u.ended
      folds := u.folds ++ t.folds.filter (fun f => decide (f.seq < segLo t.closes f.gidx n))
      closes := cut u.closes })
    let s5 := s4.modTeam trailer (fun t => { t with closes := cut t.closes })
    let s6 := s5.modChord tid (fun c => { c with
      open_ := n + 1
      openDt := s.dt
      stores := 0
      segs := c.segs.filter (fun x => decide (x.n ≤ n))
      vers := c.vers.filter (fun v => decide (v.seg < n)) ++ (if released then [] else c.thirdVers.filter (fun v => decide (v.seg = n)))
      thirdVers := []
      log := c.log.filter keepVal
      runs := c.runs.filter (fun r => upTo r.gidx r.cnt) ++ runs
      traps := c.traps.filter (fun r => (match at_ r.gidx with
        | some k => decide (r.cnt < k)
        | none => true))
      checks := c.checks.filter (fun k => decide (k.seg ≤ n)) ++ [⟨n + 1, [], [], s.cmdsNow tid, u.scr, u.scrPoison, 0⟩]
      third := none })
    let s7 := s6.removeTeam tid3
    (s7.l1Flush u.tile).takeChecks tid
  | _, _ => s

/-- A vote counted, with the demerit of the run that lost it, in one record (R360, R364, R371, R372; 17 R419). -/
def State.countVote (s : State) (tid : Nat) (lost : Option Nat) : State :=
  let s1 := { s with zhr := { s.zhr with votes := s.zhr.votes + 1, noMajority := if lost.isNone then s.zhr.noMajority + 1 else s.zhr.noMajority } }
  let s2 := (match lost with
    | some tile => (demeritOf tile).foldl (fun (s : State) (x : Nat × Nat) => s.raiseBucket x.1 x.2) s1
    | none => s1).newRecord
  s2.modChord tid (fun c => { c with mism := c.mism + 1 })

/-- A vote that the trailer has lost: the third run takes its place (R360). -/
def State.voteLead (s : State) (tid : Nat) (u : Team) (tid3 : Nat) (x : Seg) (owed : List (Nat × Nat)) : State :=
  ((s.countVote tid (some u.tile)).passSegment tid x owed).thirdTrails tid u.tid tid3

/-- A vote that the leader has lost: the third run takes its place, and a released segment records code 0x61 (R360, R366). -/
def State.voteTrail (s : State) (t u : Team) (tid3 : Nat) (x : Seg) (owed : List (Nat × Nat)) : State :=
  let s1 := (((s.countVote t.tid (some t.tile)).thirdLeads t.tid tid3 u.tid x.n x.rel).passSegment t.tid x owed)
  if x.rel then s1.modGrid t.serial (fun g => { g with err := if g.err.isSome then g.err else some 0x61 }) else s1

/-- A vote without a majority: the grid ends with code 0x60 (R360). -/
def State.voteNone (s : State) (t : Team) : State :=
  (s.countVote t.tid none).endGrid t.serial 0x60

/-- VOTE (R360): once the third run has closed the segment, the run that stands alone has lost; with no two equal the grid ends with code
0x60. -/
def execVote (tid : Nat) (s0 : State) : Out :=
  match (s0.team tid).bind (fun t => t.chord) with
  | none => .next s0
  | some c0 =>
    match c0.third with
    | none => .next s0
    | some tid3 =>
      let s := (s0.closeRun tid3).closeRun c0.trailer
      match s.team tid, s.team c0.trailer, s.team tid3, c0.segs.head? with
      | some t, some u, some w, some x =>
        let owed := s.owedNow tid ++ s.heldNow u.tid ++ s.heldNow tid3
        if x.st ≠ .voting || !s.runClosed t owed x.n || !s.followClosed t.closes u owed x.n || !s.followClosed t.closes w owed x.n then .next s
        else
          let lead := t.sigs c0.owed owed x.n
          let trail := u.sigs c0.owed owed x.n
          let third := w.sigs c0.owed owed x.n
          if third = lead then .next (if !x.rel && s.commitHeld c0.vers x.n then s else s.voteLead tid u tid3 x owed)
          else if third = trail then
            .next (if (if x.rel then !s.leadStill tid else s.commitHeld c0.thirdVers x.n) then s else s.voteTrail t u tid3 x owed)
          else .next (s.voteNone t)
      | _, _, _, _ => .next s

/-! ## Hold limits (R357) -/

/-- The closed segment of a team that is next to commit, where all its groups have closed it. -/
def State.releasable (s : State) (t : Team) (c : Chord) : Option Seg :=
  (c.segs.find? (fun x => !x.rel)).filter (fun x => decide (x.st = .closed) &&
    s.groups.all (fun g => decide (g.tid ≠ t.tid) || !g.live || (closeOf t.closes g.gidx.toNat x.n).isSome))

/-- The teams of a context whose segments a hold limit releases: those of grids without CHCTL.PARK (log entry 101). -/
def State.holdTeams (s : State) (ctx : Nat) : List Team := (s.checkedTeams ctx).filter (fun t => !s.parks t)

/-- The context's oldest closed segment that can be released: the DT of its close, its team and its number (R357). -/
def State.oldestClosed (s : State) (ctx : Nat) : Option (Nat × Nat × Nat) :=
  let l := (s.holdTeams ctx).filterMap (fun (t : Team) => (t.chord.bind (s.releasable t)).map (fun (x : Seg) => (x.closeDt, t.tid, x.n)))
  l.foldl (fun (b : Option (Nat × Nat × Nat)) x => match b with
    | none => some x
    | some y => if s.elapsed y.1 < s.elapsed x.1 then some x else some y) none

/-- Whether a closed segment of a context is left that a limit has still to release. -/
def State.closedLeft (s : State) (ctx : Nat) : Bool :=
  (s.holdTeams ctx).any (fun t => match t.chord with
    | some c => c.segs.any (fun x => !x.rel && decide (x.st = .closed))
    | none => false)

/-- The open segment of a context that has been open longest: its team. -/
def State.oldestOpen (s : State) (ctx : Nat) : Option (Nat × Nat) :=
  (s.holdTeams ctx).foldl (fun (b : Option (Nat × Nat)) (t : Team) => match t.chord with
    | none => b
    | some c =>
      if c.vers.isEmpty then b
      else (match b with
        | none => some (c.openDt, t.tid)
        | some y => if s.elapsed y.1 < s.elapsed c.openDt then some (c.openDt, t.tid) else some y)) none

/-- The open segment of a team closed with no trigger (R357): every group that stands closes now, a running one when its run ends. -/
def State.closeOpen (s : State) (tid : Nat) : State := ((s.openNext tid).closeStill tid 0).takeChecks tid

/-- A closed segment released: its versions committed without a compare (R357). -/
def State.releaseSegment (s : State) (tid n : Nat) : State :=
  (s.commitVersions tid n).modChord tid (fun c => { c with
    segs := c.segs.map (fun (x : Seg) => if x.n = n then { x with st := .released, rel := true } else x)
    released := true })

/-- PRISM_HOLD_LIMIT (R357): a limit exceeded, the context's oldest closed segment is released, an open one closed first when none is
left; with CHCTL.PARK the leaders park instead. -/
def execPrismHoldLimit (ctx : Nat) (s : State) : Out :=
  if !(s.bytesOver ctx || s.timeOver ctx) then .next s
  else
    match s.oldestClosed ctx with
    | some (_, tid, n) =>
      .next (if (s.team tid).any (fun t => t.chord.any (fun c => s.commitHeld c.vers n)) then s else s.releaseSegment tid n)
    | none =>
      if s.closedLeft ctx then .next s
      else
        match s.oldestOpen ctx with
        | some (_, tid) => .next (s.closeOpen tid)
        | none => .next s

end Sys2Proof.Machine
end

