-- ==== Sys2Proof/Machine/Elementary.lean ====
section
/-! DEFINITION. The special functions of 05 R135: square roots and quotients by exact integers, and 2^x, log2, sine and cosine by
fixed-point series carried far beyond the rounding. -/

namespace Sys2Proof.Machine

/-- The integer square root, bit by bit from bit `k` down. -/
def isqrtBits (n : Nat) : Nat → Nat → Nat
  | 0, acc => if (acc + 1) * (acc + 1) ≤ n then acc + 1 else acc
  | k + 1, acc =>
    let t := acc + 2 ^ (k + 1)
    isqrtBits n k (if t * t ≤ n then t else acc)

/-- The integer square root. -/
def isqrt (n : Nat) : Nat := isqrtBits n (bitLen n / 2 + 1) 0

/-- 1/x (R135): the quotient with 64 bits below the precision and a sticky rest. -/
def recip (mode : RMode) (s : Bool) (m : Nat) (e : Int) : Nat × BitVec 5 :=
  let k := bitLen m + 64
  fmtF32.round mode s (2 ^ k / m) (-e - k) (decide (2 ^ k % m ≠ 0))

/-- √x of a positive number. -/
def sqrtPos (mode : RMode) (m : Nat) (e : Int) : Nat × BitVec 5 :=
  let m1 := if e % 2 = 0 then m else 2 * m
  let e1 := if e % 2 = 0 then e else e - 1
  let n := m1 * 2 ^ 128
  let r := isqrt n
  fmtF32.round mode false r (e1 / 2 - 64) (decide (r * r ≠ n))

/-- 1/√x of a positive number. -/
def rsqrtPos (mode : RMode) (m : Nat) (e : Int) : Nat × BitVec 5 :=
  let m1 := if e % 2 = 0 then m else 2 * m
  let e1 := if e % 2 = 0 then e else e - 1
  let k := bitLen m1 + 64
  let r := isqrt (2 ^ (2 * k) / m1)
  fmtF32.round mode false r (-(e1 / 2) - k) (decide (r * r * m1 ≠ 2 ^ (2 * k)))

/-- Fraction bits of the fixed-point series. -/
def fixBits : Nat := 960

/-- A fixed-point 1. -/
def fixOne : Nat := 2 ^ fixBits

/-- The sum of term_n = term_(n−1) × t / n for n from `n` on: the series of e^t. -/
def expSeries (t : Nat) : Nat → Nat → Nat → Nat
  | 0, _, _ => 0
  | fuel + 1, n, term => term + expSeries t fuel (n + 1) (term * t / fixOne / n)

/-- The sum of z^(2n+1)/(2n+1) with signs +: the series of artanh z. -/
def artanhSeries (z2 : Nat) : Nat → Nat → Nat → Nat
  | 0, _, _ => 0
  | fuel + 1, n, pow => pow / n + artanhSeries z2 fuel (n + 2) (pow * z2 / fixOne)

/-- The natural logarithm of num/den, between 1 and 2, in fixed point. -/
def lnFix (num den : Nat) : Nat :=
  let z := (num - den) * fixOne / (num + den)
  2 * artanhSeries (z * z / fixOne) 310 1 z

/-- ln 2 in fixed point. -/
def ln2Fix : Nat := lnFix 2 1

/-- The alternating sum of x^(2n+1)/(2n+1) for x = 1/k: the series of arctan(1/k). -/
def atanSeries (k2 : Nat) : Nat → Nat → Nat → Int
  | 0, _, _ => 0
  | fuel + 1, n, pow => ((pow / n : Nat) : Int) - atanSeries k2 fuel (n + 2) (pow / k2)

/-- π in fixed point by Machin's formula. -/
def piFix : Nat := (16 * atanSeries 25 215 1 (fixOne / 5) - 4 * atanSeries 57121 65 1 (fixOne / 239)).toNat

/-- The alternating series Σ (−1)^k t^(n+2k) / (n+2k)! from a first term. -/
def trigSeries (t2 : Nat) : Nat → Nat → Nat → Int
  | 0, _, _ => 0
  | fuel + 1, n, term => (term : Int) - trigSeries t2 fuel (n + 2) (term * t2 / fixOne / ((n + 1) * (n + 2)))

/-- sin t of a fixed-point angle between 0 and π/2. -/
def sinFix (t : Nat) : Nat := (trigSeries (t * t / fixOne) 100 1 t).toNat

/-- cos t of a fixed-point angle between 0 and π/2. -/
def cosFix (t : Nat) : Nat := (trigSeries (t * t / fixOne) 100 0 fixOne).toNat

/-- An exact number as a fixed-point magnitude; F32's smallest bit is 2^−149. -/
def toFix (m : Nat) (e : Int) : Nat := if 0 ≤ e then m * 2 ^ e.toNat * fixOne else m * fixOne / 2 ^ (-e).toNat

/-- 2^x of a nonzero number (R135): exact for integers, else the series of e^(f ln 2) with a sticky rest. -/
def exp2Num (mode : RMode) (s : Bool) (m : Nat) (e : Int) : Nat × BitVec 5 :=
  if 9 < e + (bitLen m : Int) then
    if s then fmtF32.round mode false (2 ^ 80) (-1000) true else fmtF32.round mode false 1 1000 false
  else
    let x := toFix m e
    let neg := s && decide (x % fixOne ≠ 0)
    let n : Int := if s then (if neg then -(x / fixOne : Nat) - 1 else -(x / fixOne : Nat)) else ((x / fixOne : Nat) : Int)
    let f := if neg then fixOne - x % fixOne else x % fixOne
    if f = 0 then fmtF32.round mode false 1 n false
    else fmtF32.round mode false (expSeries (f * ln2Fix / fixOne) 190 1 fixOne) (n - fixBits) true

/-- log2 x of a positive number: exact for powers of two. -/
def log2Num (mode : RMode) (m : Nat) (e : Int) : Nat × BitVec 5 :=
  let k := bitLen m - 1
  let n : Int := e + k
  if m = 2 ^ k then fmtF32.round mode (decide (n < 0)) n.natAbs 0 false
  else
    let f : Int := ((lnFix m (2 ^ k) * fixOne / ln2Fix : Nat) : Int)
    let z := n * (fixOne : Int) + f
    fmtF32.round mode (decide (z < 0)) (if z < 0 then z.natAbs - 1 else z.natAbs) (-(fixBits : Int)) true

/-- The angle's quadrant and the rest below π/2. -/
def reduceAngle (m : Nat) (e : Int) : Nat × Nat :=
  let x := toFix m e
  let h := piFix / 2
  (x / h % 4, x % h)

/-- sin of a nonzero number. -/
def sinNum (mode : RMode) (s : Bool) (m : Nat) (e : Int) : Nat × BitVec 5 :=
  let (q, r) := reduceAngle m e
  let v := if q % 2 = 0 then sinFix r else cosFix r
  fmtF32.round mode (s ^^ decide (2 ≤ q)) v (-(fixBits : Int)) true

/-- cos of a nonzero number. -/
def cosNum (mode : RMode) (m : Nat) (e : Int) : Nat × BitVec 5 :=
  let (q, r) := reduceAngle m e
  let v := if q % 2 = 0 then cosFix r else sinFix r
  fmtF32.round mode (decide (q = 1) || decide (q = 2)) v (-(fixBits : Int)) true

end Sys2Proof.Machine
end

