-- ==== Sys2Proof/Machine/Integer.lean ====
section
/-! DEFINITION. Integer, bit-field, predicate, lane-exchange and uniform arithmetic instructions (04 R93 to R111). -/

namespace Sys2Proof.Machine

/-! ## The functions of R95 and R96 -/

/-- A signed integer kept to 32 bits (R93). -/
def wrap32 (x : Int) : W32 := BitVec.ofInt 32 x

/-- A signed integer kept to 64 bits (R93). -/
def wrap64 (x : Int) : W64 := BitVec.ofInt 64 x

/-- IMULH: bits [63:32] of the signed product. -/
def mulHigh (x y : W32) : W32 := BitVec.ofInt 32 (x.toInt * y.toInt / 2 ^ 32)

/-- IMULHU: bits [63:32] of the unsigned product. -/
def mulHighU (x y : W32) : W32 := BitVec.ofNat 32 (x.toNat * y.toNat / 2 ^ 32)

/-- The smaller and larger of two values, signed and unsigned. -/
def minS {n : Nat} (x y : BitVec n) : BitVec n := if x.toInt ≤ y.toInt then x else y

/-- The larger as signed values. -/
def maxS {n : Nat} (x y : BitVec n) : BitVec n := if x.toInt ≤ y.toInt then y else x

/-- The smaller as unsigned values. -/
def minU {n : Nat} (x y : BitVec n) : BitVec n := if x.toNat ≤ y.toNat then x else y

/-- The larger as unsigned values. -/
def maxU {n : Nat} (x y : BitVec n) : BitVec n := if x.toNat ≤ y.toNat then y else x

/-- A 32-bit shift count: the low 5 bits (R93). -/
def cnt32 (y : W32) : Nat := y.toNat % 32

/-- A 64-bit shift count: the low 6 bits (R93). -/
def cnt64 (y : W64) : Nat := y.toNat % 64

/-- POPC. -/
def popc32 (x : W32) : W32 := BitVec.ofNat 32 (popCount x)

/-- CLZ: 32 when the value is zero. -/
def clz32 (x : W32) : W32 :=
  match [31, 30, 29, 28, 27, 26, 25, 24, 23, 22, 21, 20, 19, 18, 17, 16, 15, 14, 13, 12, 11, 10, 9, 8, 7, 6, 5, 4, 3, 2, 1, 0].find?
      (fun i => x.getLsbD i) with
  | some i => BitVec.ofNat 32 (31 - i)
  | none => 32

/-- BREV: bit i of the result is bit 31 − i. -/
def brev32 (x : W32) : W32 := maskOf ((lanesOf x).map (fun i => 31 - i))

/-- The comparisons of R101. -/
def compares {n : Nat} (cc : BitVec 3) (x y : BitVec n) : Bool :=
  match cc.toNat with
  | 0 => decide (x = y)
  | 1 => decide (x ≠ y)
  | 2 => decide (x.toInt < y.toInt)
  | 3 => decide (y.toInt ≤ x.toInt)
  | 4 => decide (x.toNat < y.toNat)
  | 5 => decide (y.toNat ≤ x.toNat)
  | 6 => decide (x.toInt ≤ y.toInt)
  | _ => decide (y.toInt < x.toInt)

/-- The length a field at a position keeps: it never reaches past bit 31 (R100). -/
def fieldLen (pos len : Nat) : Nat := min len (32 - pos)

/-- BFX (R100). -/
def bitExtract (signed : Bool) (x : W32) (pos len : Nat) : W32 :=
  let n := fieldLen pos len
  let fld := x.toNat / 2 ^ pos % 2 ^ n
  if signed && decide (0 < n) && decide (2 ^ (n - 1) ≤ fld) then wrap32 ((fld : Int) - 2 ^ n) else BitVec.ofNat 32 fld

/-- BFI (R100). -/
def bitInsert (base x : W32) (pos len : Nat) : W32 :=
  let n := fieldLen pos len
  let m : W32 := BitVec.ofNat 32 ((2 ^ n - 1) * 2 ^ pos)
  (base &&& ~~~m) ||| ((x <<< pos) &&& m)

/-! ## Two registers (R95) -/

/-- IADD (R95). -/
def execIadd (h : Hdr) (d a b : BitVec 6) (s : State) : Out := laneBin (.iadd h d a b) h d a b (fun x y => x + y) s

/-- ISUB (R95). -/
def execIsub (h : Hdr) (d a b : BitVec 6) (s : State) : Out := laneBin (.isub h d a b) h d a b (fun x y => x - y) s

/-- IMUL (R95). -/
def execImul (h : Hdr) (d a b : BitVec 6) (s : State) : Out := laneBin (.imul h d a b) h d a b (fun x y => x * y) s

/-- IMULH (R95). -/
def execImulh (h : Hdr) (d a b : BitVec 6) (s : State) : Out := laneBin (.imulh h d a b) h d a b mulHigh s

/-- IMULHU (R95). -/
def execImulhu (h : Hdr) (d a b : BitVec 6) (s : State) : Out := laneBin (.imulhu h d a b) h d a b mulHighU s

/-- IMIN (R95). -/
def execImin (h : Hdr) (d a b : BitVec 6) (s : State) : Out := laneBin (.imin h d a b) h d a b minS s

/-- IMAX (R95). -/
def execImax (h : Hdr) (d a b : BitVec 6) (s : State) : Out := laneBin (.imax h d a b) h d a b maxS s

/-- IMINU (R95). -/
def execIminu (h : Hdr) (d a b : BitVec 6) (s : State) : Out := laneBin (.iminu h d a b) h d a b minU s

/-- IMAXU (R95). -/
def execImaxu (h : Hdr) (d a b : BitVec 6) (s : State) : Out := laneBin (.imaxu h d a b) h d a b maxU s

/-- AND (R95). -/
def execAndv (h : Hdr) (d a b : BitVec 6) (s : State) : Out := laneBin (.andv h d a b) h d a b (fun x y => x &&& y) s

/-- OR (R95). -/
def execOrv (h : Hdr) (d a b : BitVec 6) (s : State) : Out := laneBin (.orv h d a b) h d a b (fun x y => x ||| y) s

/-- XOR (R95). -/
def execXorv (h : Hdr) (d a b : BitVec 6) (s : State) : Out := laneBin (.xorv h d a b) h d a b (fun x y => x ^^^ y) s

/-- ANDN (R95). -/
def execAndn (h : Hdr) (d a b : BitVec 6) (s : State) : Out := laneBin (.andn h d a b) h d a b (fun x y => x &&& ~~~y) s

/-- SHL (R95). -/
def execShl (h : Hdr) (d a b : BitVec 6) (s : State) : Out := laneBin (.shl h d a b) h d a b (fun x y => x <<< cnt32 y) s

/-- SHR (R95). -/
def execShr (h : Hdr) (d a b : BitVec 6) (s : State) : Out := laneBin (.shr h d a b) h d a b (fun x y => x >>> cnt32 y) s

/-- SAR (R95). -/
def execSar (h : Hdr) (d a b : BitVec 6) (s : State) : Out :=
  laneBin (.sar h d a b) h d a b (fun x y => x.sshiftRight (cnt32 y)) s

/-- ROTL (R95). -/
def execRotl (h : Hdr) (d a b : BitVec 6) (s : State) : Out :=
  laneBin (.rotl h d a b) h d a b (fun x y => x.rotateLeft (cnt32 y)) s

/-! ## One register or none (R96 to R98) -/

/-- IABS (R96). -/
def execIabs (h : Hdr) (d a : BitVec 6) (s : State) : Out :=
  laneUn (.iabs h d a) h d a (fun x => if x.toInt < 0 then 0 - x else x) s

/-- INEG (R96). -/
def execIneg (h : Hdr) (d a : BitVec 6) (s : State) : Out := laneUn (.ineg h d a) h d a (fun x => 0 - x) s

/-- POPC (R96). -/
def execPopc (h : Hdr) (d a : BitVec 6) (s : State) : Out := laneUn (.popc h d a) h d a popc32 s

/-- CLZ (R96). -/
def execClz (h : Hdr) (d a : BitVec 6) (s : State) : Out := laneUn (.clz h d a) h d a clz32 s

/-- BREV (R96). -/
def execBrev (h : Hdr) (d a : BitVec 6) (s : State) : Out := laneUn (.brev h d a) h d a brev32 s

/-- MOV (R96). -/
def execMov (h : Hdr) (d a : BitVec 6) (s : State) : Out := laneUn (.mov h d a) h d a (fun x => x) s

/-- LIDX (R96). -/
def execLidx (h : Hdr) (d : BitVec 6) (s : State) : Out :=
  issueLane (.lidx h d) h { vw := [v1 d] } (setLanes d (fun _ l => BitVec.ofNat 32 l)) s

/-- IADD64 (R97). -/
def execIadd64 (h : Hdr) (d a b : BitVec 6) (s : State) : Out :=
  issueLane (.iadd64 h d a b) h { vr := [v2 a, v2 b], vw := [v2 d] } (setLanes64 d (fun g l => g.op64 a l + g.op64 b l)) s

/-- MOVI (R98). -/
def execMovi (h : Hdr) (d : BitVec 6) (k : BitVec 32) (s : State) : Out :=
  issueLane (.movi h d k) h { vw := [v1 d] } (setLanes d (fun _ _ => k)) s

/-- IADDI (R98). -/
def execIaddi (h : Hdr) (d a : BitVec 6) (k : BitVec 32) (s : State) : Out := laneUn (.iaddi h d a k) h d a (fun x => x + k) s

/-! ## A second word (R99, R100) -/

/-- IMAD (R99). -/
def execImad (h : Hdr) (d a b c : BitVec 6) (s : State) : Out :=
  laneTri (.imad h d a b c) h d a b c (fun x y z => x * y + z) s

/-- SEL (R99): the select predicate is an operand. -/
def execSel (h : Hdr) (d a b : BitVec 6) (neg : BitVec 1) (p : BitVec 3) (s : State) : Out :=
  issueLane (.sel h d a b neg p) h { vr := [v1 a, v1 b], vw := [v1 d] }
    (setLanes d (fun g l => if (g.rp p.toNat).getLsbD l ^^ neg.getLsbD 0 then g.op a l else g.op b l)) s

/-- BFX (R100): the position is immediate (op 0) or in vB. -/
def execBfx (h : Hdr) (d a b : BitVec 6) (t op : BitVec 4) (n : BitVec 8) (s : State) : Out :=
  issueLane (.bfx h d a b t op n) h { vr := if op.toNat = 0 then [v1 a] else [v1 a, v1 b], vw := [v1 d] }
    (setLanes d (fun g l =>
      bitExtract (decide (t.toNat = 1)) (g.op a l) (if op.toNat = 0 then b.toNat % 32 else (g.op b l).toNat % 32) n.toNat)) s

/-- BFI (R100). -/
def execBfi (h : Hdr) (d a b c : BitVec 6) (op : BitVec 4) (n : BitVec 8) (s : State) : Out :=
  issueLane (.bfi h d a b c op n) h { vr := if op.toNat = 0 then [v1 a, v1 c] else [v1 a, v1 b, v1 c], vw := [v1 d] }
    (setLanes d (fun g l =>
      bitInsert (g.op c l) (g.op a l) (if op.toNat = 0 then b.toNat % 32 else (g.op b l).toNat % 32) n.toNat)) s

/-! ## Comparisons and predicates (R102 to R104) -/

/-- A predicate computed for the active lanes; the others keep theirs (R102, R103). -/
def setPred (p : BitVec 3) (f : Group → Nat → Bool) (m : W32) (_ : Split) (s : State) : State × Fate :=
  ({ s with g := s.g.wpMask p.toNat m (maskOf (laneList.filter (f s.g))) }, .fall)

/-- ICMP (R102). -/
def execIcmp (h : Hdr) (cc p : BitVec 3) (a b : BitVec 6) (s : State) : Out :=
  issueLane (.icmp h cc p a b) h { vr := [v1 a, v1 b] } (setPred p (fun g l => compares cc (g.op a l) (g.op b l))) s

/-- The operations of PSET on all lanes (R103). -/
def predOp (op : BitVec 3) (x y : W32) : W32 :=
  match op.toNat with
  | 0 => x &&& y
  | 1 => x ||| y
  | 2 => x ^^^ y
  | 3 => x &&& ~~~y
  | _ => x ||| ~~~y

/-- PSET (R103). -/
def execPset (h : Hdr) (op pd pa pb : BitVec 3) (s : State) : Out :=
  issueLane (.pset h op pd pa pb) h {}
    (fun m _ s => ({ s with g := s.g.wpMask pd.toNat m (predOp op (s.g.rp pa.toNat) (s.g.rp pb.toNat)) }, .fall)) s

/-- The eight predicates of a lane as bits [7:0] (R104). -/
def predBits (g : Group) (l : Nat) : W32 :=
  BitVec.ofNat 32 ((upFrom 0 8).foldl (fun n i => n + bitOf ((g.rp i).getLsbD l) * 2 ^ i) 0)

/-- PMOV from the predicates (R104). -/
def execPmovFromP (h : Hdr) (d : BitVec 6) (s : State) : Out :=
  issueLane (.pmovFromP h d) h { vw := [v1 d] } (setLanes d predBits) s

/-- PMOV to the predicates (R104). -/
def execPmovToP (h : Hdr) (a : BitVec 6) (s : State) : Out :=
  issueLane (.pmovToP h a) h { vr := [v1 a] }
    (fun m _ s =>
      let put := fun (g : Group) i => g.wpMask i m (maskOf (laneList.filter (fun l => (s.g.op a l).getLsbD i)))
      ({ s with g := (upFrom 0 7).foldl put s.g }, .fall)) s

/-! ## Exchange across lanes (R105 to R107) -/

/-- A value read from a source lane, whatever that lane's state (R105). -/
def exchange (d a : BitVec 6) (src : Group → Nat → Nat) : W32 → Split → State → State × Fate :=
  setLanes d (fun g l => g.op a (src g l))

/-- LX.PICK (R105). -/
def execLxPick (h : Hdr) (d a b : BitVec 6) (s : State) : Out :=
  issueLane (.lxPick h d a b) h { vr := [v1 a, v1 b], vw := [v1 d] } (exchange d a (fun g l => (g.op b l).toNat % 32)) s

/-- LX.FLIP (R105). -/
def execLxFlip (h : Hdr) (d a : BitVec 6) (n : BitVec 5) (s : State) : Out :=
  issueLane (.lxFlip h d a n) h { vr := [v1 a], vw := [v1 d] } (exchange d a (fun _ l => (BitVec.ofNat 5 l ^^^ n).toNat)) s

/-- LX.ROT (R105). -/
def execLxRot (h : Hdr) (d a : BitVec 6) (n : BitVec 5) (s : State) : Out :=
  issueLane (.lxRot h d a n) h { vr := [v1 a], vw := [v1 d] } (exchange d a (fun _ l => (l + n.toNat) % 32)) s

/-- LX.SHIFT's source lane: its own where the shift leaves the group (R105). -/
def shiftLane (n : BitVec 6) (l : Nat) : Nat :=
  let k := (l : Int) + n.toInt
  if 0 ≤ k && k ≤ 31 then k.toNat else l

/-- LX.SHIFT (R105). -/
def execLxShift (h : Hdr) (d a : BitVec 6) (n : BitVec 6) (s : State) : Out :=
  issueLane (.lxShift h d a n) h { vr := [v1 a], vw := [v1 d] } (exchange d a (fun _ l => shiftLane n l)) s

/-- PVIEW's set T: the active lanes in which the predicate, negated or not, is 1 (R106). -/
def viewSet (g : Group) (neg : BitVec 1) (p : BitVec 3) (m : W32) : W32 :=
  m &&& (if neg.toNat = 1 then ~~~(g.rp p.toNat) else g.rp p.toNat)

/-- PVIEW.MASK (R106). -/
def execPviewMask (h : Hdr) (d : BitVec 6) (neg : BitVec 1) (p : BitVec 3) (s : State) : Out :=
  issueLane (.pviewMask h d neg p) h { vw := [v1 d] } (fun m sp s => setLanes d (fun g _ => viewSet g neg p m) m sp s) s

/-- PVIEW.ANY (R106). -/
def execPviewAny (h : Hdr) (pd : BitVec 3) (neg : BitVec 1) (p : BitVec 3) (s : State) : Out :=
  issueLane (.pviewAny h pd neg p) h {} (fun m sp s => setPred pd (fun g _ => decide (viewSet g neg p m ≠ 0)) m sp s) s

/-- PVIEW.ALL (R106). -/
def execPviewAll (h : Hdr) (pd : BitVec 3) (neg : BitVec 1) (p : BitVec 3) (s : State) : Out :=
  issueLane (.pviewAll h pd neg p) h {} (fun m sp s => setPred pd (fun g _ => decide (viewSet g neg p m = m)) m sp s) s

/-- PVIEW.COUNT (R106). -/
def execPviewCount (h : Hdr) (d : BitVec 6) (neg : BitVec 1) (p : BitVec 3) (s : State) : Out :=
  issueLane (.pviewCount h d neg p) h { vw := [v1 d] } (fun m sp s => setLanes d (fun g _ => popc32 (viewSet g neg p m)) m sp s) s

/-- The operations of LCOMB (R107). -/
def combOp {n : Nat} (op : BitVec 4) (x y : BitVec n) : BitVec n :=
  match op.toNat with
  | 0 => x + y
  | 1 => minS x y
  | 2 => maxS x y
  | 3 => minU x y
  | 4 => maxU x y
  | 5 => x &&& y
  | 6 => x ||| y
  | _ => x ^^^ y

/-- A list of values combined. -/
def combine {n : Nat} (op : BitVec 4) : List (BitVec n) → BitVec n
  | [] => 0
  | [x] => x
  | x :: rest => combOp op x (combine op rest)

/-- LCOMB (R107). -/
def execLcomb (h : Hdr) (d a : BitVec 6) (t op : BitVec 4) (s : State) : Out :=
  if t.toNat = 0 then
    issueLane (.lcomb h d a t op) h { vr := [v1 a], vw := [v1 d] }
      (fun m sp s => setLanes d (fun g _ => combine op ((lanesOf m).map (g.op a))) m sp s) s
  else
    issueLane (.lcomb h d a t op) h { vr := [v2 a], vw := [v2 d] }
      (fun m sp s => setLanes64 d (fun g _ => combine op ((lanesOf m).map (g.op64 a))) m sp s) s

/-! ## Uniform arithmetic (R108 to R110) -/

/-- The form `S[d] := f(S[a], S[b])`. -/
def uniBin (i : Instr) (h : Hdr) (d a b : BitVec 6) (f : W64 → W64 → W64) (s : State) : Out :=
  uniSet i h d [a, b] (fun g => f (g.rs a.toNat) (g.rs b.toNat)) s

/-- SADD (R108). -/
def execSadd (h : Hdr) (d a b : BitVec 6) (s : State) : Out := uniBin (.sadd h d a b) h d a b (fun x y => x + y) s

/-- SSUB (R108). -/
def execSsub (h : Hdr) (d a b : BitVec 6) (s : State) : Out := uniBin (.ssub h d a b) h d a b (fun x y => x - y) s

/-- SMUL (R108). -/
def execSmul (h : Hdr) (d a b : BitVec 6) (s : State) : Out := uniBin (.smul h d a b) h d a b (fun x y => x * y) s

/-- SMULH (R108): bits [127:64] of the signed product. -/
def execSmulh (h : Hdr) (d a b : BitVec 6) (s : State) : Out :=
  uniBin (.smulh h d a b) h d a b (fun x y => wrap64 (x.toInt * y.toInt / 2 ^ 64)) s

/-- SAND (R108). -/
def execSand (h : Hdr) (d a b : BitVec 6) (s : State) : Out := uniBin (.sand h d a b) h d a b (fun x y => x &&& y) s

/-- SOR (R108). -/
def execSor (h : Hdr) (d a b : BitVec 6) (s : State) : Out := uniBin (.sor h d a b) h d a b (fun x y => x ||| y) s

/-- SXOR (R108). -/
def execSxor (h : Hdr) (d a b : BitVec 6) (s : State) : Out := uniBin (.sxor h d a b) h d a b (fun x y => x ^^^ y) s

/-- SSHL (R108). -/
def execSshl (h : Hdr) (d a b : BitVec 6) (s : State) : Out := uniBin (.sshl h d a b) h d a b (fun x y => x <<< cnt64 y) s

/-- SSHR (R108). -/
def execSshr (h : Hdr) (d a b : BitVec 6) (s : State) : Out := uniBin (.sshr h d a b) h d a b (fun x y => x >>> cnt64 y) s

/-- SSAR (R108). -/
def execSsar (h : Hdr) (d a b : BitVec 6) (s : State) : Out :=
  uniBin (.ssar h d a b) h d a b (fun x y => x.sshiftRight (cnt64 y)) s

/-- SMIN (R108). -/
def execSmin (h : Hdr) (d a b : BitVec 6) (s : State) : Out := uniBin (.smin h d a b) h d a b minS s

/-- SMAX (R108). -/
def execSmax (h : Hdr) (d a b : BitVec 6) (s : State) : Out := uniBin (.smax h d a b) h d a b maxS s

/-- SSEL (R108): the destination is the mask. -/
def execSsel (h : Hdr) (d a b : BitVec 6) (s : State) : Out :=
  uniSet (.ssel h d a b) h d [d, a, b]
    (fun g => (g.rs a.toNat &&& g.rs d.toNat) ||| (g.rs b.toNat &&& ~~~(g.rs d.toNat))) s

/-- SSETQ (R110). -/
def execSsetq (h : Hdr) (cc q : BitVec 3) (a b : BitVec 6) (s : State) : Out :=
  issueUni (.ssetq h cc q a b) h { sr := [a.toNat, b.toNat] }
    (fun _ s => ({ s with g := s.g.wq q.toNat (compares cc (s.g.rs a.toNat) (s.g.rs b.toNat)) }, .fall)) s

/-- SMOV (R109). -/
def execSmov (h : Hdr) (d a : BitVec 6) (s : State) : Out := uniSet (.smov h d a) h d [a] (fun g => g.rs a.toNat) s

/-- SMOVI (R109). -/
def execSmovi (h : Hdr) (d : BitVec 6) (k : BitVec 32) (s : State) : Out :=
  uniSet (.smovi h d k) h d [] (fun _ => k.signExtend 64) s

/-- SMOVH (R109). -/
def execSmovh (h : Hdr) (d : BitVec 6) (k : BitVec 32) (s : State) : Out :=
  uniSet (.smovh h d k) h d [d] (fun g => k ++ (g.rs d.toNat).extractLsb' 0 32) s

/-- SADDI (R109). -/
def execSaddi (h : Hdr) (d a : BitVec 6) (k : BitVec 32) (s : State) : Out :=
  uniSet (.saddi h d a k) h d [a] (fun g => g.rs a.toNat + k.signExtend 64) s

/-! ## Between lanes and the uniform pipe (R111) -/

/-- BCAST (R111): the lanes of the issuing split's mask. -/
def execBcast (h : Hdr) (d a : BitVec 6) (s : State) : Out :=
  issue (.bcast h d a) h { vw := [v1 d], sr := [a.toNat] }
    (fun s => match s.g.running with | some sp => sp.mask | none => 0) (fun s => s.g.guardTrue h.g)
    (fun s => match s.g.running with
      | none => (s, .fall)
      | some sp => ({ s with g := s.g.wvMask (s.g.phys d.toNat) sp.mask (fun _ => (s.g.rs a.toNat).extractLsb' 0 32) }, .fall)) s

/-- LREAD (R111): lane S[b][4:0], whatever its state. -/
def execLread (h : Hdr) (d a b : BitVec 6) (s : State) : Out :=
  issueUni (.lread h d a b) h { vr := [v1 a], sr := [b.toNat], sw := [d.toNat] }
    (fun _ s => ({ s with g := s.g.ws d.toNat ((s.g.op a ((s.g.rs b.toNat).toNat % 32)).setWidth 64) }, .fall)) s

end Sys2Proof.Machine
end

