-- ==== Sys2Proof/Machine/Float.lean ====
section
/-! DEFINITION. The floating-point instructions (05 R128 to R140). -/

namespace Sys2Proof.Machine

/-! ## F32 and F64 arithmetic (R129 to R131) -/

/-- The address of the issuing instruction's word 0. -/
def Group.pcNow (g : Group) : BitVec 57 :=
  match g.running with
  | some sp => sp.pc
  | none => 0

/-- OriginNaN of a lane in a format at the issuing instruction. -/
def Group.org (g : Group) (f : Fmt) (l : Nat) : Nat := f.originNan g.pcNow l

/-- The form `d := f(a, b)` on F32 with FPCTL's mode. -/
def f32Bin (i : Instr) (h : Hdr) (d a b : BitVec 6) (f : RMode → Nat → FVal → FVal → Nat × BitVec 5) (s : State) : Out :=
  issueLane i h { vr := [v1 a, v1 b], vw := [v1 d] }
    (setLanesF d (fun g l => res32 (f (modeOf g.fpctl) (g.org fmtF32 l) (asF32 (g.op a l)) (asF32 (g.op b l))))) s

/-- The form `d := f(a, b)` on F64 pairs. -/
def f64Bin (i : Instr) (h : Hdr) (d a b : BitVec 6) (f : RMode → Nat → FVal → FVal → Nat × BitVec 5) (s : State) : Out :=
  issueLane i h { vr := [v2 a, v2 b], vw := [v2 d] }
    (setLanesF64 d (fun g l => res64 (f (modeOf g.fpctl) (g.org fmtF64 l) (asF64 (g.op64 a l)) (asF64 (g.op64 b l))))) s

/-- FADD (R129). -/
def execFadd (h : Hdr) (d a b : BitVec 6) (s : State) : Out := f32Bin (.fadd h d a b) h d a b fmtF32.add s

/-- FSUB (R129): x + (−y), a NaN y keeping its sign. -/
def execFsub (h : Hdr) (d a b : BitVec 6) (s : State) : Out :=
  f32Bin (.fsub h d a b) h d a b (fun m o x y => fmtF32.add m o x y.neg) s

/-- FMUL (R129). -/
def execFmul (h : Hdr) (d a b : BitVec 6) (s : State) : Out := f32Bin (.fmul h d a b) h d a b fmtF32.mul s

/-- DADD (R129). -/
def execDadd (h : Hdr) (d a b : BitVec 6) (s : State) : Out := f64Bin (.dadd h d a b) h d a b fmtF64.add s

/-- DMUL (R129). -/
def execDmul (h : Hdr) (d a b : BitVec 6) (s : State) : Out := f64Bin (.dmul h d a b) h d a b fmtF64.mul s

/-- FMIN (R129). -/
def execFmin (h : Hdr) (d a b : BitVec 6) (s : State) : Out :=
  issueLane (.fmin h d a b) h { vr := [v1 a, v1 b], vw := [v1 d] }
    (setLanesF d (fun g l => res32 (fmtF32.minmax false (g.op a l).toNat (g.op b l).toNat))) s

/-- FMAX (R129). -/
def execFmax (h : Hdr) (d a b : BitVec 6) (s : State) : Out :=
  issueLane (.fmax h d a b) h { vr := [v1 a, v1 b], vw := [v1 d] }
    (setLanesF d (fun g l => res32 (fmtF32.minmax true (g.op a l).toNat (g.op b l).toNat))) s

/-- DMIN (R129). -/
def execDmin (h : Hdr) (d a b : BitVec 6) (s : State) : Out :=
  issueLane (.dmin h d a b) h { vr := [v2 a, v2 b], vw := [v2 d] }
    (setLanesF64 d (fun g l => res64 (fmtF64.minmax false (g.op64 a l).toNat (g.op64 b l).toNat))) s

/-- DMAX (R129). -/
def execDmax (h : Hdr) (d a b : BitVec 6) (s : State) : Out :=
  issueLane (.dmax h d a b) h { vr := [v2 a, v2 b], vw := [v2 d] }
    (setLanesF64 d (fun g l => res64 (fmtF64.minmax true (g.op64 a l).toNat (g.op64 b l).toNat))) s

/-- FABS (R130). -/
def execFabs (h : Hdr) (d a : BitVec 6) (s : State) : Out := laneUn (.fabs h d a) h d a (fun x => x &&& 0x7FFFFFFF) s

/-- FNEG (R130). -/
def execFneg (h : Hdr) (d a : BitVec 6) (s : State) : Out := laneUn (.fneg h d a) h d a (fun x => x ^^^ 0x80000000) s

/-- FFMA (R131). -/
def execFfma (h : Hdr) (d a b c : BitVec 6) (rm : BitVec 2) (negc negp rs : BitVec 1) (s : State) : Out :=
  issueLane (.ffma h d a b c rm negc negp rs) h { vr := [v1 a, v1 b, v1 c], vw := [v1 d] }
    (setLanesF d (fun g l => res32 (fmtF32.fma (g.mode rm rs) (g.org fmtF32 l) (decide (negp.toNat = 1)) (decide (negc.toNat = 1))
      (asF32 (g.op a l)) (asF32 (g.op b l)) (asF32 (g.op c l))))) s

/-- DFMA (R131). -/
def execDfma (h : Hdr) (d a b c : BitVec 6) (rm : BitVec 2) (negc negp rs : BitVec 1) (s : State) : Out :=
  issueLane (.dfma h d a b c rm negc negp rs) h { vr := [v2 a, v2 b, v2 c], vw := [v2 d] }
    (setLanesF64 d (fun g l => res64 (fmtF64.fma (g.mode rm rs) (g.org fmtF64 l) (decide (negp.toNat = 1)) (decide (negc.toNat = 1))
      (asF64 (g.op64 a l)) (asF64 (g.op64 b l)) (asF64 (g.op64 c l))))) s

/-! ## Comparison and classification (R132, R133) -/

/-- A comparison's predicate and flags for the active lanes. -/
def setPredF (p : BitVec 3) (f : Group → Nat → Bool × BitVec 5) (m : W32) (_ : Split) (s : State) : State × Fate :=
  let fl := (lanesOf m).foldl (fun a l => a ||| (f s.g l).2) 0
  ({ s with g := (s.g.wpMask p.toNat m (maskOf (laneList.filter (fun l => (f s.g l).1)))).flag fl }, .fall)

/-- FCMP (R132). -/
def execFcmp (h : Hdr) (cc p : BitVec 3) (a b : BitVec 6) (s : State) : Out :=
  issueLane (.fcmp h cc p a b) h { vr := [v1 a, v1 b] }
    (setPredF p (fun g l => fmtF32.compare cc (g.op a l).toNat (g.op b l).toNat)) s

/-- DCMP (R132). -/
def execDcmp (h : Hdr) (cc p : BitVec 3) (a b : BitVec 6) (s : State) : Out :=
  issueLane (.dcmp h cc p a b) h { vr := [v2 a, v2 b] }
    (setPredF p (fun g l => fmtF64.compare cc (g.op64 a l).toNat (g.op64 b l).toNat)) s

/-- The format of FCLASS and NANORG's type code (R133). -/
def classFmt (t : BitVec 2) : Fmt :=
  match t.toNat with
  | 0 => fmtF32
  | 1 => fmtF64
  | 2 => fmtF16
  | _ => fmtBF16

/-- The single value FCLASS and NANORG read: the register, the pair, or the half (R133). -/
def classBits (g : Group) (a : BitVec 6) (t : BitVec 2) (hf : BitVec 1) (l : Nat) : Nat :=
  match t.toNat with
  | 0 => (g.op a l).toNat
  | 1 => (g.op64 a l).toNat
  | _ => (g.op a l).toNat / 2 ^ (16 * hf.toNat) % 2 ^ 16

/-- Whether a fraction is that of a quiet NaN with its origin bit (R124). -/
def Fmt.isOrigin (f : Fmt) (frac : Nat) : Bool := decide (frac / 2 ^ (f.fbits - 2) % 4 = 3)

/-- FCLASS's mask (R133). -/
def classMask (f : Fmt) (bits : Nat) : W32 :=
  match f.decode bits with
  | .inf s => if s then 0x001 else 0x080
  | .nan _ fr => if f.signalling fr then 0x100 else if f.isOrigin fr then 0x600 else 0x200
  | .num s m _ =>
    if m = 0 then (if s then 0x008 else 0x010)
    else if m < 2 ^ f.fbits then (if s then 0x004 else 0x020)
    else (if s then 0x002 else 0x040)

/-- FCLASS (R133). -/
def execFclass (h : Hdr) (d a : BitVec 6) (hf : BitVec 1) (t : BitVec 2) (s : State) : Out :=
  issueLane (.fclass h d a hf t) h { vr := [if t.toNat = 1 then v2 a else v1 a], vw := [v1 d] }
    (setLanes d (fun g l => classMask (classFmt t) (classBits g a t hf l))) s

/-- NANORG's word (R133): bit 31, the type code, the lane field and the hash. -/
def originWord (t : BitVec 2) (bits : Nat) : W32 :=
  let f := classFmt t
  match f.decode bits with
  | .nan _ fr =>
    if f.isOrigin fr then
      let lane := fr / 2 ^ (f.fbits - 7) % 32
      let hash :=
        match t.toNat with
        | 0 => fr % 2 ^ 16
        | 1 => (BitVec.ofNat 16 (fr / 2 ^ 13) ^^^ BitVec.ofNat 16 (fr / 2 ^ 29)).toNat
        | 2 => fr % 8
        | _ => 0
      BitVec.ofNat 32 (2 ^ 31 + t.toNat * 2 ^ 29 + lane * 2 ^ 24 + hash)
    else 0
  | _ => 0

/-- NANORG (R133). -/
def execNanorg (h : Hdr) (d a : BitVec 6) (hf : BitVec 1) (t : BitVec 2) (s : State) : Out :=
  issueLane (.nanorg h d a hf t) h { vr := [if t.toNat = 1 then v2 a else v1 a], vw := [v1 d] }
    (setLanes d (fun g l => originWord t (classBits g a t hf l))) s

/-! ## Packed 16-bit arithmetic (R134) -/

/-- The packed type's format. -/
def halfFmt (t : BitVec 4) : Fmt := if t.toNat = 0 then fmtF16 else fmtBF16

/-- Half k of a register decoded. -/
def halfOf (f : Fmt) (x : W32) (k : Nat) : FVal := f.decode (x.toNat / 2 ^ (16 * k) % 2 ^ 16)

/-- Two halves computed and packed, their flags ORed. -/
def packHalves (f : Nat → Nat × BitVec 5) : W32 × BitVec 5 :=
  (BitVec.ofNat 32 ((f 0).1 % 2 ^ 16 + (f 1).1 % 2 ^ 16 * 2 ^ 16), (f 0).2 ||| (f 1).2)

/-- HADD2 (R134). -/
def execHadd2 (h : Hdr) (d a b : BitVec 6) (t : BitVec 4) (rm : BitVec 2) (rs : BitVec 1) (s : State) : Out :=
  let f := halfFmt t
  issueLane (.hadd2 h d a b t rm rs) h { vr := [v1 a, v1 b], vw := [v1 d] }
    (setLanesF d (fun g l => packHalves (fun k =>
      f.add (g.mode rm rs) (g.org f l) (halfOf f (g.op a l) k) (halfOf f (g.op b l) k)))) s

/-- HMUL2 (R134). -/
def execHmul2 (h : Hdr) (d a b : BitVec 6) (t : BitVec 4) (rm : BitVec 2) (rs : BitVec 1) (s : State) : Out :=
  let f := halfFmt t
  issueLane (.hmul2 h d a b t rm rs) h { vr := [v1 a, v1 b], vw := [v1 d] }
    (setLanesF d (fun g l => packHalves (fun k =>
      f.mul (g.mode rm rs) (g.org f l) (halfOf f (g.op a l) k) (halfOf f (g.op b l) k)))) s

/-- HFMA2 (R134). -/
def execHfma2 (h : Hdr) (d a b c : BitVec 6) (t : BitVec 4) (rm : BitVec 2) (negc negp rs : BitVec 1) (s : State) : Out :=
  let f := halfFmt t
  issueLane (.hfma2 h d a b c t rm negc negp rs) h { vr := [v1 a, v1 b, v1 c], vw := [v1 d] }
    (setLanesF d (fun g l => packHalves (fun k =>
      f.fma (g.mode rm rs) (g.org f l) (decide (negp.toNat = 1)) (decide (negc.toNat = 1))
        (halfOf f (g.op a l) k) (halfOf f (g.op b l) k) (halfOf f (g.op c l) k)))) s

/-! ## Special functions (R135), variable latency -/

/-- A special function's results put among the outstanding ones, with their flags (R34, R135). -/
def special (i : Instr) (h : Hdr) (d a : BitVec 6) (f : RMode → Nat → FVal → Nat × BitVec 5) (s : State) : Out :=
  issueLane i h { vr := [v1 a], vw := [v1 d], late := true }
    (fun m sp s =>
      let res := fun l =>
        let x := asF32 (s.g.op a l)
        match x with
        | .nan _ _ => (fmtF32.propNan [x], flagIf (x.isSnan fmtF32) fNV)
        | _ => f (modeOf s.g.fpctl) (s.g.org fmtF32 l) x
      let fl := (lanesOf m).foldl (fun acc l => acc ||| (res l).2) 0
      (s.later sp ((lanesOf m).map (fun l => (s.g.phys d.toNat * 32 + l, BitVec.ofNat 32 (res l).1))) [] fl, .fall)) s

/-- FRCP (R135). -/
def execFrcp (h : Hdr) (d a : BitVec 6) (s : State) : Out :=
  special (.frcp h d a) h d a (fun md o x => match x with
    | .inf s => (fmtF32.signed s 0, 0)
    | .num s m e => if m = 0 then (fmtF32.infinity s, fDZ) else recip md s m e
    | _ => (o, fNV)) s

/-- FRSQ (R135). -/
def execFrsq (h : Hdr) (d a : BitVec 6) (s : State) : Out :=
  special (.frsq h d a) h d a (fun md o x => match x with
    | .inf s => if s then (o, fNV) else (0, 0)
    | .num s m e => if m = 0 then (fmtF32.infinity s, fDZ) else if s then (o, fNV) else rsqrtPos md m e
    | _ => (o, fNV)) s

/-- FSQRT (R135). -/
def execFsqrt (h : Hdr) (d a : BitVec 6) (s : State) : Out :=
  special (.fsqrt h d a) h d a (fun md o x => match x with
    | .inf s => if s then (o, fNV) else (fmtF32.infinity false, 0)
    | .num s m e => if m = 0 then (fmtF32.signed s 0, 0) else if s then (o, fNV) else sqrtPos md m e
    | _ => (o, fNV)) s

/-- FEX2 (R135). -/
def execFex2 (h : Hdr) (d a : BitVec 6) (s : State) : Out :=
  special (.fex2 h d a) h d a (fun md o x => match x with
    | .inf s => if s then (0, 0) else (fmtF32.infinity false, 0)
    | .num s m e => if m = 0 then fmtF32.round md false 1 0 false else exp2Num md s m e
    | _ => (o, fNV)) s

/-- FLG2 (R135). -/
def execFlg2 (h : Hdr) (d a : BitVec 6) (s : State) : Out :=
  special (.flg2 h d a) h d a (fun md o x => match x with
    | .inf s => if s then (o, fNV) else (fmtF32.infinity false, 0)
    | .num s m e => if m = 0 then (fmtF32.infinity true, fDZ) else if s then (o, fNV) else log2Num md m e
    | _ => (o, fNV)) s

/-- FSIN (R135). -/
def execFsin (h : Hdr) (d a : BitVec 6) (s : State) : Out :=
  special (.fsin h d a) h d a (fun md o x => match x with
    | .num s m e => if m = 0 then (fmtF32.signed s 0, 0) else sinNum md s m e
    | _ => (o, fNV)) s

/-- FCOS (R135). -/
def execFcos (h : Hdr) (d a : BitVec 6) (s : State) : Out :=
  special (.fcos h d a) h d a (fun md o x => match x with
    | .num _ m e => if m = 0 then (0x3F800000, 0) else cosNum md m e
    | _ => (o, fNV)) s

/-! ## Rounding to integral and conversions (R136 to R138) -/

/-- A magnitude rounded to an integer: (integer, inexact). -/
def toInteger (mode : RMode) (s : Bool) (m : Nat) (e : Int) : Nat × Bool := roundAt mode s m e 0 false

/-- x rounded to an integral value in its format (R136); a zero that comes from rounding has the sign of x (log entry 111). -/
def Fmt.integral (f : Fmt) (mode : RMode) (exact : Bool) (bits : Nat) : Nat × BitVec 5 :=
  match f.decode bits with
  | .nan s fr => (f.putNan f s fr, flagIf (f.signalling fr) fNV)
  | .inf _ => (bits, 0)
  | .num s m e =>
    if m = 0 then (bits, 0)
    else
      let (n, inexact) := toInteger mode s m e
      ((f.round .rz s n 0 false).1, flagIf (exact && inexact) fNX)

/-- FRND (R136). -/
def execFrnd (h : Hdr) (d a : BitVec 6) (t : BitVec 4) (rm : BitVec 2) (op : BitVec 4) (rs : BitVec 1) (s : State) : Out :=
  if t.toNat = 0 then
    issueLane (.frnd h d a t rm op rs) h { vr := [v1 a], vw := [v1 d] }
      (setLanesF d (fun g l => res32 (fmtF32.integral (g.mode rm rs) (decide (op.toNat = 1)) (g.op a l).toNat))) s
  else
    issueLane (.frnd h d a t rm op rs) h { vr := [v2 a], vw := [v2 d] }
      (setLanesF64 d (fun g l => res64 (fmtF64.integral (g.mode rm rs) (decide (op.toNat = 1)) (g.op64 a l).toNat))) s

/-- The floating format of a CVT type code, none for an integer type (R137). -/
def cvtFmt (t : BitVec 4) : Option Fmt :=
  match t.toNat with
  | 0 => some fmtF32
  | 1 | 12 => some fmtF16
  | 2 | 13 => some fmtBF16
  | 3 => some fmtF64
  | 4 | 14 => some fmtE4M3
  | 5 | 15 => some fmtE5M2
  | _ => none

/-- The integer range of a CVT type code (R137). -/
def cvtRange (t : BitVec 4) : Int × Int :=
  match t.toNat with
  | 6 => (-2 ^ 31, 2 ^ 31 - 1)
  | 7 => (0, 2 ^ 32 - 1)
  | 8 => (-2 ^ 63, 2 ^ 63 - 1)
  | 9 => (0, 2 ^ 64 - 1)
  | 10 => (-128, 127)
  | _ => (0, 255)

/-- An integer source read with its sign (R138). -/
def cvtInt (t : BitVec 4) (bits : Nat) : Int :=
  let w := cvtWidth t
  let (lo, _) := cvtRange t
  if lo < 0 && decide (2 ^ (w - 1) ≤ bits) then (bits : Int) - 2 ^ w else bits

/-- A finite number converted to a floating format (R138); SAT holds for one that comes from an integer too (log entry 105). -/
def cvtRound (f : Fmt) (mode : RMode) (sat : Bool) (s : Bool) (m : Nat) (e : Int) : Nat × BitVec 5 :=
  let r := f.round mode s m e false
  if sat && decide (r.2 &&& fOF ≠ 0) then (f.signed s f.top, fOF ||| fNX) else r

/-- A float value converted to a floating format (R126, R138). -/
def floatToFloat (src dst : Fmt) (mode : RMode) (sat : Bool) (x : FVal) : Nat × BitVec 5 :=
  match x with
  | .nan s fr => (src.putNan dst s fr, flagIf (src.signalling fr && src.hasInf) fNV)
  | .inf s =>
    if sat then (dst.signed s dst.top, fOF ||| fNX)
    else (dst.infinity s, flagIf (!dst.hasInf) fNV)
  | .num s m e => cvtRound dst mode sat s m e

/-- A float value converted to an integer type (R138): the integer's low bits and the flags. -/
def floatToInt (dst : BitVec 4) (mode : RMode) (x : FVal) : Nat × BitVec 5 :=
  let (lo, hi) := cvtRange dst
  let w := cvtWidth dst
  let bits := fun (n : Int) => (n % (2 ^ w : Int)).toNat
  match x with
  | .nan _ _ => (0, fNV)
  | .inf s => (bits (if s then lo else hi), fNV)
  | .num s m e =>
    let (n, inexact) := toInteger mode s m e
    let z : Int := if s then -(n : Int) else n
    if z < lo then (bits lo, fNV) else if hi < z then (bits hi, fNV) else (bits z, flagIf inexact fNX)

/-- One CVT of a source bit pattern (R138). -/
def convert (dst st : BitVec 4) (mode : RMode) (sat : Bool) (bits : Nat) : Nat × BitVec 5 :=
  match cvtFmt st, cvtFmt dst with
  | some fs, some fd => floatToFloat fs fd mode sat (fs.decode bits)
  | some fs, none => floatToInt dst mode (fs.decode bits)
  | none, some fd =>
    let n := cvtInt st bits
    cvtRound fd mode sat (decide (n < 0)) n.natAbs 0
  | none, none => (bits, 0)

/-- The source bits of a CVT (R137): the register, pair, half or byte. -/
def cvtSource (g : Group) (a : BitVec 6) (st : BitVec 4) (spos : BitVec 2) (l : Nat) : Nat :=
  let w := cvtWidth st
  if w = 64 then (g.op64 a l).toNat else (g.op a l).toNat / 2 ^ (w * spos.toNat) % 2 ^ w

/-- A narrow result put into its byte or half of the old destination (R138). -/
def putPart (old : W32) (w pos : Nat) (x : Nat) : W32 :=
  BitVec.ofNat 32 (old.toNat - (old.toNat / 2 ^ (w * pos) % 2 ^ w) * 2 ^ (w * pos) + x % 2 ^ w * 2 ^ (w * pos))

/-- CVT (R137, R138). -/
def execCvt (h : Hdr) (d a : BitVec 6) (dt : BitVec 4) (rm : BitVec 2) (st : BitVec 4) (spos dpos : BitVec 2) (sat rs : BitVec 1)
    (s : State) : Out :=
  let wd := cvtWidth dt
  let ws := cvtWidth st
  let sr := decide (12 ≤ dt.toNat)
  let one := fun (g : Group) (l : Nat) =>
    convert dt st (if sr then .sr (g.randomBits l) else g.mode rm rs) (decide (sat.toNat = 1)) (cvtSource g a st spos l)
  let rd := [if ws = 64 then v2 a else v1 a] ++ (if wd < 32 then [v1 d] else [])
  let u : Uses := { vr := rd, vw := [if wd = 64 then v2 d else v1 d] }
  issueLane (.cvt h d a dt rm st spos dpos sat rs) h u
    (fun m sp s =>
      let r := if wd = 64 then setLanesF64 d (fun g l => res64 (one g l)) m sp s
        else setLanesF d (fun g l => let x := one g l
          (if wd = 32 then BitVec.ofNat 32 x.1 else putPart (g.op d l) wd dpos.toNat x.1, x.2)) m sp s
      if sr then ({ r.1 with g := r.1.g.countRandom m }, r.2) else r) s

/-! ## DXB pack and unpack (R139, R140) -/

/-- floor(log2) of a number m × 2^e with m nonzero. -/
def floorLog2 (m : Nat) (e : Int) : Int := e + (bitLen m : Int) - 1

/-- The magnitude |RoundInt(x / 2^k)| and whether it is inexact. -/
def roundUnits (mode : RMode) (s : Bool) (m : Nat) (e k : Int) : Nat × Bool := roundAt mode s m (e - k) 0 false

/-- One packed element (R139): selector, sign, magnitude and the NX flag. -/
def packElem (mode : RMode) (mmax : Nat) (boff e0 e1 : Int) (x : FVal) : Nat × Bool × Nat × BitVec 5 :=
  match x with
  | .num s m e =>
    let (a, ia) := roundUnits mode s m e (e0 - boff)
    if a ≤ mmax then (0, s, a, flagIf ia fNX)
    else
      let (b, ib) := roundUnits mode s m e (e1 - boff)
      (1, s, min b mmax, flagIf (ib || decide (mmax < b)) fNX)
  | _ => (0, false, 0, 0)

/-- DXB.PACK's inputs, the 32 lanes with +0 where inactive (R139). -/
def packIn (g : Group) (a : BitVec 6) (m : W32) (l : Nat) : FVal := if m.getLsbD l then asF32 (g.op a l) else .num false 0 0

/-- The larger of floor(log2 |x|) over a list, none when all are zero. -/
def maxLog : List FVal → Option Int
  | [] => none
  | .num _ m e :: rest =>
    if m = 0 then maxLog rest
    else match maxLog rest with
      | none => some (floorLog2 m e)
      | some k => some (max k (floorLog2 m e))
  | _ :: rest => maxLog rest

/-- DXB.PACK's 32 elements as codes, with the exponent bytes and flags (R139). -/
def packBlock (g : Group) (a : BitVec 6) (m : W32) (t : BitVec 4) (md : RMode) : List Nat × Nat × Nat × BitVec 5 :=
  let is8 := decide (t.toNat % 2 = 0)
  let xs := laneList.map (packIn g a m)
  if xs.any (fun x => x.isNan || x.isInf) then (laneList.map (fun _ => 0), 0xFF, 0xFF, fNV)
  else
    let e1 : Int := match maxLog xs with
      | none => 6
      | some k => max 6 (k + 127)
    let e0 := e1 - 6
    let els := laneList.map (fun l =>
      packElem (if 2 ≤ t.toNat then .sr (g.randomBits l) else md) (if is8 then 63 else 3) (if is8 then 132 else 128) e0 e1
        (packIn g a m l))
    (els.map (fun x => if is8 then x.1 * 128 + bitOf x.2.1 * 64 + x.2.2.1 else x.1 * 8 + bitOf x.2.1 * 4 + x.2.2.1),
      e0.toNat, e1.toNat, els.foldl (fun f x => f ||| x.2.2.2) 0)

/-- `k` codes of `w` bits from position `n` on packed into one word, the first lowest. -/
def packWord (l : List Nat) (n k w : Nat) : W32 :=
  BitVec.ofNat 32 ((upFrom 0 k).foldl (fun acc i => acc + l.getD (n + i) 0 * 2 ^ (w * i)) 0)

/-- DXB.PACK (R139). -/
def execDxbPack (h : Hdr) (d a c : BitVec 6) (t : BitVec 4) (rm : BitVec 2) (rs : BitVec 1) (s : State) : Out :=
  let is8 := decide (t.toNat % 2 = 0)
  let out : W32 := if is8 then 0xFF else 0xF
  issue (.dxbPack h d a c t rm rs) h { vr := [v1 a], vw := [v1 d, v1 c] } (fun _ => out) (fun s => decide (activeMask h s ≠ 0))
    (fun s =>
      let m := activeMask h s
      let (els, e0, e1, fl) := packBlock s.g a m t (s.g.mode rm rs)
      let g1 := s.g.wvMask (s.g.phys d.toNat) out (fun l => if is8 then packWord els (4 * l) 4 8 else packWord els (8 * l) 8 4)
      let g2 := (g1.wvMask (s.g.phys c.toNat) out (fun _ => BitVec.ofNat 32 (e1 * 256 + e0))).flag fl
      ({ s with g := if 2 ≤ t.toNat then g2.countRandom m else g2 }, .fall)) s

/-- One unpacked element (R140). -/
def unpackElem (t : BitVec 4) (code e0 e1 : Nat) : W32 :=
  if e0 = 0xFF || e1 = 0xFF then 0x7FC00000
  else if t.toNat = 0 then
    BitVec.ofNat 32 (fmtF32.round .rz (decide (code / 64 % 2 = 1)) (code % 64) (((if code / 128 = 1 then e1 else e0 : Nat) : Int) - 132) false).1
  else
    BitVec.ofNat 32 (fmtF32.round .rz (decide (code / 4 % 2 = 1)) (code % 4) (((if code / 8 = 1 then e1 else e0 : Nat) : Int) - 128) false).1

/-- DXB.UNPK (R140). -/
def execDxbUnpk (h : Hdr) (d a c : BitVec 6) (t : BitVec 4) (s : State) : Out :=
  issueLane (.dxbUnpk h d a c t) h { vr := [v1 a, v1 c], vw := [v1 d] }
    (setLanes d (fun g l =>
      let w := (g.op c 0).toNat
      let code := if t.toNat = 0 then (g.op a (l / 4)).toNat / 2 ^ (8 * (l % 4)) % 256
        else (g.op a (l / 8)).toNat / 2 ^ (4 * (l % 8)) % 16
      unpackElem t code (w % 256) (w / 256 % 256))) s

end Sys2Proof.Machine
end

