-- ==== Sys2Proof/Machine/Gear.lean ====
section
/-! DEFINITION. GEAR, HINT and CLK, the gear of a tile and its transitions, pair balance, droop, the power governor and the cap's lease (14
R374 to R390). -/

namespace Sys2Proof.Machine

/-! ## GEAR, HINT and CLK (R382 to R385) -/

/-- GEAR.N (R375, R383). -/
def execGearN (h : Hdr) (s : State) : Out := issueUni (.gearN h) h {} (fun _ s => ({ s with g := { s.g with gearReq := false } }, .fall)) s

/-- GEAR.F (R375, R383). -/
def execGearF (h : Hdr) (s : State) : Out := issueUni (.gearF h) h {} (fun _ s => ({ s with g := { s.g with gearReq := true } }, .fall)) s

/-- GEAR.W (R375, R383): the request the group started with. -/
def execGearW (h : Hdr) (s : State) : Out :=
  issueUni (.gearW h) h {} (fun _ s => ({ s with g := { s.g with gearReq := s.g.gearStart } }, .fall)) s

/-- HINT.COMPUTE (R384): advice that changes nothing. -/
def execHintCompute (h : Hdr) (s : State) : Out := issueUni (.hintCompute h) h {} (fun _ s => (s, .fall)) s

/-- HINT.MEMORY (R384). -/
def execHintMemory (h : Hdr) (s : State) : Out := issueUni (.hintMemory h) h {} (fun _ s => (s, .fall)) s

/-- HINT.WAIT (R384). -/
def execHintWait (h : Hdr) (s : State) : Out := issueUni (.hintWait h) h {} (fun _ s => (s, .fall)) s

/-- HINT.ENDPHASE (R384). -/
def execHintEndphase (h : Hdr) (s : State) : Out := issueUni (.hintEndphase h) h {} (fun _ s => (s, .fall)) s

/-- CLK (R385): the device time, in a transient park until it is written. -/
def execClk (h : Hdr) (d : BitVec 6) (s : State) : Out :=
  issueUni (.clk h d) h { sw := [d.toNat], late := true, logged := true, parks := true }
    (fun sp s => (s.laterLogged sp [] [(d.toNat, BitVec.ofNat 64 s.dt)], .pass .clk)) s

/-! ## The target gear (R376) and transitions (R377, R378) -/

/-- Whether a resident group is counted for its tile's gear (R376). -/
def State.isCounted (s : State) (g : Group) : Bool :=
  g.live && !g.away && !g.halted && (g.inh || !(g.splits.all (fun sp => sp.waits) && (s.ctx g.ctx).auto))

/-- The request a group is counted with (R376). -/
def State.request (s : State) (g : Group) : Bool :=
  match g.role with
  | .plain | .leader => g.gearReq
  | .third => true
  | .trailer => if (s.replayOf g).isSome then g.gearReq else s.forcedF g

/-- A tile's target gear: whether it is F (R376). -/
def State.targetF (s : State) (tile : Nat) : Bool :=
  s.groups.any (fun g => decide (g.tile = tile) && s.isCounted g && s.request g)

/-- GOVCTL's fields (R390). -/
def State.dwell (s : State) : Nat := field (s.winGet 0x010000) 0 16 * 10
/-- BALWAIT in ns (R390). -/
def State.balWait (s : State) : Nat := field (s.winGet 0x010000) 16 16 * 1000
/-- BALPCT (R390). -/
def State.balPct (s : State) : Nat := field (s.winGet 0x010000) 32 8

/-- The tiles of a cluster pair (R13). -/
def pairTiles (pair : Nat) : List Nat := upFrom (pair / 64 * 256 + pair % 64 * 8) 8

/-- Whether a tile's gear differs from its target and no dwell time holds it back (R377). -/
def State.wantsChange (s : State) (tile : Nat) : Bool :=
  let t := s.tile tile
  t.trans.isNone && decide (t.fgear ≠ s.targetF tile) && (!t.fgear || decide (s.dwell ≤ s.elapsed t.since))

/-- The deferral of a tile whose target has lapsed cancelled (R377). -/
def State.cancelLapsed (s : State) (tile : Nat) : State :=
  if (s.tile tile).deferred.isSome && decide ((s.tile tile).fgear = s.targetF tile) then s.modTile tile (fun t => { t with deferred := none }) else s

/-- The number of a pair's deferred transitions kept in BALST.PEND (R387). -/
def State.recount (s : State) (pair : Nat) : State :=
  s.modPair pair (fun p => { p with pend := ((pairTiles pair).filter (fun t => (s.tile t).deferred.isSome)).length })

/-- What the commands of a tile's own TCE have asked global memory for when the clock stops, which lands during the transition: as much of what is left as a free
value says (R378; 11 R310; log entry 122). -/
def State.askedFor (s : State) (tile : Nat) : State :=
  (s.cmds.filter (fun c => decide (c.tile = tile) && decide (c.kind = 0 || c.kind = 2) && c.started && c.error.isNone)).foldl (fun s c =>
    let (w, s1) := s.fresh
    s1.modCmd c.id (fun c => { c with asked := c.pos + w.toNat % (s.cmdTotal c - c.pos + 1) })) s

/-- A transition of a tile begun: its clock stops (R377, R378). -/
def State.startChange (s : State) (tile : Nat) : State :=
  ((s.askedFor tile).modTile tile (fun t => { t with trans := some (!t.fgear), deferred := none, want := none, since := s.dt })).recount (pairOf tile)

/-- The clock of a tile restarted in the gear it has changed to: the landing buffer drains, and groups asked to stop that stand at a boundary are away (R377,
R378; 11 R310; 12 R334). -/
def State.endChange (s : State) (tile : Nat) (f : Bool) : State :=
  ((s.modTile tile (fun t => { t with fgear := f, trans := none, since := s.dt })).drainLanding tile).settleStops

/-- Whether the imbalance of a pair of currents is at most a bound in percent. -/
def withinPct (a b pct : Nat) : Bool := decide ((max a b - min a b) * 100 ≤ pct * max a b)

/-- Whether the imbalance of one pair of currents is below that of another. -/
def lessUneven (a b c d : Nat) : Bool := decide ((max a b - min a b) * max c d < (max c d - min c d) * max a b)

/-- Whether the balancer grants a transition by its prediction: the imbalance of the predicted currents is within BALPCT, or below the one
measured (R380). -/
def State.grants (s : State) (upper lower predUpper predLower : Nat) : Bool :=
  withinPct predUpper predLower s.balPct || lessUneven predUpper predLower upper lower

/-- A transition of a tile deferred (R380, R387). -/
def State.defer (s : State) (tile : Nat) : State :=
  ((s.modTile tile (fun x => { x with deferred := some s.dt, want := none })).recount (pairOf tile)).modPair (pairOf tile) (fun p => { p with defers := p.defers + 1 })

/-- A transition that a tile wants put to the balancer (R13, R380): the currents that it measured and those that it predicts are free values. -/
def State.decideGear (s : State) (tile : Nat) : State :=
  let (w, s1) := s.fresh
  let s2 := s1.modPair (pairOf tile) (fun p => { p with light := decide (field w 16 16 < field w 0 16) })
  if s2.grants (field w 0 16) (field w 16 16) (field w 32 16) (field w 48 16) then s2.startChange tile else s2.defer tile

/-- Whether a tile wants a transition that is not deferred. -/
def State.starts (s : State) (tile : Nat) : Bool := s.wantsChange tile && (s.tile tile).deferred.isNone

/-- GEAR_TRANSITION_START (R13, R377, R380): a tile whose target differs, that no dwell time or deferral holds back, puts its transition to the
balancer. -/
def execGearTransitionStart (tile : Nat) (s : State) : Out :=
  if isTile tile then
    let s1 := (s.cancelLapsed tile).recount (pairOf tile)
    .next (if s1.starts tile then s1.decideGear tile else s1)
  else .next s

/-- A tile's target looked at (R377): a deferral whose target has lapsed is cancelled at once, and the DT at which the target comes to differ is kept. -/
def State.noteTarget (s : State) (tile : Nat) : State :=
  let s1 := if (s.tile tile).deferred.isSome then (s.cancelLapsed tile).recount (pairOf tile) else s
  match s1.starts tile, (s1.tile tile).want with
  | true, none => s1.modTile tile (fun t => { t with want := some s1.dt })
  | false, some _ => s1.modTile tile (fun t => { t with want := none })
  | _, _ => s1

/-- The gear that a transition of a tile has reached: 600 ns to F, 300 ns to N (R377). -/
def State.changed (s : State) (tile : Nat) : Option Bool :=
  (s.tile tile).trans.filter (fun f => decide ((if f then 600 else 300) ≤ s.elapsed (s.tile tile).since))

/-- The tiles that hold groups or change gear. -/
def State.busyTiles (s : State) : List Nat :=
  dedup ((s.groups.filter (fun g => g.live && !g.away)).map (fun (g : Group) => g.tile) ++
    (s.tiles.filter (fun t => t.fgear || t.trans.isSome || t.deferred.isSome || t.want.isSome)).map (fun (t : Tile) => t.id))

/-- GEAR_TRANSITION_END (R377, R378; 11 R310): the transition's time over, the clock restarts. -/
def execGearTransitionEnd (tile : Nat) (s : State) : Out :=
  .next (match s.changed tile with
  | some f => s.endChange tile f
  | none => s)

/-! ## Pair balance (R380) -/

/-- Imbalance in units of 0.5 %, saturating (R387). -/
def imbUnits (a b : Nat) : Nat := if max a b = 0 then 0 else min 255 ((max a b - min a b) * 200 / max a b)

/-- The transition of a pair that the balancer looks at: the one deferred longest, else the first tile that wants one. -/
def State.candidate (s : State) (pair : Nat) : Option Nat :=
  let want := (pairTiles pair).filter (fun t => s.wantsChange t)
  match (want.filter (fun t => (s.tile t).deferred.isSome)).foldl (fun (b : Option (Nat × Nat)) t =>
      match b, (s.tile t).deferred with
      | none, some d => some (d, t)
      | some y, some d => if d < y.1 then some (d, t) else some y
      | b, none => b) none with
  | some y => some y.2
  | none => want.head?

/-- A pair's currents measured (R380, R387): balance load stops once they would stay within BALPCT without the layer's current that it makes, a free value (log
entry 120). -/
def State.measured (s : State) (pair upper lower : Nat) : State :=
  let (w, s1) := if (s.pair pair).burn then s.fresh else (0, s)
  s1.modPair pair (fun p => { p with
    imb := imbUnits upper lower
    burn := p.burn && !(if p.burnLow then withinPct upper (lower - w.toNat) s.balPct else withinPct (upper - w.toNat) lower s.balPct)
    light := decide (lower < upper) })

/-- PAIR_BALANCE_MEASURE (R380): the measured currents of the two layers and those predicted for the pair's oldest candidate, which is
granted or deferred. -/
def execPairBalanceMeasure (pair upper lower predUpper predLower : Nat) (s : State) : Out :=
  if 256 ≤ pair || 18 ≤ pair % 64 then .next s
  else
    let s0 := ((pairTiles pair).foldl (fun s t => s.cancelLapsed t) s).recount pair
    let s1 := s0.measured pair upper lower
    match s1.candidate pair with
    | none => .next s1
    | some t =>
      if s1.grants upper lower predUpper predLower then .next (s1.startChange t)
      else if (s1.tile t).deferred.isSome then .next s1
      else .next (s1.defer t)

/-- Whether a tile's transition has been deferred for BALWAIT and is the oldest of its pair (R380). -/
def State.waitedOut (s : State) (tile : Nat) : Bool :=
  (s.tile tile).deferred.any (fun d => decide (s.balWait ≤ s.elapsed d)) && s.wantsChange tile && decide (s.candidate (pairOf tile) = some tile)

/-- A transition granted for its wait: the lighter layer burns balance load (R380). -/
def State.grantLate (s : State) (tile : Nat) : State :=
  (s.startChange tile).modPair (pairOf tile) (fun p => { p with burn := true, burnLow := p.light })

/-- BALANCE_WAIT_EXPIRY (R380): a transition deferred for BALWAIT is granted, the oldest of its pair first. -/
def execBalanceWaitExpiry (tile : Nat) (s0 : State) : Out :=
  let s := (s0.cancelLapsed tile).recount (pairOf tile)
  .next (if s.waitedOut tile then s.grantLate tile else s)

/-! ## The tiles' gears as DT passes (R377, R380) -/

/-- What has come due for a tile's gear: a transition ends, one deferred for BALWAIT is granted, or one that has not begun 100 ns after the target came to differ
begins. -/
def State.gearDue (s : State) (tile : Nat) : State :=
  match s.changed tile with
  | some f => s.endChange tile f
  | none =>
    if s.waitedOut tile then s.grantLate tile
    else if s.starts tile && (s.tile tile).want.any (fun d => decide (100 ≤ s.elapsed d)) then s.decideGear tile
    else s

/-! ## Droop (R381) -/

/-- DROOP_STRETCH (R381): the cluster's clock is stretched and the event counted. -/
def execDroopStretch (cluster : Nat) (s : State) : Out :=
  .next (if cluster % 64 < 36 && cluster < 256 then s.modClu cluster (fun c => { c with stretched := true, droops := c.droops + 1 }) else s)

/-- DROOP_RECOVERY (R381). -/
def execDroopRecovery (cluster : Nat) (s : State) : Out :=
  .next (if (s.clu cluster).stretched then s.modClu cluster (fun c => { c with stretched := false }) else s)

/-! ## Power caps (R388, R389) -/

/-- The ready clusters of the package. -/
def State.readyClusters (s : State) : List Nat :=
  ((upFrom 0 4).flatMap (fun d => (upFrom 0 36).map (fun c => d * 64 + c))).filter (fun c => s.ready (208 + 36 * (c / 64) + c % 64))

/-- Whether a cluster's clocks are at their floors (R374). -/
def Clu.atFloor (c : Clu) : Bool := decide (c.fmhz.toNat = 1000) && decide (c.nmhz.toNat = 300)

/-- Whether a cap binds at all (R388). -/
def State.capBinds (s : State) : Bool := decide (s.capNow < 2800)

/-- Whether the governor may set a cluster's clocks so: in steps of 50 MHz between floor and top, lower only over the cap and the N clock
only once the F clock is at its floor, higher only within it (R374, R388). -/
def State.clocksOk (s : State) (c : Clu) (f n power : Nat) : Bool :=
  let above := s.capBinds && decide (s.capNow < power)
  decide (1000 ≤ f) && decide (f ≤ 2100) && decide (f % 50 = 0) && decide (300 ≤ n) && decide (n ≤ 550) && decide (n % 50 = 0) &&
    (if above then decide (f ≤ c.fmhz.toNat) && decide (n ≤ c.nmhz.toNat) && (decide (n = c.nmhz.toNat) || decide (f = 1000))
      else decide (c.fmhz.toNat ≤ f) && decide (c.nmhz.toNat ≤ n))

/-- A cluster's clocks set where the governor may set them so (R374, R388). -/
def State.setClocks (s : State) (cluster : Nat) (fmhz nmhz : BitVec 12) (power : Nat) : State :=
  if s.clocksOk (s.clu cluster) fmhz.toNat nmhz.toNat power then s.modClu cluster (fun c => { c with fmhz := fmhz, nmhz := nmhz }) else s

/-- CAPSTAT.UNMET: every clock at its floor and the cap still exceeded; the event that tells it (R388, R406). -/
def State.noteUnmet (s : State) (cluster power : Nat) : State :=
  let unmet := s.capBinds && decide (s.capNow < power) && (cluster :: s.readyClusters).all (fun c => (s.clu c).atFloor)
  let was := (s.winGet 0x010010).getLsbD 17
  let s1 := s.winSet 0x010010 (setField (s.winGet 0x010010) 17 1 (bitOf unmet))
  if unmet && !was then s1.pushFault 0 5 0 (BitVec.ofNat 64 s1.capNow) 0 else s1

/-- GOVERNOR_ADJUST (R374, R388): a cluster's clocks set as the governor chose them at a measured power. -/
def execGovernorAdjust (cluster : Nat) (fmhz nmhz : BitVec 12) (power : Nat) (s : State) : Out :=
  if 256 ≤ cluster || 36 ≤ cluster % 64 then .next s
  else .next ((s.setClocks cluster fmhz nmhz power).noteUnmet cluster power)

/-- CAP_LEASE_EXPIRY (R389): the floor is in force. -/
def execCapLeaseExpiry (s : State) : Out :=
  match s.capEnd with
  | none => .next s
  | some t =>
    if !s.ahead t then
      .next { s.winSet 0x010010 (setField (setField (s.winGet 0x010010) 0 16 (field (s.winGet 0x010008) 0 16)) 16 1 1) with capEnd := none }
    else .next s

end Sys2Proof.Machine
end

