-- ==== Sys2Proof/Machine/Matrix.lean ====
section
/-! DEFINITION. The matrix engine: its queue, MMA with the internal accumulation format and the group sum, the moves of rows and the
conversions, and the two engine steps (06 R142 to R164). -/

namespace Sys2Proof.Machine

/-- The internal accumulation format (R143). -/
def fmtAcc : Fmt := ⟨34, 10, 23, 511, 1022 * 2 ^ 23 + 0x7FFFFF, true⟩

/-- The shape of a type: K, bits of an element, products per group (R148). -/
def mmaK (t : Nat) : Nat :=
  match t with
  | 0 => 64
  | 1 => 128
  | 2 | 3 => 32
  | 4 => 16
  | _ => 8

/-- Products per group (R148). -/
def mmaG (t : Nat) : Nat :=
  match t with
  | 0 | 1 => 32
  | 2 | 3 => 16
  | _ => 4

/-- Element k of a lane's fragment as raw bits (R149): `get j` is register j of the lane. -/
def fragElem (t : Nat) (get : Nat → W32) (k : Nat) : Nat :=
  match t with
  | 0 => (get (k / 4)).toNat / 2 ^ (8 * (k % 4)) % 256
  | 1 => (get (k / 8)).toNat / 2 ^ (4 * (k % 8)) % 16
  | 2 | 3 => (get (k / 2)).toNat / 2 ^ (16 * (k % 2)) % 65536
  | 4 => (get k).toNat
  | _ => (get (2 * k)).toNat + (get (2 * k + 1)).toNat * 2 ^ 32

/-- The format an element's NaN is in (R154): a DXB NaN is F32's 0x7FC0_0000. -/
def elemFmt (t : Nat) : Fmt :=
  match t with
  | 2 => fmtBF16
  | 3 => fmtF16
  | 5 => fmtF64
  | _ => fmtF32

/-- The value of an element (R119, R151); `e0` and `e1` are its block's exponents, used by DXB alone. -/
def elemVal (t : Nat) (bits e0 e1 : Nat) : FVal :=
  match t with
  | 0 =>
    if e0 = 0xFF || e1 = 0xFF then .nan false 0x400000
    else .num (decide (bits / 64 % 2 = 1)) (bits % 64) (((if bits / 128 = 1 then e1 else e0 : Nat) : Int) - 132)
  | 1 =>
    if e0 = 0xFF || e1 = 0xFF then .nan false 0x400000
    else .num (decide (bits / 4 % 2 = 1)) (bits % 4) (((if bits / 8 = 1 then e1 else e0 : Nat) : Int) - 128)
  | _ => (elemFmt t).decode bits

/-- A term of a group: a product of two elements, or the running value (R152). -/
inductive Term where
  | prod (a b : FVal)
  | run (x : FVal)
  deriving DecidableEq, Repr

/-- The first NaN of a list of terms with its format, A before B (R154). -/
def firstNan (f : Fmt) : List Term → Option Nat
  | [] => none
  | .prod (.nan s fr) _ :: _ => some (f.putNan fmtAcc s fr)
  | .prod _ (.nan s fr) :: _ => some (f.putNan fmtAcc s fr)
  | .run (.nan s fr) :: _ => some (fmtAcc.putNan fmtAcc s fr)
  | _ :: rest => firstNan f rest

/-- Whether a term has a signalling NaN operand (R154). -/
def Term.snan (f : Fmt) : Term → Bool
  | .prod a b => a.isSnan f || b.isSnan f
  | .run x => x.isSnan fmtAcc

/-- A term without NaN as a value; 0 × ∞ is none. -/
def Term.value : Term → Option FVal
  | .run x => some x
  | .prod a b =>
    match a, b with
    | .inf s1, .inf s2 => some (.inf (s1 ^^ s2))
    | .inf s1, .num s2 m _ => if m = 0 then none else some (.inf (s1 ^^ s2))
    | .num s1 m _, .inf s2 => if m = 0 then none else some (.inf (s1 ^^ s2))
    | .num s1 m1 e1, .num s2 m2 e2 => some (.num (s1 ^^ s2) (m1 * m2) (e1 + e2))
    | _, _ => none

/-- The largest floor(log2 |t|) of finite terms, none when all are zero (R153 step 2). -/
def emaxOf : List FVal → Option Int
  | [] => none
  | .num _ m e :: rest =>
    if m = 0 then emaxOf rest
    else match emaxOf rest with
      | none => some (floorLog2 m e)
      | some k => some (max k (floorLog2 m e))
  | _ :: rest => emaxOf rest

/-- A term cut to units of 2^u: the signed units and whether something was discarded (R153 step 3). -/
def cutTerm (u : Int) : FVal → Int × Bool
  | .num s m e =>
    let n := if u ≤ e then m * 2 ^ (e - u).toNat else m / 2 ^ (u - e).toNat
    let lost := if u ≤ e then false else decide (m % 2 ^ (u - e).toNat ≠ 0)
    (if s then -(n : Int) else (n : Int), lost)
  | _ => (0, false)

/-- GroupSum of finite terms (R153): the bits of the internal format. -/
def groupFinite (mode : RMode) (ts : List FVal) : Nat :=
  match emaxOf ts with
  | none => fmtAcc.signed (ts.all (fun t => t.sign) || mode.isRd) 0
  | some emax =>
    let u := emax - 26
    let cuts := ts.map (cutTerm u)
    let sum := cuts.foldl (fun a c => a + c.1) (0 : Int)
    let sticky := cuts.any (fun c => c.2)
    let sig : Int :=
      if sum < 0 then -1
      else if 0 < sum then 1
      else match (ts.zip cuts).find? (fun x => x.2.2) with
        | some x => if x.1.sign then -1 else 1
        | none => 1
    let v := 2 * sum + (if sticky then sig else 0)
    if v = 0 then fmtAcc.signed mode.isRd 0
    else (fmtAcc.round mode (decide (v < 0)) v.natAbs (u - 1) false).1

/-- GroupSum with the special values of R154: bits and NV. -/
def groupSum (f : Fmt) (mode : RMode) (org : Nat) (ts : List Term) : Nat × BitVec 5 :=
  match firstNan f ts with
  | some r => (r, flagIf (ts.any (Term.snan f)) fNV)
  | none =>
    let vs := ts.filterMap Term.value
    let pos := vs.any (fun v => v.isInf && !v.sign)
    let neg := vs.any (fun v => v.isInf && v.sign)
    if decide (vs.length < ts.length) || (pos && neg) then (org, fNV)
    else if pos then (fmtAcc.infinity false, 0)
    else if neg then (fmtAcc.infinity true, 0)
    else (groupFinite mode vs, 0)

/-- OriginNaN in the internal format: F32's fraction under the internal exponent (R143, R154). -/
def accOrigin (pc : BitVec 57) (row : Nat) : Nat := 1023 * 2 ^ 23 + fmtF32.originNan pc row % 2 ^ 23

/-- The running value of one slot through the groups of an MMA (R152). -/
def mmaGroups (t : Nat) (mode : RMode) (org : Nat) (a b : Nat → FVal) : Nat → Nat → Option Nat → BitVec 5 → Nat × BitVec 5
  | 0, _, run, fl => (run.getD 0, fl)
  | fuel + 1, k, run, fl =>
    let prods := (upFrom k (mmaG t)).map (fun i => Term.prod (a i) (b i))
    let ts := match run with
      | none => prods
      | some r => prods ++ [Term.run (fmtAcc.decode r)]
    let (r, f) := groupSum (elemFmt t) mode org ts
    mmaGroups t mode org a b fuel (k + mmaG t) (some r) (fl ||| f)

/-- The chain of eight fused multiply-adds of an F64 MMA (R152). -/
def mmaChain (mode : RMode) (org : Nat) (a b : Nat → FVal) : Nat → Nat → Nat → BitVec 5 → Nat × BitVec 5
  | 0, _, acc, fl => (acc, fl)
  | fuel + 1, k, acc, fl =>
    let (r, f) := fmtF64.fma mode org false false (a k) (b k) (fmtF64.decode acc)
    mmaChain mode org a b fuel (k + 1) r (fl ||| (f &&& fNV))

/-- The accumulator and slot of result column j of an F64 pair (R144). -/
def pairSlot (acc j : Nat) : Nat × Nat := if j < 16 then (acc, j) else (acc + 1, j - 16)

/-- Fragment element k of a lane from a captured fragment. -/
def jobElem (j : AccJob) (t : Nat) (frag : Sparse W32) (scale : List (BitVec 8)) (lane k : Nat) : FVal :=
  let blk := 2 * (lane * (mmaK t / 32) + k / 32)
  elemVal t (fragElem t (fun r => mapGet (fun _ => 0) frag (32 * r + lane)) k) ((scale.getD blk 0).toNat)
    ((scale.getD (blk + 1) 0).toNat)

/-- The mode an accumulator instruction captured (R120). -/
def AccJob.rm (j : AccJob) : RMode := modeOf (BitVec.ofNat 2 j.mode)

/-- One row of an MMA: the slots written and the flags (R152). -/
def mmaRow (j : AccJob) (t : Nat) (z : Bool) (acc row : Nat) (g : Group) : Group × BitVec 5 :=
  let a := jobElem j t j.fragA j.scaleA row
  if t = 5 then
    let r := laneList.map (fun c =>
      let (n, k) := pairSlot acc c
      mmaChain j.rm (fmtF64.originNan j.pc row) a (jobElem j t j.fragB [] c) 8 0 (if z then 0 else (g.racc n row k).toNat) 0)
    let g1 := (upFrom 0 32).foldl (fun g c => g.wacc (pairSlot acc c).1 row (pairSlot acc c).2 (BitVec.ofNat 64 (r.getD c (0, 0)).1)) g
    let g2 := (upFrom 16 16).foldl (fun g c => (g.wacc acc row c 0).wacc (acc + 1) row c 0) g1
    (g2, r.foldl (fun f x => f ||| x.2) 0)
  else
    let r := laneList.map (fun c =>
      mmaGroups t j.rm (accOrigin j.pc row) a (jobElem j t j.fragB j.scaleB c) (mmaK t / mmaG t) 0
        (if z then none else some ((g.racc acc row c).toNat % 2 ^ 34)) 0)
    ((upFrom 0 32).foldl (fun g c => g.wacc acc row c (BitVec.ofNat 64 (r.getD c (0, 0)).1)) g, r.foldl (fun f x => f ||| x.2) 0)

/-! ## ACC.RD, ACC.WR and ACC.CVT (R158 to R162) -/

/-- One column of ACC.RD: its register words and flags (R159). -/
def readSlot (j : AccJob) (t acc row col : Nat) (g : Group) : List W32 × BitVec 5 :=
  let bits := (g.racc acc row col).toNat
  let wide := fun (x : Nat) => [BitVec.ofNat 32 x, BitVec.ofNat 32 (x / 2 ^ 32)]
  match t with
  | 0 =>
    let (r, f) := floatToFloat fmtAcc fmtF32 j.rm false (fmtAcc.decode (bits % 2 ^ 34))
    ([BitVec.ofNat 32 r], f)
  | 1 =>
    let (r, f) := floatToFloat fmtAcc fmtF64 j.rm false (fmtAcc.decode (bits % 2 ^ 34))
    (wide r, f)
  | 2 => (wide (g.racc (pairSlot acc col).1 row (pairSlot acc col).2).toNat, 0)
  | _ => (wide bits, 0)

/-- ACC.RD's register writes, register by register and lane by lane, and its flags. -/
def readRows (j : AccJob) (t acc j0 n d : Nat) (g : Group) : List (Nat × W32) × BitVec 5 :=
  let w := if t = 0 then 1 else 2
  let cell := fun l c => readSlot j t acc l (j0 + c) g
  ((upFrom 0 (n * w)).flatMap (fun r => (lanesOf j.mask).map (fun l => ((d + r) * 32 + l, (cell l (r / w)).1.getD (r % w) 0))),
    (lanesOf j.mask).foldl (fun f l => (upFrom 0 n).foldl (fun f c => f ||| (cell l c).2) f) 0)

/-- One column of ACC.WR: the slot written and flags (R159). -/
def writeSlot (j : AccJob) (t acc row c col : Nat) (g : Group) : Group × BitVec 5 :=
  let reg := fun r => (mapGet (fun _ => (0 : W32)) j.fragA (32 * r + row)).toNat
  let wide := reg (2 * c) + reg (2 * c + 1) * 2 ^ 32
  let conv := fun (f : Fmt) (x : Nat) =>
    let (r, fl) := floatToFloat f fmtAcc j.rm false (f.decode x)
    (g.wacc acc row col (BitVec.ofNat 64 r), fl)
  match t with
  | 0 => conv fmtF32 (reg c)
  | 1 => conv fmtF64 wide
  | 2 => (g.wacc (pairSlot acc col).1 row (pairSlot acc col).2 (BitVec.ofNat 64 wide), 0)
  | 3 => (g.wacc acc row col (BitVec.ofNat 64 wide), 0)
  | 4 => conv fmtF16 (reg (c / 2) / 2 ^ (16 * (c % 2)) % 65536)
  | _ => conv fmtBF16 (reg (c / 2) / 2 ^ (16 * (c % 2)) % 65536)

/-- ACC.WR's rows (R159). -/
def writeRows (j : AccJob) (t acc j0 n : Nat) (g : Group) : Group × BitVec 5 :=
  (lanesOf j.mask).foldl (fun x row => (upFrom 0 n).foldl (fun x c =>
    let (g', f) := writeSlot j t acc row c (j0 + c) x.1
    (g', x.2 ||| f)) x) (g, 0)

/-- RB of a row and column of ACC.CVT (R162), from the SRCOUNT captured at issue. -/
def cvtRandom (g : Group) (j : AccJob) (row col : Nat) : Nat :=
  let k0 : W64 := g.gridKey ++ g.teamIdx.extractLsb' 0 32
  let k1 : W64 := BitVec.ofNat 64 (g.gidx.toNat * 2 ^ 59 + row * 2 ^ 54 + (mapGet (fun _ => (0 : W32)) j.fragB row).toNat) |||
    BitVec.ofNat 64 (col * 2 ^ 48)
  (mix64 (k0 ^^^ k1.rotateLeft 17) 31).toNat % 2 ^ 32

/-- The narrow format of an ACC.CVT type (R161). -/
def accCvtFmt (t : Nat) : Fmt :=
  match t % 8 with
  | 0 => fmtF16
  | 1 => fmtBF16
  | 2 => fmtE4M3
  | _ => fmtE5M2

/-- One row of ACC.CVT: the codes of the 32 columns, the exponent word and the flags (R162). -/
def cvtRow (j : AccJob) (t acc row : Nat) (sat : Bool) (g : Group) : List Nat × W32 × BitVec 5 :=
  let x := fun c => fmtAcc.decode ((g.racc acc row c).toNat % 2 ^ 34)
  let mode := fun c => if 8 ≤ t then RMode.sr (cvtRandom g j row c) else j.rm
  if t % 8 < 4 then
    let r := laneList.map (fun c => floatToFloat fmtAcc (accCvtFmt t) (mode c) sat (x c))
    (r.map (·.1), 0, r.foldl (fun f y => f ||| y.2) 0)
  else
    let is8 := decide (t % 8 = 4)
    let xs := laneList.map x
    if xs.any (fun v => v.isNan || v.isInf) then (laneList.map (fun _ => 0), 0xFFFF, fNV)
    else
      let raw : Int := match maxLog xs with
        | none => 6
        | some k => max 6 (k + 127)
      let e1 := min 254 raw
      let mmax := if is8 then 63 else 3
      let boff : Int := if is8 then 132 else 128
      let els := laneList.map (fun c => packElem (mode c) mmax boff (e1 - 6) e1 (x c))
      let large := decide (254 < raw) && laneList.any (fun c => match x c with
        | .num s m e => decide (mmax < (roundUnits (mode c) s m e (e1 - boff)).1)
        | _ => false)
      (els.map (fun y => if is8 then y.1 * 128 + bitOf y.2.1 * 64 + y.2.2.1 else y.1 * 8 + bitOf y.2.1 * 4 + y.2.2.1),
        BitVec.ofNat 32 (e1.toNat * 256 + (e1 - 6).toNat), els.foldl (fun f y => f ||| y.2.2.2) (flagIf large fOF))

/-- Registers an ACC.CVT type writes and bits of a code (R161). -/
def cvtRegs (t : Nat) : Nat × Nat :=
  match t % 8 with
  | 0 | 1 => (16, 16)
  | 5 => (4, 4)
  | _ => (8, 8)

/-- ACC.CVT's register writes in fold order (R166) and its flags. -/
def cvtRows (j : AccJob) (t acc d : Nat) (c : Option Nat) (sat : Bool) (g : Group) : List (Nat × W32) × BitVec 5 :=
  let (n, w) := cvtRegs t
  let per := 32 / w
  let rows := (lanesOf j.mask).map (fun l => (l, cvtRow j t acc l sat g))
  ((upFrom 0 n).flatMap (fun r => rows.map (fun x => ((d + r) * 32 + x.1, packWord x.2.1 (per * r) per w))) ++
    (match c with
      | none => []
      | some k => rows.map (fun x => (k * 32 + x.1, x.2.2.1))),
    rows.foldl (fun f x => f ||| x.2.2.2) 0)

/-! ## Issue: capture and the queue (R146) -/

/-- The captured registers of a fragment or of ACC.WR, keyed 32 × register + lane. -/
def capture (g : Group) (base n : Nat) : Sparse W32 :=
  (upFrom 0 n).foldl (fun m r => laneList.foldl (fun m l => mapSet (fun _ => (0 : W32)) m (32 * r + l) (g.rv (base + r) l)) m) []

/-- The code of a mode as captured. -/
def modeCode (g : Group) (rm : BitVec 2) (rs : BitVec 1) : Nat := if rs.toNat = 1 then rm.toNat else g.fpctl.toNat

/-- An accumulator instruction given to its tile's engine queue; a full queue waits at issue (R146). -/
def enqueue (s : State) (sp : Split) (m : W32) (mode : Nat) (op : AccOp) (fa fb : Sparse W32) (sa sb : Nat) (dest : List Nat) :
    State × Fate :=
  if 8 ≤ (s.jobs.filter (fun j => decide (j.tile = s.g.tile))).length then (s, .wait)
  else
    let j : AccJob := ⟨s.g.tile, s.g.gid, s.g.seq, sp.slot, sp.pc, m, mode, op, fa, fb, sa, sb, [], [], false⟩
    ({ s with jobs := s.jobs ++ [j] }.pendingResult sp dest [], .fall)

/-- Whether a format block breaks R150. -/
def badBlock (t : Nat) (w0 w1 : W64) : Bool :=
  decide (field w0 48 16 ≠ 0) || decide (field w0 8 8 ≠ 32) || decide (field w0 4 4 ≠ t) || decide (field w0 0 4 ≠ t) ||
    decide (field w1 32 32 ≠ 0)

/-- Bytes of a scale area (R151). -/
def scaleBytes (t : Nat) : Nat := 2 * mmaK t

/-- The scratchpad bytes of a group's team (descriptor 0x20). -/
def State.scratchOf (s : State) (g : Group) : Nat :=
  match s.team g.tid with
  | some t => t.scratch
  | none => 0

/-- MMA (R147 to R157); of two scale areas at fault A's is reported (log entry 112). -/
def execMma (h : Hdr) (acc : BitVec 3) (a b c : BitVec 6) (t : BitVec 4) (z : BitVec 1) (rm : BitVec 2) (rs : BitVec 1)
    (s : State) : Out :=
  let dxb := decide (t.toNat < 2)
  let wide := decide (t.toNat = 5)
  let w0 := s.g.rs c.toNat
  let w1 := s.g.rs (c.toNat + 1)
  let al := if wide then 2 else 1
  let u : Uses :=
    { vr := [vN a 16 al, vN b 16 al]
      accs := [(acc.toNat, al)]
      sr := if dxb then [c.toNat, c.toNat + 1] else []
      queued := true
      illegal := dxb && badBlock t.toNat w0 w1
      late := true }
  issueLane (.mma h acc a b c t z rm rs) h u
    (fun m sp s =>
      let sa := field w0 16 32
      let sb := field w1 0 32
      let next := pcAdd sp.pc 8
      if dxb && decide (sa % 2 = 1) then (s, ownTrap s sp 0x04 next (BitVec.ofNat 64 sa))
      else if dxb && decide (sb % 2 = 1) then (s, ownTrap s sp 0x04 next (BitVec.ofNat 64 sb))
      else if dxb && decide (s.scratchOf s.g < sa + scaleBytes t.toNat) then (s, ownTrap s sp 0x07 next (BitVec.ofNat 64 sa))
      else if dxb && decide (s.scratchOf s.g < sb + scaleBytes t.toNat) then (s, ownTrap s sp 0x07 next (BitVec.ofNat 64 sb))
      else
        enqueue s sp m (modeCode s.g rm rs) (.mma t.toNat (decide (z.toNat = 1)) acc.toNat)
          (capture s.g (s.g.phys a.toNat) 16) (capture s.g (s.g.phys b.toNat) 16) sa sb []) s

/-- The physical-register keys of `n` registers from `d` in a mask. -/
def destKeys (d n : Nat) (m : W32) : List Nat := (upFrom d n).flatMap (fun r => (lanesOf m).map (fun l => r * 32 + l))

/-- ACC.RD (R158, R159).  A type of pairs asks for an even accumulator only as D: RAW moves the single accumulator named, an odd one too
(log entry 106). -/
def execAccRd (h : Hdr) (d : BitVec 6) (acc : BitVec 3) (t : BitVec 4) (rm : BitVec 2) (n : BitVec 4) (j0 : BitVec 5) (rs : BitVec 1)
    (s : State) : Out :=
  let w := if t.toNat = 0 then 1 else 2
  let regs := (n.toNat + 1) * w
  let u : Uses :=
    { vw := [vN d regs w]
      accs := [(acc.toNat, if t.toNat = 2 then 2 else 1)]
      late := true
      queued := true }
  issueLane (.accRd h d acc t rm n j0 rs) h u
    (fun m sp s =>
      let base := s.g.phys d.toNat
      enqueue s sp m (modeCode s.g rm rs) (.rd t.toNat acc.toNat j0.toNat (n.toNat + 1) base) [] [] 0 0 (destKeys base regs m)) s

/-- ACC.WR (R158, R159). -/
def execAccWr (h : Hdr) (acc : BitVec 3) (a : BitVec 6) (t : BitVec 4) (rm : BitVec 2) (n : BitVec 4) (j0 : BitVec 5) (rs : BitVec 1)
    (s : State) : Out :=
  let cols := n.toNat + 1
  let regs := if t.toNat = 0 then cols else if t.toNat < 4 then 2 * cols else cols / 2
  let u : Uses :=
    { vr := [vN a regs (if decide (1 ≤ t.toNat) && decide (t.toNat < 4) then 2 else 1)]
      accs := [(acc.toNat, if t.toNat = 2 then 2 else 1)]
      late := true
      queued := true }
  issueLane (.accWr h acc a t rm n j0 rs) h u
    (fun m sp s => enqueue s sp m (modeCode s.g rm rs) (.wr t.toNat acc.toNat j0.toNat cols)
      (capture s.g (s.g.phys a.toNat) regs) [] 0 0 []) s

/-- ACC.ZERO (R160). -/
def execAccZero (h : Hdr) (acc : BitVec 3) (s : State) : Out :=
  issueLane (.accZero h acc) h { accs := [(acc.toNat, 1)], late := true, queued := true }
    (fun m sp s => enqueue s sp m 0 (.zero acc.toNat) [] [] 0 0 []) s

/-- ACC.CVT (R161, R162). -/
def execAccCvt (h : Hdr) (d : BitVec 6) (acc : BitVec 3) (c : BitVec 6) (t : BitVec 4) (rm : BitVec 2) (sat rs : BitVec 1)
    (s : State) : Out :=
  let dxb := decide (4 ≤ t.toNat % 8)
  let n := (cvtRegs t.toNat).1
  let u : Uses :=
    { vw := [vN d n 1] ++ (if dxb then [v1 c] else [])
      accs := [(acc.toNat, 1)]
      late := true
      queued := true }
  issueLane (.accCvt h d acc c t rm sat rs) h u
    (fun m sp s =>
      let base := s.g.phys d.toNat
      let cr := s.g.phys c.toNat
      let (s1, f) := enqueue s sp m (modeCode s.g rm rs)
        (.cvt t.toNat acc.toNat base (if dxb then some cr else none) (decide (sat.toNat = 1))) [] s.g.srcount 0 0
        (destKeys base n m ++ (if dxb then destKeys cr 1 m else []))
      match f with
      | .fall => (if 8 ≤ t.toNat then { s1 with g := s1.g.countRandom m } else s1, f)
      | _ => (s1, f)) s

/-! ## The engine's two steps -/

/-- The accumulator lines an instruction reads: (accumulator, row) pairs with the columns (R144, R164), accumulators, then rows
ascending, of an ACC.RD rows, then columns: the first bad one in this order gives TADDR its accumulator and row (log entry 100). -/
def AccJob.linesRead (j : AccJob) : List (Nat × Nat × Nat) :=
  let full : Nat → List (Nat × Nat × Nat) := fun acc => (lanesOf j.mask).flatMap (fun r => [(acc, r, 0), (acc, r, 16)])
  let low : Nat → List (Nat × Nat × Nat) := fun acc => (lanesOf j.mask).map (fun r => (acc, r, 0))
  match j.op with
  | .mma t z acc => if z then [] else if t = 5 then low acc ++ low (acc + 1) else full acc
  | .rd t acc j0 n _ => (lanesOf j.mask).flatMap (fun r => (upFrom j0 n).map (fun c =>
      if t = 2 then ((pairSlot acc c).1, r, (pairSlot acc c).2) else (acc, r, c)))
  | .cvt _ acc _ _ _ => full acc
  | _ => []

/-- The accumulators an instruction uses. -/
def AccJob.accs (j : AccJob) : List Nat :=
  match j.op with
  | .mma t _ acc => if t = 5 then [acc, acc + 1] else [acc]
  | .rd t acc _ _ _ => if t = 2 then [acc, acc + 1] else [acc]
  | .wr t acc _ _ => if t = 2 then [acc, acc + 1] else [acc]
  | .zero acc => [acc]
  | .cvt _ acc _ _ _ => [acc]

/-- Whether an accumulator instruction's lines are all in the tile's cache (R145). -/
def AccJob.present (j : AccJob) (g : Group) : Bool :=
  !(g.absent.any (fun l => decide (1024 ≤ l) && j.accs.contains ((l - 1024) / 64)))

/-- Whether the scale bytes of an MMA cannot be read yet: an earlier store of its group to a scratchpad has no known address, or an earlier atomic there is to
write them; a fault's atomic writes nothing (R156; 07 R172; 12 R326). -/
def Group.scratchBefore (g : Group) (j : AccJob) (n : Nat) : Bool :=
  let hits := fun (e : OlEntry) (l : OlLane) => match l.st with
    | .located (.scr tid o) _ | .half (.scr tid o) _ _ => decide (tid = g.tid) &&
        ((decide (o < j.ascale + n) && decide (j.ascale < o + e.extent)) || (decide (o < j.bscale + n) && decide (j.bscale < o + e.extent)))
    | _ => false
  g.olog.any (fun e => decide (e.seq < j.seq) && e.stores && decide (e.space ≠ .glob) &&
    e.lanes.any (fun l => l.st.isPending || (e.atomic && hits e l)))

/-- The scale bytes an accumulator instruction reads from each area. -/
def AccJob.scales (j : AccJob) : Nat :=
  match j.op with
  | .mma t _ _ => if t < 2 then scaleBytes t else 0
  | _ => 0

/-- A scale byte as a load of the group at its place in program order: of the youngest earlier store queued, else of the banks (R156; 07 R172). -/
def Group.scaleByte (g : Group) (scr : Sparse Byte) (j : AccJob) (off : Nat) : Byte :=
  match g.forward j.seq (.scr g.tid off) false off with
  | some (some b) => b
  | _ => memGet scr off

/-- The tile's oldest engine job. -/
def State.headJob (s : State) (tile : Nat) : Option AccJob := s.jobs.find? (fun j => decide (j.tile = tile))

/-- A tile's oldest engine job changed. -/
def State.setHeadJob (s : State) (tile : Nat) (f : AccJob → AccJob) : State :=
  match s.jobs.findIdx? (fun j => decide (j.tile = tile)) with
  | some i => { s with jobs := s.jobs.modify i f }
  | none => s

/-- A Matrix Data Error (R164): recorded beside any other, the instruction and the group's later ones discarded.  `line` tells whether an accumulator line holds
the error, `rows` are the rows that hold it, the first error's first. -/
def State.matrixError (s : State) (j : AccJob) (g : Group) (acc : Nat) (line : Bool) (rows : List Nat) : State :=
  let later := s.jobs.filter (fun x => decide (x.gid = j.gid) && decide (x.seq ≠ j.seq))
  let s1 := { s with jobs := s.jobs.filter (fun x => decide (x.gid ≠ j.gid)) }
  let s2 := ((j :: later).foldl (fun s x => s.unresolve x.gid x.seq) s1).addBucket 5 (dieOf j.tile * 36 + j.tile / 4 % 64)
  let addr := BitVec.ofNat 64 (acc + 8 * bitOf line + rows.headD 0 * 16 + later.length * 65536)
  let err : MatErr := ⟨j.pc, maskOf rows, addr, BitVec.ofNat 64 s.dt, j.seq⟩
  s2.modGroup g.gid (fun g => { g with matErr := g.matErr ++ [err] })

/-- The rows that a poisoned scale byte reaches: that of an A area's row, every active one of a B area's column (R151, R164; log entry 98). -/
def Group.scaleRows (g : Group) (t : Team) (j : AccJob) (n : Nat) : List Nat :=
  let bad := fun (off : Nat) => (g.forward j.seq (.scr g.tid off) false off).isNone && (t.scrPoison.contains (off / 32) || t.wordsFail off 1)
  let a := (upFrom 0 n).filter (fun k => bad (j.ascale + k))
  let b := (upFrom 0 n).any (fun k => bad (j.bscale + k))
  if b then lanesOf j.mask else (lanesOf j.mask).filter (fun r => a.any (fun k => decide (k / (n / 32) = r)))

/-- The active rows of a job that a scale byte in error reaches. -/
def State.badScales (s : State) (j : AccJob) (g : Group) : List Nat :=
  match s.team g.tid with
  | some u => if j.scales = 0 then [] else g.scaleRows u j j.scales
  | none => []

/-- The oldest job of a tile's engine started: the scale bytes it uses are read (R151, R156). -/
def State.startJob (s : State) (tile : Nat) (j : AccJob) (g : Group) : State :=
  let scr := (s.team g.tid).elim [] (fun u => u.scr)
  s.setHeadJob tile (fun j => { j with
    started := true
    scaleA := (upFrom j.ascale j.scales).map (g.scaleByte scr j)
    scaleB := (upFrom j.bscale j.scales).map (g.scaleByte scr j) })

/-- ACCUMULATOR_START (R145, R151, R156): the engine of a tile whose clock runs (14 R378) starts its oldest instruction and reads the scale
bytes; an error among those that a row uses is a Matrix Data Error. -/
def execAccumulatorStart (tile : Nat) (s : State) : Out :=
  match s.headJob tile with
  | none => .next s
  | some j =>
    match s.group j.gid with
    | none => .next s
    | some g =>
      if j.started || !j.present g || (decide (j.scales ≠ 0) && g.scratchBefore j j.scales) || (s.tile tile).trans.isSome then .next s
      else
        let rows := s.badScales j g
        .next (if rows.isEmpty then s.startJob tile j g else s.matrixError j g (j.accs.headD 0) false rows)

/-- Whether an ACC.WR has covered all 16 slots of a line in every column it wrote (R144, R164). -/
def writesLine (t acc j0 n : Nat) (rows : List Nat) (l : Nat) : Bool :=
  rows.any (fun r => [0, 16].any (fun c =>
    let x := if t = 2 then pairSlot acc c else (acc, c)
    decide (l = accLine x.1 r x.2) && decide (j0 ≤ c) && decide (c + 16 ≤ j0 + n)))

/-- The result of a completed ACC.RD or ACC.CVT marked as one still to be written, before which its group does not leave its tile (R165). -/
def State.accKnown (s : State) (j : AccJob) : State :=
  s.modGroup j.gid (fun g => { g with results := g.results.map (fun r => if r.seq = j.seq then { r with await := .acc } else r) })

/-- The oldest job of a tile's engine completed (R152 to R163): its rows computed, read or written, its results known. -/
def State.completeJob (s : State) (tile : Nat) (j : AccJob) (g : Group) : State :=
  let s1 := { s with jobs := s.jobs.eraseIdx (s.jobs.findIdx (fun (x : AccJob) => decide (x.tile = tile))) }
  match j.op with
  | .mma t z acc =>
    let (g', fl) := (lanesOf j.mask).foldl (fun x row =>
      let (g', f) := mmaRow j t z acc row x.1
      (g', x.2 ||| f)) (g, (0 : BitVec 5))
    (s1.modGroup j.gid (fun _ => g'.flag (fl &&& fNV))).unresolve j.gid j.seq
  | .rd t acc j0 n d =>
    let (vw, fl) := readRows j t acc j0 n d g
    (s1.resolve j.gid j.seq vw [] fl false).accKnown j
  | .wr t acc j0 n =>
    let (g', fl) := writeRows j t acc j0 n g
    (s1.modGroup j.gid (fun _ => { g'.flag fl with
      accPoison := g'.accPoison.filter (fun l => !writesLine t acc j0 n (lanesOf j.mask) l) })).unresolve j.gid j.seq
  | .zero acc =>
    let g' := (lanesOf j.mask).foldl (fun g r => (upFrom 0 32).foldl (fun g c => g.wacc acc r c 0) g) g
    let hit := fun (l : Nat) => (lanesOf j.mask).any (fun r => decide (l = accLine acc r 0) || decide (l = accLine acc r 16))
    (s1.modGroup j.gid (fun _ => { g' with accPoison := g'.accPoison.filter (fun l => !hit l) })).unresolve j.gid j.seq
  | .cvt t acc d c sat =>
    let (vw, fl) := cvtRows j t acc d c sat g
    (s1.resolve j.gid j.seq vw [] fl false).accKnown j

/-- The lines an instruction reads that are in error: poisoned ones, and those in which the engine finds an error now (R164). -/
def AccJob.badLines (j : AccJob) (g : Group) (found : List Nat) : List (Nat × Nat × Nat) :=
  j.linesRead.filter (fun b => g.accPoison.contains (accLine b.1 b.2.1 b.2.2) || found.contains (accLine b.1 b.2.1 b.2.2))

/-- ACCUMULATOR_COMPLETE (R152 to R164): the engine completes its oldest started instruction; `cells` are the rows in which it found an array
cell in error, `lines` the accumulator lines, which are poisoned then.  Where both are in error the cells are reported (log entry 113). -/
def execAccumulatorComplete (x : EngineEnd) (s : State) : Out :=
  let tile := x.tile
  match s.headJob tile with
  | none => .next s
  | some j =>
    match s.group j.gid with
    | none => .next { s with jobs := s.jobs.filter (fun x => decide (x.gid ≠ j.gid)) }
    | some g =>
      if !j.started || (s.tile tile).trans.isSome then .next s
      else
        let bad := j.badLines g x.lines
        let found := dedup ((bad.map (fun b => accLine b.1 b.2.1 b.2.2)).filter (fun l => x.lines.contains l))
        let rows := (lanesOf j.mask).filter (fun r => x.cells.contains r)
        let s0 := if found.isEmpty then s else s.modGroup j.gid (fun g => { g with accPoison := found.foldl (fun l k => insNat k l) g.accPoison })
        if !rows.isEmpty then .next (s0.matrixError j g (j.accs.headD 0) false rows)
        else
          match bad with
          | b :: _ => .next (s0.matrixError j g b.1 true (bad.map (fun b => b.2.1)))
          | [] => .next (s.completeJob tile j g)

end Sys2Proof.Machine
end

