-- ==== Sys2Proof/Machine/Select.lean ====
section
/-! DEFINITION. The choice of the next run: parks that end, lanes that end, and the split a quadrant runs next (03 R58, R61 to R65, R70 to
R74; 11 R308; 13 R347, R353, R354). -/

namespace Sys2Proof.Machine

/-! ## Parks that end (R58) -/

/-- What a split becomes when its W park, CLK park or RTE park ends: ready, not before the clocks a taken branch holds it (R64), what is
recorded by then due at this boundary (R325; 10 R274).  Its ready-age is the current clock (log entry 91). -/
def Group.parkOver (g : Group) (sp : Split) (clock : Nat) : Group :=
  let g1 := g.setSplit { sp with park := .ready, age := clock, plen := 0 }
  if g.recorded && (!g.inh || decide (sp.slot = g.cur)) then { g1 with atEnd := g.firstEnd sp.slot } else g1

/-- Whether a split's EXIT may end its lanes: nothing outstanding, and nothing to be taken first (R71, R72, R325). -/
def State.exitOver (s : State) (g : Group) (sp : Split) : Bool :=
  !g.outstanding sp.slot && !s.trapPending g && (!g.inh || decide (sp.slot = g.cur))

/-- The lanes of an EXIT ended (R61, R71, R72, R74). -/
def State.endLanes (s : State) (gid : Nat) (sp : Split) (lanes : W32) : State :=
  let s1 := s.modGroup gid (fun g =>
    let g1 := { g with olog := g.olog.filter (fun e => decide (e.slot ≠ sp.slot) || !e.faulty) }
    let left := sp.mask &&& ~~~lanes
    if left = 0 then g1.endSplit sp.slot s.clock
    else (g1.setSplit { sp with mask := left }).wakeNext sp.slot s.clock)
  match s1.group gid with
  | some g => if g.over then s1.endGroup gid else s1
  | none => s1

/-- Whether a split at a JOIN goes on: every other live split stands above it or waits (R70); a follower goes by the run record. -/
def State.joinOver (s : State) (g : Group) (sp : Split) : Bool :=
  if g.role.follows then decide (s.followSlot g = some sp.slot)
  else g.splits.all (fun x => decide (x.slot = sp.slot) || x.waits || decide (sp.pc.toNat < x.pc.toNat))

/-- Whether a split at a SYNCS goes on: it is the group's only one (R73). -/
def Group.syncsOver (g : Group) (sp : Split) : Bool := g.stack.isEmpty && g.splits.all (fun x => decide (x.slot = sp.slot))

/-- The number of the batch of the error recorded, whose low 32 bits ENGERR has: of the last 2^32 batches (R308, R314). -/
def Group.errorBatch (g : Group) : Nat := g.batchSeq.toNat - (g.batchSeq.toNat + 2 ^ 32 - field g.engErr 32 32) % 2 ^ 32

/-- Whether an error recorded by an engine is covered by a satisfied BATCH.WAIT (R308). -/
def Group.errorCovered (g : Group) (n : W64) : Bool := g.engErr.getLsbD 7 && decide (g.errorBatch ≤ n.toNat)

/-- A BATCH.WAIT satisfied (R243, R308). -/
def State.batchOver (s : State) (g : Group) (sp : Split) (n : W64) : State :=
  let s1 := (s.modGroup g.gid (fun g => g.wakeNext sp.slot s.clock)).logVals g sp.cnt [(doneKey, 0)]
  if g.errorCovered n && !g.role.follows then
    s1.modGroup g.gid (fun g => { g with engDue := some (sp.slot, sp.pc), atEnd := some (g.atEnd.getD sp.slot) })
  else s1

/-- A follower's split goes on with what its log has by now (R347). -/
def State.logOver (s : State) (g : Group) (sp : Split) (seq : Nat) : State :=
  if (s.lookLog g sp.cnt doneKey).isSome then
    let vals : List (Nat × W64) := s.logged g sp.cnt
    let s1 := s.landLogged g
    let regs := vals.filter (fun (x : Nat × W64) => decide (x.1 < 300000))
    let s2 := s1.modGroup g.gid (fun g =>
      (regs.foldl (fun (g : Group) (x : Nat × W64) =>
        if x.1 < 100000 then g.wv (x.1 / 32) (x.1 % 32) (x.2.extractLsb' 0 32)
        else if x.1 < 200000 then g.ws (x.1 - 100000) x.2
        else g.wq (x.1 - 200000) (x.2.getLsbD 0)) g).wakeNext sp.slot s.clock)
    let bytes := vals.filter (fun (x : Nat × W64) => decide (300000 ≤ x.1) && decide (x.1 < landKey))
    let s3 := s2.modTeam g.tid (fun t => { t with scr := bytes.foldl (fun m (x : Nat × W64) => memSet m (x.1 - 300000) (x.2.extractLsb' 0 8)) t.scr })
    s3.addFolds g seq false (foldList
      ((regs.filter (fun (x : Nat × W64) => decide (x.1 < 100000))).map (fun (x : Nat × W64) => (x.1, x.2.extractLsb' 0 32)))
      ((regs.filter (fun (x : Nat × W64) => decide (100000 ≤ x.1) && decide (x.1 < 200000))).map (fun (x : Nat × W64) => (x.1 - 100000, x.2))))
  else if (s.lookLog g sp.cnt againKey).isSome then s.modGroup g.gid (fun g => g.wakeHere sp.slot s.clock)
  else s

/-- One parked split of a group looked at: its park ends when its condition is met. -/
def State.wakeSplit (s : State) (gid slot : Nat) : State :=
  match s.group gid with
  | none => s
  | some g =>
    match g.split slot with
    | none => s
    | some sp =>
      match sp.park with
      | .ready | .ctr _ | .quiet .. | .compare | .slack _ => s
      | .lock =>
        if g.lreq.any (fun r => decide (r.slot = slot)) then s
        else if g.inh then (s.modGroup gid (fun g => g.wakeNext slot s.clock)).logVals g sp.cnt [(doneKey, 0)]
        else if g.wounds.isEmpty then (s.modGroup gid (fun g => g.wakeHere slot s.clock)).logVals g sp.cnt [(againKey, 0)]
        else s
      | .wbit | .rte => if g.outstanding slot then s else s.modGroup gid (fun g => g.parkOver sp s.clock)
      | .exitDrain lanes => if s.exitOver g sp then s.endLanes gid sp lanes else s
      | .clk => if g.results.any (fun r => decide (r.cnt = sp.cnt)) then s else s.modGroup gid (fun g =>
          if sp.wAfter then g.setSplit { sp with park := .wbit, wAfter := false } else g.parkOver sp s.clock)
      | .join => if s.joinOver g sp then s.modGroup gid (fun g => g.wakeNext slot s.clock) else s
      | .syncs => if g.syncsOver sp then s.modGroup gid (fun g => g.wakeNext slot s.clock) else s
      | .launch d seq x => if g.role.follows then s else s.retryLaunch g slot sp.cnt d seq x
      | .batchClose d seq =>
        if g.batchSeq - 1 - g.batchDone = 16 then s
        else
          ((s.modGroup gid (fun g => ({ (g.ws d g.batchSeq) with batchSeq := g.batchSeq + 1 }).wakeNext slot s.clock)).advanceBatches gid).addFolds
            g seq false (foldList [] [(d, g.batchSeq)])
      | .batchWait n => if n.toNat ≤ g.batchDone.toNat then s.batchOver g sp n else s
      | .lockHeld => if g.lockBusy then s else (s.modGroup gid (fun g => g.wakeHere slot s.clock)).logVals g sp.cnt [(againKey, 0)]
      | .log seq => s.logOver g sp seq

/-- Every parked split of a group looked at, the lower slot first; a wound that reaches a handler's waiting request takes it back (R275). -/
def State.wakeGroup (s : State) (gid : Nat) : State :=
  let s1 := match s.group gid with
    | some g => if g.stopped then s.withdrawOn gid else s
    | none => s
  [0, 1, 2, 3].foldl (fun s n => match s.group gid with
    | some g => if g.halted || g.away then s else s.wakeSplit gid n
    | none => s) s1

/-! ## The next run (R62, R63) -/

/-- The class of a split of a group (R62). -/
def Group.runClass (g : Group) : Nat := if g.inh || !g.wounds.isEmpty then 32 else g.prio.toNat

/-- Whether the segment that a split stands at the trigger of has committed or been released, its commit performed everywhere (R353, R356,
R358). -/
def State.triggerFree (s : State) (g : Group) : Bool :=
  match s.team g.tid with
  | none => true
  | some t =>
    match t.chord with
    | none => true
    | some c =>
      let n := t.nextSeg g.gidx.toNat - 1
      let n' := (t.closes.filter (fun x => decide (x.gidx = g.gidx.toNat) && decide (x.cnt = g.icount + 1))).foldl (fun m x => min m x.seg) n
      c.segs.all (fun x => decide (x.n > n') || x.rel) && !s.invals.any (fun v => decide (v.gid = commitMark t.tid))

/-- Whether a leader's group goes first to perform its trigger: the lower GROUPID (R352). -/
def State.triggerFirst (s : State) (g x : Group) : Bool :=
  decide (x.tid = g.tid) && decide (x.gidx.toNat < g.gidx.toNat) && x.live && !x.halted && !x.inh && !s.trapPending x &&
    x.splits.any (fun sp => decide (sp.park = .compare)) && s.triggerFree x

/-- Whether a split that stands at a compare point or the slack limit may go on: a leader's when its segment has committed, in ascending
GROUPID, or when the segment it waits for has committed; a follower's when it may run its next segment (R352 to R354). -/
def State.pointOver (s : State) (g : Group) (sp : Split) : Bool :=
  match sp.park with
  | .compare => if g.role.follows then s.mayRun g else s.triggerFree g && !s.groups.any (fun x => s.triggerFirst g x)
  | .slack (some n) => (match s.chordOf g with
    | some c => c.segs.all (fun x => decide (x.n ≠ n) || x.rel)
    | none => true)
  | .slack none => !s.holdParks g
  | _ => false

/-- Whether a group's splits may run at all now. -/
def State.groupRuns (s : State) (g : Group) : Bool :=
  g.live && !g.away && !g.halted && !g.stop && !g.run && g.flip.isEmpty && !g.absent.contains 2000 && !s.trapPending g

/-- Whether a split of a group is eligible for the issue slot (R58, R63, R64, R318; 13 R347). -/
def State.eligible (s : State) (g : Group) (sp : Split) : Bool :=
  let at_ := g.splits.find? (fun x => decide (x.park = .compare) || x.park.isSlack)
  (match at_ with
    | some x => if g.inh && decide (x.slot ≠ g.cur) then decide (sp.park = .ready) else decide (x.slot = sp.slot) && s.pointOver g sp
    | none => decide (sp.park = .ready)) &&
  decide (sp.hold ≤ s.clock) && (!g.inh || decide (sp.slot = g.cur)) &&
  (!g.role.follows || (s.mayRun g && decide (s.followSlot g = some sp.slot)))

/-- The eligible splits of a quadrant. -/
def State.candidates (s : State) (tile quad : Nat) : List (Group × Split) :=
  (s.groups.filter (fun g => decide (g.tile = tile) && decide (g.place / 16 = quad) && s.groupRuns g)).flatMap (fun g =>
    (g.splits.filter (fun sp => s.eligible g sp)).map (fun sp => (g, sp)))

/-- The order of R63 among eligible splits: passed over 64 times or more, else the class; then ready-age, group slot and split slot. -/
def runKey (starved : Bool) (x : Group × Split) : List Nat :=
  [if starved then (if 64 ≤ x.2.passed then 0 else 1) else 32 - x.1.runClass, x.2.age, x.1.place, x.2.slot]

/-- The split a quadrant runs next. -/
def bestRun (l : List (Group × Split)) : Option (Group × Split) :=
  let starved := l.any (fun x => decide (64 ≤ x.2.passed))
  l.foldl (fun (b : Option (Group × Split)) x => match b with
    | none => some x
    | some y => if lexLt (runKey starved x) (runKey starved y) then some x else some y) none

/-- The ready splits of a quadrant passed over once more (R63). -/
def State.passOver (s : State) (tile quad : Nat) : State :=
  s.mapGroups (fun g =>
    if g.live && !g.away && decide (g.tile = tile) && decide (g.place / 16 = quad) then
      { g with splits := g.splits.map (fun sp => if sp.park = .ready || s.pointOver g sp then { sp with passed := min 127 (sp.passed + 1) } else sp) }
    else g)

/-- A group brought into the state's focus; the one before it goes back among the others. -/
def State.focus (s : State) (gid : Nat) : State :=
  if s.g.gid = gid then s
  else
    match s.others.find? (fun g => decide (g.gid = gid)) with
    | none => s
    | some g => { s with g := g, others := s.others.filter (fun x => decide (x.gid ≠ gid)) ++ (if s.g.gid = 0 then [] else [s.g]) }

/-- A run begun by the focus in a split (R32). -/
def Group.beginRun (g : Group) (sp : Split) : Group :=
  { (g.setSplit { sp with park := .ready, passed := 0, plen := 0, wAfter := false }) with
    run := true
    cur := sp.slot
    runLen := 0
    atEnd := none
    resumed := false
    cleared := if sp.park = .compare then some sp.slot else none }

/-- A quadrant with the parks that end there ended (R58). -/
def State.readyQuad (s : State) (tile quad : Nat) : State :=
  let s0 := s.settleStops
  let here := (s0.groups.filter (fun g => g.live && !g.away && decide (g.tile = tile) && decide (g.place / 16 = quad))).map (fun (g : Group) => g.gid)
  let s1 := here.foldl (fun s g => s.wakeGroup g) s0
  (s1.groups.filter (fun g => here.contains g.gid && !g.run)).foldl (fun s g => s.closeStanding g) s1

/-- The group of a quadrant that holds its issue slot. -/
def State.slotHolder (s : State) (tile quad : Nat) : Option Group :=
  s.groups.find? (fun g => g.live && g.run && !g.away && decide (g.tile = tile) && decide (g.place / 16 = quad))

/-- A quadrant's next run begun in a split; the others that were ready are passed over (R63). -/
def State.beginSplit (s : State) (tile quad : Nat) (g : Group) (sp : Split) : State :=
  let s1 := (s.passOver tile quad).focus g.gid
  { s1 with g := s1.g.beginRun sp }

/-- SPLIT_SELECT (R58, R63): on a quadrant, the parks that end, then the next run where the issue slot is free; the group that holds the
issue slot becomes the focus. -/
def execSplitSelect (tile quad : Nat) (s : State) : Out :=
  if (s.tile tile).trans.isSome || s.snapDue.contains (dieOf tile) then .next s
  else
    let s2 := s.readyQuad tile quad
    match s2.slotHolder tile quad with
    | some g => .next (s2.focus g.gid)
    | none =>
      match bestRun (s2.candidates tile quad) with
      | none => .next s2
      | some (g, sp) => .next (s2.beginSplit tile quad g sp)

end Sys2Proof.Machine
end

