-- ==== Sys2Proof/Machine/Package.lean ====
section
/-! DEFINITION. The package's own events: die containment, health, the host and the fabric, time, bias, snapshots, the register window and
the management commands (11 R313; 13 R368 to R372; 14 R389; 15 R391 to R408). -/

namespace Sys2Proof.Machine

/-! ## Health (13 R368, R369) -/

/-- Whether a number names a unit that a corrected error is counted for: a scratchpad bank, a memory bank or a lane (R368, R371). -/
def correctable (kind unit : Nat) : Bool :=
  match kind with
  | 2 => decide (unit < 576 * 36)
  | 3 => decide (unit < 12 * 1536)
  | 4 => decide (unit < 576 * 128)
  | _ => false

/-- The unit number of a word's scratchpad bank (07 R182; R371). -/
def Team.bankUnit (t : Team) (word : Nat) : Nat := tileIndex t.tile * 36 + (t.base / 4 + word) % 32

/-- Words of a team's scratchpad found in error (07 R181): one alone in its row of its parity group is rebuilt and counted against its bank; of a
row with more, the words stay in error until they are written. -/
def State.wordErrors (s : State) (t : Team) (words : List Nat) : State :=
  let all := dedup (t.badWords ++ words.filter (fun w => decide (4 * w < t.scratch + t.stashBytes)))
  let alone := fun (w : Nat) => (all.filter (fun k => decide (t.rowOf k = t.rowOf w))).length = 1
  let s1 := s.modTeam t.tid (fun t => { t with badWords := all.filter (fun w => !decide (alone w)) })
  s1.addBuckets ((all.filter (fun w => decide (alone w))).map (fun w => (2, t.bankUnit w)))

/-- CORRECTED_MEMORY_ERROR (R368, R369; 07 R181): an error of a bank or a lane that has been corrected, or words of a scratchpad found in
error. -/
def execCorrectedMemoryError (kind : Nat) (x : ErrorPlace) (s : State) : Out :=
  .next (if x.words.isEmpty then (if correctable kind x.unit then s.addBucket kind x.unit else s)
    else match (if kind = 2 then s.team x.tid else none) with
      | some t => if t.ended || t.saved then s else s.wordErrors t x.words
      | none => s)

/-- BUCKET_LEAK (R368): a leak period has elapsed, the level falls by 1 and the next period starts. -/
def execBucketLeak (kind unit : Nat) (s : State) : Out :=
  let b := s.bucket kind unit
  .next (if b.level ≠ 0 && decide (bucketPeriod kind ≤ s.elapsed b.since) then
    s.setBucket { b with level := b.level - 1, since := (b.since + bucketPeriod kind) % 2 ^ 64 } else s)

/-! ## Die containment (13 R370) -/

/-- Whether a context's tables, from a level's table down, have an entry on a die or map memory of it. -/
def State.mapsDie (s : State) (die : Nat) : Nat → Nat → Nat → Bool
  | 0, _, _ => false
  | fuel + 1, level, table =>
    s.physKind table = .dev die || (upFrom 0 512).any (fun i => match s.physRead (table + 8 * i) 8 with
      | none => false
      | some bs =>
        let p : W64 := BitVec.ofNat 64 (bytesVal bs)
        p.getLsbD 0 && (decide (s.physKind (pteFrame p) = .dev die) ||
          (!p.getLsbD 1 && decide (level < 5) && s.mapsDie die fuel (level + 1) (pteFrame p))))

/-- Whether a context has a tile or memory on a die (R370). -/
def State.onDie (s : State) (die : Nat) (c : Context) : Bool :=
  s.teams.any (fun t => decide (t.ctx = c.num) && !t.ended && decide (dieOf t.tile = die)) ||
    (decide (c.ptroot ≠ 0) && s.mapsDie die 5 1 (field c.ptroot 12 48 * 4096))

/-- A context killed (R370): its grids end with code 0x63, its lock entries and Prism versions go with it. -/
def State.killContext (s : State) (ctx : Nat) : State :=
  let serials := (s.grids.filter (fun x => x.accepted && decide (x.ctx = ctx) && !x.done)).map (fun (x : Grid) => x.serial)
  let s1 := serials.foldl (fun s n => s.endGrid n 0x63) s
  { s1 with
    grids := s1.grids.map (fun (x : Grid) => if !x.accepted && decide (x.ctx = ctx) then { x with err := some 0x63 } else x)
    locks := s1.locks.filter (fun r => decide (r.ctx ≠ ctx)) }

/-- The map bits of a die's functions (R394); the CXL port is die 0's. -/
def dieBits (die : Nat) : List Nat :=
  upFrom (3 * die) 3 ++ (if die = 0 then [12] else []) ++ upFrom (16 + 48 * die) 48 ++ upFrom (208 + 36 * die) 36 ++ upFrom (352 + 12 * die) 12

/-- The offset of a port's PORTCTL (R403). -/
def portCtl (port : Nat) : Nat := 0x090000 + 0x1000 * (port / 12) + 16 * (port % 12)

/-- The chips whose routes use a port. -/
def State.routedBy (s : State) (port : Nat) : List Nat :=
  (s.win.filter (fun c => decide (0x080000 ≤ c.1) && decide (c.1 < 0x088000) && c.2.getLsbD 63 && c.2.getLsbD port)).map (fun c => (c.1 - 0x080000) / 8)

/-- A port that carries nothing more (R402, R406): a chip left with no port up is told as a lost route. -/
def State.portDown (s : State) (port : Nat) : State :=
  let s1 := s.winSet (portCtl port + 8) (setField (s.winGet (portCtl port + 8)) 0 1 0)
  let lost := (s1.routedBy port).filter (fun c => decide (c ≠ s.chip.toNat) && !s1.routeUp c)
  lost.foldl (fun s c => s.pushFault 0 7 0 (BitVec.ofNat 64 c) 0) s1

/-- The ports of a die that were up carry nothing more. -/
def State.portsDown (s : State) (die : Nat) : State :=
  ((upFrom (12 * die) 12).filter (fun n => (s.winGet (portCtl n + 8)).getLsbD 0)).foldl State.portDown s

/-- A die fenced (R370): its functions leave the READY map, its GFL ports go down, the contexts with a tile or memory on it are killed, lines homed on it are
dropped everywhere with their data, and the event is told. -/
def State.fenceDie (s : State) (die : Nat) : State :=
  let hit := (s.ctxs.filter (fun c => s.onDie die c)).map (fun (c : Context) => c.num)
  let s1 := (dieBits die).foldl (fun s n => s.setReady n false) s
  let s2 := hit.foldl (fun s c => s.killContext c) s1
  let here := fun (pa : Nat) => decide (s.physKind pa = .dev die)
  let lost := s2.teams.flatMap (fun t => t.stash.flatMap (fun m => (m.lines.filter (fun l => l.dirty && here (128 * l.pa))).map (fun l => l.pa)))
  let s3 := { lost.foldl (fun s l => s.code (128 * l) 128) s2 with
    teams := s2.teams.map (fun (t : Team) => { t with stash := t.stash.map (fun (m : StashMap) => { m with lines := m.lines.filter (fun l => !here (128 * l.pa)) }) })
    owners := s2.owners.filter (fun o => !here o.pa)
    hostLines := s2.hostLines.filter (fun h => !here (64 * h))
    l2 := s2.l2.filter (fun x => !here (128 * x.line))
    l1 := s2.l1.filter (fun x => !here (x.sector * 32) && decide (dieOf x.tile ≠ die))
    zhr := { s2.zhr with diesFenced := s2.zhr.diesFenced ||| BitVec.ofNat 4 (2 ^ die) } }
  let s4 := (s3.portsDown die).newRecord
  s4.pushFault 0 4 0 (BitVec.ofNat 64 die) s4.zhr.seq

/-- DIE_FATAL_ERROR (R370, R408): the die is fenced, or with FRZCTL.ONFENCE the package freezes. -/
def execDieFatalError (die : Nat) (s : State) : Out :=
  if !s.dieOn die || s.zhr.diesFenced.getLsbD die then .next s
  else if (s.winGet 0x40).getLsbD 1 then .next s.freezeNow
  else .next (s.fenceDie die)

/-! ## The host and the fabric (15 R397 to R403) -/

/-- Whether the CXL port is up, and with it the register window and the management controller (R394). -/
def State.portUp (s : State) : Bool := s.ready 12

/-- Whether bytes stay within one 64-byte line. -/
def inLine (pa n : Nat) : Bool := decide (0 < n) && decide (pa % 64 + n ≤ 64)

/-- A read from outside the package performed at its home, with its answer. -/
def State.outsideRead (s : State) (pa n : Nat) : State :=
  let s1 := s.homeRead none 0 pa 0
  match s1.physRead pa n with
  | some bs => { s1 with reply := bs, replyStatus := 0 }
  | none => { s1 with reply := [], replyStatus := 1 }

/-- A store from outside the package performed at its home. -/
def State.outsideWrite (s : State) (pa : Nat) (bs : List Byte) : State := (s.countHome none pa 0 true).homeWrite 2048 0 0 pa bs

/-- The line of a physical address taken by the host (R398; 07 R187): another owner gives it up, every shared copy is invalidated. -/
def State.hostTake (s : State) (pa : Nat) : State :=
  let s1 := ((s.countHome none pa 0 false).takeStash 0 pa).dropShared (pa / 64 * 64) 64
  { s1 with hostLines := insNat (pa / 64) s1.hostLines }

/-- A line that the host owns given back, with its data where the host has written it (07 R187). -/
def State.hostGive (s : State) (pa : Nat) (data : List Byte) : State :=
  let s1 := { s with hostLines := delNat (pa / 64) s.hostLines }
  if data.isEmpty then s1 else s1.outsideWrite pa data

/-- The physical address of a host line (R391). -/
def State.hostLine (s : State) (line : Nat) : Nat := s.chip.toNat * 2 ^ 48 + 0x800000000000 + 64 * line

/-- A host line taken back by the host (R397; 07 R187, R188): a stash that owns it gives it up, every L1 that shares it is invalidated, and it
leaves the L2. -/
def State.hostSnoop (s : State) (pa : Nat) : State :=
  let s1 := (s.takeStash 0 pa).dropShared pa 64
  match s1.l2.find? (fun x => decide (x.line = pa / 128)) with
  | some x => s1.l2Evict x
  | none => s1

/-- The physical address of a request from outside the package that waits at its home. -/
def State.requestPa (s : State) : Outside → Nat
  | .host pa .. => pa
  | .flit _ pa .. => pa
  | .snoop line => s.hostLine line

/-- Whether a request from outside finds one for its line waiting before it. -/
def State.waitsBehind (s : State) (pa : Nat) : Bool := s.waiting.any (fun i => decide (s.requestPa i / 64 = pa / 64))

/-- A request from outside that has to wait at its home, retried in its turn (R187; R398, R400). -/
def State.waitOutside (s : State) (i : Outside) : State := { s with waiting := s.waiting ++ [i] }

/-- A host's access to a line of device memory at its home slice (R398): a read (0), a write (1) or the taking of the line as its owner (2); it waits
while the page flips or an engine owns the line, and behind earlier ones that wait. -/
def State.hostAccess (s : State) (pa op n : Nat) (data : List (BitVec 8)) : State :=
  if s.lineBusy pa || s.waitsBehind pa then s.waitOutside (.host pa op n data)
  else if op = 2 then s.hostTake pa
  else if op = 1 then s.outsideWrite pa data
  else s.outsideRead pa n

/-- HOST_CXL_MEM_ACCESS (R398): a host's access to device memory, or the return of a line that it owns (3), also for a back-invalidation. -/
def execHostCxlMemAccess (pa op n : Nat) (data : List (BitVec 8)) (s : State) : Out :=
  let len := if op = 0 then n else data.length
  match s.physKind pa with
  | .dev _ =>
    .next (if !s.portUp then s
      else if op = 3 then
        (if s.hostLines.contains (pa / 64) && (data.isEmpty || inLine pa len) then s.hostGive pa data else s)
      else if op ≤ 2 && (decide (op = 2) || inLine pa len) then s.hostAccess pa op n data
      else s)
  | _ => .next s

/-- The sectors of a range that another chip has read: it is recorded among their sharers where this package is their home (07 R187). -/
def State.shareChip (s : State) (chip pa n : Nat) : State :=
  if (s.l2Die pa).isNone then s
  else { s with chipShares := (upFrom (pa / 32) ((pa % 32 + n + 31) / 32)).foldl (fun l k => if l.contains (k, chip) then l else l ++ [(k, chip)]) s.chipShares }

/-- A flit's access at a line's home, its acting home among them or an address home that forwards it (07 R199), counted for its unit where it is a
movable one of a tile of another chip (07 R200); it waits as any request does, and a read adds its chip to the sharers (07 R187). -/
def State.flitAccess (s : State) (h : FlitHead) (pa : Nat) (wr : Bool) (data : List (BitVec 8)) : State :=
  if chipOf pa ≠ s.chip.toNat && decide (s.servingChip pa ≠ s.chip) then { s with strays := s.strays + 1 }
  else if s.lineHeld pa || s.waitsBehind pa then s.waitOutside (.flit h pa wr data)
  else
    let s1 := if h.movable && decide (h.src ≠ s.chip) && decide (h.die < 4) then s.countMovable pa h.src h.die else s
    if wr then s1.outsideWrite pa data else (s1.outsideRead pa data.length).shareChip h.src.toNat pa data.length

/-- GFL_FLIT_RECEIVE (R401): a flit past its FEC is retried and counted; one for another chip is dropped and counted; else its access comes to the
line's home. -/
def execGflFlitReceive (port : Nat) (h : FlitHead) (pa : Nat) (wr retried : Bool) (data : List (BitVec 8)) (s : State) : Out :=
  if 48 ≤ port || !(s.winGet (portCtl port + 8)).getLsbD 0 then .next s
  else if retried then
    let st := s.winGet (portCtl port + 8)
    .next ((s.winSet (portCtl port + 8) (setField st 32 32 (field st 32 32 + 1))).addBucket 6 port)
  else if h.chip ≠ s.chip then .next { s with strays := s.strays + 1 }
  else .next (if inLine pa data.length then s.flitAccess h pa wr data else s)

/-- A snoop of a host line that this package caches (R397), once nothing holds it. -/
def State.snoopAccess (s : State) (line : Nat) : State :=
  if s.lineBusy (s.hostLine line) || s.waitsBehind (s.hostLine line) then s.waitOutside (.snoop line) else s.hostSnoop (s.hostLine line)

/-- A request that waited tried again. -/
def State.retryOne (s : State) : Outside → State
  | .host pa op n data => s.hostAccess pa op n data
  | .flit h pa wr data => s.flitAccess h pa wr data
  | .snoop line => s.snoopAccess line

/-- The requests from outside that wait, tried again in their order (R187; R400). -/
def State.retryOutside (s : State) : State := s.waiting.foldl State.retryOne { s with waiting := [] }

/-- GFL_PORT_UP (R394, R403): an enabled port whose function is ready has trained and knows its far end. -/
def execGflPortUp (port : Nat) (peer : BitVec 12) (s : State) : Out :=
  if 48 ≤ port || !(s.winGet (portCtl port)).getLsbD 0 || !s.ready (352 + port) then .next s
  else
    let st := s.winGet (portCtl port + 8)
    .next (s.winSet (portCtl port + 8) (setField (setField st 0 1 1) 16 12 peer.toNat))

/-- GFL_PORT_DOWN (R402). -/
def execGflPortDown (port : Nat) (s : State) : Out :=
  .next (if 48 ≤ port || !(s.winGet (portCtl port + 8)).getLsbD 0 then s else s.portDown port)

/-- ROUTE_ENTRY_WRITE (R402): new traffic for the chip waits until the entry applies. -/
def execRouteEntryWrite (chip : BitVec 12) (v : BitVec 64) (s : State) : Out := .next (if s.portUp then s.writeRoute chip.toNat v else s)

/-- ROUTE_APPLY (R402): the earlier traffic has been acknowledged; an entry that leaves its chip no port up is told as a lost route (R406). -/
def execRouteApply (chip : BitVec 12) (s : State) : Out :=
  match s.routePend.find? (fun x => decide (x.1 = chip.toNat)) with
  | none => .next s
  | some x =>
    let s1 := { s.winSet (0x080000 + 8 * chip.toNat) x.2 with routePend := s.routePend.filter (fun y => decide (y.1 ≠ chip.toNat)) }
    .next (if chip ≠ s.chip && s.routeUp chip.toNat && x.2.getLsbD 63 && !s1.routeUp chip.toNat then
      s1.pushFault 0 7 0 (BitVec.ofNat 64 chip.toNat) 0 else s1)

/-- CXL_LINK_UP (R394, R397). -/
def execCxlLinkUp (s : State) : Out := .next (if s.dieOn 0 && !s.zhr.diesFenced.getLsbD 0 then s.setReady 12 true else s)

/-- CXL_HOST_SNOOP (R397): a host line cached in die 0's L2 is taken back. -/
def execCxlHostSnoop (line : Nat) (s : State) : Out :=
  .next (if s.portUp && decide (64 * line < 0x800000000000) then s.snoopAccess line else s)

/-! ## Time (15 R404, R405) -/

/-- TIMECTL with SYNC, and CORR where DT was corrected or stepped (R393). -/
def State.setSync (s : State) (sync : Bool) (corr : Option Int) : State :=
  let c1 := setField (s.winGet 0x48) 1 1 (bitOf sync)
  s.winSet 0x48 (match corr with
    | none => c1
    | some x => setField c1 32 32 (max (-(2 : Int) ^ 31) (min (2 ^ 31 - 1) x) % 2 ^ 32).toNat)

/-- The root's DT now, as the last message and the time since give it (R404). -/
def State.rootNow (s : State) : Nat := s.rootDt + (s.clock - s.rootClock)

/-- A package at half rate that has come within 20 ns of its root is in step with it (R405). -/
def State.settleTime (s : State) : State :=
  if s.half && decide (s.dt ≤ s.rootNow + 20) then { s with half := false }.setSync true none else s

/-- TIME_MESSAGE (R404, R405): the root's time, corrected for the link's delay; a package that has joined is slewed by at most one tick a
microsecond, one that has not joins by the table. -/
def execTimeMessage (root : BitVec 64) (s0 : State) : Out :=
  if (s0.winGet 0x48).getLsbD 0 then .next s0
  else
    let own := s0.dt
    let r := root.toNat
    let s := { s0 with lastMessage := own, rootDt := r, rootClock := s0.clock }
    let near := decide (own ≤ r + 20) && decide (r ≤ own + 20)
    if (s.winGet 0x48).getLsbD 1 && near then
      if own = r || decide (s.elapsed s.slewAt < 1000) then .next s
      else if own < r then .next ({ s with dt := own + 1, lastMessage := own + 1, slewAt := own + 1 }.setSync true (some 1))
      else .next ({ s with lag := 1, slewAt := own }.setSync true (some (-1)))
    else if own < r then
      .next ({ s with dt := r, lastMessage := r, half := false }.setSync true (some ((r : Int) - own)))
    else if own ≤ r + 20 then .next ({ s with half := false }.setSync true none)
    else .next ({ s with half := true }.setSync false none)

/-- Whether a package in step with its root has had no message for 10 ms (R405). -/
def State.syncLost (s : State) : Bool :=
  !(s.winGet 0x48).getLsbD 0 && (s.winGet 0x48).getLsbD 1 && decide (10000000 ≤ s.elapsed s.lastMessage)

/-- TIME_SYNC_TIMEOUT (R405). -/
def execTimeSyncTimeout (s : State) : Out := .next (if s.syncLost then s.winSet 0x48 (setField (s.winGet 0x48) 1 1 0) else s)

/-- TIME_SYNC_REACHED (R405): a package at half rate has come within 20 ns of its root. -/
def execTimeSyncReached (s : State) : Out := .next s.settleTime

/-! ## Registers, bias and snapshots (15 R391 to R396, R399, R400; 11 R313) -/

/-- Whether an offset names a register of the window (R391). -/
def regOffset (off : Nat) : Bool := decide (off % 8 = 0) && decide (off < 0x1000000)

/-- REGISTER_WRITE (R6, R391). -/
def execRegisterWrite (off : Nat) (v : BitVec 64) (s : State) : Out := .next (if s.portUp && regOffset off then s.winWrite off v else s)

/-- PARTCFG_WRITE (R395). -/
def execPartcfgWrite (v : BitVec 64) (s : State) : Out := .next (if s.portUp then s.writePartcfg v else s)

/-- FRZCTL_FREEZE_WRITE (R393, R408). -/
def execFrzctlFreezeWrite (v : BitVec 64) (s : State) : Out := .next (if s.portUp then s.writeFrzctl v else s)

/-- FREEZE_PIN (R408). -/
def execFreezePin (s : State) : Out := .next s.freezeNow

/-- The BIASCMD word of a page and a direction (R396). -/
def biasWord (page : Nat) (toHost : Bool) : W64 := BitVec.ofNat 64 (1 + 2 * bitOf toHost + page / 4096 % 2 ^ 36 * 4096)

/-- BIAS_FLIP_TO_HOST (R400). -/
def execBiasFlipToHost (die page : Nat) (s : State) : Out := .next (if s.portUp && s.dieOn die then s.biasGo die (biasWord page true) else s)

/-- BIAS_FLIP_TO_DEVICE (R400). -/
def execBiasFlipToDevice (die page : Nat) (s : State) : Out := .next (if s.portUp && s.dieOn die then s.biasGo die (biasWord page false) else s)

/-- The lines of a page written back, and dropped from the stashes, the L2 and every L1 (R400). -/
def State.dropPage (s : State) (page : Nat) : State :=
  let on := fun (pa : Nat) => decide (localOf pa / 4096 * 4096 = page) && decide (chipOf pa = s.chip.toNat)
  let s1 := s.recallStash (fun _ l => on (128 * l.pa))
  let s2 := (s1.l2.filter (fun x => on (128 * x.line))).foldl (fun s x => s.l2Evict x) s1
  { s2 with l1 := s2.l1.filter (fun x => !on (x.sector * 32)) }

/-- BIAS_FLIP_DONE (R400): no engine, or towards the device not the host, owns a line of the page any more; the bit changes and the retried
requests go on. -/
def execBiasFlipDone (die : Nat) (s : State) : Out :=
  match s.flips.find? (fun f => decide (f.die = die)) with
  | none => .next s
  | some f =>
    let base := s.chip.toNat * 2 ^ 48 + f.page
    if (if f.toHost then s.owners.any (fun o => decide (o.pa < base + 4096) && decide (base < o.pa + o.len))
        else s.hostLines.any (fun h => decide (64 * h / 4096 * 4096 = base))) then .next s
    else
      let s1 := if f.toHost then s.dropPage f.page else s
      let (a, bit) := s1.biasPlace f.page
      let old := memGet s1.mem a
      let new : Byte := if f.toHost then old ||| BitVec.ofNat 8 (2 ^ bit) else old &&& ~~~BitVec.ofNat 8 (2 ^ bit)
      let s2 := { s1 with mem := memSet s1.mem a new, flips := s1.flips.filter (fun x => decide (x.die ≠ die)) }
      let st := s2.winGet (dieBlock die + 16)
      .next (s2.winSet (dieBlock die + 16) (setField (setField (setField st 0 1 0) 1 1 1) 32 32 (s.elapsed f.since)))

/-- SNAPSHOT_NOW (R313). -/
def execSnapshotNow (s : State) : Out := .next (if s.portUp then s.snapshotDue else s)

/-- Whether INTERVAL seconds have passed since the last interval of an enabled snapshot began (R313). -/
def State.intervalOver (s : State) : Bool :=
  (s.winGet 0x020000).getLsbD 0 && decide (max 1 (field (s.winGet 0x020000) 32 32) * 1000000000 ≤ s.elapsed s.snapSince)

/-- SNAPSHOT_INTERVAL (R313): the next interval begins, and a snapshot is due. -/
def execSnapshotInterval (s : State) : Out := .next (if s.intervalOver then { s with snapSince := s.dt }.snapshotDue else s)

/-- SNAPSHOT_STOP_END (R313): every tile of a die's partition has halted at a run boundary, and their state is written to the dies' shadow regions;
the tiles go on, and with the last partition the stream begins. -/
def execSnapshotStopEnd (die : Nat) (s : State) : Out :=
  let dies := (s.partOf die).filter (fun d => s.snapDue.contains d)
  if dies.isEmpty || s.groups.any (fun g => g.live && g.run && !g.halted && !g.away && (s.partOf die).contains (dieOf g.tile)) then .next s
  else
    let left := s.snapDue.filter (fun d => !dies.contains d)
    let st := setField (s.winGet 0x020018) 16 16 (s.elapsed s.snapAt / 10)
    let s1 := dies.foldl (fun s d => s.codeShadow d) s
    .next { s1.winSet 0x020018 (if left.isEmpty then setField st 0 1 1 else st) with snapDue := left, streaming := left.isEmpty }

/-- The ranges of the snapshot list; none where it cannot be read. -/
def State.snapRanges (s : State) (pa : Nat) : Nat → Option (List (Nat × Nat))
  | 0 => some []
  | fuel + 1 =>
    match s.physRead pa 16 with
    | none => none
    | some bs =>
      let n := bytesVal (bs.drop 8)
      if n = 0 then some [] else (s.snapRanges (pa + 16) fuel).map (fun l => (bytesVal (bs.take 8), n) :: l)

/-- The bytes listed in a physical range, each with its place in it. -/
def State.listedIn (s : State) (pa n : Nat) : Sparse Byte :=
  let part := fun (m : Sparse Byte) (a : Nat) => (m.filter (fun c => within c.1 a n)).map (fun c => (c.1 - a, c.2))
  match s.physKind pa with
  | .dev _ => part s.mem (localOf pa)
  | .host h => part s.hostMem h
  | .remote _ => part s.remote pa
  | _ => []

/-- The coded ranges of a physical range as they read at another place. -/
def State.codedIn (s : State) (pa n dst : Nat) : List (Nat × Nat × Nat) :=
  (s.coded.map (fun x => (max x.1 pa, min x.2.1 (pa + n), x.2.2 + (max x.1 pa - x.1)))).filterMap (fun x =>
    if x.1 < x.2.1 then some (x.1 - pa + dst, x.2.1 - pa + dst, x.2.2) else none)

/-- Whether every sector of a physical range is delivered unpoisoned, by its ends and the poisoned sectors. -/
def State.wholeRange (s : State) (pa n : Nat) : Bool :=
  s.deliverable pa && s.deliverable (pa + n - 1) && decide (chipOf pa = chipOf (pa + n - 1)) &&
    !s.poison.any (fun k => decide (pa < k * 32 + 32) && decide (k * 32 < pa + n))

/-- A physical range copied to another by a DCE, every cached copy there dropped (R313); none where either cannot be reached or the bytes come
poisoned. -/
def State.copyRange (s : State) (src n dst : Nat) : Option State :=
  if s.wholeRange src n && s.deliverable dst && s.deliverable (dst + n - 1) then
    let s1 := ((s.recallStash (fun _ l => within (128 * l.pa + 127) dst (n + 127))).dropShared dst n).blank dst n
    let s2 := (s.listedIn src n).foldl (fun (x : State) c => x.physSet (dst + c.1) c.2) s1
    some { s2 with coded := s.codedIn src n dst ++ s2.coded }
  else none

/-- Some ranges copied one after another to a place up (log entry 76), and whether one could not be. -/
def State.copyAll (s : State) (dst : Nat) : List (Nat × Nat) → State × Bool
  | [] => (s, false)
  | x :: rest => match s.copyRange x.1 x.2 dst with
    | none => (s, true)
    | some t => t.copyAll (dst + x.2) rest

/-- The stream written to SNAPTGT (R313): the dies' shadow regions, then the ranges of the list, one after another (log entry 76); and whether it failed: a
region, the list, a range of it or the target cannot be read or reached. -/
def State.stream (s : State) : State × Bool :=
  let shadows := s.snapDies.map (fun d => (s.shadowAt d, 117964800))
  let list := field (s.winGet 0x020010) 0 48
  match (if list = 0 then some [] else s.snapRanges (s.chip.toNat * 2 ^ 48 + list) (2 ^ 34)) with
  | none => (s, true)
  | some ranges => s.copyAll (field (s.winGet 0x020008) 0 60) (shadows ++ ranges)

/-- Whether an engine or the host owns a line of the stream's place, so that it waits (07 R187). -/
def State.streamHeld (s : State) : Bool :=
  let dst := field (s.winGet 0x020008) 0 60
  let n := 117964800 * s.snapDies.length
  s.owners.any (fun o => decide (o.pa < dst + n) && decide (dst < o.pa + o.len)) || s.hostLines.any (fun h => within (64 * h) dst n)

/-- SNAPSHOT_STREAM_DONE (R313, R406). -/
def execSnapshotStreamDone (failed : Bool) (s : State) : Out :=
  if s.streaming && !s.streamHeld then
    let (s0, bad) := if failed then (s, true) else s.stream
    let st := setField (s0.winGet 0x020018) 0 1 0
    let st1 := if bad then setField st 1 1 1 else st
    let s1 := { s0.winSet 0x020018 st1 with streaming := false }
    .next (if bad then s1.pushFault 0 6 0 st1 0 else s1)
  else .next s

/-! ## Bring-up (15 R394) -/

/-- Whether a map bit is a function of an enabled die that containment has not fenced; a cluster's has a usable tile. -/
def State.canReady (s : State) (bit : Nat) : Bool :=
  let die := if bit < 12 then bit / 3 else if bit = 12 then 0 else if bit < 208 then (bit - 16) / 48
    else if bit < 352 then (bit - 208) / 36 else (bit - 352) / 12
  decide (bit < 400) && (decide (bit < 13) || decide (16 ≤ bit)) && s.dieOn die && !s.zhr.diesFenced.getLsbD die &&
    (decide (bit < 208) || decide (352 ≤ bit) || (upFrom 0 4).any (fun t => s.tileOk (die * 256 + (bit - 208) % 36 * 4 + t)))

/-- FUNCTION_READY (R394); before the first of a die's stacks is ready its bias table, where it has one, is cleared (R399). -/
def execFunctionReady (bit : Nat) (s : State) : Out :=
  .next (if !s.canReady bit then s
    else
      let die := bit / 3
      let first := decide (bit < 12) && (upFrom (3 * die) 3).all (fun n => !s.ready n)
      (if first then s.clearBias die else s).setReady bit true)

/-! ## Management commands (15 R407, R408) -/

/-- A management command's answer. -/
def State.answer (s : State) (status : Nat) (bs : List Byte) : State := { s with replyStatus := status, reply := bs }

/-- Bits of a set of tile indexes as bytes, tile 0 in the low bit (R371). -/
def tileBits (f : Nat → Bool) : List Byte :=
  (upFrom 0 72).map (fun i => BitVec.ofNat 8 ((upFrom 0 8).foldl (fun n b => n + bitOf (f (tileOfIndex (8 * i + b))) * 2 ^ b) 0))

/-- The health record but for its signature (R371). -/
def State.zhrBody (s : State) : List Byte :=
  let z := s.zhr
  let len := 0x210 + 16 * z.suspects.length + 96
  [0x5A, 0x48, 0x52, 0x31] ++ leBytes 2 1 ++ leBytes 2 len ++ leBytes 8 z.seq.toNat ++ leBytes 8 z.dt ++ leBytes 2 s.chip.toNat ++
    leBytes 2 s.form ++ leBytes 4 0 ++ (upFrom 0 16).map Config.serialNumber ++
    tileBits (fun t => (s.tile t).fencedMfr) ++ tileBits (fun t => (s.tile t).fencedField) ++
    (upFrom 0 288).map (fun i => BitVec.ofNat 8 ((s.bucket 1 (2 * i)).level + 16 * (s.bucket 1 (2 * i + 1)).level)) ++
    leBytes 8 z.settles.toNat ++ leBytes 8 z.votes.toNat ++ leBytes 8 z.lates.toNat ++ leBytes 8 z.noMajority.toNat ++
    leBytes 1 z.diesFenced.toNat ++ leBytes 7 0 ++ leBytes 2 z.suspects.length ++ leBytes 6 0 ++
    z.suspects.flatMap (fun x => leBytes 8 (suspectWord x).toNat ++ leBytes 8 x.dt)

/-- The signature of a health record: 96 zero bytes where the key store failed its self-test at the last reset (R372). -/
def State.signature (s : State) (body : List Byte) : List Byte :=
  (upFrom 0 96).map (fun i => if Config.keyStoreOk s.resets then Config.signature body i else 0)

/-- GET_ZHR (R371, R372): a newly generated record with its signature. -/
def execGetZhr (s : State) : Out :=
  let s1 := s.newRecord
  .next (if s.portUp then s1.answer 0 (s1.zhrBody ++ s1.signature s1.zhrBody) else s)

/-- GET_CERT (R407): a 1 KiB piece of the key and certificate chain, nothing past the end. -/
def execGetCert (piece : Nat) (s : State) : Out :=
  .next (if s.portUp then s.answer 0 ((upFrom (1024 * piece) (min 1024 (Config.certLength - 1024 * piece))).map Config.certByte) else s)

/-- SET_CAP (R389). -/
def execSetCap (seq : BitVec 64) (cap lease : BitVec 16) (rest : BitVec 32) (s : State) : Out :=
  if !s.portUp then .next s
  else if rest ≠ 0 then .next (s.answer 3 [3])
  else if seq = s.winGet 0x010018 then .next (s.answer 1 [1])
  else if seq.toNat < (s.winGet 0x010018).toNat then .next (s.answer 2 [2])
  else
    let s1 := (s.winSet 0x010018 seq).winSet 0x010010 (setField (setField (s.winGet 0x010010) 0 16 cap.toNat) 16 1 0)
    .next ({ s1 with capEnd := some ((s.dt + (if lease = 0 then 2000 else lease.toNat) * 1000000) % 2 ^ 64) }.answer 0 [0])

/-- FREEZE (R408). -/
def execFreeze (s : State) : Out := .next (if s.portUp then s.freezeNow else s)

/-- CLR_FENCE (R361, R407): a tile's field fence and its demerits are cleared; its cluster is ready again if the fence had left it no
tile. -/
def execClrFence (index : Nat) (s : State) : Out :=
  if !s.portUp then .next s
  else
    let tile := tileOfIndex index
    if decide (index < 576) && (s.tile tile).fencedField then
      let none_ := !(upFrom (tile / 4 * 4) 4).any (fun t => s.tileOk t)
      let s1 := (s.modTile tile (fun t => { t with fencedField := false })).setBucket ⟨1, index, 0, 0⟩
      let s2 := { s1 with zhr := { s1.zhr with suspects := s1.zhr.suspects.filter (fun x => !(decide (x.kind = 1) && decide (x.unit = index))) } }
      let s3 := if none_ && s2.tileOk tile then s2.setReady (clusterBit tile) true else s2
      .next (s3.newRecord.answer 0 [0])
    else .next (s.answer 1 [1])

/-- REG_RD (R407): status 1 while frozen. -/
def execRegRd (off : Nat) (s : State) : Out :=
  .next (if !s.portUp then s
    else if s.frozen then s.answer 1 []
    else s.answer 0 (leBytes 8 (if regOffset off then (s.winRead off).toNat else 0)))

/-- REG_WR (R407): status 1 while frozen. -/
def execRegWr (off : Nat) (v : BitVec 64) (s : State) : Out :=
  .next (if !s.portUp then s
    else if s.frozen then s.answer 1 []
    else (if regOffset off then s.winWrite off v else s).answer 0 [])

/-- The lines of this package's memory that a cache holds dirty: what the stacks hold of them is older, and the device does not say how old (R408; log
entry 126). -/
def State.dirtyLines (s : State) : List Nat :=
  (s.l2.filter (fun x => x.dirty)).map (fun (x : L2Line) => x.line) ++
    s.teams.flatMap (fun t => t.stash.flatMap (fun m => (m.lines.filter (fun l => l.dirty)).map (fun (l : StashLine) => l.pa)))

/-- The caches lost without a write-back (R408). -/
def State.loseCaches (s : State) : State :=
  (dedup (s.dirtyLines.filter (fun l => (s.l2Die (128 * l)).isSome && !decide (0x800000000000 ≤ localOf (128 * l))))).foldl (fun s l => s.code (128 * l) 128) s

/-- The package after a reset (R408): the stacks' contents and the ZHR's SEQ are kept, every other state is cleared; what lies outside the
package, and what manufacture fixed, is as it was. -/
def State.afterReset (s : State) : State :=
  { State.reset with
    mem := s.mem
    poison := s.poison.filter (fun k => match s.physKind (k * 32) with
      | .dev _ => true
      | .host _ => true
      | .remote _ => true
      | _ => false)
    hostMem := s.hostMem
    remote := s.remote
    zhr := { State.reset.zhr with seq := s.zhr.seq }
    tiles := (s.tiles.filter (fun t => t.fencedMfr)).map (fun t => { Tile.fresh t.id with fencedMfr := true })
    chip := s.chip
    form := s.form
    coded := s.coded.filter (fun x => match s.physKind x.1 with
      | .dev _ => true
      | .host _ => true
      | .remote _ => true
      | _ => false)
    inputs := s.inputs
    free := s.free
    resets := s.resets + 1 }

/-- RESET (R407, R408). -/
def execReset (s : State) : Out := .next (if s.portUp then s.loseCaches.afterReset else s)

/-- The scan data of a frozen package, 64 bytes of the free values: the chain layout is not in the spec. -/
def State.scanBytes (s : State) : List Byte :=
  (upFrom 0 8).flatMap (fun i => leBytes 8 (Config.freeValue (s.free + i)).toNat)

/-- SCAN_RD (R407): status 1 unless frozen. -/
def execScanRd (_chain _off : Nat) (s : State) : Out :=
  .next (if !s.portUp then s
    else if s.frozen then { s with free := s.free + 8 }.answer 0 s.scanBytes
    else s.answer 1 [])

end Sys2Proof.Machine
end

