-- ==== Sys2Proof/Machine/Dispatch.lean ====
section
/-! DEFINITION. The dispatch: one direct call of a meaning for each row of the opcode table. -/

namespace Sys2Proof.Machine

/-- The meaning of an instruction or step (one arm per constructor). -/
def exec (i : Instr) (s : State) : Host.Outcome State Fault Refusal :=
  match i with
  | .iadd h d a b => Sys2Proof.Machine.execIadd h d a b s
  | .isub h d a b => Sys2Proof.Machine.execIsub h d a b s
  | .imul h d a b => Sys2Proof.Machine.execImul h d a b s
  | .imulh h d a b => Sys2Proof.Machine.execImulh h d a b s
  | .imulhu h d a b => Sys2Proof.Machine.execImulhu h d a b s
  | .imad h d a b c => Sys2Proof.Machine.execImad h d a b c s
  | .imin h d a b => Sys2Proof.Machine.execImin h d a b s
  | .imax h d a b => Sys2Proof.Machine.execImax h d a b s
  | .iminu h d a b => Sys2Proof.Machine.execIminu h d a b s
  | .imaxu h d a b => Sys2Proof.Machine.execImaxu h d a b s
  | .iabs h d a => Sys2Proof.Machine.execIabs h d a s
  | .ineg h d a => Sys2Proof.Machine.execIneg h d a s
  | .andv h d a b => Sys2Proof.Machine.execAndv h d a b s
  | .orv h d a b => Sys2Proof.Machine.execOrv h d a b s
  | .xorv h d a b => Sys2Proof.Machine.execXorv h d a b s
  | .andn h d a b => Sys2Proof.Machine.execAndn h d a b s
  | .shl h d a b => Sys2Proof.Machine.execShl h d a b s
  | .shr h d a b => Sys2Proof.Machine.execShr h d a b s
  | .sar h d a b => Sys2Proof.Machine.execSar h d a b s
  | .rotl h d a b => Sys2Proof.Machine.execRotl h d a b s
  | .bfx h d a b t op n => Sys2Proof.Machine.execBfx h d a b t op n s
  | .bfi h d a b c op n => Sys2Proof.Machine.execBfi h d a b c op n s
  | .popc h d a => Sys2Proof.Machine.execPopc h d a s
  | .clz h d a => Sys2Proof.Machine.execClz h d a s
  | .brev h d a => Sys2Proof.Machine.execBrev h d a s
  | .icmp h cc p a b => Sys2Proof.Machine.execIcmp h cc p a b s
  | .sel h d a b neg p => Sys2Proof.Machine.execSel h d a b neg p s
  | .mov h d a => Sys2Proof.Machine.execMov h d a s
  | .movi h d k => Sys2Proof.Machine.execMovi h d k s
  | .iaddi h d a k => Sys2Proof.Machine.execIaddi h d a k s
  | .iadd64 h d a b => Sys2Proof.Machine.execIadd64 h d a b s
  | .lidx h d => Sys2Proof.Machine.execLidx h d s
  | .fadd h d a b => Sys2Proof.Machine.execFadd h d a b s
  | .fsub h d a b => Sys2Proof.Machine.execFsub h d a b s
  | .fmul h d a b => Sys2Proof.Machine.execFmul h d a b s
  | .ffma h d a b c rm negc negp rs => Sys2Proof.Machine.execFfma h d a b c rm negc negp rs s
  | .fmin h d a b => Sys2Proof.Machine.execFmin h d a b s
  | .fmax h d a b => Sys2Proof.Machine.execFmax h d a b s
  | .fcmp h cc p a b => Sys2Proof.Machine.execFcmp h cc p a b s
  | .fclass h d a hf t => Sys2Proof.Machine.execFclass h d a hf t s
  | .dadd h d a b => Sys2Proof.Machine.execDadd h d a b s
  | .dmul h d a b => Sys2Proof.Machine.execDmul h d a b s
  | .dfma h d a b c rm negc negp rs => Sys2Proof.Machine.execDfma h d a b c rm negc negp rs s
  | .dcmp h cc p a b => Sys2Proof.Machine.execDcmp h cc p a b s
  | .hadd2 h d a b t rm rs => Sys2Proof.Machine.execHadd2 h d a b t rm rs s
  | .hmul2 h d a b t rm rs => Sys2Proof.Machine.execHmul2 h d a b t rm rs s
  | .hfma2 h d a b c t rm negc negp rs => Sys2Proof.Machine.execHfma2 h d a b c t rm negc negp rs s
  | .frcp h d a => Sys2Proof.Machine.execFrcp h d a s
  | .frsq h d a => Sys2Proof.Machine.execFrsq h d a s
  | .fsqrt h d a => Sys2Proof.Machine.execFsqrt h d a s
  | .fex2 h d a => Sys2Proof.Machine.execFex2 h d a s
  | .flg2 h d a => Sys2Proof.Machine.execFlg2 h d a s
  | .fsin h d a => Sys2Proof.Machine.execFsin h d a s
  | .fcos h d a => Sys2Proof.Machine.execFcos h d a s
  | .cvt h d a dt rm st spos dpos sat rs => Sys2Proof.Machine.execCvt h d a dt rm st spos dpos sat rs s
  | .frnd h d a t rm op rs => Sys2Proof.Machine.execFrnd h d a t rm op rs s
  | .nanorg h d a hf t => Sys2Proof.Machine.execNanorg h d a hf t s
  | .dxbPack h d a c t rm rs => Sys2Proof.Machine.execDxbPack h d a c t rm rs s
  | .dxbUnpk h d a c t => Sys2Proof.Machine.execDxbUnpk h d a c t s
  | .fabs h d a => Sys2Proof.Machine.execFabs h d a s
  | .fneg h d a => Sys2Proof.Machine.execFneg h d a s
  | .dmin h d a b => Sys2Proof.Machine.execDmin h d a b s
  | .dmax h d a b => Sys2Proof.Machine.execDmax h d a b s
  | .mma h acc a b c t z rm rs => Sys2Proof.Machine.execMma h acc a b c t z rm rs s
  | .accRd h d acc t rm n j0 rs => Sys2Proof.Machine.execAccRd h d acc t rm n j0 rs s
  | .accWr h acc a t rm n j0 rs => Sys2Proof.Machine.execAccWr h acc a t rm n j0 rs s
  | .accZero h acc => Sys2Proof.Machine.execAccZero h acc s
  | .accCvt h d acc c t rm sat rs => Sys2Proof.Machine.execAccCvt h d acc c t rm sat rs s
  | .ldB h d ta o ht => Sys2Proof.Machine.execLdB h d ta o ht s
  | .ldH h d ta o ht => Sys2Proof.Machine.execLdH h d ta o ht s
  | .ldW h d ta o ht => Sys2Proof.Machine.execLdW h d ta o ht s
  | .ldD h d ta o ht => Sys2Proof.Machine.execLdD h d ta o ht s
  | .ldQ h d ta o ht => Sys2Proof.Machine.execLdQ h d ta o ht s
  | .stB h d ta o ht => Sys2Proof.Machine.execStB h d ta o ht s
  | .stH h d ta o ht => Sys2Proof.Machine.execStH h d ta o ht s
  | .stW h d ta o ht => Sys2Proof.Machine.execStW h d ta o ht s
  | .stD h d ta o ht => Sys2Proof.Machine.execStD h d ta o ht s
  | .stQ h d ta o ht => Sys2Proof.Machine.execStQ h d ta o ht s
  | .ldsW h d a => Sys2Proof.Machine.execLdsW h d a s
  | .ldsD h d a => Sys2Proof.Machine.execLdsD h d a s
  | .ldsQ h d a => Sys2Proof.Machine.execLdsQ h d a s
  | .stsW h d a => Sys2Proof.Machine.execStsW h d a s
  | .stsD h d a => Sys2Proof.Machine.execStsD h d a s
  | .stsQ h d a => Sys2Proof.Machine.execStsQ h d a s
  | .ldcW h d a => Sys2Proof.Machine.execLdcW h d a s
  | .stcW h d a => Sys2Proof.Machine.execStcW h d a s
  | .ldx h d ta o ht t mode disp => Sys2Proof.Machine.execLdx h d ta o ht t mode disp s
  | .stx h d ta o ht t mode disp => Sys2Proof.Machine.execStx h d ta o ht t mode disp s
  | .prefL1 h ta o ht => Sys2Proof.Machine.execPrefL1 h ta o ht s
  | .prefL2 h ta o ht => Sys2Proof.Machine.execPrefL2 h ta o ht s
  | .atom h d ta o c t sc op ord => Sys2Proof.Machine.execAtom h d ta o c t sc op ord s
  | .red h d ta o t sc op ord => Sys2Proof.Machine.execRed h d ta o t sc op ord s
  | .cas h d ta o c t sc ord => Sys2Proof.Machine.execCas h d ta o c t sc ord s
  | .atoms h d a b c t sc op ord => Sys2Proof.Machine.execAtoms h d a b c t sc op ord s
  | .reds h a b t sc op ord => Sys2Proof.Machine.execReds h a b t sc op ord s
  | .binr h d a b => Sys2Proof.Machine.execBinr h d a b s
  | .cell h d a b c dim n => Sys2Proof.Machine.execCell h d a b c dim n s
  | .atomc h d a b c t sc op ord => Sys2Proof.Machine.execAtomc h d a b c t sc op ord s
  | .brl h k => Sys2Proof.Machine.execBrl h k s
  | .join h => Sys2Proof.Machine.execJoin h s
  | .lxPick h d a b => Sys2Proof.Machine.execLxPick h d a b s
  | .lxFlip h d a n => Sys2Proof.Machine.execLxFlip h d a n s
  | .lxRot h d a n => Sys2Proof.Machine.execLxRot h d a n s
  | .lxShift h d a n => Sys2Proof.Machine.execLxShift h d a n s
  | .pviewMask h d neg p => Sys2Proof.Machine.execPviewMask h d neg p s
  | .pviewAny h pd neg p => Sys2Proof.Machine.execPviewAny h pd neg p s
  | .pviewAll h pd neg p => Sys2Proof.Machine.execPviewAll h pd neg p s
  | .pviewCount h d neg p => Sys2Proof.Machine.execPviewCount h d neg p s
  | .lcomb h d a t op => Sys2Proof.Machine.execLcomb h d a t op s
  | .exitL h => Sys2Proof.Machine.execExitL h s
  | .nop h => Sys2Proof.Machine.execNop h s
  | .pset h op pd pa pb => Sys2Proof.Machine.execPset h op pd pa pb s
  | .pmovFromP h d => Sys2Proof.Machine.execPmovFromP h d s
  | .pmovToP h a => Sys2Proof.Machine.execPmovToP h a s
  | .sadd h d a b => Sys2Proof.Machine.execSadd h d a b s
  | .ssub h d a b => Sys2Proof.Machine.execSsub h d a b s
  | .smul h d a b => Sys2Proof.Machine.execSmul h d a b s
  | .smulh h d a b => Sys2Proof.Machine.execSmulh h d a b s
  | .sand h d a b => Sys2Proof.Machine.execSand h d a b s
  | .sor h d a b => Sys2Proof.Machine.execSor h d a b s
  | .sxor h d a b => Sys2Proof.Machine.execSxor h d a b s
  | .sshl h d a b => Sys2Proof.Machine.execSshl h d a b s
  | .sshr h d a b => Sys2Proof.Machine.execSshr h d a b s
  | .ssar h d a b => Sys2Proof.Machine.execSsar h d a b s
  | .smin h d a b => Sys2Proof.Machine.execSmin h d a b s
  | .smax h d a b => Sys2Proof.Machine.execSmax h d a b s
  | .ssetq h cc q a b => Sys2Proof.Machine.execSsetq h cc q a b s
  | .smov h d a => Sys2Proof.Machine.execSmov h d a s
  | .smovi h d k => Sys2Proof.Machine.execSmovi h d k s
  | .smovh h d k => Sys2Proof.Machine.execSmovh h d k s
  | .saddi h d a k => Sys2Proof.Machine.execSaddi h d a k s
  | .ssel h d a b => Sys2Proof.Machine.execSsel h d a b s
  | .bcast h d a => Sys2Proof.Machine.execBcast h d a s
  | .lread h d a b => Sys2Proof.Machine.execLread h d a b s
  | .srd h d idx => Sys2Proof.Machine.execSrd h d idx s
  | .swr h a idx => Sys2Proof.Machine.execSwr h a idx s
  | .sld h d a k => Sys2Proof.Machine.execSld h d a k s
  | .sst h a b k => Sys2Proof.Machine.execSst h a b k s
  | .taSet h ta a b => Sys2Proof.Machine.execTaSet h ta a b s
  | .taInv h ta => Sys2Proof.Machine.execTaInv h ta s
  | .taQry h d ta => Sys2Proof.Machine.execTaQry h d ta s
  | .xbSetImm h imm => Sys2Proof.Machine.execXbSetImm h imm s
  | .xbSetReg h a => Sys2Proof.Machine.execXbSetReg h a s
  | .xbAddImm h imm => Sys2Proof.Machine.execXbAddImm h imm s
  | .xbAddReg h a => Sys2Proof.Machine.execXbAddReg h a s
  | .bra h off => Sys2Proof.Machine.execBra h off s
  | .call h off => Sys2Proof.Machine.execCall h off s
  | .ret h a => Sys2Proof.Machine.execRet h a s
  | .jmp h a => Sys2Proof.Machine.execJmp h a s
  | .loop h a k => Sys2Proof.Machine.execLoop h a k s
  | .exit h => Sys2Proof.Machine.execExit h s
  | .trap h code => Sys2Proof.Machine.execTrap h code s
  | .syncs h => Sys2Proof.Machine.execSyncs h s
  | .yieldR h => Sys2Proof.Machine.execYieldR h s
  | .brk h code => Sys2Proof.Machine.execBrk h code s
  | .launch h d a => Sys2Proof.Machine.execLaunch h d a s
  | .launchTry h d a => Sys2Proof.Machine.execLaunchTry h d a s
  | .qpost h d a b => Sys2Proof.Machine.execQpost h d a b s
  | .qprio h d a b => Sys2Proof.Machine.execQprio h d a b s
  | .ctrAdd h a b mode sc kind imm => Sys2Proof.Machine.execCtrAdd h a b mode sc kind imm s
  | .ctrWait h d a b mode sc kind imm => Sys2Proof.Machine.execCtrWait h d a b mode sc kind imm s
  | .ctrWaitt h d a b c mode sc q => Sys2Proof.Machine.execCtrWaitt h d a b c mode sc q s
  | .ctrRd h d a => Sys2Proof.Machine.execCtrRd h d a s
  | .ctrRdSt h d a => Sys2Proof.Machine.execCtrRdSt h d a s
  | .barArv h d a b mode sc kind imm => Sys2Proof.Machine.execBarArv h d a b mode sc kind imm s
  | .barWait h d a b mode sc => Sys2Proof.Machine.execBarWait h d a b mode sc s
  | .fence h sc kind => Sys2Proof.Machine.execFence h sc kind s
  | .acqRem h d a => Sys2Proof.Machine.execAcqRem h d a s
  | .batchClose h d => Sys2Proof.Machine.execBatchClose h d s
  | .batchWait h a kind imm => Sys2Proof.Machine.execBatchWait h a kind imm s
  | .quiet h sc t => Sys2Proof.Machine.execQuiet h sc t s
  | .phase h t => Sys2Proof.Machine.execPhase h t s
  | .cpIn h d a b comp sp sc imm => Sys2Proof.Machine.execCpIn h d a b comp sp sc imm s
  | .cpOut h d a b comp sp sc imm => Sys2Proof.Machine.execCpOut h d a b comp sp sc imm s
  | .cpGath h d a b c comp sp sc imm => Sys2Proof.Machine.execCpGath h d a b c comp sp sc imm s
  | .cpBulk h d a b comp sp sc imm => Sys2Proof.Machine.execCpBulk h d a b comp sp sc imm s
  | .cpBulkFill h d a b comp sp sc imm => Sys2Proof.Machine.execCpBulkFill h d a b comp sp sc imm s
  | .collAllred h d a b comp sp sc imm => Sys2Proof.Machine.execCollAllred h d a b comp sp sc imm s
  | .collRedscat h d a b comp sp sc imm => Sys2Proof.Machine.execCollRedscat h d a b comp sp sc imm s
  | .collAllgath h d a b comp sp sc imm => Sys2Proof.Machine.execCollAllgath h d a b comp sp sc imm s
  | .collBcast h d a b comp sp sc imm => Sys2Proof.Machine.execCollBcast h d a b comp sp sc imm s
  | .cpStat h d which => Sys2Proof.Machine.execCpStat h d which s
  | .lkDef h d a b => Sys2Proof.Machine.execLkDef h d a b s
  | .lkBegin h d => Sys2Proof.Machine.execLkBegin h d s
  | .lkAcq h a mode sc => Sys2Proof.Machine.execLkAcq h a mode sc s
  | .lkTry h d a mode sc => Sys2Proof.Machine.execLkTry h d a mode sc s
  | .lkUpg h a mode sc => Sys2Proof.Machine.execLkUpg h a mode sc s
  | .lkRel h a => Sys2Proof.Machine.execLkRel h a s
  | .lkEnd h => Sys2Proof.Machine.execLkEnd h s
  | .lkQry h d a => Sys2Proof.Machine.execLkQry h d a s
  | .gearN h => Sys2Proof.Machine.execGearN h s
  | .gearF h => Sys2Proof.Machine.execGearF h s
  | .gearW h => Sys2Proof.Machine.execGearW h s
  | .hintCompute h => Sys2Proof.Machine.execHintCompute h s
  | .hintMemory h => Sys2Proof.Machine.execHintMemory h s
  | .hintWait h => Sys2Proof.Machine.execHintWait h s
  | .hintEndphase h => Sys2Proof.Machine.execHintEndphase h s
  | .clk h d => Sys2Proof.Machine.execClk h d s
  | .seg h => Sys2Proof.Machine.execSeg h s
  | .segSync h => Sys2Proof.Machine.execSegSync h s
  | .rte h => Sys2Proof.Machine.execRte h s
  | .ologRetry h a => Sys2Proof.Machine.execOlogRetry h a s
  | .ologDrop h a => Sys2Proof.Machine.execOlogDrop h a s
  | .ologStat h d => Sys2Proof.Machine.execOlogStat h d s
  | .ctxFlV h => Sys2Proof.Machine.execCtxFlV h s
  | .ctxFlA h => Sys2Proof.Machine.execCtxFlA h s
  | .ctxFlAll h => Sys2Proof.Machine.execCtxFlAll h s
  | .ctxLdV h a b => Sys2Proof.Machine.execCtxLdV h a b s
  | .ctxLdA h a => Sys2Proof.Machine.execCtxLdA h a s
  | .stashMap h d a b => Sys2Proof.Machine.execStashMap h d a b s
  | .stashWb h a b => Sys2Proof.Machine.execStashWb h a b s
  | .cinvL1 h a b => Sys2Proof.Machine.execCinvL1 h a b s
  | .cinvWb h a b => Sys2Proof.Machine.execCinvWb h a b s
  | .cinvWbi h a b => Sys2Proof.Machine.execCinvWbi h a b s
  | .tlbiRange h a b => Sys2Proof.Machine.execTlbiRange h a b s
  | .tlbiCtx h b => Sys2Proof.Machine.execTlbiCtx h b s
  | .tlbiGlobal h => Sys2Proof.Machine.execTlbiGlobal h s
  | .tlbiAll h => Sys2Proof.Machine.execTlbiAll h s
  | .lkmat h d a b => Sys2Proof.Machine.execLkmat h d a b s
  | .finj h d a b => Sys2Proof.Machine.execFinj h d a b s
  | .preempt h d a b => Sys2Proof.Machine.execPreempt h d a b s
  | .finjApply gid => Sys2Proof.Machine.execFinjApply gid s
  | .splitSelect tile quad => Sys2Proof.Machine.execSplitSelect tile quad s
  | .trapEntry gid => Sys2Proof.Machine.execTrapEntry gid s
  | .resultReturn gid seq lanes => Sys2Proof.Machine.execResultReturn gid seq lanes s
  | .memoryReply gid e lanes => Sys2Proof.Machine.execMemoryReply gid e lanes s
  | .homeRequest gid e lanes => Sys2Proof.Machine.execHomeRequest gid e lanes s
  | .invalidationReceive tile sector => Sys2Proof.Machine.execInvalidationReceive tile sector s
  | .invalidationAck gid => Sys2Proof.Machine.execInvalidationAck gid s
  | .pageWalkDone gid e lanes => Sys2Proof.Machine.execPageWalkDone gid e lanes s
  | .apertureTranslateDone gid ta => Sys2Proof.Machine.execApertureTranslateDone gid ta s
  | .unitMoveComplete unit => Sys2Proof.Machine.execUnitMoveComplete unit s
  | .settleHoldEnd unit => Sys2Proof.Machine.execSettleHoldEnd unit s
  | .accumulatorStart tile => Sys2Proof.Machine.execAccumulatorStart tile s
  | .accumulatorComplete x => Sys2Proof.Machine.execAccumulatorComplete x s
  | .registerLineFill gid line => Sys2Proof.Machine.execRegisterLineFill gid line s
  | .engineCommandStart cmd => Sys2Proof.Machine.execEngineCommandStart cmd s
  | .engineTransferStep cmd => Sys2Proof.Machine.execEngineTransferStep cmd s
  | .engineCommandComplete cmd => Sys2Proof.Machine.execEngineCommandComplete cmd s
  | .collPeerMessage member call code data => Sys2Proof.Machine.execCollPeerMessage member call code data s
  | .waitSatisfied gid slot => Sys2Proof.Machine.execWaitSatisfied gid slot s
  | .ctrWaittDeadline gid slot => Sys2Proof.Machine.execCtrWaittDeadline gid slot s
  | .quietDrained gid slot => Sys2Proof.Machine.execQuietDrained gid slot s
  | .lockRequestArrive gid => Sys2Proof.Machine.execLockRequestArrive gid s
  | .lockReleaseArrive gid => Sys2Proof.Machine.execLockReleaseArrive gid s
  | .lockGrantArrive gid => Sys2Proof.Machine.execLockGrantArrive gid s
  | .woundArrive gid => Sys2Proof.Machine.execWoundArrive gid s
  | .queueDoorbell n tail => Sys2Proof.Machine.execQueueDoorbell n tail s
  | .qctlWrite n v => Sys2Proof.Machine.execQctlWrite n v s
  | .queueEntryRead n => Sys2Proof.Machine.execQueueEntryRead n s
  | .gridAccept => Sys2Proof.Machine.execGridAccept s
  | .teamDistribute serial tile trailerTile => Sys2Proof.Machine.execTeamDistribute serial tile trailerTile s
  | .teamRetire tid => Sys2Proof.Machine.execTeamRetire tid s
  | .gridRetire serial => Sys2Proof.Machine.execGridRetire serial s
  | .groupResume tid tile => Sys2Proof.Machine.execGroupResume tid tile s
  | .partitionSwapDone die => Sys2Proof.Machine.execPartitionSwapDone die s
  | .trailerSegmentStart tid => Sys2Proof.Machine.execTrailerSegmentStart tid s
  | .segmentCompare tid => Sys2Proof.Machine.execSegmentCompare tid s
  | .thirdRunPlace tid tile => Sys2Proof.Machine.execThirdRunPlace tid tile s
  | .vote tid => Sys2Proof.Machine.execVote tid s
  | .prismHoldLimit ctx => Sys2Proof.Machine.execPrismHoldLimit ctx s
  | .dieFatalError die => Sys2Proof.Machine.execDieFatalError die s
  | .correctedMemoryError kind place => Sys2Proof.Machine.execCorrectedMemoryError kind place s
  | .bucketLeak kind unit => Sys2Proof.Machine.execBucketLeak kind unit s
  | .gearTransitionStart tile => Sys2Proof.Machine.execGearTransitionStart tile s
  | .gearTransitionEnd tile => Sys2Proof.Machine.execGearTransitionEnd tile s
  | .pairBalanceMeasure pair upper lower predUpper predLower => Sys2Proof.Machine.execPairBalanceMeasure pair upper lower predUpper predLower s
  | .balanceWaitExpiry tile => Sys2Proof.Machine.execBalanceWaitExpiry tile s
  | .droopStretch cluster => Sys2Proof.Machine.execDroopStretch cluster s
  | .governorAdjust cluster fmhz nmhz power => Sys2Proof.Machine.execGovernorAdjust cluster fmhz nmhz power s
  | .capLeaseExpiry => Sys2Proof.Machine.execCapLeaseExpiry s
  | .hostCxlMemAccess pa op n data => Sys2Proof.Machine.execHostCxlMemAccess pa op n data s
  | .gflFlitReceive port head pa wr retried data => Sys2Proof.Machine.execGflFlitReceive port head pa wr retried data s
  | .gflPortUp port peer => Sys2Proof.Machine.execGflPortUp port peer s
  | .gflPortDown port => Sys2Proof.Machine.execGflPortDown port s
  | .routeEntryWrite chip v => Sys2Proof.Machine.execRouteEntryWrite chip v s
  | .routeApply chip => Sys2Proof.Machine.execRouteApply chip s
  | .timeMessage root => Sys2Proof.Machine.execTimeMessage root s
  | .timeSyncTimeout => Sys2Proof.Machine.execTimeSyncTimeout s
  | .partcfgWrite v => Sys2Proof.Machine.execPartcfgWrite v s
  | .biasFlipToHost die page => Sys2Proof.Machine.execBiasFlipToHost die page s
  | .biasFlipToDevice die page => Sys2Proof.Machine.execBiasFlipToDevice die page s
  | .biasFlipDone die => Sys2Proof.Machine.execBiasFlipDone die s
  | .snapshotNow => Sys2Proof.Machine.execSnapshotNow s
  | .snapshotInterval => Sys2Proof.Machine.execSnapshotInterval s
  | .snapshotStreamDone failed => Sys2Proof.Machine.execSnapshotStreamDone failed s
  | .frzctlFreezeWrite v => Sys2Proof.Machine.execFrzctlFreezeWrite v s
  | .freezePin => Sys2Proof.Machine.execFreezePin s
  | .registerWrite off v => Sys2Proof.Machine.execRegisterWrite off v s
  | .getZhr => Sys2Proof.Machine.execGetZhr s
  | .getCert piece => Sys2Proof.Machine.execGetCert piece s
  | .setCap seq cap lease rest => Sys2Proof.Machine.execSetCap seq cap lease rest s
  | .freeze => Sys2Proof.Machine.execFreeze s
  | .clrFence index => Sys2Proof.Machine.execClrFence index s
  | .regRd off => Sys2Proof.Machine.execRegRd off s
  | .regWr off v => Sys2Proof.Machine.execRegWr off v s
  | .reset => Sys2Proof.Machine.execReset s
  | .scanRd chain off => Sys2Proof.Machine.execScanRd chain off s
  | .functionReady bit => Sys2Proof.Machine.execFunctionReady bit s
  | .cxlLinkUp => Sys2Proof.Machine.execCxlLinkUp s
  | .cxlHostSnoop line => Sys2Proof.Machine.execCxlHostSnoop line s
  | .droopRecovery cluster => Sys2Proof.Machine.execDroopRecovery cluster s
  | .snapshotStopEnd die => Sys2Proof.Machine.execSnapshotStopEnd die s
  | .timeSyncReached => Sys2Proof.Machine.execTimeSyncReached s

end Sys2Proof.Machine
end

