-- ==== Sys2Proof/Machine/Fetch.lean ====
section
/-! DEFINITION. Fetching and decoding the instruction of the running split (02 R22, R30), the clock, the package's own next event, and
placing an instruction where the machine fetches. -/

namespace Sys2Proof.Machine

/-! ## Fetch and decode (R22, R30) -/

/-- What fetching an instruction gives: an instruction, a trap taken at it, or nothing yet. -/
inductive Fetched where
  | instr (i : Instr)
  | trap (t : Trap)
  | hold
  deriving DecidableEq, Repr

/-- A fault of fetch: TPC and TRESUME at word 0, TADDR the word that could not be fetched (R22, R316). -/
def fetchTrap (sp : Split) (va : BitVec 57) (c : BitVec 8 × Option W64) (dt : Nat) : Trap :=
  { Trap.plain c.1 sp.pc sp.pc sp.mask (va.setWidth 64) dt with walk := c.2 }

/-- The words of an instruction decoded, or its Illegal Instruction (R30, R316). -/
def decodeWords (sp : Split) (w k : BitVec 32) (dt : Nat) : Fetched :=
  match decode w k with
  | .ok i => .instr i
  | .error r =>
    let len := if r = .unallottedOpcode then 4 else 4 * wordsOf w
    .trap (Trap.plain 0x01 sp.pc (pcAdd sp.pc len) sp.mask (k ++ w) dt)

/-- The instruction at a split's PC: word 0, and the second word where word 0 has one (R22, R23). -/
def State.fetchInstr (s : State) (g : Group) (sp : Split) : Fetched × State :=
  match s.fetchWord g sp.pc.toNat with
  | (.error c, s1) => (if c.1 = 0 then .hold else .trap (fetchTrap sp sp.pc c s.dt), s1)
  | (.ok w, s1) =>
    if wordsOf w = 2 then
      match s1.fetchWord g (pcAdd sp.pc 4).toNat with
      | (.error c, s2) => (if c.1 = 0 then .hold else .trap (fetchTrap sp (pcAdd sp.pc 4) c s.dt), s2)
      | (.ok k, s2) => (decodeWords sp w k s.dt, s2)
    else (decodeWords sp w 0 s.dt, s1)

/-- Whether a trap is one of fetch. -/
def fetchCause (c : Nat) : Bool := decide (6 ≤ c) && decide (c ≤ 9)

/-- Whether a logged trap is a fault of fetch: TRESUME is TPC, and TADDR one of the instruction's words. -/
def TrapLog.atFetch (l : TrapLog) : Bool :=
  fetchCause (field l.cause 0 8) && decide (l.tresume = l.tpc) &&
    (decide (l.addr.toNat = l.tpc.toNat) || decide (l.addr.toNat = (pcAdd l.tpc 4).toNat))

/-- The fetch of a follower: it takes the fetch faults of its log, and waits where it meets one of its own (12 R340; 13 R347). -/
def State.followFetch (s : State) (g : Group) (f : Fetched) : Fetched :=
  if g.role.follows then
    match s.instrTrap g with
    | some l => if l.atFetch then .trap l.trap else f
    | none => (match f with
      | .trap t => if fetchCause t.cause.toNat then .hold else f
      | f => f)
  else f

/-- A trap taken at fetch or decode: nothing has issued. -/
def State.fetchTrapped (s : State) (sp : Split) (t : Trap) : State := (s.trapHere sp.slot t).boundary sp.slot

/-- Whether the focus may issue: it holds the issue slot of a quadrant whose tile's clock runs (R58, R378). -/
def State.issuing (s : State) : Option Split := if (s.tile s.g.tile).trans.isSome then none else s.g.running

/-! ## The clock (15 R404, R405, R408) -/

/-- One clock of the model: 1 ns of DT, half of that while the package waits for its root, none for a tick taken back (log entry 3); DT is a 64-bit count (00 R5). -/
def State.passTime (s : State) : State :=
  if s.lag ≠ 0 then { s with clock := s.clock + 1, lag := s.lag - 1 }
  else if s.half && decide (s.clock % 2 = 1) then { s with clock := s.clock + 1 }
  else { s with clock := s.clock + 1, dt := (s.dt + 1) % 2 ^ 64 }

/-- What waits for a line tried again: prefetches, events for the fault queues, requests from outside (07 R179, R187; 15 R398, R400, R406). -/
def State.retryWaits (s : State) : State :=
  let s1 := if s.prefs.isEmpty then s else s.retryPrefs
  let s2 := if s1.pushes.isEmpty then s1 else s1.retryPushes
  if s2.waiting.isEmpty then s2 else s2.retryOutside

/-- A clock passes: the tiles' targets are looked at before DT moves on, and what has come due comes about after: their gears, the end of a half rate,
flips of groups that stand, requests that wait (13 R363; 14 R377, R380; 15 R405). -/
def State.tick (s : State) : State :=
  let s1 := (s.busyTiles.foldl State.noteTarget s).passTime
  (s1.busyTiles.foldl State.gearDue s1).settleTime.settleFlips.retryWaits

/-! ## Inputs -/

/-- Whether an input is an event: one that no program word encodes. -/
def isEvent (i : Instr) : Bool := (encode i).isEmpty

/-- Whether an input is a management command, which a frozen package still answers (R407). -/
def isManagement : Instr → Bool
  | .getZhr | .getCert _ | .setCap .. | .freeze | .clrFence _ | .regRd _ | .regWr .. | .reset | .scanRd .. => true
  | _ => false

/-! ## The package's own events (log entry 4) -/

/-- The events the package makes of itself, each a row of the opcode table. -/
inductive Own where
  | pageWalkDone (gid : Nat) (e : Nat) (lanes : BitVec 32)
  | homeRequest (gid : Nat) (e : Nat) (lanes : BitVec 32)
  | memoryReply (gid : Nat) (e : Nat) (lanes : BitVec 32)
  | resultReturn (gid : Nat) (seq : Nat) (lanes : BitVec 32)
  | apertureTranslateDone (gid : Nat) (ta : BitVec 4)
  | registerLineFill (gid : Nat) (line : Nat)
  | waitSatisfied (gid : Nat) (slot : Nat)
  | ctrWaittDeadline (gid : Nat) (slot : Nat)
  | quietDrained (gid : Nat) (slot : Nat)
  | lockGrantArrive (gid : Nat)
  | lockRequestArrive (gid : Nat)
  | lockReleaseArrive (gid : Nat)
  | finjApply (gid : Nat)
  | trapEntry (gid : Nat)
  | segmentCompare (tid : Nat)
  | trailerSegmentStart (tid : Nat)
  | thirdRunPlace (tid : Nat) (tile : Nat)
  | vote (tid : Nat)
  | teamRetire (tid : Nat)
  | groupResume (tid : Nat) (tile : Nat)
  | gridAccept
  | gridRetire (serial : BitVec 32)
  | teamDistribute (serial : BitVec 32) (tile : Nat) (trailerTile : Nat)
  | queueEntryRead (n : Nat)
  | gearTransitionEnd (tile : Nat)
  | gearTransitionStart (tile : Nat)
  | balanceWaitExpiry (tile : Nat)
  | invalidationAck (gid : Nat)
  | invalidationReceive (tile : Nat) (sector : Nat)
  | woundArrive (gid : Nat)
  | unitMoveComplete (unit : Nat)
  | settleHoldEnd (unit : Nat)
  | accumulatorComplete (tile : Nat)
  | accumulatorStart (tile : Nat)
  | engineTransferStep (cmd : Nat)
  | engineCommandComplete (cmd : Nat)
  | engineCommandStart (cmd : Nat)
  | partitionSwapDone (die : Nat)
  | biasFlipDone (die : Nat)
  | routeApply (chip : BitVec 12)
  | capLeaseExpiry
  | bucketLeak (kind : Nat) (unit : Nat)
  | prismHoldLimit (ctx : Nat)
  | snapshotInterval
  | snapshotStopEnd (die : Nat)
  | snapshotStreamDone
  | timeSyncTimeout
  | splitSelect (tile : Nat) (quad : Nat)
  deriving DecidableEq, Repr

/-- The meaning of an event of the package's own. -/
def Own.run (s : State) : Own → Out
  | .pageWalkDone gid e lanes => execPageWalkDone gid e lanes s
  | .homeRequest gid e lanes => execHomeRequest gid e lanes s
  | .memoryReply gid e lanes => execMemoryReply gid e lanes s
  | .resultReturn gid seq lanes => execResultReturn gid seq lanes s
  | .apertureTranslateDone gid ta => execApertureTranslateDone gid ta s
  | .registerLineFill gid line => execRegisterLineFill gid line s
  | .waitSatisfied gid slot => execWaitSatisfied gid slot s
  | .ctrWaittDeadline gid slot => execCtrWaittDeadline gid slot s
  | .quietDrained gid slot => execQuietDrained gid slot s
  | .lockGrantArrive gid => execLockGrantArrive gid s
  | .lockRequestArrive gid => execLockRequestArrive gid s
  | .lockReleaseArrive gid => execLockReleaseArrive gid s
  | .finjApply gid => execFinjApply gid s
  | .trapEntry gid => execTrapEntry gid s
  | .segmentCompare tid => execSegmentCompare tid s
  | .trailerSegmentStart tid => execTrailerSegmentStart tid s
  | .thirdRunPlace tid tile => execThirdRunPlace tid tile s
  | .vote tid => execVote tid s
  | .teamRetire tid => execTeamRetire tid s
  | .groupResume tid tile => execGroupResume tid tile s
  | .gridAccept => execGridAccept s
  | .gridRetire serial => execGridRetire serial s
  | .teamDistribute serial tile trailerTile => execTeamDistribute serial tile trailerTile s
  | .queueEntryRead n => execQueueEntryRead n s
  | .gearTransitionEnd tile => execGearTransitionEnd tile s
  | .gearTransitionStart tile => execGearTransitionStart tile s
  | .balanceWaitExpiry tile => execBalanceWaitExpiry tile s
  | .invalidationAck gid => execInvalidationAck gid s
  | .invalidationReceive tile sector => execInvalidationReceive tile sector s
  | .woundArrive gid => execWoundArrive gid s
  | .unitMoveComplete unit => execUnitMoveComplete unit s
  | .settleHoldEnd unit => execSettleHoldEnd unit s
  | .accumulatorComplete tile => execAccumulatorComplete ⟨tile, [], []⟩ s
  | .accumulatorStart tile => execAccumulatorStart tile s
  | .engineTransferStep cmd => execEngineTransferStep cmd s
  | .engineCommandComplete cmd => execEngineCommandComplete cmd s
  | .engineCommandStart cmd => execEngineCommandStart cmd s
  | .partitionSwapDone die => execPartitionSwapDone die s
  | .biasFlipDone die => execBiasFlipDone die s
  | .routeApply chip => execRouteApply chip s
  | .capLeaseExpiry => execCapLeaseExpiry s
  | .bucketLeak kind unit => execBucketLeak kind unit s
  | .prismHoldLimit ctx => execPrismHoldLimit ctx s
  | .snapshotInterval => execSnapshotInterval s
  | .snapshotStopEnd die => execSnapshotStopEnd die s
  | .snapshotStreamDone => execSnapshotStreamDone false s
  | .timeSyncTimeout => execTimeSyncTimeout s
  | .splitSelect tile quad => execSplitSelect tile quad s

/-- Every lane. -/
def allLanes : W32 := 0xFFFFFFFF

/-- The events due for a group. -/
def State.groupEvents (s : State) (g : Group) : List Own :=
  g.olog.flatMap (fun e =>
    (if e.lanes.any (fun l => l.st.isPending) then [Own.pageWalkDone g.gid e.idx allLanes] else []) ++
    (if e.lanes.any (fun l => match l.st with
      | .located .. | .half .. => true
      | _ => false) then [Own.homeRequest g.gid e.idx allLanes] else []) ++
    (if e.lanes.any (fun l => match l.st with
      | .performed _ => true
      | _ => false) then [Own.memoryReply g.gid e.idx allLanes] else [])) ++
  g.results.map (fun r => Own.resultReturn g.gid r.seq allLanes) ++
  (g.ta.filter (fun a => g.wantsAperture a.1)).map (fun a => Own.apertureTranslateDone g.gid (BitVec.ofNat 4 a.1)) ++
  (match g.absent with
    | l :: _ => [Own.registerLineFill g.gid l]
    | [] => []) ++
  (if g.absent.contains 2000 then [Own.registerLineFill g.gid 2000] else []) ++
  g.splits.flatMap (fun sp => match sp.park with
    | .ctr w => [Own.waitSatisfied g.gid sp.slot] ++ (if w.deadline.isSome then [Own.ctrWaittDeadline g.gid sp.slot] else [])
    | .quiet .. => [Own.quietDrained g.gid sp.slot]
    | _ => []) ++
  (match g.lreq with
    | some r => if r.arrived then [Own.lockGrantArrive g.gid] else [Own.lockRequestArrive g.gid]
    | none => []) ++
  (if !g.lrel.isEmpty || g.lend then [Own.lockReleaseArrive g.gid] else []) ++
  (if g.flip.isEmpty then [] else [Own.finjApply g.gid]) ++
  (if s.trapPending g then [Own.trapEntry g.gid] else [])

/-- A member of a list picked by a counter. -/
def pick (l : List Nat) (n : Nat) : Nat := l.getD (n % l.length) 0

/-- The events due for a team. -/
def State.teamEvents (s : State) (t : Team) : List Own :=
  (if t.replay.isSome then [Own.segmentCompare t.tid] else []) ++
  (match t.chord with
    | some c =>
      if c.level = 0 then []
      else [Own.trailerSegmentStart t.tid, Own.segmentCompare t.tid] ++
        (if c.thirdWait then [Own.thirdRunPlace t.tid (pick ((upFrom 0 4).flatMap s.dieTiles) s.clock)] else []) ++
        (if c.third.isSome then [Own.vote t.tid] else [])
    | none => []) ++
  (if t.ended then [Own.teamRetire t.tid] else []) ++
  (if s.resumable t then [Own.groupResume t.tid t.tile, Own.groupResume t.tid (pick ((upFrom 0 4).flatMap s.dieTiles) s.clock)] else [])

/-- The events due for a grid. -/
def State.gridEvents (s : State) (x : Grid) : List Own :=
  if !x.accepted then [Own.gridAccept]
  else if x.done then [Own.gridRetire x.serial]
  else if x.waiting then
    let l := (s.gridDies x).flatMap s.dieTiles
    let a := s.clock / 2
    [Own.teamDistribute x.serial (pick l a) (pick l (a + 8 + a / max 1 l.length))]
  else []

/-- The queues that have an entry to read. -/
def State.queueEvents (s : State) : List Own :=
  (s.win.filter (fun c => decide (0x100000 ≤ c.1) && decide (c.1 < 0x180000) && decide (c.1 % 32 = 0) && c.2.getLsbD 0)).map (fun c =>
    Own.queueEntryRead ((c.1 - 0x100000) / 32))

/-- The quadrants that hold groups: tile times 4 plus quadrant. -/
def State.busyQuads (s : State) : List Nat :=
  dedup ((s.groups.filter (fun g => g.live && !g.away)).map (fun (g : Group) => 4 * g.tile + g.place / 16 % 4))

/-- The events due for the tiles. -/
def State.tileEvents (s : State) : List Own :=
  s.busyTiles.flatMap (fun n =>
    let t := s.tile n
    (if t.trans.isSome then [Own.gearTransitionEnd n] else if s.wantsChange n && t.deferred.isNone then [Own.gearTransitionStart n] else []) ++
    (if t.deferred.isSome then [Own.balanceWaitExpiry n] else []))

/-- The events due for the package as a whole. -/
def State.packageEvents (s : State) : List Own :=
  s.invals.map (fun v => if v.received then Own.invalidationAck v.gid else Own.invalidationReceive v.tile v.sector) ++
  s.woundMsgs.map (fun m => Own.woundArrive m.gid) ++
  (s.units.filter (fun u => u.moving.isSome)).map (fun u => Own.unitMoveComplete u.unit) ++
  (s.units.filter (fun u => u.settled.isSome)).map (fun u => Own.settleHoldEnd u.unit) ++
  (dedup (s.jobs.map (fun (j : AccJob) => j.tile))).map (fun t =>
    if s.jobs.any (fun j => decide (j.tile = t) && j.started) then Own.accumulatorComplete t else Own.accumulatorStart t) ++
  (s.cmds.filter (fun c => !c.done)).flatMap (fun c => if c.started then [Own.engineTransferStep c.id, Own.engineCommandComplete c.id]
    else [Own.engineCommandStart c.id, Own.engineCommandComplete c.id]) ++
  (match s.swap with
    | some w => [Own.partitionSwapDone w.die]
    | none => []) ++
  s.flips.map (fun f => Own.biasFlipDone f.die) ++
  s.routePend.map (fun x => Own.routeApply (BitVec.ofNat 12 x.1)) ++
  (if s.capEnd.isSome then [Own.capLeaseExpiry] else []) ++
  (s.buckets.filter (fun b => decide (b.level ≠ 0) && decide (bucketPeriod b.kind ≤ s.elapsed b.since))).map (fun b => Own.bucketLeak b.kind b.unit) ++
  (s.ctxs.filter (fun c => s.bytesOver c.num || s.timeOver c.num)).map (fun (c : Context) => Own.prismHoldLimit c.num) ++
  (if s.intervalOver then [Own.snapshotInterval] else []) ++
  (dedup (s.snapDue.map (fun d => (s.partOf d).headD d))).map Own.snapshotStopEnd ++
  (if s.streaming then [Own.snapshotStreamDone] else []) ++
  (if s.syncLost then [Own.timeSyncTimeout] else [])

/-- Every event due, in a fixed order. -/
def State.events (s : State) : List Own :=
  s.groups.flatMap (fun g => if g.live || !g.lrel.isEmpty || g.lend then s.groupEvents g else []) ++ s.packageEvents ++
    s.teams.flatMap s.teamEvents ++ s.grids.flatMap s.gridEvents ++ s.queueEvents ++ s.tileEvents ++
    s.busyQuads.map (fun q => Own.splitSelect (q / 4) (q % 4))

/-- The event the package makes next of itself: each of those due in its turn. -/
def State.nextEvent (s : State) : Option Own :=
  let l := s.events
  l[s.clock / 2 % l.length]?

/-! ## Placing an instruction where the machine fetches -/

/-- The PC and page at which `placed` puts an instruction. -/
def placedPc : BitVec 57 := 0x1000

/-- A group that holds an issue slot of tile 0, placed where no grid has started one: all a fetch needs. -/
def placedGroup : Group :=
  { Group.idle with
    gid := 1
    tid := 1
    live := true
    allot := 256
    naccs := 8
    splits := [Split.fresh 0 placedPc 0xFFFFFFFF 0]
    run := true }

/-- The translation of the placed page: readable, writable and executable, to the same local address (07 R193). -/
def placedEntry (s : State) : TlbEntry where
  l2 := false
  unit := s.g.tile
  ctx := s.g.ctx
  glob := false
  va := 0x1000
  size := 0x1000
  pa := s.chip.toNat * 2 ^ 48 + 0x1000
  leaf := 0x33B
  leafPa := 0
  level := 5

/-- Bytes stored where the running split fetches; a state in which no split runs is first given one, its page's translation and the memory
that serves it. -/
def State.placeWords (s : State) (bs : List Byte) : State :=
  let s1 := { s with clock := s.clock + s.clock % 2, inputs := [], frozen := false }
  match s1.g.running with
  | some sp =>
    (match s1.fetchInstr s1.g sp, s1.lookTlb false s1.g.tile s1.g.ctx sp.pc.toNat with
    | (.trap _, s2), none => s2
    | (_, s2), _ => match s2.lookTlb false s1.g.tile s1.g.ctx sp.pc.toNat with
      | some e => s2.physSetList (e.at sp.pc.toNat) bs
      | none => s2)
  | none =>
    let s2 := { s1 with g := placedGroup }
    let s3 := { s2 with tlb := placedEntry s2 :: s2.tlb, others := if s1.g.gid = 0 then s1.others else s1.others ++ [s1.g] }
    (s3.winSet 0 (s3.winGet 0 ||| 0xFFFFFFFFFFFF0007)).physSetList (s.chip.toNat * 2 ^ 48 + 0x1000) bs

end Sys2Proof.Machine
end

