-- ==== Sys2Proof/Machine/Step.lean ====
section
/-! DEFINITION. The step of the machine: the head of the input list, else the instruction of the split that holds the issue slot, else the
package's own next event. -/

namespace Sys2Proof.Machine

/-- The running split's next instruction. -/
def State.stepIssue (s : State) (sp : Split) : Host.Outcome State Fault Refusal :=
  let (f, s1) := s.fetchInstr s.g sp
  match s1.followFetch s.g f with
  | .instr i => exec i s1
  | .trap t => .next (s1.fetchTrapped sp t)
  | .hold => .next s1

/-- The package's own next event, or an idle clock. -/
def State.stepEvent (s : State) : Host.Outcome State Fault Refusal :=
  match s.nextEvent with
  | some e => e.run s
  | none => .next s

/-- One step (log entries 3 and 4): a frozen package answers management commands alone; otherwise a clock passes and the head of the
inputs is taken, or on even clocks the running split issues, or the next event due comes about. -/
def step (s : State) : Host.Outcome State Fault Refusal :=
  if s.frozen then
    match s.inputs with
    | [] => .fault .frozen
    | i :: rest => if isManagement i then exec i { s with inputs := rest } else .next { s with inputs := rest }
  else
    match s.inputs with
    | i :: rest => if isEvent i then exec i { s.tick with inputs := rest } else .next { s.tick with inputs := rest }
    | [] =>
      let s1 := s.tick
      match s1.issuing with
      | some sp => if s.clock % 2 = 0 then s1.stepIssue sp else s1.stepEvent
      | none => s1.stepEvent

/-- The state with an instruction placed where step fetches: its bits are those of the table's numbering, the bits above `nbits` zero, its
words little-endian as R22 stores them. -/
def State.withFetchWord (s : State) (nbits w : Nat) : State := s.placeWords (leBytes 8 (w % 2 ^ nbits))

end Sys2Proof.Machine
end

