-- ==== Sys2Proof/Safety.lean ====
section
/-! DEFINITION. What counts as a safe state, the canonical form of memory, and what statements compare: a state with the bookkeeping of
issuing blanked. -/

namespace Sys2Proof.Machine

/-- Every memory of the machine is in its canonical form. -/
def State.memOk (s : State) : Bool := Memory.wf s.mem && Memory.wf s.hostMem && Memory.wf s.remote

/-- Reset memory lists nothing, so it has the canonical form. -/
theorem State.reset_memOk : State.reset.memOk = true := rfl

/-- A group with the bookkeeping of its runs blanked: its splits with their PCs and what merging them moves (02 R32; 03 R57 to R63), the
issue counts (13 R346, R352), the marks of poisoned register lines (12 R332) and of lines copied for a checkpoint (13 R359).  Every register and
every other field stays. -/
def Group.still (g : Group) : Group :=
  { g with
    splits := []
    keptPc := []
    newSplits := []
    stack := []
    run := false
    cur := 0
    runLen := 0
    atEnd := none
    seq := 0
    icount := 0
    cleared := none
    regPoison := []
    touched := []
    mends := []
    engDue := g.engDue.map (fun x => (0, x.2))
    olog := g.olog.map (fun (e : OlEntry) => { e with slot := 0, again := e.again.map (fun _ => 0) })
    results := g.results.map (fun (r : Result) => { r with slot := 0 }) }

/-- A group with the marks of lines copied for a checkpoint blanked (13 R359). -/
def Group.uncopied (g : Group) : Group := { g with touched := [] }

/-- A team with what redundant execution records of it blanked: its Chord state, its contributions to signatures, its closes and the sectors
copied for a checkpoint (13 R343 to R360). -/
def Team.still (t : Team) : Team := { t with chord := none, folds := [], closes := [], sectors := [] }

/-- A state with the bookkeeping of issuing blanked in the group that issues and in the teams: two states that agree so differ in no
register, no byte of memory, and no other part of the machine. -/
def State.still (s : State) : State :=
  { s with g := s.g.still, others := s.others.map Group.uncopied, teams := s.teams.map Team.still }

/-- What an instruction needs to issue in the running split beside its checks (02 R31, R32): no trap of its own is due, nor one that its team's log has for it (13 R346), its register lines
are in the caches (12 R331), its group may run in its segment (13 R347), no limit of redundant execution stops its store, and the log has room for
what it needs (13 R354).  An
instruction that takes something from outside the team or waits for a comparison (13 R346, R351) is stated here for a team that is neither
checked nor recorded; what checked teams do with it is stated apart. -/
def State.canIssue (s : State) (i : Instr) (u : Uses) (sp : Split) : Prop :=
  s.g.running = some sp ∧ s.preCheck i u sp = none ∧ s.g.missing u = false ∧ s.mayRun s.g = true ∧
    (u.store = true → s.storeStop s.g = false) ∧ s.roomless u = false ∧
    (s.g.role.follows = true → s.instrTrap s.g = none) ∧ ((u.logged || u.cmp) = true → s.g.role = .plain)

/-- Whether a lane-set instruction has an active lane (02 R35). -/
def someLane (h : Hdr) (s : State) : Bool := decide (activeMask h s ≠ 0)

/-- Whether a uniform-set instruction's guard is true (02 R35). -/
def guardOn (h : Hdr) (s : State) : Bool := s.g.guardTrue h.g

/-! ## What an instruction does, as statements say it: whenever it can issue, the machine goes on to a next state that differs from the one
before in what is named and in the bookkeeping of issuing, and in nothing else. -/

/-- The state as an instruction's effect finds it: a mark that only the comparisons of redundant execution use is cleared. -/
def State.open_ (s : State) : State := { s with g := { s.g with cleared := none } }

/-- Where its guard is on, and what it needs holds, the instruction changes the state by `eff`; where its guard is off, nothing. -/
def Does (i : Instr) (u : State → Uses) (on : State → Bool) (need : State → Split → Prop) (eff : State → Split → State) : Prop :=
  ∀ s sp, s.canIssue i (u s) sp → (on s = true → need s sp) →
    ∃ t, exec i s = .next t ∧ t.still = (if on s = true then eff s.open_ sp else s).still

/-- A lane-set instruction writes `f` to register d in its active lanes: every other lane of every vector register, and every other part of
the machine, stays. -/
def LaneSets (i : Instr) (h : Hdr) (u : Uses) (d : BitVec 6) (f : Group → W32 → Nat → W32) : Prop :=
  ∀ s sp, s.canIssue i u sp → ∃ t, exec i s = .next t ∧
    (∀ r l, l < 32 → t.g.rv r l =
      if r = s.g.phys d.toNat ∧ (activeMask h s).getLsbD l = true then f s.g (activeMask h s) l else s.g.rv r l) ∧
    t.still = ({ s with g := { s.g with v := t.g.v, dirty := t.g.dirty } } : State).still

/-- The same for a 64-bit result in the pair d, d + 1, the low word in d. -/
def LaneSetsPair (i : Instr) (h : Hdr) (u : Uses) (d : BitVec 6) (f : Group → W32 → Nat → W64) : Prop :=
  ∀ s sp, s.canIssue i u sp → ∃ t, exec i s = .next t ∧
    (∀ r l, l < 32 → t.g.rv r l =
      if (activeMask h s).getLsbD l = true then
        (if r = s.g.phys d.toNat then (f s.g (activeMask h s) l).extractLsb' 0 32
        else if r = s.g.phys d.toNat + 1 then (f s.g (activeMask h s) l).extractLsb' 32 32 else s.g.rv r l)
      else s.g.rv r l) ∧
    t.still = ({ s with g := { s.g with v := t.g.v, dirty := t.g.dirty } } : State).still

/-- The flags of the active lanes together. -/
def laneFlags (m : W32) (f : Nat → BitVec 5) : BitVec 5 := (lanesOf m).foldl (fun a l => a ||| f l) 0

/-- A floating-point instruction: results in register d and its flags ORed into FPSTAT (05 R123). -/
def LaneSetsF (i : Instr) (h : Hdr) (u : Uses) (d : BitVec 6) (f : Group → Nat → W32 × BitVec 5) : Prop :=
  ∀ s sp, s.canIssue i u sp → ∃ t, exec i s = .next t ∧
    (∀ r l, l < 32 → t.g.rv r l = if r = s.g.phys d.toNat ∧ (activeMask h s).getLsbD l = true then (f s.g l).1 else s.g.rv r l) ∧
    t.g.fpstat = s.g.fpstat ||| laneFlags (activeMask h s) (fun l => (f s.g l).2) ∧
    t.still = ({ s with g := { s.g with v := t.g.v, dirty := t.g.dirty, fpstat := t.g.fpstat } } : State).still

/-- The same for 64-bit results in a pair. -/
def LaneSetsPairF (i : Instr) (h : Hdr) (u : Uses) (d : BitVec 6) (f : Group → Nat → W64 × BitVec 5) : Prop :=
  ∀ s sp, s.canIssue i u sp → ∃ t, exec i s = .next t ∧
    (∀ r l, l < 32 → t.g.rv r l =
      if (activeMask h s).getLsbD l = true then
        (if r = s.g.phys d.toNat then (f s.g l).1.extractLsb' 0 32
        else if r = s.g.phys d.toNat + 1 then (f s.g l).1.extractLsb' 32 32 else s.g.rv r l)
      else s.g.rv r l) ∧
    t.g.fpstat = s.g.fpstat ||| laneFlags (activeMask h s) (fun l => (f s.g l).2) ∧
    t.still = ({ s with g := { s.g with v := t.g.v, dirty := t.g.dirty, fpstat := t.g.fpstat } } : State).still

/-- The predicate p takes an outcome in the active lanes and keeps the others (04 R102, R103); a write of p7 is discarded (02 R35). -/
def PredSets (i : Instr) (h : Hdr) (u : Uses) (p : BitVec 3) (f : Group → W32 → Nat → Bool) : Prop :=
  ∀ s sp, s.canIssue i u sp → ∃ t, exec i s = .next t ∧
    (∀ k l, l < 32 → (t.g.rp k).getLsbD l =
      if k = p.toNat ∧ p.toNat ≠ 7 ∧ (activeMask h s).getLsbD l = true then f s.g (activeMask h s) l else (s.g.rp k).getLsbD l) ∧
    t.still = ({ s with g := { s.g with p := t.g.p, dirty := t.g.dirty } } : State).still

/-- The same with flags ORed into FPSTAT (05 R132). -/
def PredSetsF (i : Instr) (h : Hdr) (u : Uses) (p : BitVec 3) (f : Group → Nat → Bool × BitVec 5) : Prop :=
  ∀ s sp, s.canIssue i u sp → ∃ t, exec i s = .next t ∧
    (∀ k l, l < 32 → (t.g.rp k).getLsbD l =
      if k = p.toNat ∧ p.toNat ≠ 7 ∧ (activeMask h s).getLsbD l = true then (f s.g l).1 else (s.g.rp k).getLsbD l) ∧
    t.g.fpstat = s.g.fpstat ||| laneFlags (activeMask h s) (fun l => (f s.g l).2) ∧
    t.still = ({ s with g := { s.g with p := t.g.p, dirty := t.g.dirty, fpstat := t.g.fpstat } } : State).still

/-- A uniform-set instruction writes `f` to S[d] where its guard is true. -/
def UniSets (i : Instr) (h : Hdr) (u : Uses) (d : BitVec 6) (f : State → Split → W64) : Prop :=
  ∀ s sp, s.canIssue i u sp → ∃ t, exec i s = .next t ∧
    (∀ n, t.g.rs n = if n = d.toNat ∧ guardOn h s = true then f s sp else s.g.rs n) ∧
    t.still = ({ s with g := { s.g with s := t.g.s, dirty := t.g.dirty } } : State).still

/-- An instruction that goes on to the next one: where its split is the only one of its group, that split keeps its lanes and its PC moves
past the instruction (02 R32). -/
def Advances (i : Instr) (u : State → Uses) (on : State → Bool) (need : State → Split → Prop) : Prop :=
  ∀ s sp, s.canIssue i (u s) sp → (on s = true → need s sp) → s.g.splits = [sp] → s.g.newSplits = [] →
    ∃ t x, exec i s = .next t ∧ t.g.splits = [x] ∧ x.slot = sp.slot ∧ x.mask = sp.mask ∧ x.pc = pcAdd sp.pc (instrBytes i)

/-- An instruction that ends its run and continues at `pc` (03 R67): the effect, and where the split is the only one of its group, its PC. -/
def Jumps (i : Instr) (h : Hdr) (u : Uses) (need : State → Split → Prop) (eff : State → Split → State) (pc : State → Split → BitVec 57) :
    Prop :=
  ∀ s sp, s.canIssue i u sp → guardOn h s = true → need s sp → ∃ t, exec i s = .next t ∧ t.still = (eff s sp).still ∧ t.g.run = false ∧
    (s.g.splits = [sp] → s.g.newSplits = [] → ∃ x, t.g.splits = [x] ∧ x.slot = sp.slot ∧ x.mask = sp.mask ∧ x.pc = pc s sp)

/-- An instruction parks its running split (03 R58) after `eff`, at the instruction or past it: its run is over, and no other split
moves. -/
def Parks (i : Instr) (u : State → Uses) (on : State → Bool) (need : State → Split → Prop) (eff : State → Split → State)
    (p : State → Split → Park) : Prop :=
  ∀ s sp, s.canIssue i (u s) sp → on s = true → need s sp → s.g.newSplits = [] → ∃ t, exec i s = .next t ∧
    t.still = (eff s sp).still ∧ t.g.run = false ∧
    ∃ x, t.g.split sp.slot = some x ∧ x.park = p s sp ∧ x.mask = sp.mask ∧ pcAdd x.pc x.plen = pcAdd sp.pc (instrBytes i) ∧
      (∀ n, n ≠ sp.slot → t.g.split n = s.g.split n)

/-- The operand-log entry of an access of the issuing group (12 R324): what the instruction captured, and its lanes. -/
def State.entryOf (s : State) (i : Instr) (sp : Split) (idx : Nat) (m : W32) (x : Held) (lanes : List OlLane) : OlEntry where
  idx := idx
  seq := s.g.seq
  cnt := s.g.icount
  slot := sp.slot
  pc := sp.pc
  uni := x.uni
  opc := opcodeOf i
  w1 := secondWord i
  mask := m
  priv := s.privileged s.g
  kind := x.kind
  space := x.space
  size := x.size
  scope := x.scope
  ord := x.ord
  dst := x.dst
  ta := x.ta
  apt := match x.ta with
    | some n => s.g.rta n
    | none => Aperture.invalid
  hint := x.hint
  tag := s.g.phase
  dt := s.dt
  lanes := lanes
  again := none

/-- Whether the operand log has an entry free, and the tile's register cache room for its lines (12 R324; 01 R12). -/
def State.entryFree (s : State) : Bool := s.takeEntry.isSome && decide (s.cacheUsed s.g.tile false + 8 ≤ 2048)

/-- The access put into the operand log, in the entry it takes, whose lines stand in the tile's register cache. -/
def State.withEntry (s : State) (i : Instr) (sp : Split) (m : W32) (x : Held) (lanes : List OlLane) : State :=
  let n := s.takeEntry.getD 0
  { s with g := { s.g with olog := s.g.olog ++ [s.entryOf i sp n m x lanes], absent := delNat (logLine n) s.g.absent } }

/-- The state with an outstanding result of the issuing instruction added (02 R34). -/
def State.owes (s : State) (sp : Split) (vw : List (Nat × W32)) (sw : List (Nat × W64)) (flags : BitVec 5) (w : Await) : State :=
  let r : Result := ⟨s.g.seq, s.g.icount, sp.slot, vw, sw, flags, w⟩
  { s with g := { s.g with results := s.g.results ++ [r] } }

/-- A trap that an instruction raises in a group without splits still to be made is taken: the machine is that of `State.takeTrap` (12 R318)
but for the bookkeeping of issuing, its splits too. -/
def Traps (i : Instr) (s : State) (sp : Split) (tr : Trap) : Prop :=
  ∃ t, exec i s = .next t ∧ t.still = (s.takeTrap s.g.gid sp.slot tr).still ∧ t.g.splits = (s.takeTrap s.g.gid sp.slot tr).g.splits

end Sys2Proof.Machine
end

