-- ==== Sys2Proof/Certificates/Slice0/Obligations.lean ====
section
/-! DEFINITION. The statements for the provers. -/

section
open Sys2Proof Sys2Proof.Machine

/-! ## Encoding -/

/-- Words written out from the spec's encodings decode to the instructions they stand for (02 R23 to R30, R46, R47). -/
def Obligations.WordsDecode : Prop :=
  decode 0x2748240A 0xFFFFFFFD = .ok (.iaddi ⟨false, true, 0xA⟩ 8 9 0xFFFFFFFD) ∧
  decode 0x06621057 0 = .ok (.icmp ⟨false, false, 7⟩ 4 2 4 5) ∧
  decode 0x08C824A7 0x2C100100 = .ok (.ffma ⟨false, false, 7⟩ 8 9 10 11 1 0 0 1) ∧
  decode 0x128C3147 0 = .ok (.ldW ⟨false, false, 7⟩ 12 3 5 0) ∧
  decode 0x18042187 0x1C200200 = .ok (.atom ⟨false, false, 7⟩ 4 2 6 7 0 2 0 2) ∧
  decode 0xC83FFE01 0 = .ok (.bra ⟨true, false, 1⟩ 0x3FFE0) ∧
  decode 0x860528B7 0 = .ok (.taSet ⟨false, false, 7⟩ 5 10 11) ∧
  decode 0x8E841877 0x20220000 = .ok (.ctrWaitt ⟨false, false, 7⟩ 4 6 7 8 0 2 2) ∧
  decode 0x97000007 0 = .ok (.rte ⟨false, false, 7⟩) ∧
  decode 0x10000107 0x20200100 = .ok (.mma ⟨false, false, 7⟩ 0 0 16 8 0 1 0 1)

/-- The decoder gives back every well-formed instruction from its own words, whatever stands behind a one-word instruction. -/
def Obligations.DecodeOfEncode : Prop :=
  ∀ (i : Instr) (k : BitVec 32), i.wf = true →
    match encode i with
    | [w] => decode w k = .ok i
    | [w, k'] => decode w k' = .ok i
    | _ => True

/-- What the decoder answers is well-formed, and its words are the words read: no bit of them is left unread (02 R29, R30). An opcode
without a row in its set is no instruction, and no other word is refused for its opcode (02 R30, R46, R47). -/
def Obligations.DecodeSound : Prop :=
  (∀ (w k : BitVec 32) (i : Instr), decode w k = .ok i → i.wf = true ∧ (encode i = [w] ∨ encode i = [w, k])) ∧
  (∀ w k : BitVec 32, decode w k = .error .unallottedOpcode ↔ wordsOf w = 0)

/-! ## Steps -/

/-- Where the package runs, no input waits and the clock is even, a step at which a split still holds the issue slot after the tick runs the instruction that the words at the running split's PC
decode to, one clock later; a team that follows a log takes its fetch faults from it (02 R22, R32; log entries 3 and 4).  The fetch reads
one word there, or two where word 0 has a second (02 R22, R23). -/
def Obligations.StepRunsDecoded : Prop :=
  (∀ (s s1 : State) (sp : Split) (i : Instr), s.frozen = false → s.inputs = [] → s.clock % 2 = 0 → s.tick.issuing = some sp →
    s.tick.g.role = .plain → s.tick.fetchInstr s.tick.g sp = (.instr i, s1) → s1.g = s.tick.g → step s = exec i s1) ∧
  (∀ (s s1 s2 : State) (g : Group) (sp : Split) (w k : BitVec 32) (i : Instr),
    (s.fetchWord g sp.pc.toNat = (.ok w, s1) → wordsOf w ≠ 2 → decode w 0 = .ok i → s.fetchInstr g sp = (.instr i, s1)) ∧
    (s.fetchWord g sp.pc.toNat = (.ok w, s1) → wordsOf w = 2 → s1.fetchWord g (sp.pc + 4).toNat = (.ok k, s2) → decode w k = .ok i →
      s.fetchInstr g sp = (.instr i, s2)))

/-- A step with an input waiting takes the event at its head; a frozen package answers management commands alone (log entries 3 and 4),
and stays frozen but for a RESET (15 R408). -/
def Obligations.StepTakesInput : Prop :=
  (∀ (s : State) (i : Instr) (rest : List Instr), s.inputs = i :: rest →
    (s.frozen = false → isEvent i = true → step s = exec i { s.tick with inputs := rest }) ∧
    (s.frozen = true → isManagement i = true → step s = exec i { s with inputs := rest }) ∧
    (s.frozen = true → isManagement i = false → step s = .next { s with inputs := rest })) ∧
  (∀ s t : State, s.frozen = true → step s = .next t → t.frozen = true ∨ ∃ rest, s.inputs = .reset :: rest)

/-! ## Integer instructions (chapter 04) -/

/-- The two-register instructions of R95: one word of format LR with its opcode, and each result formed from the sources as they were
before the destination is written. -/
def Obligations.TwoRegisters : Prop :=
  ∀ (h : Hdr) (d a b : BitVec 6),
    let u : Uses := { vr := [v1 a, v1 b], vw := [v1 d] }
    let of := fun (f : W32 → W32 → W32) (g : Group) (_ : W32) (l : Nat) => f (g.op a l) (g.op b l)
    let word := fun (i : Instr) (op : BitVec 7) => ∃ w, encode i = [w] ∧ w.getLsbD 31 = false ∧ w.extractLsb' 22 7 = op ∧
      w.extractLsb' 16 6 = d ∧ w.extractLsb' 10 6 = a ∧ w.extractLsb' 4 6 = b ∧ w.extractLsb' 0 4 = h.g
    word (.iadd h d a b) 0x00 ∧ word (.isub h d a b) 0x01 ∧ word (.imul h d a b) 0x02 ∧ word (.imulh h d a b) 0x03 ∧
    word (.imulhu h d a b) 0x04 ∧ word (.imin h d a b) 0x06 ∧ word (.imax h d a b) 0x07 ∧ word (.iminu h d a b) 0x08 ∧
    word (.imaxu h d a b) 0x09 ∧ word (.andv h d a b) 0x0C ∧ word (.orv h d a b) 0x0D ∧ word (.xorv h d a b) 0x0E ∧
    word (.andn h d a b) 0x0F ∧ word (.shl h d a b) 0x10 ∧ word (.shr h d a b) 0x11 ∧ word (.sar h d a b) 0x12 ∧
    word (.rotl h d a b) 0x13 ∧
    LaneSets (.iadd h d a b) h u d (of fun x y => x + y) ∧
    LaneSets (.isub h d a b) h u d (of fun x y => x - y) ∧
    LaneSets (.imul h d a b) h u d (of fun x y => x * y) ∧
    LaneSets (.imulh h d a b) h u d (of fun x y => BitVec.ofInt 32 (x.toInt * y.toInt / 2 ^ 32)) ∧
    LaneSets (.imulhu h d a b) h u d (of fun x y => BitVec.ofNat 32 (x.toNat * y.toNat / 2 ^ 32)) ∧
    LaneSets (.imin h d a b) h u d (of fun x y => if x.toInt ≤ y.toInt then x else y) ∧
    LaneSets (.imax h d a b) h u d (of fun x y => if x.toInt ≤ y.toInt then y else x) ∧
    LaneSets (.iminu h d a b) h u d (of fun x y => if x.toNat ≤ y.toNat then x else y) ∧
    LaneSets (.imaxu h d a b) h u d (of fun x y => if x.toNat ≤ y.toNat then y else x) ∧
    LaneSets (.andv h d a b) h u d (of fun x y => x &&& y) ∧
    LaneSets (.orv h d a b) h u d (of fun x y => x ||| y) ∧
    LaneSets (.xorv h d a b) h u d (of fun x y => x ^^^ y) ∧
    LaneSets (.andn h d a b) h u d (of fun x y => x &&& ~~~y) ∧
    LaneSets (.shl h d a b) h u d (of fun x y => x <<< (y.toNat % 32)) ∧
    LaneSets (.shr h d a b) h u d (of fun x y => x >>> (y.toNat % 32)) ∧
    LaneSets (.sar h d a b) h u d (of fun x y => x.sshiftRight (y.toNat % 32)) ∧
    LaneSets (.rotl h d a b) h u d (of fun x y =>
      (x <<< (y.toNat % 32)) ||| (if y.toNat % 32 = 0 then 0 else x >>> (32 - y.toNat % 32)))

/-- The instructions of one register or none of R96: their words, a field that must be zero being zero, and what each writes, with what
their counts and reversals say of every value. -/
def Obligations.OneRegister : Prop :=
  (∀ (h : Hdr) (d a : BitVec 6),
    let u : Uses := { vr := [v1 a], vw := [v1 d] }
    let of := fun (f : W32 → W32) (g : Group) (_ : W32) (l : Nat) => f (g.op a l)
    let word := fun (i : Instr) (op : BitVec 7) (x : BitVec 6) => ∃ w, encode i = [w] ∧ w.getLsbD 31 = false ∧ w.extractLsb' 22 7 = op ∧
      w.extractLsb' 16 6 = d ∧ w.extractLsb' 10 6 = x ∧ w.extractLsb' 4 6 = 0 ∧ w.extractLsb' 0 4 = h.g
    word (.iabs h d a) 0x0A a ∧ word (.ineg h d a) 0x0B a ∧ word (.popc h d a) 0x16 a ∧ word (.clz h d a) 0x17 a ∧ word (.brev h d a) 0x18 a ∧
    word (.mov h d a) 0x1B a ∧ word (.lidx h d) 0x1F 0 ∧
    LaneSets (.iabs h d a) h u d (of fun x => if x.toInt < 0 then 0 - x else x) ∧
    LaneSets (.ineg h d a) h u d (of fun x => 0 - x) ∧
    LaneSets (.popc h d a) h u d (of popc32) ∧
    LaneSets (.clz h d a) h u d (of clz32) ∧
    LaneSets (.brev h d a) h u d (of brev32) ∧
    LaneSets (.mov h d a) h u d (of fun x => x) ∧
    LaneSets (.lidx h d) h { vw := [v1 d] } d (fun _ _ l => BitVec.ofNat 32 l)) ∧
  (∀ x : W32, (popc32 x).toNat = (List.range 32).countP (fun i => x.getLsbD i)) ∧
  clz32 0 = 32 ∧
  (∀ (x : W32) (n : Nat), n < 32 → x.getLsbD (31 - n) = true → (∀ i, i < n → x.getLsbD (31 - i) = false) → (clz32 x).toNat = n) ∧
  (∀ (x : W32) (i : Nat), i < 32 → (brev32 x).getLsbD i = x.getLsbD (31 - i))

/-- IADD64 adds pairs modulo 2^64 (R97), MOVI and IADDI take their immediate (R98), IMAD adds a product, SEL chooses by a predicate
operand (R99), and BFX and BFI follow R100's computation, the position immediate or in a register. -/
def Obligations.WideAndSecondWord : Prop :=
  ∀ (h : Hdr) (d a b c : BitVec 6) (k : BitVec 32) (neg : BitVec 1) (p : BitVec 3) (t op : BitVec 4) (n : BitVec 8),
    let pos := fun (g : Group) (l : Nat) => if op.toNat = 0 then b.toNat % 32 else (g.op b l).toNat % 32
    LaneSetsPair (.iadd64 h d a b) h { vr := [v2 a, v2 b], vw := [v2 d] } d (fun g _ l =>
      (g.rv (g.phys a.toNat + 1) l ++ g.rv (g.phys a.toNat) l) + (g.rv (g.phys b.toNat + 1) l ++ g.rv (g.phys b.toNat) l)) ∧
    LaneSets (.movi h d k) h { vw := [v1 d] } d (fun _ _ _ => k) ∧
    LaneSets (.iaddi h d a k) h { vr := [v1 a], vw := [v1 d] } d (fun g _ l => g.op a l + k) ∧
    LaneSets (.imad h d a b c) h { vr := [v1 a, v1 b, v1 c], vw := [v1 d] } d (fun g _ l => g.op a l * g.op b l + g.op c l) ∧
    LaneSets (.sel h d a b neg p) h { vr := [v1 a, v1 b], vw := [v1 d] } d (fun g _ l =>
      if ((g.rp p.toNat).getLsbD l ^^ neg.getLsbD 0) = true then g.op a l else g.op b l) ∧
    LaneSets (.bfx h d a b t op n) h { vr := if op.toNat = 0 then [v1 a] else [v1 a, v1 b], vw := [v1 d] } d (fun g _ l =>
      let len := min n.toNat (32 - pos g l)
      let fld := (g.op a l).toNat / 2 ^ pos g l % 2 ^ len
      if t.toNat = 1 ∧ 0 < len ∧ fld.testBit (len - 1) = true then BitVec.ofInt 32 ((fld : Int) - 2 ^ len) else BitVec.ofNat 32 fld) ∧
    LaneSets (.bfi h d a b c op n) h { vr := if op.toNat = 0 then [v1 a, v1 c] else [v1 a, v1 b, v1 c], vw := [v1 d] } d (fun g _ l =>
      let m : W32 := BitVec.ofNat 32 ((2 ^ min n.toNat (32 - pos g l) - 1) * 2 ^ pos g l)
      (g.op c l &&& ~~~m) ||| ((g.op a l <<< pos g l) &&& m))

/-- ICMP and PSET write one predicate in the active lanes (R101 to R103), and PMOV moves the eight predicates of a lane to a register, or
the low seven bits of a register to the predicates (R104); a write of p7 is discarded (02 R35). -/
def Obligations.Predicates : Prop :=
  (∀ (h : Hdr) (cc p pa pb op : BitVec 3) (a b : BitVec 6),
    PredSets (.icmp h cc p a b) h { vr := [v1 a, v1 b] } p (fun g _ l =>
      let x := g.op a l
      let y := g.op b l
      match cc.toNat with
      | 0 => decide (x = y)
      | 1 => decide (x ≠ y)
      | 2 => decide (x.toInt < y.toInt)
      | 3 => decide (y.toInt ≤ x.toInt)
      | 4 => decide (x.toNat < y.toNat)
      | 5 => decide (y.toNat ≤ x.toNat)
      | 6 => decide (x.toInt ≤ y.toInt)
      | _ => decide (y.toInt < x.toInt)) ∧
    PredSets (.pset h op p pa pb) h {} p (fun g _ l =>
      let x := (g.rp pa.toNat).getLsbD l
      let y := (g.rp pb.toNat).getLsbD l
      match op.toNat with
      | 0 => x && y
      | 1 => x || y
      | 2 => x ^^ y
      | 3 => x && !y
      | _ => x || !y)) ∧
  (∀ (h : Hdr) (d : BitVec 6), LaneSets (.pmovFromP h d) h { vw := [v1 d] } d (fun g _ l =>
    BitVec.ofNat 32 (((List.range 8).map (fun i => if (g.rp i).getLsbD l = true then 2 ^ i else 0)).sum))) ∧
  (∀ (h : Hdr) (a : BitVec 6) (s : State) (sp : Split), s.canIssue (.pmovToP h a) { vr := [v1 a] } sp →
    ∃ t, exec (.pmovToP h a) s = .next t ∧
      (∀ i l, l < 32 → (t.g.rp i).getLsbD l =
        if i < 7 ∧ (activeMask h s).getLsbD l = true then (s.g.op a l).getLsbD i else (s.g.rp i).getLsbD l) ∧
      t.still = ({ s with g := { s.g with p := t.g.p, dirty := t.g.dirty } } : State).still)

/-- The lane exchanges read their source lane as it was at issue, whatever its state (R105). -/
def Obligations.LaneExchanges : Prop :=
  ∀ (h : Hdr) (d a b n6 : BitVec 6) (n : BitVec 5),
    LaneSets (.lxPick h d a b) h { vr := [v1 a, v1 b], vw := [v1 d] } d (fun g _ l => g.op a ((g.op b l).toNat % 32)) ∧
    LaneSets (.lxFlip h d a n) h { vr := [v1 a], vw := [v1 d] } d (fun g _ l => g.op a (BitVec.ofNat 5 l ^^^ n).toNat) ∧
    LaneSets (.lxRot h d a n) h { vr := [v1 a], vw := [v1 d] } d (fun g _ l => g.op a ((l + n.toNat) % 32)) ∧
    LaneSets (.lxShift h d a n6) h { vr := [v1 a], vw := [v1 d] } d (fun g _ l =>
      g.op a (if 0 ≤ (l : Int) + n6.toInt ∧ (l : Int) + n6.toInt ≤ 31 then ((l : Int) + n6.toInt).toNat else l))

/-- PVIEW reports the active lanes in which a predicate, negated or not, holds (R106), and LCOMB combines a register over the active lanes
(R107), in whatever order: the combination of the active lanes' values. -/
def Obligations.ViewsAndCombinations : Prop :=
  (∀ (h : Hdr) (d : BitVec 6) (pd p : BitVec 3) (neg : BitVec 1),
    let set := fun (g : Group) (m : W32) => m &&& (if neg.toNat = 1 then ~~~(g.rp p.toNat) else g.rp p.toNat)
    LaneSets (.pviewMask h d neg p) h { vw := [v1 d] } d (fun g m _ => set g m) ∧
    PredSets (.pviewAny h pd neg p) h {} pd (fun g m _ => decide (set g m ≠ 0)) ∧
    PredSets (.pviewAll h pd neg p) h {} pd (fun g m _ => decide (set g m = m)) ∧
    LaneSets (.pviewCount h d neg p) h { vw := [v1 d] } d (fun g m _ => popc32 (set g m))) ∧
  (∀ (h : Hdr) (d a : BitVec 6) (t op : BitVec 4),
    (t.toNat = 0 → LaneSets (.lcomb h d a t op) h { vr := [v1 a], vw := [v1 d] } d (fun g m _ => combine op ((lanesOf m).map (g.op a)))) ∧
    (t.toNat ≠ 0 →
      LaneSetsPair (.lcomb h d a t op) h { vr := [v2 a], vw := [v2 d] } d (fun g m _ => combine op ((lanesOf m).map (g.op64 a))))) ∧
  (∀ (op : BitVec 4) (l l' : List W32), op.toNat < 8 → l.Perm l' → combine op l = combine op l')

/-- The uniform arithmetic of R108, and the moves and literals of R109: where the guard is true, S[d] takes the result. -/
def Obligations.UniformArithmetic : Prop :=
  ∀ (h : Hdr) (d a b : BitVec 6) (k : BitVec 32),
    let u : Uses := { sr := [a.toNat, b.toNat], sw := [d.toNat] }
    let of := fun (f : W64 → W64 → W64) (s : State) (_ : Split) => f (s.g.rs a.toNat) (s.g.rs b.toNat)
    let word := fun (i : Instr) (op : BitVec 7) => ∃ w, encode i = [w] ∧ w.getLsbD 31 = true ∧ w.extractLsb' 22 7 = op ∧
      w.extractLsb' 16 6 = d ∧ w.extractLsb' 10 6 = a ∧ w.extractLsb' 4 6 = b ∧ w.extractLsb' 0 4 = h.g
    word (.sadd h d a b) 0x00 ∧ word (.ssub h d a b) 0x01 ∧ word (.smul h d a b) 0x02 ∧ word (.smulh h d a b) 0x03 ∧
    word (.sand h d a b) 0x04 ∧ word (.sor h d a b) 0x05 ∧ word (.sxor h d a b) 0x06 ∧ word (.sshl h d a b) 0x07 ∧
    word (.sshr h d a b) 0x08 ∧ word (.ssar h d a b) 0x09 ∧ word (.smin h d a b) 0x0A ∧ word (.smax h d a b) 0x0B ∧
    word (.ssel h d a b) 0x11 ∧
    UniSets (.sadd h d a b) h u d (of fun x y => x + y) ∧
    UniSets (.ssub h d a b) h u d (of fun x y => x - y) ∧
    UniSets (.smul h d a b) h u d (of fun x y => x * y) ∧
    UniSets (.smulh h d a b) h u d (of fun x y => BitVec.ofInt 64 (x.toInt * y.toInt / 2 ^ 64)) ∧
    UniSets (.sand h d a b) h u d (of fun x y => x &&& y) ∧
    UniSets (.sor h d a b) h u d (of fun x y => x ||| y) ∧
    UniSets (.sxor h d a b) h u d (of fun x y => x ^^^ y) ∧
    UniSets (.sshl h d a b) h u d (of fun x y => x <<< (y.toNat % 64)) ∧
    UniSets (.sshr h d a b) h u d (of fun x y => x >>> (y.toNat % 64)) ∧
    UniSets (.ssar h d a b) h u d (of fun x y => x.sshiftRight (y.toNat % 64)) ∧
    UniSets (.smin h d a b) h u d (of fun x y => if x.toInt ≤ y.toInt then x else y) ∧
    UniSets (.smax h d a b) h u d (of fun x y => if x.toInt ≤ y.toInt then y else x) ∧
    UniSets (.ssel h d a b) h { sr := [d.toNat, a.toNat, b.toNat], sw := [d.toNat] } d (fun s _ =>
      (s.g.rs a.toNat &&& s.g.rs d.toNat) ||| (s.g.rs b.toNat &&& ~~~(s.g.rs d.toNat))) ∧
    UniSets (.smov h d a) h { sr := [a.toNat], sw := [d.toNat] } d (fun s _ => s.g.rs a.toNat) ∧
    UniSets (.smovi h d k) h { sw := [d.toNat] } d (fun _ _ => k.signExtend 64) ∧
    UniSets (.smovh h d k) h { sr := [d.toNat], sw := [d.toNat] } d (fun s _ => k ++ (s.g.rs d.toNat).extractLsb' 0 32) ∧
    UniSets (.saddi h d a k) h { sr := [a.toNat], sw := [d.toNat] } d (fun s _ => s.g.rs a.toNat + k.signExtend 64)

/-- SSETQ writes a uniform predicate, a write of q7 being discarded (R110); BCAST writes every lane of the issuing split's mask and LREAD
reads one lane of a register, whatever its state (R111). -/
def Obligations.UniformAndLanes : Prop :=
  (∀ (h : Hdr) (cc q : BitVec 3) (a b : BitVec 6) (s : State) (sp : Split),
    s.canIssue (.ssetq h cc q a b) { sr := [a.toNat, b.toNat] } sp → ∃ t, exec (.ssetq h cc q a b) s = .next t ∧
      (∀ k, k < 8 → t.g.rq k = if k = q.toNat ∧ k ≠ 7 ∧ guardOn h s = true then compares cc (s.g.rs a.toNat) (s.g.rs b.toNat) else s.g.rq k) ∧
      t.still = ({ s with g := { s.g with q := t.g.q } } : State).still) ∧
  (∀ (h : Hdr) (d a : BitVec 6) (s : State) (sp : Split),
    s.canIssue (.bcast h d a) { vw := [v1 d], sr := [a.toNat] } sp → ∃ t, exec (.bcast h d a) s = .next t ∧
      (∀ r l, l < 32 → t.g.rv r l =
        if r = s.g.phys d.toNat ∧ guardOn h s = true ∧ sp.mask.getLsbD l = true then (s.g.rs a.toNat).extractLsb' 0 32 else s.g.rv r l) ∧
      t.still = ({ s with g := { s.g with v := t.g.v, dirty := t.g.dirty } } : State).still) ∧
  (∀ (h : Hdr) (d a b : BitVec 6),
    UniSets (.lread h d a b) h { vr := [v1 a], sr := [b.toNat], sw := [d.toNat] } d (fun s _ =>
      (s.g.op a ((s.g.rs b.toNat).toNat % 32)).setWidth 64))

/-- IADD, MOVI, SADD and NOP, as four instructions that go on, leave their split, where it is the group's only one, with its lanes and at the
word after them, whether their guard is on or not (02 R32, R35). -/
def Obligations.PcAdvances : Prop :=
  ∀ (h : Hdr) (d a b : BitVec 6) (k : BitVec 32),
    Advances (.iadd h d a b) (fun _ => { vr := [v1 a, v1 b], vw := [v1 d] }) (someLane h) (fun _ _ => True) ∧
    Advances (.movi h d k) (fun _ => { vw := [v1 d] }) (someLane h) (fun _ _ => True) ∧
    Advances (.sadd h d a b) (fun _ => { sr := [a.toNat, b.toNat], sw := [d.toNat] }) (guardOn h) (fun _ _ => True) ∧
    Advances (.nop h) (fun _ => {}) (fun _ => true) (fun _ _ => True)

/-! ## Floating point (chapter 05) -/

/-- FADD, FSUB, FMUL, FMIN, FMAX and their F64 forms, on FPCTL's mode (R129); FABS and FNEG on the sign bit alone, with no flag (R130); the
fused forms with their own mode or FPCTL's (R131).  Every flag goes to FPSTAT (R123). -/
def Obligations.FloatArithmetic : Prop :=
  ∀ (h : Hdr) (d a b c : BitVec 6) (rm : BitVec 2) (negc negp rs : BitVec 1),
    let u : Uses := { vr := [v1 a, v1 b], vw := [v1 d] }
    let u2 : Uses := { vr := [v2 a, v2 b], vw := [v2 d] }
    let of := fun (f : RMode → Nat → FVal → FVal → Nat × BitVec 5) (g : Group) (l : Nat) =>
      res32 (f (modeOf g.fpctl) (fmtF32.originNan g.pcNow l) (asF32 (g.op a l)) (asF32 (g.op b l)))
    let of2 := fun (f : RMode → Nat → FVal → FVal → Nat × BitVec 5) (g : Group) (l : Nat) =>
      res64 (f (modeOf g.fpctl) (fmtF64.originNan g.pcNow l) (asF64 (g.op64 a l)) (asF64 (g.op64 b l)))
    LaneSetsF (.fadd h d a b) h u d (of fmtF32.add) ∧
    LaneSetsF (.fsub h d a b) h u d (of fun m o x y => fmtF32.add m o x y.neg) ∧
    LaneSetsF (.fmul h d a b) h u d (of fmtF32.mul) ∧
    LaneSetsPairF (.dadd h d a b) h u2 d (of2 fmtF64.add) ∧
    LaneSetsPairF (.dmul h d a b) h u2 d (of2 fmtF64.mul) ∧
    LaneSetsF (.fmin h d a b) h u d (fun g l => res32 (fmtF32.minmax false (g.op a l).toNat (g.op b l).toNat)) ∧
    LaneSetsF (.fmax h d a b) h u d (fun g l => res32 (fmtF32.minmax true (g.op a l).toNat (g.op b l).toNat)) ∧
    LaneSetsPairF (.dmin h d a b) h u2 d (fun g l => res64 (fmtF64.minmax false (g.op64 a l).toNat (g.op64 b l).toNat)) ∧
    LaneSetsPairF (.dmax h d a b) h u2 d (fun g l => res64 (fmtF64.minmax true (g.op64 a l).toNat (g.op64 b l).toNat)) ∧
    LaneSets (.fabs h d a) h { vr := [v1 a], vw := [v1 d] } d (fun g _ l => g.op a l &&& 0x7FFFFFFF) ∧
    LaneSets (.fneg h d a) h { vr := [v1 a], vw := [v1 d] } d (fun g _ l => g.op a l ^^^ 0x80000000) ∧
    LaneSetsF (.ffma h d a b c rm negc negp rs) h { vr := [v1 a, v1 b, v1 c], vw := [v1 d] } d (fun g l =>
      res32 (fmtF32.fma (if rs.toNat = 1 then modeOf rm else modeOf g.fpctl) (fmtF32.originNan g.pcNow l) (decide (negp.toNat = 1))
        (decide (negc.toNat = 1)) (asF32 (g.op a l)) (asF32 (g.op b l)) (asF32 (g.op c l)))) ∧
    LaneSetsPairF (.dfma h d a b c rm negc negp rs) h { vr := [v2 a, v2 b, v2 c], vw := [v2 d] } d (fun g l =>
      res64 (fmtF64.fma (if rs.toNat = 1 then modeOf rm else modeOf g.fpctl) (fmtF64.originNan g.pcNow l) (decide (negp.toNat = 1))
        (decide (negc.toNat = 1)) (asF64 (g.op64 a l)) (asF64 (g.op64 b l)) (asF64 (g.op64 c l))))

/-- Rounding to an integer (00 R8): the last bit kept is the nearest with ties to even, the one toward zero, or the one toward an
infinity; stochastic rounding (05 R122) rounds away exactly where the dropped fraction and the random bits carry; and a result is inexact
where something was dropped. -/
def Obligations.RoundingRule : Prop :=
  ∀ (s : Bool) (m k : Nat),
    let r := (roundShift .rne s m k false).1
    (∀ md, (roundShift md s m k false).2 = decide (m % 2 ^ k ≠ 0)) ∧
    2 * (r * 2 ^ k) ≤ 2 * m + 2 ^ k ∧ 2 * m ≤ 2 * (r * 2 ^ k) + 2 ^ k ∧
    (2 * (r * 2 ^ k) = 2 * m + 2 ^ k ∨ 2 * m = 2 * (r * 2 ^ k) + 2 ^ k → r % 2 = 0) ∧
    (roundShift .rz s m k false).1 = m / 2 ^ k ∧
    (roundShift .ru s m k false).1 = (if s = true then m / 2 ^ k else (m + 2 ^ k - 1) / 2 ^ k) ∧
    (roundShift .rd s m k false).1 = (if s = true then (m + 2 ^ k - 1) / 2 ^ k else m / 2 ^ k) ∧
    (∀ rb, rb < 2 ^ 32 → (roundShift (.sr rb) s m k false).1 = (if 2 ^ 32 ≤ m % 2 ^ k * 2 ^ 32 / 2 ^ k + rb then m / 2 ^ k + 1 else m / 2 ^ k))

/-- A finite value of a format rounds to itself in every mode, without a flag (05 R117, R120): decoding and rounding undo each other. -/
def Obligations.RoundKeepsValues : Prop :=
  ∀ (f : Fmt) (md : RMode) (bits : Nat) (s : Bool) (m : Nat) (e : Int),
    f ∈ [fmtF64, fmtF32, fmtF16, fmtBF16, fmtE5M2, fmtE4M3] → bits < 2 ^ f.width → (∀ rb, md = .sr rb → rb < 2 ^ 32) →
    f.decode bits = .num s m e → f.round md s m e false = (bits, 0)

/-- In F64, F32, F16 and BF16: a NaN operand of an addition, a multiplication or a fused multiply-add gives the first NaN in operand order, quiet and with its
sign kept, and NV where an operand is signalling, in a fused multiply-add also where its product is a zero times an infinity; the difference of
infinities and the product of a zero and an infinity are invalid and give the origin NaN and NV, alone or within a fused multiply-add (05 R124, R125,
R129, R131). -/
def Obligations.NanRules : Prop :=
  ∀ f ∈ [fmtF64, fmtF32, fmtF16, fmtBF16], ∀ (md : RMode) (o : Nat) (np nc s1 s2 s3 : Bool) (fr : Nat) (e : Int) (x y z : FVal),
    let first := f.putNan f s1 fr
    let wild := (x.isZero && y.isInf) || (x.isInf && y.isZero)
    (fr < 2 ^ f.fbits → ∃ q, f.decode first = .nan s1 q ∧ f.signalling q = false ∧ q % 2 ^ (f.fbits - 1) = fr % 2 ^ (f.fbits - 1)) ∧
    (f.add md o (.nan s1 fr) y).1 = first ∧ (f.mul md o (.nan s1 fr) y).1 = first ∧ (f.fma md o np nc (.nan s1 fr) y z).1 = first ∧
    (x.isNan = false → (f.add md o x (.nan s1 fr)).1 = first ∧ (f.mul md o x (.nan s1 fr)).1 = first ∧
      (f.fma md o np nc x (.nan s1 fr) z).1 = first) ∧
    (x.isNan = false → y.isNan = false → (f.fma md o np nc x y (.nan s1 fr)).1 = first) ∧
    ((x.isNan || y.isNan) = true →
      (f.add md o x y).2 = (if (x.isSnan f || y.isSnan f) = true then 1 else 0) ∧
      (f.mul md o x y).2 = (if (x.isSnan f || y.isSnan f) = true then 1 else 0)) ∧
    ((x.isNan || y.isNan || z.isNan) = true →
      (f.fma md o np nc x y z).2 = (if (x.isSnan f || y.isSnan f || z.isSnan f || wild) = true then 1 else 0)) ∧
    (s1 ≠ s2 → f.add md o (.inf s1) (.inf s2) = (o, 1)) ∧
    f.mul md o (.inf s1) (.num s2 0 e) = (o, 1) ∧ f.mul md o (.num s2 0 e) (.inf s1) = (o, 1) ∧
    (z.isNan = false → f.fma md o np nc (.inf s1) (.num s2 0 e) z = (o, 1) ∧ f.fma md o np nc (.num s2 0 e) (.inf s1) z = (o, 1)) ∧
    ((x.isInf || y.isInf) = true → x.isNan = false → y.isNan = false → x.isZero = false → y.isZero = false →
      (x.sign ^^ y.sign ^^ np) ≠ (s3 ^^ nc) → f.fma md o np nc x y (.inf s3) = (o, 1))

/-- FCMP and DCMP write their predicate with their flags (R132): an unordered comparison is false but for NE and UN, the ordering ones
signal for any NaN and the others for a signalling one.  FCLASS and NANORG classify one value without a flag (R133). -/
def Obligations.FloatCompares : Prop :=
  (∀ (h : Hdr) (cc p : BitVec 3) (d a b : BitVec 6) (hf : BitVec 1) (t : BitVec 2),
    PredSetsF (.fcmp h cc p a b) h { vr := [v1 a, v1 b] } p (fun g l => fmtF32.compare cc (g.op a l).toNat (g.op b l).toNat) ∧
    PredSetsF (.dcmp h cc p a b) h { vr := [v2 a, v2 b] } p (fun g l => fmtF64.compare cc (g.op64 a l).toNat (g.op64 b l).toNat) ∧
    LaneSets (.fclass h d a hf t) h { vr := [if t.toNat = 1 then v2 a else v1 a], vw := [v1 d] } d (fun g _ l =>
      classMask (classFmt t) (classBits g a t hf l)) ∧
    LaneSets (.nanorg h d a hf t) h { vr := [if t.toNat = 1 then v2 a else v1 a], vw := [v1 d] } d (fun g _ l =>
      originWord t (classBits g a t hf l))) ∧
  (∀ (cc : BitVec 3) (x y : Nat), ((fmtF32.decode x).isNan || (fmtF32.decode y).isNan) = true →
    (fmtF32.compare cc x y).1 = decide (cc.toNat = 1 ∨ cc.toNat = 5) ∧
    ((fmtF32.compare cc x y).2 = 1 ↔
      cc.toNat = 2 ∨ cc.toNat = 3 ∨ cc.toNat = 6 ∨ cc.toNat = 7 ∨ ((fmtF32.decode x).isSnan fmtF32 || (fmtF32.decode y).isSnan fmtF32) = true))

/-- The packed 16-bit forms compute their two halves apart and OR their flags (R134). -/
def Obligations.PackedHalves : Prop :=
  ∀ (h : Hdr) (d a b c : BitVec 6) (t : BitVec 4) (rm : BitVec 2) (negc negp rs : BitVec 1),
    let f := if t.toNat = 0 then fmtF16 else fmtBF16
    let md := fun (g : Group) => if rs.toNat = 1 then modeOf rm else modeOf g.fpctl
    let half := fun (x : W32) (k : Nat) => f.decode (x.toNat / 2 ^ (16 * k) % 2 ^ 16)
    let both := fun (r : Nat → Nat × BitVec 5) => (BitVec.ofNat 32 ((r 0).1 % 2 ^ 16 + (r 1).1 % 2 ^ 16 * 2 ^ 16), (r 0).2 ||| (r 1).2)
    LaneSetsF (.hadd2 h d a b t rm rs) h { vr := [v1 a, v1 b], vw := [v1 d] } d (fun g l =>
      both (fun k => f.add (md g) (f.originNan g.pcNow l) (half (g.op a l) k) (half (g.op b l) k))) ∧
    LaneSetsF (.hmul2 h d a b t rm rs) h { vr := [v1 a, v1 b], vw := [v1 d] } d (fun g l =>
      both (fun k => f.mul (md g) (f.originNan g.pcNow l) (half (g.op a l) k) (half (g.op b l) k))) ∧
    LaneSetsF (.hfma2 h d a b c t rm negc negp rs) h { vr := [v1 a, v1 b, v1 c], vw := [v1 d] } d (fun g l =>
      both (fun k => f.fma (md g) (f.originNan g.pcNow l) (decide (negp.toNat = 1)) (decide (negc.toNat = 1)) (half (g.op a l) k)
        (half (g.op b l) k) (half (g.op c l) k)))

/-- FRND rounds to an integral value in its format (R136).  CVT converts (R137, R138): a 64-bit result in a pair, a 32-bit one in a
register, a narrow one in the chosen half or byte of the old destination; with a stochastic destination type it takes the lane's random
bits and counts them (R122), and SAT clamps a result from an integer source too (log entry 105). -/
def Obligations.Conversions : Prop :=
  ∀ (h : Hdr) (d a : BitVec 6) (dt st : BitVec 4) (rm : BitVec 2) (spos dpos : BitVec 2) (sat rs : BitVec 1) (t op : BitVec 4),
    let src := if cvtWidth st = 64 then v2 a else v1 a
    let one := fun (g : Group) (l : Nat) =>
      convert dt st (if 12 ≤ dt.toNat then .sr (g.randomBits l) else g.mode rm rs) (decide (sat.toNat = 1)) (cvtSource g a st spos l)
    let low := fun (g : Group) (l : Nat) =>
      (if cvtWidth dt = 32 then BitVec.ofNat 32 (one g l).1 else putPart (g.op d l) (cvtWidth dt) dpos.toNat (one g l).1, (one g l).2)
    let old := if cvtWidth dt < 32 then [v1 d] else []
    (t.toNat = 0 → LaneSetsF (.frnd h d a t rm op rs) h { vr := [v1 a], vw := [v1 d] } d (fun g l =>
      res32 (fmtF32.integral (g.mode rm rs) (decide (op.toNat = 1)) (g.op a l).toNat))) ∧
    (t.toNat ≠ 0 → LaneSetsPairF (.frnd h d a t rm op rs) h { vr := [v2 a], vw := [v2 d] } d (fun g l =>
      res64 (fmtF64.integral (g.mode rm rs) (decide (op.toNat = 1)) (g.op64 a l).toNat))) ∧
    (dt.toNat < 12 → cvtWidth dt = 64 →
      LaneSetsPairF (.cvt h d a dt rm st spos dpos sat rs) h { vr := [src], vw := [v2 d] } d (fun g l => res64 (one g l))) ∧
    (dt.toNat < 12 → cvtWidth dt ≠ 64 → LaneSetsF (.cvt h d a dt rm st spos dpos sat rs) h { vr := [src] ++ old, vw := [v1 d] } d low) ∧
    (12 ≤ dt.toNat → Does (.cvt h d a dt rm st spos dpos sat rs) (fun _ => { vr := [src] ++ old, vw := [v1 d] }) (someLane h)
      (fun _ _ => True) (fun s _ =>
        let m := activeMask h s
        let g1 := s.g.wvMask (s.g.phys d.toNat) m (fun l => (low s.g l).1)
        let g2 := g1.flag (laneFlags m (fun l => (low s.g l).2))
        { s with g := g2.countRandom m }))

/-- DXB.PACK writes its block to the lanes its type names and the two exponent bytes to vC, with one NX or NV for the block (R139);
DXB.UNPK reads its element back from the block (R140). -/
def Obligations.BlockFormats : Prop :=
  ∀ (h : Hdr) (d a c : BitVec 6) (t : BitVec 4) (rm : BitVec 2) (rs : BitVec 1),
    let out : W32 := if t.toNat % 2 = 0 then 0xFF else 0xF
    Does (.dxbPack h d a c t rm rs) (fun _ => { vr := [v1 a], vw := [v1 d, v1 c] }) (someLane h) (fun _ _ => True) (fun s _ =>
      let m := activeMask h s
      let b := packBlock s.g a m t (s.g.mode rm rs)
      let g1 := s.g.wvMask (s.g.phys d.toNat) out (fun l => if t.toNat % 2 = 0 then packWord b.1 (4 * l) 4 8 else packWord b.1 (8 * l) 8 4)
      let g2 := (g1.wvMask (s.g.phys c.toNat) out (fun _ => BitVec.ofNat 32 (b.2.2.1 * 256 + b.2.1))).flag b.2.2.2
      { s with g := if 2 ≤ t.toNat then g2.countRandom m else g2 }) ∧
    LaneSets (.dxbUnpk h d a c t) h { vr := [v1 a, v1 c], vw := [v1 d] } d (fun g _ l =>
      let w := (g.op c 0).toNat
      unpackElem t (if t.toNat = 0 then (g.op a (l / 4)).toNat / 2 ^ (8 * (l % 4)) % 256 else (g.op a (l / 8)).toNat / 2 ^ (4 * (l % 8)) % 16)
        (w % 256) (w / 256 % 256))

/-- The special functions (R135) put their results, with their flags, among those that return later (02 R34): a NaN operand quiet, the
limits at zeros and infinities with DZ or NV as the table has them, and the function's value elsewhere. -/
def Obligations.SpecialFunctions : Prop :=
  ∀ (h : Hdr) (d a : BitVec 6),
    let does := fun (i : Instr) (f : RMode → Nat → FVal → Nat × BitVec 5) =>
      Does i (fun _ => { vr := [v1 a], vw := [v1 d], late := true }) (someLane h) (fun _ _ => True) (fun s sp =>
        let one := fun (l : Nat) => match asF32 (s.g.op a l) with
          | .nan n fr => (fmtF32.putNan fmtF32 n fr, flagIf (fmtF32.signalling fr) 1)
          | x => f (modeOf s.g.fpctl) (fmtF32.originNan s.g.pcNow l) x
        let ls := lanesOf (activeMask h s)
        let r : Result := ⟨s.g.seq, s.g.icount, sp.slot, ls.map (fun l => (s.g.phys d.toNat * 32 + l, BitVec.ofNat 32 (one l).1)), [],
          laneFlags (activeMask h s) (fun l => (one l).2), .nothing⟩
        { s with g := { s.g with results := s.g.results ++ [r] } })
    does (.frcp h d a) (fun md o x => match x with
      | .inf n => (fmtF32.signed n 0, 0)
      | .num n m e => if m = 0 then (fmtF32.infinity n, 2) else recip md n m e
      | _ => (o, 1)) ∧
    does (.frsq h d a) (fun md o x => match x with
      | .inf n => if n = true then (o, 1) else (0, 0)
      | .num n m e => if m = 0 then (fmtF32.infinity n, 2) else if n = true then (o, 1) else rsqrtPos md m e
      | _ => (o, 1)) ∧
    does (.fsqrt h d a) (fun md o x => match x with
      | .inf n => if n = true then (o, 1) else (fmtF32.infinity false, 0)
      | .num n m e => if m = 0 then (fmtF32.signed n 0, 0) else if n = true then (o, 1) else sqrtPos md m e
      | _ => (o, 1)) ∧
    does (.fex2 h d a) (fun md o x => match x with
      | .inf n => if n = true then (0, 0) else (fmtF32.infinity false, 0)
      | .num n m e => if m = 0 then fmtF32.round md false 1 0 false else exp2Num md n m e
      | _ => (o, 1)) ∧
    does (.flg2 h d a) (fun md o x => match x with
      | .inf n => if n = true then (o, 1) else (fmtF32.infinity false, 0)
      | .num n m e => if m = 0 then (fmtF32.infinity true, 2) else if n = true then (o, 1) else log2Num md m e
      | _ => (o, 1)) ∧
    does (.fsin h d a) (fun md o x => match x with
      | .num n m e => if m = 0 then (fmtF32.signed n 0, 0) else sinNum md n m e
      | _ => (o, 1)) ∧
    does (.fcos h d a) (fun md o x => match x with
      | .num _ m e => if m = 0 then (0x3F800000, 0) else cosNum md m e
      | _ => (o, 1))

/-! ## Matrix unit (chapter 06) -/

/-- Where their tile's queue has room, MMA and the accumulator instructions ACC.RD, ACC.WR, ACC.ZERO and ACC.CVT (R158 to R161) join it with what
they captured at issue, and a result is awaited (R142 to R150).  DXB operands name their scale bytes in the block's words; ACC.RD and ACC.WR of type RAW
take an odd accumulator too (log entry 106). -/
def Obligations.AccumulatorIssue : Prop :=
  ∀ (h : Hdr) (d a b c : BitVec 6) (acc : BitVec 3) (t : BitVec 4) (z sat rs : BitVec 1) (rm : BitVec 2) (n : BitVec 4) (j0 : BitVec 5),
    let room := fun (s : State) (_ : Split) => (s.jobs.filter (fun j => decide (j.tile = s.g.tile))).length < 8
    let job := fun (s : State) (sp : Split) (md : Nat) (op : AccOp) (fa fb : Sparse W32) (sa sb : Nat) (dest : List Nat) =>
      let j : AccJob := ⟨s.g.tile, s.g.gid, s.g.seq, sp.slot, sp.pc, activeMask h s, md, op, fa, fb, sa, sb, [], [], false⟩
      let r : Result := ⟨s.g.seq, s.g.icount, sp.slot, dest.map (fun k => (k, 0)), [], 0, .other⟩
      ({ s with jobs := s.jobs ++ [j], g := { s.g with results := s.g.results ++ [r] } } : State)
    let sa := fun (s : State) => field (s.g.rs c.toNat) 16 32
    let sb := fun (s : State) => field (s.g.rs (c.toNat + 1)) 0 32
    let two := if t.toNat = 2 then 2 else 1
    let w := if t.toNat = 0 then 1 else 2
    let cols := n.toNat + 1
    let wide := if t.toNat = 5 then 2 else 1
    let dxb := decide (4 ≤ t.toNat % 8)
    let wregs := if t.toNat = 0 then cols else if t.toNat < 4 then 2 * cols else cols / 2
    let pairs := if (decide (1 ≤ t.toNat) && decide (t.toNat < 4)) = true then 2 else 1
    let cregs := (cvtRegs t.toNat).1
    (2 ≤ t.toNat → Does (.mma h acc a b c t z rm rs) (fun _ => { vr := [vN a 16 wide, vN b 16 wide], accs := [(acc.toNat, wide)], late := true })
      (someLane h) room (fun s sp => job s sp (modeCode s.g rm rs) (.mma t.toNat (decide (z.toNat = 1)) acc.toNat)
        (capture s.g (s.g.phys a.toNat) 16) (capture s.g (s.g.phys b.toNat) 16) (sa s) (sb s) [])) ∧
    (t.toNat < 2 → Does (.mma h acc a b c t z rm rs)
      (fun s =>
        let bad := badBlock t.toNat (s.g.rs c.toNat) (s.g.rs (c.toNat + 1))
        { vr := [vN a 16 1, vN b 16 1], accs := [(acc.toNat, 1)], sr := [c.toNat, c.toNat + 1], illegal := bad, late := true })
      (someLane h)
      (fun s sp => room s sp ∧ sa s % 2 = 0 ∧ sb s % 2 = 0 ∧ sa s + scaleBytes t.toNat ≤ s.scratchOf s.g ∧ sb s + scaleBytes t.toNat ≤ s.scratchOf s.g)
      (fun s sp => job s sp (modeCode s.g rm rs) (.mma t.toNat (decide (z.toNat = 1)) acc.toNat)
        (capture s.g (s.g.phys a.toNat) 16) (capture s.g (s.g.phys b.toNat) 16) (sa s) (sb s) [])) ∧
    Does (.accRd h d acc t rm n j0 rs) (fun _ => { vw := [vN d (cols * w) w], accs := [(acc.toNat, two)], late := true }) (someLane h) room
      (fun s sp => job s sp (modeCode s.g rm rs) (.rd t.toNat acc.toNat j0.toNat cols (s.g.phys d.toNat)) [] [] 0 0
        (destKeys (s.g.phys d.toNat) (cols * w) (activeMask h s))) ∧
    Does (.accWr h acc a t rm n j0 rs) (fun _ => { vr := [vN a wregs pairs], accs := [(acc.toNat, two)], late := true }) (someLane h) room
      (fun s sp => job s sp (modeCode s.g rm rs) (.wr t.toNat acc.toNat j0.toNat cols) (capture s.g (s.g.phys a.toNat) wregs) [] 0 0 []) ∧
    Does (.accZero h acc) (fun _ => { accs := [(acc.toNat, 1)], late := true }) (someLane h) room (fun s sp => job s sp 0 (.zero acc.toNat) [] [] 0 0 []) ∧
    Does (.accCvt h d acc c t rm sat rs)
      (fun _ => { vw := [vN d cregs 1] ++ (if dxb = true then [v1 c] else []), accs := [(acc.toNat, 1)], late := true }) (someLane h) room
      (fun s sp =>
        let cr := if dxb = true then some (s.g.phys c.toNat) else none
        let keys := destKeys (s.g.phys d.toNat) cregs (activeMask h s) ++
          (if dxb = true then destKeys (s.g.phys c.toNat) 1 (activeMask h s) else [])
        let s1 := job s sp (modeCode s.g rm rs) (.cvt t.toNat acc.toNat (s.g.phys d.toNat) cr (decide (sat.toNat = 1))) [] s.g.srcount 0 0 keys
        if 8 ≤ t.toNat then { s1 with g := s1.g.countRandom (activeMask h s) } else s1)

/-! ## Memory (chapter 07; 04 R114, R115) -/

/-- Loads take an entry of the operand log that holds each active lane's address (07 R169, R177, R178, R180; 12 R324): the aperture's base
and an unsigned or signed offset, a 64-bit address, or a scratchpad or cluster address.  Nothing else changes until the lanes return. -/
def Obligations.LoadsAreHeld : Prop :=
  ∀ (h : Hdr) (d a o : BitVec 6) (ta : BitVec 4) (ht : BitVec 2) (t mode : BitVec 4) (disp : BitVec 8) (k : BitVec 32),
    let load := fun (i : Instr) (u : Uses) (x : State → Held) (addr : Group → Nat → W64 × Option Nat) =>
      Does i (fun _ => u) (someLane h) (fun s _ => s.entryFree = true) (fun s sp =>
        let lane := fun (l : Nat) => (⟨l, (addr s.g l).1, (addr s.g l).2, 0, 0, .pending⟩ : OlLane)
        s.withEntry i sp (activeMask h s) (x s) ((lanesOf (activeMask h s)).map lane))
    let glob := fun (i : Instr) (size n al : Nat) =>
      load i { vr := [v1 o], vw := [vN d n al], late := true, logged := true }
        (fun s => { kind := .load false, space := .glob, size := size, dst := s.g.phys d.toNat, ta := some ta.toNat, hint := ht })
        (fun g l => g.viaTa ta.toNat ((g.op o l).toNat : Int))
    let scr := fun (i : Instr) (size n : Nat) =>
      load i { vr := [v1 a], vw := [vN d n n], late := true }
        (fun s => { kind := .load false, space := .scr, size := size, dst := s.g.phys d.toNat }) (fun g l => ((g.op a l).setWidth 64, none))
    let ty := ldxType t
    let off : Int := disp.toInt * ty.1
    (ty = match t.toNat with | 0 => (1, false) | 1 => (1, true) | 2 => (2, false) | 3 => (2, true) | 4 => (4, false) | 5 => (8, false) | _ => (16, false)) ∧
    glob (.ldB h d ta o ht) 1 1 1 ∧ glob (.ldH h d ta o ht) 2 1 1 ∧ glob (.ldW h d ta o ht) 4 1 1 ∧ glob (.ldD h d ta o ht) 8 2 2 ∧
    glob (.ldQ h d ta o ht) 16 4 4 ∧
    scr (.ldsW h d a) 4 1 ∧ scr (.ldsD h d a) 8 2 ∧ scr (.ldsQ h d a) 16 4 ∧
    load (.ldcW h d a) { vr := [v1 a], vw := [v1 d], late := true, logged := true }
      (fun s => { kind := .load false, space := .clu, size := 4, dst := s.g.phys d.toNat }) (fun g l => ((g.op a l).setWidth 64, none)) ∧
    load (.ldx h d ta o ht t mode disp)
      { vr := if mode.toNat = 2 then [v2 o] else [v1 o], vw := [vN d (max (ty.1 / 4) 1) (max (ty.1 / 4) 1)], late := true, logged := true }
      (fun s =>
        let via := if mode.toNat = 2 then none else some ta.toNat
        { kind := .load ty.2, space := .glob, size := ty.1, dst := s.g.phys d.toNat, ta := via, hint := ht })
      (fun g l => match mode.toNat with
        | 0 => g.viaTa ta.toNat ((g.op o l).toNat + off)
        | 1 => g.viaTa ta.toNat ((g.op o l).toInt + off)
        | _ => (g.op64 o l + BitVec.ofInt 64 off, none)) ∧
    Does (.sld h d a k) (fun _ => { sr := [a.toNat], sw := [d.toNat], late := true, logged := true }) (guardOn h)
      (fun s _ => s.entryFree = true) (fun s sp =>
        s.withEntry (.sld h d a k) sp sp.mask { kind := .sld d.toNat, space := .glob, size := 8, uni := true }
          [⟨0, s.g.rs a.toNat + k.signExtend 64, none, 0, 0, .pending⟩])

/-- Stores take an entry of the operand log that holds each active lane's address and data (R177, R178, R180; 04 R115); the destination's
bytes are those that the entry names, and no register changes.  A trailer's global stores are only compared (13 R347), and a cluster store
that names another tile is a compare point (13 R351). -/
def Obligations.StoresAreHeld : Prop :=
  ∀ (h : Hdr) (d a b o : BitVec 6) (ta : BitVec 4) (ht : BitVec 2) (t mode : BitVec 4) (disp : BitVec 8) (k : BitVec 32),
    let free := fun (s : State) (_ : Split) => s.g.role ≠ .trailer ∧ s.entryFree = true
    let held := fun (i : Instr) (x : Held) (addr : Group → Nat → W64 × Option Nat) (s : State) (sp : Split) =>
      let lane := fun (l : Nat) =>
        (⟨l, (addr s.g l).1, (addr s.g l).2, s.g.storeData (s.g.phys d.toNat) x.size l, 0, .pending⟩ : OlLane)
      s.withEntry i sp (activeMask h s) x ((lanesOf (activeMask h s)).map lane)
    let glob := fun (i : Instr) (size n : Nat) =>
      Does i (fun _ => { vr := [v1 o, vN d n n], late := true, store := true }) (someLane h) free
        (held i { kind := .store, space := .glob, size := size, ta := some ta.toNat, hint := ht }
          (fun g l => g.viaTa ta.toNat ((g.op o l).toNat : Int)))
    let scr := fun (i : Instr) (size n : Nat) =>
      Does i (fun _ => { vr := [v1 a, vN d n n], late := true, store := true }) (someLane h) (fun s _ => s.entryFree = true)
        (held i { kind := .store, space := .scr, size := size } (fun g l => ((g.op a l).setWidth 64, none)))
    let size := (ldxType t).1
    let off : Int := disp.toInt * size
    glob (.stB h d ta o ht) 1 1 ∧ glob (.stH h d ta o ht) 2 1 ∧ glob (.stW h d ta o ht) 4 1 ∧ glob (.stD h d ta o ht) 8 2 ∧
    glob (.stQ h d ta o ht) 16 4 ∧
    scr (.stsW h d a) 4 1 ∧ scr (.stsD h d a) 8 2 ∧ scr (.stsQ h d a) 16 4 ∧
    Does (.stx h d ta o ht t mode disp)
      (fun _ =>
        let n := max (size / 4) 1
        { vr := (if mode.toNat = 2 then [v2 o] else [v1 o]) ++ [vN d n n], late := true, store := true })
      (someLane h) free
      (held (.stx h d ta o ht t mode disp)
        { kind := .store, space := .glob, size := size, ta := if mode.toNat = 2 then none else some ta.toNat, hint := ht }
        (fun g l => match mode.toNat with
          | 0 => g.viaTa ta.toNat ((g.op o l).toNat + off)
          | 1 => g.viaTa ta.toNat ((g.op o l).toInt + off)
          | _ => (g.op64 o l + BitVec.ofInt 64 off, none))) ∧
    Does (.stcW h d a)
      (fun s =>
        let other := s.namesOther (activeMask h s) a
        { vr := [v1 a, v1 d], late := true, cmp := other, store := !other })
      (someLane h) (fun s _ => s.g.role.follows = false ∧ s.entryFree = true)
      (held (.stcW h d a) { kind := .store, space := .clu, size := 4 } (fun g l => ((g.op a l).setWidth 64, none))) ∧
    Does (.sst h a b k) (fun _ => { sr := [a.toNat, b.toNat], late := true, store := true }) (guardOn h) free
      (fun s sp => s.withEntry (.sst h a b k) sp sp.mask { kind := .sst, space := .glob, size := 8, uni := true }
        [⟨0, s.g.rs a.toNat + k.signExtend 64, none, (s.g.rs b.toNat).setWidth 128, 0, .pending⟩])

/-! ## Atomics and binning (chapter 08) -/

/-- The atomics, reductions and BINR take an entry of the operand log with each active lane's operand, and for compare-and-swap the value to
compare, read at issue (R215 to R218, R224).  CELL computes its cell from four uniform registers, and 0xFFFFFFFF for a lane outside the grid
(R223). -/
def Obligations.AtomicsAreHeld : Prop :=
  ∀ (h : Hdr) (d a b c o n : BitVec 6) (ta : BitVec 4) (t op dim : BitVec 4) (sc ord : BitVec 2),
    let ty := t.toNat
    let wide := decide (atomSize ty = 8)
    let v := fun (f : BitVec 6) => if wide = true then v2 f else v1 f
    let val := fun (f : BitVec 6) (g : Group) (l : Nat) => if wide = true then (g.op64 f l).setWidth 128 else (g.op f l).setWidth 128
    let free := fun (s : State) (_ : Split) => s.entryFree = true
    let held := fun (i : Instr) (vr vw : List (Nat × Nat × Nat)) (x : State → Held) (addr : Group → Nat → W64 × Option Nat)
        (data : Group → Nat → BitVec 128) (cmp : Group → Nat → BitVec 64) =>
      Does i (fun _ => { vr := vr, vw := vw, late := true, logged := true, cmp := true }) (someLane h) free (fun s sp =>
        let lane := fun (l : Nat) => (⟨l, (addr s.g l).1, (addr s.g l).2, data s.g l, cmp s.g l, .pending⟩ : OlLane)
        s.withEntry i sp (activeMask h s) (x s) ((lanesOf (activeMask h s)).map lane))
    let via := fun (g : Group) (l : Nat) => g.viaTa ta.toNat ((g.op o l).toNat : Int)
    let off := fun (g : Group) (l : Nat) => ((g.op a l).setWidth 64, (none : Option Nat))
    let x := fun (sp : Space) (w : Nat) (ret : Bool) (dst : Nat) (tap : Option Nat) =>
      ({ kind := .atom ty w ret, space := sp, size := atomSize ty, scope := sc.toNat, ord := ord.toNat, dst := dst, ta := tap } : Held)
    let cas := decide (op.toNat = 8)
    held (.atom h d ta o c t sc op ord) [v1 o, v c] [v d] (fun s => x .glob op.toNat true (s.g.phys d.toNat) (some ta.toNat)) via (val c)
      (fun _ _ => 0) ∧
    held (.red h d ta o t sc op ord) [v1 o, v d] [] (fun _ => x .glob op.toNat false 0 (some ta.toNat)) via (val d) (fun _ _ => 0) ∧
    held (.cas h d ta o c t sc ord) [v1 o, v c, v d] [v d] (fun s => x .glob 8 true (s.g.phys d.toNat) (some ta.toNat)) via (val c)
      (fun g l => (val d g l).extractLsb' 0 64) ∧
    held (.atoms h d a b c t sc op ord) ([v1 a, v b] ++ (if cas = true then [v c] else [])) [v d]
      (fun s => x .scr op.toNat true (s.g.phys d.toNat) none) off (val (if cas = true then c else b))
      (fun g l => if cas = true then (val b g l).extractLsb' 0 64 else 0) ∧
    held (.atomc h d a b c t sc op ord) ([v1 a, v b] ++ (if cas = true then [v c] else [])) [v d]
      (fun s => x .clu op.toNat true (s.g.phys d.toNat) none) off (val (if cas = true then c else b))
      (fun g l => if cas = true then (val b g l).extractLsb' 0 64 else 0) ∧
    held (.reds h a b t sc op ord) [v1 a, v b] [] (fun _ => x .scr op.toNat false 0 none) off (val b) (fun _ _ => 0) ∧
    Does (.binr h d a b) (fun _ => { vr := [v1 a, v1 b], vw := [v1 d], late := true, logged := true, cmp := true }) (someLane h)
      (fun s _ => s.entryFree = true) (fun s sp =>
        let ls := lanesOf (activeMask h s)
        let counts := fun (l : Nat) => decide (s.g.op a l ≠ 0xFFFFFFFF)
        let lane := fun (l : Nat) =>
          if counts l = true then (⟨l, BitVec.ofNat 64 ((s.g.op b l).toNat + 4 * (s.g.op a l).toNat), none, 0, 0, .pending⟩ : OlLane)
          else ⟨l, 0, none, 0, 0, .performed 0xFFFFFFFF⟩
        s.withEntry (.binr h d a b) sp (activeMask h s) { kind := .binr, space := .scr, size := 4, dst := s.g.phys d.toNat } (ls.map lane)) ∧
    (let k := dim.toNat + 1; ∀ nx ny nz : Nat, ∀ s sp,
      nx = field (s.g.rs (n.toNat + 3)) 0 16 → ny = (if 2 ≤ k then field (s.g.rs (n.toNat + 3)) 16 16 else 1) →
      nz = (if 3 ≤ k then field (s.g.rs (n.toNat + 3)) 32 16 else 1) →
      0 < nx → 0 < ny → 0 < nz → nx * ny * nz < 2 ^ 32 → field (s.g.rs (n.toNat + 3)) 48 16 = 0 →
      s.canIssue (.cell h d a b c dim n)
        (let vr := [v1 a] ++ (if 2 ≤ k then [v1 b] else []) ++ (if 3 ≤ k then [v1 c] else [])
        { vr := vr, vw := [v1 d], sr := [n.toNat, n.toNat + 1, n.toNat + 2, n.toNat + 3] }) sp →
      ∃ u, exec (.cell h d a b c dim n) s = .next u ∧ u.still = ({ s with g := { s.g with v := u.g.v, dirty := u.g.dirty } } : State).still ∧
        (∀ r l, l < 32 → ¬ (r = s.g.phys d.toNat ∧ (activeMask h s).getLsbD l = true) → u.g.rv r l = s.g.rv r l) ∧
        (∀ l x y z, l < 32 → (activeMask h s).getLsbD l = true →
          let f := fun (j lo : Nat) => fmtF32.decode (field (s.g.rs (n.toNat + j)) lo 32)
          cellIndex (asF32 (s.g.op a l)) (f 0 0) (f 1 32) = some x → 0 ≤ x → x < nx →
          (if 2 ≤ k then cellIndex (asF32 (s.g.op b l)) (f 0 32) (f 2 0) else some 0) = some y → 0 ≤ y → y < ny →
          (if 3 ≤ k then cellIndex (asF32 (s.g.op c l)) (f 1 0) (f 2 32) else some 0) = some z → 0 ≤ z → z < nz →
          u.g.rv (s.g.phys d.toNat) l = BitVec.ofInt 32 (x + nx * (y + ny * z))) ∧
        (∀ l, l < 32 → (activeMask h s).getLsbD l = true →
          let f := fun (j lo : Nat) => fmtF32.decode (field (s.g.rs (n.toNat + j)) lo 32)
          let out := fun (q : Option Int) (m : Nat) => ∀ x, q = some x → x < 0 ∨ (m : Int) ≤ x
          out (cellIndex (asF32 (s.g.op a l)) (f 0 0) (f 1 32)) nx ∨ (2 ≤ k ∧ out (cellIndex (asF32 (s.g.op b l)) (f 0 32) (f 2 0)) ny) ∨
            (3 ≤ k ∧ out (cellIndex (asF32 (s.g.op c l)) (f 1 0) (f 2 32)) nz) →
          u.g.rv (s.g.phys d.toNat) l = 0xFFFFFFFF))

/-! ## Control flow (chapter 03) -/

/-- The branches and calls of R67: a displacement in words from the instruction's own PC, RET and JMP to an aligned address in a register,
CALL leaving its return address in s63, LOOP counting a register down and branching while it is not zero.  Each ends its run. -/
def Obligations.Branches : Prop :=
  ∀ (h : Hdr) (a : BitVec 6) (off : BitVec 18) (k : BitVec 32),
    let hop := fun (pc : BitVec 57) (words : Int) => pc + BitVec.ofInt 57 (4 * words)
    let aligned := fun (s : State) (_ : Split) => (s.g.rs a.toNat).extractLsb' 0 2 = 0
    Jumps (.bra h off) h {} (fun _ _ => True) (fun s _ => s) (fun _ sp => hop sp.pc off.toInt) ∧
    Jumps (.call h off) h { sw := [63] } (fun _ _ => True) (fun s sp => { s with g := s.g.ws 63 ((sp.pc + 4).setWidth 64) })
      (fun _ sp => hop sp.pc off.toInt) ∧
    Jumps (.ret h a) h { sr := [a.toNat] } aligned (fun s _ => s) (fun s _ => (s.g.rs a.toNat).extractLsb' 0 57) ∧
    Jumps (.jmp h a) h { sr := [a.toNat] } aligned (fun s _ => s) (fun s _ => (s.g.rs a.toNat).extractLsb' 0 57) ∧
    Jumps (.loop h a k) h { sr := [a.toNat], sw := [a.toNat] } (fun s _ => s.g.rs a.toNat ≠ 1)
      (fun s _ => { s with g := s.g.ws a.toNat (s.g.rs a.toNat - 1) }) (fun _ sp => hop sp.pc k.toInt) ∧
    Does (.loop h a k) (fun _ => { sr := [a.toNat], sw := [a.toNat] }) (guardOn h) (fun s _ => s.g.rs a.toNat = 1)
      (fun s _ => { s with g := s.g.ws a.toNat 0 }) ∧
    Advances (.loop h a k) (fun _ => { sr := [a.toNat], sw := [a.toNat] }) (guardOn h) (fun s _ => s.g.rs a.toNat = 1) ∧
    (∀ s sp i, (i = .ret h a ∨ i = .jmp h a) → s.canIssue i { sr := [a.toNat] } sp → guardOn h s = true → s.g.role = .plain →
      s.g.newSplits = [] → (s.g.rs a.toNat).extractLsb' 0 2 ≠ 0 →
      Traps i s sp (Trap.plain 0x04 sp.pc sp.pc sp.mask (s.g.rs a.toNat) s.dt))

/-- BRL divides its split (R69): no active lane taking it, it goes on; every lane, it jumps; otherwise the lanes that take it wait at the
target in a slot of their own and the others go on at the next instruction. -/
def Obligations.BranchLanes : Prop :=
  ∀ (h : Hdr) (k : BitVec 32) (s : State) (sp : Split), s.canIssue (.brl h k) {} sp → s.g.splits = [sp] → s.g.newSplits = [] →
    s.g.stack = [] →
    let t := activeMask h s
    let f := sp.mask &&& ~~~t
    let target := sp.pc + BitVec.ofInt 57 (4 * k.toInt)
    ∃ u, exec (.brl h k) s = .next u ∧ u.still = s.still ∧
      (t = 0 → ∃ x, u.g.splits = [x] ∧ x.mask = sp.mask ∧ x.pc = sp.pc + 8) ∧
      (t ≠ 0 → f = 0 → ∃ x, u.g.splits = [x] ∧ x.mask = sp.mask ∧ x.pc = target) ∧
      (t ≠ 0 → f ≠ 0 → target ≠ sp.pc + 8 → ∃ x y, (u.g.splits = [x, y] ∨ u.g.splits = [y, x]) ∧ x.mask = f ∧ x.pc = sp.pc + 8 ∧
        y.mask = t ∧ y.pc = target)

/-- The instructions that park their split (03 R58, R70 to R73): JOIN, SYNCS where no other split waits at the same one, EXIT and EXIT.L to
drain the lanes that end.  SYNCS joins a split that waits at the same one, and waits on there with the lanes of both.  YIELD ends the run: the
split is ready at the next instruction with ready-age now and passed over no time, or parks there where W is 1 (02 R33).  Each of the five
completes whenever it can issue, whatever splits the group has; where its guard is false SYNCS, EXIT and YIELD change nothing; NOP does nothing
(R71). -/
def Obligations.ParksAndEnds : Prop :=
  ∀ (h : Hdr),
    let drains := fun (s : State) => ({ cmp := s.teamEnds 0xFFFFFFFF } : Uses)
    let drainsL := fun (s : State) => ({ cmp := s.teamEnds (activeMask h s) } : Uses)
    let goes := fun (i : Instr) (u : State → Uses) (on : State → Bool) => ∀ s sp, s.canIssue i (u s) sp →
      ∃ t, exec i s = .next t ∧ t.still = s.still ∧ (on s = true → t.g.run = false)
    goes (.join h) (fun _ => {}) (fun _ => true) ∧ goes (.syncs h) (fun _ => {}) (guardOn h) ∧ goes (.exit h) drains (guardOn h) ∧
    goes (.exitL h) drainsL (fun _ => true) ∧ goes (.yieldR h) (fun _ => {}) (guardOn h) ∧
    Parks (.join h) (fun _ => {}) (fun _ => true) (fun _ _ => True) (fun s _ => s) (fun _ _ => .join) ∧
    Parks (.syncs h) (fun _ => {}) (guardOn h)
      (fun s sp => ∀ x ∈ s.g.splits, x.slot = sp.slot ∨ x.park ≠ .syncs ∨ x.pc ≠ sp.pc) (fun s _ => s) (fun _ _ => .syncs) ∧
    (∀ s sp x, s.canIssue (.syncs h) {} sp → guardOn h s = true → (s.g.splits = [sp, x] ∧ sp.slot < x.slot ∨ s.g.splits = [x, sp] ∧ x.slot < sp.slot) →
      s.g.newSplits = [] → s.g.stack = [] → x.park = .syncs → x.pc = sp.pc →
      ∃ t y, exec (.syncs h) s = .next t ∧ t.g.splits = [y] ∧ y.slot = min sp.slot x.slot ∧ y.mask = (sp.mask ||| x.mask) ∧ y.pc = sp.pc ∧
        y.park = .syncs) ∧
    Parks (.exit h) drains (guardOn h) (fun _ _ => True) (fun s _ => s) (fun _ sp => .exitDrain sp.mask) ∧
    Parks (.exitL h) drainsL (fun _ => true) (fun _ _ => True) (fun s _ => s) (fun s _ => .exitDrain (activeMask h s)) ∧
    Does (.nop h) (fun _ => {}) (fun _ => true) (fun _ _ => True) (fun s _ => s) ∧
    (∀ s sp, s.canIssue (.yieldR h) {} sp → guardOn h s = true → s.g.splits = [sp] → s.g.newSplits = [] →
      ∃ t x, exec (.yieldR h) s = .next t ∧ t.g.splits = [x] ∧ x.slot = sp.slot ∧ x.mask = sp.mask ∧ x.pc = sp.pc + 4 ∧ x.passed = 0 ∧
        (h.w = false → x.park = .ready ∧ x.age = s.clock) ∧ (h.w = true → x.park = .wbit))

/-! ## Synchronization (chapter 09) -/

/-- Counter and barrier operations take an entry of the operand log with their object's address and operand, a register or an immediate
(R227, R231, R232, R237 to R240); the waits park their split until the object meets its target, CTR.WAITT also until a time. -/
def Obligations.CountersAndBarriers : Prop :=
  ∀ (h : Hdr) (d a b c : BitVec 6) (mode kind : BitVec 4) (sc : BitVec 2) (imm : BitVec 16) (q : BitVec 3),
    let regs := if kind.toNat = 0 then [a.toNat, b.toNat] else [a.toNat]
    let val := fun (g : Group) => if kind.toNat = 0 then g.rs b.toNat else imm.setWidth 64
    let sp_ := if mode.toNat = 0 then Space.glob else if mode.toNat = 1 then .scr else .clu
    let at_ := fun (g : Group) =>
      if mode.toNat = 0 then g.rs a.toNat else if mode.toNat = 1 then g.rs a.toNat &&& 0xFFFFFFFF else g.rs a.toNat &&& 0xFFFFF
    let free := fun (s : State) (_ : Split) => s.entryFree = true
    let held := fun (k : AccKind) => ({ kind := k, space := sp_, size := 8, scope := sc.toNat, uni := true } : Held)
    let rd := fun (w : Nat) (g : Group) => [(⟨0, g.rs a.toNat, none, 0, BitVec.ofNat 64 w, .pending⟩ : OlLane)]
    let rdx : Held := { kind := .ctrRd d.toNat, space := .glob, size := 8, uni := true }
    let wait := fun (i : Instr) (rs : List Nat) (bar : Bool) (target : Group → W64) (qd : Option Nat) (dl : Group → Option W64) =>
      Parks i (fun _ => { sr := rs, sw := [d.toNat], late := true, logged := true, cmp := true, parks := true }) (guardOn h) free
        (fun s sp => s.withEntry i sp sp.mask (held (.wait bar)) [⟨0, at_ s.g, none, 0, 0, .pending⟩])
        (fun s _ => .ctr ⟨bar, s.takeEntry.getD 0, sc.toNat, target s.g, d.toNat, qd, dl s.g, none⟩)
    Does (.ctrAdd h a b mode sc kind imm) (fun _ => { sr := regs, late := true, logged := true, cmp := true }) (guardOn h) free (fun s sp =>
      s.withEntry (.ctrAdd h a b mode sc kind imm) sp sp.mask (held .ctrAdd) [⟨0, at_ s.g, none, (val s.g).setWidth 128, 0, .pending⟩]) ∧
    Does (.barArv h d a b mode sc kind imm) (fun _ => { sr := regs, sw := [d.toNat], late := true, logged := true, cmp := true }) (guardOn h)
      free (fun s sp => s.withEntry (.barArv h d a b mode sc kind imm) sp sp.mask (held (.barArv d.toNat))
        [⟨0, at_ s.g, none, (val s.g).setWidth 128, 0, .pending⟩]) ∧
    Does (.ctrRd h d a) (fun _ => { sr := [a.toNat], sw := [d.toNat], late := true, logged := true }) (guardOn h) free (fun s sp =>
      s.withEntry (.ctrRd h d a) sp sp.mask rdx (rd 0 s.g)) ∧
    Does (.ctrRdSt h d a) (fun _ => { sr := [a.toNat], sw := [d.toNat], late := true, logged := true }) (guardOn h) free (fun s sp =>
      s.withEntry (.ctrRdSt h d a) sp sp.mask rdx (rd 1 s.g)) ∧
    wait (.ctrWait h d a b mode sc kind imm) regs false val none (fun _ => none) ∧
    wait (.ctrWaitt h d a b c mode sc q) [a.toNat, b.toNat, c.toNat] false (fun g => g.rs b.toNat) (some q.toNat) (fun g => some (g.rs c.toNat)) ∧
    wait (.barWait h d a b mode sc) [a.toNat, b.toNat] true (fun g => g.rs b.toNat) none (fun _ => none)

/-- BATCH.CLOSE gives the batch it closes its number (R242) or parks while sixteen are outstanding; BATCH.WAIT parks for a batch, at most
the last one closed (R243); PHASE sets the tag of later stores (R244); QUIET parks (R245); FENCE and ACQ.REM are entered among the fences
of their group and complete later (R246, R247), ACQ.REM with status 0 for a tile that is enabled, one fenced in the field too (log entry 49), and 1 for
any other. -/
def Obligations.BatchesAndFences : Prop :=
  ∀ (h : Hdr) (d a : BitVec 6) (sc : BitVec 2) (kind : BitVec 4) (imm : BitVec 16) (t : BitVec 1),
    let last := fun (g : Group) => (g.batchSeq.toNat : Int) - 1
    let asked := fun (g : Group) => if kind.toNat = 0 then (g.rs a.toNat).toInt else last g - imm.toNat
    let full := fun (s : State) => decide (s.g.batchSeq - 1 - s.g.batchDone = 16)
    Does (.batchClose h d) (fun _ => { sw := [d.toNat] }) (guardOn h) (fun s _ => full s = false) (fun s _ =>
      let g1 := s.g.ws d.toNat s.g.batchSeq
      ({ s with g := { g1 with batchSeq := s.g.batchSeq + 1 } } : State).advanceBatches s.g.gid) ∧
    Parks (.batchClose h d) (fun _ => { sw := [d.toNat] }) (guardOn h) (fun s _ => full s = true ∧ s.g.role.follows = false) (fun s _ => s)
      (fun s _ => .batchClose d.toNat s.g.seq) ∧
    Parks (.batchWait h a kind imm) (fun _ => { sr := if kind.toNat = 0 then [a.toNat] else [], late := true, logged := true, parks := true })
      (guardOn h) (fun _ _ => True) (fun s _ => s) (fun s _ => .batchWait (BitVec.ofNat 64 (min (asked s.g) (last s.g)).toNat)) ∧
    Does (.phase h t) (fun _ => {}) (guardOn h) (fun _ _ => True) (fun s _ => { s with g := { s.g with phase := t } }) ∧
    Parks (.quiet h sc t) (fun _ => { late := true, logged := true, parks := true, cmp := decide (1 ≤ sc.toNat) }) (guardOn h)
      (fun _ _ => True) (fun s _ => s) (fun s _ => .quiet sc.toNat t s.dt) ∧
    Does (.fence h sc kind) (fun _ => { late := true, logged := true, cmp := decide (kind.toNat ≠ 0) && decide (1 ≤ sc.toNat) }) (guardOn h)
      (fun _ _ => True) (fun s sp =>
        let s1 : State := { s with g := { s.g with fences := s.g.fences ++ [(s.g.seq, sc.toNat, kind.toNat)] } }
        s1.owes sp [] [] 0 (.fence kind.toNat)) ∧
    Does (.acqRem h d a) (fun _ => { sr := [a.toNat], sw := [d.toNat], late := true }) (guardOn h) (fun s _ => s.g.role.follows = false)
      (fun s sp =>
        let v := (s.g.rs a.toNat).toNat
        let ok := decide (v < 1024) && isTile v && s.dieOn (dieOf v) && !(s.tile v).fencedMfr
        let s1 : State := { s with g := { s.g with fences := s.g.fences ++ [(s.g.seq, 2, 0)] } }
        s1.owes sp [] [(d.toNat, if ok = true then 0 else 1)] 0 (if ok = true then .victim v else .fence 0))

/-! ## Special registers, the window base and apertures (02 R40, R43, R44; 04 R112, R113; 07 R175) -/

/-- SRD reads a special register as it stands before the read (R112). SWR writes a special register that can be written: the group's own
registers, and for a group that follows no log the registers of its context (R6, R44, R112); a read-only register keeps its value.  Each
completes for every index, once no earlier instruction that updates the register is outstanding (R113). -/
def Obligations.SpecialRegisters : Prop :=
  ((∀ (h : Hdr) (d idx : BitVec 6),
    let u : Uses := { sw := [d.toNat], priv := decide (0x20 ≤ idx.toNat), logged := srLogged idx.toNat }
    Does (.srd h d idx) (fun _ => u) (guardOn h) (fun s _ => s.registerOut idx.toNat = false)
      (fun s sp => { s with g := s.g.ws d.toNat (s.readSpecial s.g sp idx.toNat) }) ∧
    (idx.toNat ≠ 0x0C → idx.toNat ≠ 0x10 → idx.toNat ≠ 0x12 → idx.toNat ≠ 0x29 → idx.toNat ≠ 0x2B →
      UniSets (.srd h d idx) h u d (fun s sp => s.readSpecial s.g sp idx.toNat)) ∧
    (idx.toNat = 0x0C → Does (.srd h d idx) (fun _ => u) (guardOn h) (fun s _ => s.flagsOut = false)
      (fun s _ => { s with g := s.g.ws d.toNat (s.g.fpstat.setWidth 64) }))) ∧
  (∀ (s : State) (sp : Split),
    let g := s.g
    let rd := s.readSpecial g sp
    rd 0x00 = g.gidx.setWidth 64 ∧ rd 0x01 = g.teamIdx ∧ rd 0x02 = g.teamDim.setWidth 64 ∧ rd 0x03 = g.gridId ∧ rd 0x04 = g.gridDim ∧
    rd 0x05 = BitVec.ofNat 64 g.tile ∧ rd 0x08 = s.chip.setWidth 64 ∧ rd 0x09 = g.depth.setWidth 64 ∧ rd 0x0B = g.argptr ∧
    rd 0x0D = g.fpctl.setWidth 64 ∧ rd 0x10 = g.batchSeq ∧ rd 0x11 = g.batchDone ∧ rd 0x12 = (if g.agev = true then g.age else 0) ∧
    rd 0x14 = g.tcause ∧ rd 0x15 = g.tpc.setWidth 64 ∧ rd 0x16 = g.tresume.setWidth 64 ∧ rd 0x17 = g.tmask.setWidth 64 ∧
    rd 0x18 = g.taddr ∧ rd 0x19 = g.tdt ∧ rd 0x1A = g.tother.setWidth 64 ∧ rd 0x1B = g.tlanecause ∧ rd 0x25 = g.twalk ∧
    rd 0x2C = g.engErr ∧ rd 0x2D = g.engAddr ∧ rd 0x32 = g.txb.setWidth 64 ∧ rd 0x38 = (s.ctx g.ctx).chseed ∧
    rd 0x39 = (s.ctx g.ctx).prhold)) ∧
  (∀ (h : Hdr) (a idx : BitVec 6),
    let u : Uses := { sr := [a.toNat], priv := decide (0x20 ≤ idx.toNat) || (decide (0x14 ≤ idx.toNat) && decide (idx.toNat ≤ 0x1B)) }
    let writes := fun (n : Nat) (need : State → Prop) (eff : State → W64 → State) =>
      idx.toNat = n → Does (.swr h a idx) (fun _ => u) (guardOn h) (fun s _ => need s) (fun s _ => eff s (s.g.rs a.toNat))
    let any : State → Prop := fun s => s.registerOut idx.toNat = false
    let own : State → Prop := fun s => s.g.role.follows = false
    Does (.swr h a idx) (fun _ => u) (guardOn h) (fun s _ => any s) (fun s sp => s.writeSpecial sp idx.toNat (s.g.rs a.toNat)) ∧
    writes 0x0C (fun s => s.flagsOut = false) (fun s v => { s with g := { s.g with fpstat := v.extractLsb' 0 5 } }) ∧
    writes 0x0D any (fun s v => { s with g := { s.g with fpctl := v.extractLsb' 0 2 } }) ∧
    writes 0x14 any (fun s v => { s with g := { s.g with tcause := v &&& 0x3FFF } }) ∧
    writes 0x15 any (fun s v => { s with g := { s.g with tpc := wordPc (v.extractLsb' 0 57) } }) ∧
    writes 0x16 any (fun s v => { s with g := { s.g with tresume := wordPc (v.extractLsb' 0 57) } }) ∧
    writes 0x17 any (fun s v => { s with g := { s.g with tmask := v.extractLsb' 0 32 } }) ∧
    writes 0x18 any (fun s v => { s with g := { s.g with taddr := v } }) ∧
    writes 0x1A any (fun s v => { s with g := { s.g with tother := v.extractLsb' 0 2 } }) ∧
    writes 0x1B any (fun s v => { s with g := { s.g with tlanecause := v } }) ∧
    writes 0x26 any (fun s v => { s with g := { s.g with acctSel := v &&& 7 } }) ∧
    writes 0x2C any (fun s v => { s with g := { s.g with engErr := if v.getLsbD 7 = true then setField s.g.engErr 7 1 0 else s.g.engErr } }) ∧
    writes 0x30 own (fun s v => s.modCtx s.g.ctx (fun c => { c with tvec := wordPc (v.extractLsb' 0 57) })) ∧
    writes 0x32 any (fun s v => { s with g := { s.g with txb := v.extractLsb' 0 8 } }) ∧
    writes 0x38 own (fun s v => s.modCtx s.g.ctx (fun c => { c with chseed := v })) ∧
    writes 0x39 own (fun s v => s.modCtx s.g.ctx (fun c => { c with prhold := v })) ∧
    writes 0x3C own (fun s v => s.modCtx s.g.ctx (fun c => { c with auto := v.getLsbD 0 })) ∧
    (idx.toNat ∈ [0x00, 0x01, 0x02, 0x03, 0x04, 0x05, 0x06, 0x07, 0x08, 0x09, 0x0B, 0x0E, 0x0F, 0x10, 0x11, 0x12, 0x13, 0x20, 0x21, 0x24, 0x25,
        0x27, 0x28, 0x29, 0x2B, 0x2D, 0x2E, 0x35, 0x36, 0x3D, 0x3E] →
      Does (.swr h a idx) (fun _ => u) (guardOn h) (fun s _ => any s) (fun s _ => s)))

/-- XB.SET and XB.ADD move the window base to a value in the allotment, and to any other raise Register Bounds, XB unchanged (R40). -/
def Obligations.WindowBase : Prop :=
  ∀ (h : Hdr) (a : BitVec 6) (imm : BitVec 12),
    let moves := fun (i : Instr) (u : Uses) (base : State → Int) =>
      Does i (fun _ => u) (guardOn h) (fun s _ => 0 ≤ base s ∧ base s ≤ (s.g.allot : Int) - 1)
        (fun s _ => { s with g := { s.g with xb := BitVec.ofInt 8 (base s) } }) ∧
      (∀ s sp, s.canIssue i u sp → guardOn h s = true → s.g.role = .plain → s.g.newSplits = [] →
        ¬ (0 ≤ base s ∧ base s ≤ (s.g.allot : Int) - 1) →
        Traps i s sp (Trap.plain 0x03 sp.pc sp.pc sp.mask (BitVec.ofNat 64 ((BitVec.ofInt 9 (base s)).toNat + 2048)) s.dt))
    moves (.xbSetImm h imm) {} (fun _ => imm.toNat) ∧
    moves (.xbSetReg h a) { sr := [a.toNat] } (fun s => (s.g.rs a.toNat).toNat) ∧
    moves (.xbAddImm h imm) {} (fun s => s.g.xb.toNat + imm.toInt) ∧
    moves (.xbAddReg h a) { sr := [a.toNat] } (fun s => s.g.xb.toNat + (s.g.rs a.toNat).toInt)

/-- TA.SET makes its aperture valid over a base and a cap, its translation still to come where the base is an address, FRAME, R and W as they
were; TA.INV makes it invalid; TA.QRY writes its limit, 0 of an invalid aperture (R174), and its flags, once a pending translation is done
(R175). -/
def Obligations.Apertures : Prop :=
  (∀ (h : Hdr) (d a b : BitVec 6) (ta : BitVec 4),
    Does (.taSet h ta a b) (fun _ => { sr := [a.toNat, b.toNat], late := true }) (guardOn h) (fun _ _ => True) (fun s _ =>
      let s1 := s.settleAperture s.g.gid ta.toNat
      let base := s1.g.rs a.toNat
      let old := s1.g.rta ta.toNat
      let cap := (s1.g.rs b.toNat).toNat
      let ap : Aperture :=
        { Aperture.invalid with
            v := true
            frame := old.frame
            r := old.r
            w := old.w
            base := base.extractLsb' 0 57
            cap := BitVec.ofNat 33 (if cap = 0 ∨ 2 ^ 32 < cap then 2 ^ 32 else cap)
            pending := decide (base.toNat < 2 ^ 57) }
      { s1 with g := s1.g.wta ta.toNat ap }) ∧
    Does (.taInv h ta) (fun _ => {}) (guardOn h) (fun s _ => s.g.wantsAperture ta.toNat = false)
      (fun s _ => { s with g := s.g.wta ta.toNat { s.g.rta ta.toNat with v := false } }) ∧
    Does (.taQry h d ta) (fun _ => { sw := [d.toNat], logged := true }) (guardOn h) (fun _ _ => True)
      (fun s _ =>
        let s1 := if (s.g.rta ta.toNat).pending = true then s.finishAperture s.g.gid ta.toNat else s
        { s1 with g := s1.g.ws d.toNat (s1.g.rta ta.toNat).query })) ∧
  (∀ x : Aperture, x.query.toNat = (if x.v = true then x.limit.toNat else 0) + (if x.v = true then 2 ^ 33 else 0) + (if x.stale = true then 2 ^ 34 else 0) +
    (if x.r = true then 2 ^ 35 else 0) + (if x.w = true then 2 ^ 36 else 0))

/-! ## Engines (chapter 11) -/

/-- An engine command whose checks find nothing (R297) is taken into its tile's queue with what it captured and the destinations it names, its batch
number in sD, where the queue and its die's engines have an entry free (R291, R295; log entry 116), and a COLL's table and a CP.GATH's list can be read
now.  A poisoned index ends a CP.GATH with code 0x42 (R307).  CP.STAT counts commands that are not done (R309). -/
def Obligations.EngineCommands : Prop :=
  ∀ (h : Hdr) (d a b c : BitVec 6) (comp sp_ sc : BitVec 2) (imm : BitVec 16) (which : BitVec 2),
    let obj := if comp.toNat = 0 then [] else [b.toNat]
    let room := fun (s : State) (kind : Nat) => s.tceUsed s.g.tile < 8 ∧ s.engineRoom kind s.g.tile = true
    let takes := fun (i : Instr) (kind op n : Nat) =>
      let cmd := fun (s : State) => s.capture kind op (upFrom a.toNat n) b comp sp_ sc imm
      Does i (fun _ => { sr := upFrom a.toNat n ++ obj ++ [], sw := [d.toNat], cmp := true }) (guardOn h)
        (fun s _ => (cmd s).check s.g sp_.toNat none s = none ∧ room s kind)
        (fun s _ => { s with g := s.g.ws d.toNat s.g.batchSeq, cmds := s.cmds ++ [{ cmd s with dest := (cmd s).ranges }], nextId := s.nextId + 1 })
    let coll := fun (i : Instr) (op : Nat) =>
      Does i (fun _ => { sr := [a.toNat] ++ obj ++ [], sw := [d.toNat], cmp := true }) (guardOn h)
        (fun s _ => (s.capture 4 op [a.toNat] b comp sp_ sc imm).check s.g sp_.toNat none s = none ∧ room s 4 ∧
          s.ownHeld (s.req s.g) (s.g.rs a.toNat).toNat = false)
        (fun s _ =>
          let x := s.acceptColl (s.capture 4 op [a.toNat] b comp sp_ sc imm)
          State.matchPeers { x.1 with g := x.1.g.ws d.toNat x.1.g.batchSeq, cmds := x.1.cmds ++ [x.2], nextId := x.1.nextId + 1 })
    let gath := fun (s : State) => s.capture 2 0 (upFrom a.toNat 4) b comp sp_ sc imm
    let list := fun (s : State) => some (s.g.rs c.toNat)
    let gathers := fun (bad : State → Prop) (eff : State → Split → State) =>
      Does (.cpGath h d a b c comp sp_ sc imm) (fun _ => { sr := upFrom a.toNat 4 ++ obj ++ [c.toNat], sw := [d.toNat], cmp := true })
        (guardOn h)
        (fun s _ => (gath s).check s.g sp_.toNat (list s) s = none ∧ room s 2 ∧ (s.readList (gath s) (list s)).isSome = true ∧ bad s) eff
    takes (.cpIn h d a b comp sp_ sc imm) 0 0 4 ∧ takes (.cpOut h d a b comp sp_ sc imm) 1 0 4 ∧
    takes (.cpBulk h d a b comp sp_ sc imm) 3 0 3 ∧ takes (.cpBulkFill h d a b comp sp_ sc imm) 3 1 3 ∧
    coll (.collAllred h d a b comp sp_ sc imm) 0 ∧ coll (.collRedscat h d a b comp sp_ sc imm) 1 ∧
    coll (.collAllgath h d a b comp sp_ sc imm) 2 ∧ coll (.collBcast h d a b comp sp_ sc imm) 3 ∧
    gathers (fun s => s.badIndex (gath s) (list s) = none) (fun s _ =>
      let y := { gath s with idxList := (s.readList (gath s) (list s)).getD [], dest := (gath s).ranges }
      { s with g := s.g.ws d.toNat s.g.batchSeq, cmds := s.cmds ++ [y], nextId := s.nextId + 1 }) ∧
    (∀ r : Nat, gathers (fun s => s.badIndex (gath s) (list s) = some r) (fun s _ =>
      let x := s.refuseList (gath s) (list s) r
      { x.1 with g := x.1.g.ws d.toNat x.1.g.batchSeq, cmds := x.1.cmds ++ [x.2], nextId := x.1.nextId + 1 })) ∧
    UniSets (.cpStat h d which) h { sw := [d.toNat], logged := true } d (fun s _ =>
      let n := fun (p : Cmd → Bool) => (s.cmds.filter (fun c => !c.done && p c)).length
      let here := fun (c : Cmd) => decide (dieOf c.tile = dieOf s.g.tile)
      let e := s.g.engErr
      match which.toNat with
      | 0 => BitVec.ofNat 64 (n (fun c => decide (c.gid = s.g.gid)) % 2 ^ 16 + field e 7 1 * 2 ^ 16 + field e 0 7 * 2 ^ 24 + field e 32 32 * 2 ^ 32)
      | 1 => BitVec.ofNat 64 (s.tceUsed s.g.tile + (if (s.tile s.g.tile).landing = [] then 0 else 16) + s.landingBytes s.g.tile * 2 ^ 16)
      | _ => BitVec.ofNat 64 (n (fun c => decide (c.kind = 3) && here c) % 2 ^ 16 + n (fun c => decide (c.kind = 4) && here c) % 2 ^ 16 * 2 ^ 16))

/-! ## Locks (chapter 10) -/

/-- The lock instructions of a group that has no lock instruction outstanding (R269): LK.BEGIN sets the age of a group without one and
writes it (R276); LK.ACQ, LK.UPG and LK.TRY of a lock that the protocol allows send a request to its slice, LK.ACQ and LK.UPG parked for
the grant, LK.TRY holding the group's later loads until it is answered (R278, R282, R286) and having status 2 where the lock set or the die's pool has no
room; LK.REL and LK.END give their locks to be
released and hold the group's later stores until then (R252, R283); LK.QRY reads a lock's word (R284); LK.DEF defines the
domain its descriptor gives, undefines a domain with address 0, and has status 2 for a number above 4,095 (R281).  LK.ACQ, LK.TRY and LK.UPG of a
scope other than cluster and device raise Scope (R280), their TRESUME past the instruction (log entry 38); those, LK.REL and LK.QRY raise Lock Protocol
where R270 forbids them; LK.ACQ without room raises Lock Table Full (R282, R316). -/
def Obligations.LockInstructions : Prop :=
  (∀ (h : Hdr) (d a b : BitVec 6) (mode : BitVec 3) (sc : BitVec 2),
    let idle := fun (s : State) => s.g.lockBusy = false
    let inScope := sc.toNat = 1 ∨ sc.toNat = 2
    let allowed := fun (s : State) (upg : Bool) => idle s ∧ inScope ∧ s.breaks s.g (s.g.rs a.toNat) mode.toNat upg = false ∧ s.g.stopped = false
    let kept := fun (s : State) => s.open_.lockDie s.open_.g (s.g.rs a.toNat)
    let room := fun (s : State) => s.g.lset.length < 64 ∧ (kept s).2.poolHas (kept s).1 = true
    let asks := fun (s : State) (sp : Split) (upg : Bool) (try_ : Option Nat) =>
      let r : LockReq := ⟨s.g.rs a.toNat, mode.toNat, upg, try_, sc.toNat, sp.slot, s.g.seq, false, false⟩
      let g1 := { s.g with lreq := some r, lockSeq := some s.g.seq }
      ({ s with g := if upg = true then
            { g1 with lset := g1.lset.map (fun (x : LockHold) => if x.name = r.name then { x with upg := some r.mode } else x) } else g1 } : State)
    let marked := fun (s : State) => ({ s with g := { s.g with lockSeq := some s.g.seq } } : State)
    let u : Uses := { sr := [a.toNat], late := true, logged := true, parks := true, cmp := true }
    let ud : Uses := { sr := [a.toNat], sw := [d.toNat], late := true, logged := true, parks := true, cmp := true }
    Does (.lkBegin h d) (fun _ => { sw := [d.toNat], logged := true, parks := true }) (guardOn h) (fun s _ => idle s) (fun s _ =>
      let age := if s.g.agev = true then s.g.age else BitVec.ofNat 64 s.dt
      let g1 := s.g.ws d.toNat age
      { s with g := { g1 with age := age, agev := true, agehold := false } }) ∧
    Parks (.lkAcq h a mode sc) (fun _ => u) (guardOn h) (fun s _ => allowed s false ∧ room s) (fun s sp => asks (kept s).2 sp false none) (fun _ _ => .lock) ∧
    Parks (.lkUpg h a mode sc) (fun _ => u) (guardOn h) (fun s _ => allowed s true) (fun s sp => asks s sp true none) (fun _ _ => .lock) ∧
    Does (.lkTry h d a mode sc) (fun _ => ud) (guardOn h) (fun s _ => allowed s false ∧ room s)
      (fun s sp => ((asks (kept s).2 sp false (some d.toNat)).addFence sc.toNat 0).owes sp [] [(d.toNat, 0)] 0 .other) ∧
    Does (.lkTry h d a mode sc) (fun _ => ud) (guardOn h) (fun s _ => allowed s false ∧ ¬ room s)
      (fun s sp => (marked (kept s).2).owes sp [] [(d.toNat, 2)] 0 .nothing) ∧
    Does (.lkRel h a) (fun _ => u) (guardOn h)
      (fun s _ => idle s ∧ s.validLock s.g.ctx (s.g.rs a.toNat) = true ∧ (s.g.holds (s.g.rs a.toNat)).isSome = true ∧
        ∀ x ∈ s.g.lset, (s.ancestors s.g.ctx x.name).contains (s.g.rs a.toNat) = false)
      (fun s sp =>
        let s1 := (marked s.addRelease).owes sp [] [] 0 .other
        { s1 with g := { s1.g with lrel := [s.g.rs a.toNat] } }) ∧
    Does (.lkEnd h) (fun _ => { late := true, logged := true, parks := true, cmp := true }) (guardOn h) (fun s _ => idle s) (fun s sp =>
      let s1 := (marked s.addRelease).owes sp [] [] 0 .other
      { s1 with g := { s1.g with lrel := s.g.lset.map (fun x => x.name), lend := true } }) ∧
    Does (.lkQry h d a) (fun _ => ud) (guardOn h) (fun s _ => idle s ∧ s.validLock s.g.ctx (s.g.rs a.toNat) = true)
      (fun s sp => (marked s).owes sp [] [(d.toNat, s.lockQuery s.g (s.g.rs a.toNat))] 0 .nothing) ∧
    Does (.lkDef h d a b) (fun _ => { ud with sr := [a.toNat, b.toNat] }) (guardOn h)
      (fun s _ => idle s ∧ (s.g.rs b.toNat).toNat ≤ 4095 ∧ s.g.rs a.toNat ≠ 0 ∧ s.entryFree = true)
      (fun s sp => (marked s).withEntry (.lkDef h d a b) sp sp.mask
        { kind := .lkDef d.toNat (s.g.rs b.toNat), space := .glob, size := 32, uni := true } [⟨0, s.g.rs a.toNat, none, 0, 0, .pending⟩]) ∧
    Does (.lkDef h d a b) (fun _ => { ud with sr := [a.toNat, b.toNat] }) (guardOn h) (fun s _ => idle s ∧ 4095 < (s.g.rs b.toNat).toNat)
      (fun s sp => (marked s).owes sp [] [(d.toNat, 2)] 0 .nothing) ∧
    Does (.lkDef h d a b) (fun _ => { ud with sr := [a.toNat, b.toNat] }) (guardOn h)
      (fun s _ => idle s ∧ (s.g.rs b.toNat).toNat ≤ 4095 ∧ s.g.rs a.toNat = 0 ∧ s.defHeld (s.req s.g) (s.g.rs b.toNat).toNat none = false)
      (fun s sp =>
        let num := (s.g.rs b.toNat).toNat
        if s.domainBusy s.g.ctx num = true then (marked s).owes sp [] [(d.toNat, 1)] 0 .nothing
        else (marked (s.undefine (s.req s.g) num).2).owes sp [] [(d.toNat, 0)] 0 .nothing)) ∧
  (∀ (s : State) (q : Req) (num : Nat), s.domainBusy q.ctx num = false →
    (s.undefine q num).1 = 0 ∧ ∀ x, x ∈ (s.undefine q num).2.domains ↔ x ∈ s.domains ∧ ¬ (x.ctx = q.ctx ∧ x.num = num)) ∧
  (∀ (h : Hdr) (d a : BitVec 6) (mode : BitVec 3) (sc : BitVec 2) (s : State) (sp : Split),
    let u : Uses := { sr := [a.toNat], late := true, logged := true, parks := true, cmp := true }
    let ud : Uses := { sr := [a.toNat], sw := [d.toNat], late := true, logged := true, parks := true, cmp := true }
    let n := s.g.rs a.toNat
    let goes := fun (i : Instr) (u : Uses) => s.canIssue i u sp ∧ guardOn h s = true ∧ s.g.newSplits = [] ∧ s.g.lockBusy = false
    let inScope := sc.toNat = 1 ∨ sc.toNat = 2
    let forbids := fun (i : Instr) (u : Uses) (bad : Prop) =>
      goes i u → bad → Traps i s sp (Trap.plain 0x0E sp.pc sp.pc sp.mask n s.dt)
    let asks := fun (i : Instr) (u : Uses) (upg : Bool) =>
      (goes i u → ¬ inScope → Traps i s sp (Trap.plain 0x05 sp.pc (sp.pc + 8) sp.mask n s.dt)) ∧
      forbids i u (inScope ∧ s.breaks s.g n mode.toNat upg = true)
    asks (.lkAcq h a mode sc) u false ∧ asks (.lkTry h d a mode sc) ud false ∧ asks (.lkUpg h a mode sc) u true ∧
    forbids (.lkRel h a) u (s.validLock s.g.ctx n = false ∨ s.g.holds n = none ∨ ∃ x ∈ s.g.lset, (s.ancestors s.g.ctx x.name).contains n = true) ∧
    forbids (.lkQry h d a) ud (s.validLock s.g.ctx n = false) ∧
    (goes (.lkAcq h a mode sc) u → inScope → s.breaks s.g n mode.toNat false = false → s.g.stopped = false →
      (s.open_.lockDie s.open_.g n).2 = s.open_ → (64 ≤ s.g.lset.length ∨ s.open_.poolHas (s.open_.lockDie s.open_.g n).1 = false) →
      Traps (.lkAcq h a mode sc) s sp (Trap.plain 0x10 sp.pc sp.pc sp.mask n s.dt)))

/-! ## Launches (03 R82 to R84) -/

/-- LAUNCH and LAUNCH.TRY queue the descriptor they read as a child, its priority clamped and one level deeper, and owe 0 in sD; QPOST owes
0 and a post of the descriptor to its queue, each a release (R84); QPRIO sets the priority of a grid of its context (R82, R83). -/
def Obligations.Launches : Prop :=
  ∀ (h : Hdr) (d a b : BitVec 6),
    let reads := fun (s : State) (sp : Split) (bs : List Byte) (t : State) => s.readDesc sp (s.g.rs a.toNat) = (.ok bs, t)
    let child := fun (s : State) (bs : List Byte) =>
      ({ Desc.ofBytes bs with prio := s.clampPrio s.g (Desc.ofBytes bs).prio, depth := BitVec.ofNat 8 (s.g.depth.toNat + 1) } : Desc)
    let u : Uses := { sr := [a.toNat], sw := [d.toNat], late := true, logged := true, cmp := true }
    let up : Uses := { sr := [a.toNat], sw := [d.toNat], late := true, logged := true, cmp := true, parks := true }
    let u2 : Uses := { sr := [a.toNat, b.toNat], sw := [d.toNat], late := true, logged := true, cmp := true }
    let launches := fun (i : Instr) (u : Uses) =>
      ∀ (bs : List Byte) (t : State) (r : Bool) (s : State) (sp : Split), badCompletion (Desc.ofBytes bs).completion = false →
        s.canIssue i u sp → guardOn h s = true → s.g.depth ≠ 9 → s.open_.descHeld (s.g.rs a.toNat) = false → reads s.open_ sp bs t →
        t.freeQueueEntry t.g = some r →
        ∃ x, exec i s = .next x ∧ x.still = ((t.addRelease.enqueueChild t.g t.g.seq r (child t bs)).owes sp [] [(d.toNat, 0)] 0 .nothing).still
    launches (.launch h d a) up ∧ launches (.launchTry h d a) u ∧
    (∀ (bs : List Byte) (t s : State) (sp : Split), badCompletion (Desc.ofBytes bs).completion = false → s.canIssue (.qpost h d a b) u2 sp →
      guardOn h s = true → s.open_.descHeld (s.g.rs a.toNat) = false → reads s.open_ sp bs t → ∃ x, exec (.qpost h d a b) s = .next x ∧
        x.still = (t.addRelease.owes sp [] [(d.toNat, 0)] 0
          (.post d.toNat (field (t.g.rs b.toNat) 0 14) (bs.set 0x29 (t.clampPrio t.g (Desc.ofBytes bs).prio)))).still) ∧
    (∀ (s : State) (sp : Split) (y : Grid), s.canIssue (.qprio h d a b) u2 sp → guardOn h s = true →
      s.grid ((s.g.rs a.toNat).extractLsb' 0 32) = some y → y.ctx = s.g.ctx → ∃ x, exec (.qprio h d a b) s = .next x ∧
        x.still = ((s.modGrid ((s.g.rs a.toNat).extractLsb' 0 32) (fun y =>
          { y with prio := if s.privileged s.g = true then field (s.g.rs b.toNat) 0 5 else min (field (s.g.rs b.toNat) 0 5) s.g.prio.toNat })).owes
            sp [] [(d.toNat, 0)] 0 .nothing).still)

/-! ## Gears, hints, the clock, SEG and fault injection (13 R362, R363; 14 R383 to R385) -/

/-- The GEAR instructions set the group's request (R383), the HINTs change nothing (R384), CLK owes the device time (R385), SEG and SEG.SYNC
of a group that is not checked do nothing (R362).  SEG of a leader closes its team's open segment and goes on, or parks at the slack limit before that
(R354, R362).  FINJ owes the status that says why it flips nothing; a legal flip goes among those of a running target, and is made at once in one that
stands (R363); it changes one bit of one register. -/
def Obligations.GearAndSegments : Prop :=
  (∀ (h : Hdr) (d a b : BitVec 6),
    let plain := fun (i : Instr) (eff : State → State) => Does i (fun _ => {}) (guardOn h) (fun _ _ => True) (fun s _ => eff s)
    plain (.gearN h) (fun s => { s with g := { s.g with gearReq := false } }) ∧
    plain (.gearF h) (fun s => { s with g := { s.g with gearReq := true } }) ∧
    plain (.gearW h) (fun s => { s with g := { s.g with gearReq := s.g.gearStart } }) ∧
    plain (.hintCompute h) (fun s => s) ∧ plain (.hintMemory h) (fun s => s) ∧ plain (.hintWait h) (fun s => s) ∧
    plain (.hintEndphase h) (fun s => s) ∧
    Does (.segSync h) (fun _ => { cmp := true }) (guardOn h) (fun _ _ => True) (fun s _ => s) ∧
    Does (.seg h) (fun _ => { }) (guardOn h) (fun s _ => s.g.role ≠ .leader) (fun s _ => s) ∧
    (∀ (s : State) (sp : Split) (u : Team) (c : Chord), s.canIssue (.seg h) {} sp → guardOn h s = true → s.g.role = .leader →
      s.team s.g.tid = some u → u.chord = some c → (c.level = 0 ∨ s.slackFull s.g = false) →
      ∃ t u' c', exec (.seg h) s = .next t ∧ t.still = s.still ∧ t.team s.g.tid = some u' ∧ u'.chord = some c' ∧ c'.open_ = c.open_ + 1 ∧
        c'.segs = c.segs ++ [⟨c.open_, .closed, false, c.openDt, s.dt⟩]) ∧
    (∀ (s : State) (sp : Split) (c : Chord), s.canIssue (.seg h) {} sp → guardOn h s = true → s.g.role = .leader → s.chordOf s.g = some c →
      c.level ≠ 0 → s.slackFull s.g = true → s.g.newSplits = [] →
      ∃ t x, exec (.seg h) s = .next t ∧ t.still = s.still ∧ t.g.run = false ∧ t.g.split sp.slot = some x ∧ x.park.isSlack = true ∧ x.pc = sp.pc ∧
        x.mask = sp.mask) ∧
    Parks (.clk h d) (fun _ => { sw := [d.toNat], late := true, logged := true, parks := true }) (guardOn h) (fun _ _ => True)
      (fun s sp => s.owes sp [] [(d.toNat, BitVec.ofNat 64 s.dt)] 0 .nothing) (fun _ _ => .clk) ∧
    (let x := fun (s : State) => s.g.rs a.toNat
     let y := fun (s : State) => s.g.rs b.toNat
     let u : Uses := { sr := [a.toNat, b.toNat], sw := [d.toNat], priv := true, late := true, logged := true }
     let target := fun (s : State) => s.groupAt (field (x s) 0 10) (field (x s) 10 6)
     let status := fun (v : W64) (need : State → Prop) => Does (.finj h d a b) (fun _ => u) (guardOn h) (fun s _ => need s)
       (fun s sp => s.owes sp [] [(d.toNat, v)] 0 .nothing)
     let beyond := fun (s : State) (t : Group) => (y s).getLsbD 0 = false ∧ t.allot ≤ field (y s) 1 8
     let asks := fun (s : State) (t : Group) => badFlip (x s) (y s) = false ∧ target s = some t ∧ (s.partDies s.g).contains (dieOf t.tile) = true
     let flip := fun (s : State) =>
       (⟨(y s).getLsbD 0, field (y s) 1 8, field (y s) 9 5, field (y s) 14 6, s.g.gid, s.g.seq, d.toNat⟩ : Flip)
     let queued := fun (s : State) (sp : Split) (t : Group) =>
       (s.owes sp [] [(d.toNat, 0)] 0 .other).modGroup t.gid (fun g => { g with flip := g.flip ++ [flip s] })
     status 3 (fun s => badFlip (x s) (y s) = true) ∧
     status 1 (fun s => badFlip (x s) (y s) = false ∧ (target s = none ∨ ∃ t, target s = some t ∧ (s.partDies s.g).contains (dieOf t.tile) = false)) ∧
     status 2 (fun s => ∃ t, asks s t ∧ beyond s t) ∧
     (∀ t : Group, Does (.finj h d a b) (fun _ => u) (guardOn h) (fun s _ => asks s t ∧ ¬ beyond s t ∧ t.run = true) (fun s sp => queued s sp t)) ∧
     (∀ t : Group, Does (.finj h d a b) (fun _ => u) (guardOn h) (fun s _ => asks s t ∧ ¬ beyond s t ∧ t.run = false)
       (fun s sp => (queued s sp t).applyFlips { t with flip := t.flip ++ [flip s] })))) ∧
  (∀ (g : Group) (f : Flip), (f.sreg = false → f.lane < 32 → ∀ r l, l < 32 →
      (g.applyFlip f).rv r l = if r = f.reg ∧ l = f.lane then g.rv r l ^^^ BitVec.ofNat 32 (2 ^ f.bit) else g.rv r l) ∧
    (f.sreg = true → ∀ n, (g.applyFlip f).rs n = if n = f.reg then g.rs n ^^^ BitVec.ofNat 64 (2 ^ f.bit) else g.rs n))

/-! ## Traps (chapter 12) -/

/-- TRAP and BRK raise their traps with the code in TADDR, TRAP's TRESUME past it and BRK's at it (R328); RTE outside a handler is a
privilege trap, and in one it issues the faulted accesses again, exchanges s56 to s63 with the handler registers, restores XB, clears INH and
parks its split at TRESUME (R323). -/
def Obligations.TrapAndReturn : Prop :=
  ∀ (h : Hdr) (code : BitVec 12) (s : State) (sp : Split), guardOn h s = true → s.g.role = .plain → s.g.newSplits = [] →
    (s.canIssue (.trap h code) {} sp → Traps (.trap h code) s sp (Trap.plain 0x0B sp.pc (sp.pc + 4) sp.mask (code.setWidth 64) s.dt)) ∧
    (s.canIssue (.brk h code) {} sp → Traps (.brk h code) s sp (Trap.plain 0x0C sp.pc sp.pc sp.mask (code.setWidth 64) s.dt)) ∧
    (s.canIssue (.rte h) {} sp → s.g.inh = false →
      Traps (.rte h) s sp (Trap.plain 0x02 sp.pc sp.pc sp.mask (wordsAddr (.rte h)) s.dt)) ∧
    (s.canIssue (.rte h) {} sp → s.g.inh = true → ∃ t x, exec (.rte h) s = .next t ∧
      t.still = ({ s with g := (s.g.reissue sp.slot).leaveTrap } : State).still ∧
      t.g.run = false ∧ t.g.inh = false ∧ t.g.xb = s.g.txb ∧
      (∀ n, n < 8 → t.g.rs (56 + n) = mapGet (fun _ => 0) s.g.hs n ∧ mapGet (fun _ => 0) t.g.hs n = s.g.rs (56 + n)) ∧
      (∀ n, n < 56 → t.g.rs n = s.g.rs n) ∧
      t.g.split sp.slot = some x ∧ x.pc = s.g.tresume ∧ x.mask = sp.mask ∧ x.park = .rte)

/-- Taking a trap (R318, R322): the record written, s56 to s63 exchanged with the handler registers, XB saved, INH set, and the split at the
handler's address, every other split as it was; a group already in a handler, or of a context without one, halts, having written the record alone, with
a context-fault event, type 1 with its CTXBASE and TCAUSE, for the fault queue of its context (R319, R320, R406).  An event is written as a store at
the queue's next slot with TAIL moved on and the vector raised, or dropped and counted, or waits for the slot's line (R187, R406). -/
def Obligations.TrapEntryRecord : Prop :=
  (∀ (s : State) (sp : Split) (tr : Trap), s.g.live = true → s.g.split sp.slot = some sp →
    let t := s.takeTrap s.g.gid sp.slot tr
    let tvec := (s.ctx s.g.ctx).tvec
    t.g.tcause = BitVec.ofNat 64 (tr.cause.toNat + (match tr.entry with | some e => e % 32 * 256 + 0x2000 | none => 0)) ∧
    t.g.tpc = wordPc tr.pc ∧ t.g.tresume = wordPc tr.resume ∧ t.g.tmask = tr.mask ∧ t.g.taddr = tr.addr ∧ t.g.tdt = BitVec.ofNat 64 tr.dt ∧
    t.g.tother = tr.other ∧ t.g.tlanecause = tr.lanes ∧ (∀ w, tr.walk = some w → t.g.twalk = w) ∧ (tr.walk = none → t.g.twalk = if 6 ≤ tr.cause.toNat ∧ tr.cause.toNat ≤ 8 then 0 else s.g.twalk) ∧
    t.g.v = s.g.v ∧ t.g.p = s.g.p ∧ t.g.q = s.g.q ∧ t.g.acc = s.g.acc ∧ t.g.xb = s.g.xb ∧ t.g.run = false ∧
    (s.g.inh = false → tvec ≠ 0 → t.mem = s.mem ∧ t.teams = s.teams ∧
      t.g.halted = s.g.halted ∧ t.g.inh = true ∧ t.g.txb = s.g.xb ∧ (∀ n, n < 56 → t.g.rs n = s.g.rs n) ∧
      (∀ n, n < 8 → t.g.rs (56 + n) = mapGet (fun _ => 0) s.g.hs n ∧ mapGet (fun _ => 0) t.g.hs n = s.g.rs (56 + n)) ∧
      (∃ x, t.g.split sp.slot = some x ∧ x.pc = wordPc tvec ∧ x.mask = sp.mask ∧ x.park = .ready ∧ x.hold = sp.hold) ∧
      (∀ n, n ≠ sp.slot → t.g.split n = s.g.split n)) ∧
    ((s.g.inh = true ∨ tvec = 0) → t.g.halted = true ∧ t.g.s = s.g.s ∧ t.g.hs = s.g.hs ∧ t.g.splits = s.g.splits ∧
      t = ({ s with g := t.g } : State).pushEvent ⟨s.g.ctx % 64, 1, s.g.ctx, s.dt, s.g.ctxBase, t.g.tcause⟩)) ∧
  (∀ (s : State) (x : Push),
    let base := 0x060000 + 32 * x.queue
    let tail := s.winGet (base + 24)
    let waits := (∃ y ∈ s.pushes, y.queue = x.queue) ∨ (s.queueDrops x.queue = false ∧ s.lineHeld (s.queueSlot x.queue) = true)
    let t := s.pushEvent x
    (waits → t = { s with pushes := s.pushes ++ [x] }) ∧
    (¬ waits → s.queueDrops x.queue = true →
      t.winGet (base + 24) = setField tail 32 32 (field tail 32 32 + 1) ∧ t.mem = s.mem ∧ t.raised = s.raised ∧ t.pushes = s.pushes) ∧
    (¬ waits → s.queueDrops x.queue = false →
      let s1 := s.deviceStore none (s.queueSlot x.queue) (leBytes 8 (x.typ % 256 + x.ctx % 65536 * 65536) ++ leBytes 8 x.dt ++ leBytes 8 x.data0.toNat ++
        leBytes 8 x.data1.toNat)
      t.winGet (base + 24) = setField tail 0 32 (field tail 0 32 + 1) ∧ t.mem = s1.mem ∧ t.raised = s1.raised ++ [field (s.winGet base) 16 11]))

/-- The checks before an instruction's own effect (02 R31, R36, R37; 12 R316): the first that fails is taken as a trap, whatever the guard.
A bit that must be zero comes before privilege and privilege before the bounds (R31); that the bounds come before the hazard check, and the hazard
check before a data error, is the model's choice (log entry 10); a Register Data Error's trap is counted too and stands elsewhere.  An instruction keeps
the bounds where every operand is aligned and lies in the allotment, and every accumulator among the group's. -/
def Obligations.IssueChecks : Prop :=
  (∀ (i : Instr) (h : Hdr) (u : Uses) (lanes : State → W32) (on : State → Bool) (body : State → State × Fate) (s : State) (sp : Split)
      (tr : Trap), exec i s = issue i h u lanes on body s → s.g.running = some sp → s.g.role = .plain → s.g.newSplits = [] →
      s.preCheck i u sp = some tr → tr.cause ≠ 0x12 → Traps i s sp tr) ∧
  (∀ (i : Instr) (u : Uses) (s : State) (sp : Split),
    let at_ := fun (c : BitVec 8) (resume : BitVec 57) (a : W64) => some (Trap.plain c sp.pc resume sp.mask a s.dt)
    let allowed := (u.priv = true → s.privileged s.g = true) ∧ (u.handler = true → s.g.inh = true)
    (u.illegal = true → s.preCheck i u sp = at_ 0x01 (pcAdd sp.pc (instrBytes i)) (wordsAddr i)) ∧
    (u.illegal = false → ¬ allowed → s.preCheck i u sp = at_ 0x02 sp.pc (wordsAddr i)) ∧
    (∀ a, u.illegal = false → allowed → s.g.boundsBreak u = some a → s.preCheck i u sp = at_ 0x03 sp.pc a) ∧
    (s.g.boundsBreak u = none ↔
      (∀ o ∈ u.vr ++ u.vw, s.g.phys o.1 % o.2.2 = 0 ∧ s.g.phys o.1 + o.2.1 ≤ s.g.allot) ∧
      (∀ o ∈ u.accs, o.1 % o.2 = 0 ∧ o.1 + o.2 ≤ s.g.naccs)) ∧
    (u.illegal = false → allowed → s.g.boundsBreak u = none → s.g.haz = false → (∀ r ∈ s.g.covers u.vr, s.g.regPoison.contains r = false) →
      s.preCheck i u sp = none))

/-- OLOG.RETRY makes the selected faulted lanes of an entry pending again, and the issuing split waits for them too; OLOG.DROP gives such
lanes up without a value; OLOG.STAT reads which entries are faulted and how many are taken (R327).  No other lane changes. -/
def Obligations.OperandLog : Prop :=
  ∀ (h : Hdr) (d a : BitVec 6),
    let sel := fun (s : State) => s.g.rs a.toNat
    let u : Uses := { sr := [a.toNat], handler := true }
    let ls := fun (s : State) => s.g.selected (sel s)
    let picked := fun (s : State) (st : LaneState) (e : OlEntry) =>
      if e.idx = field (sel s) 0 5 then { e with lanes := e.lanes.map (fun l => if (ls s).contains l.lane = true then { l with st := st } else l) } else e
    let waited := fun (s : State) (sp : Split) (e : OlEntry) => if e.idx = field (sel s) 0 5 ∧ ls s ≠ [] then { e with again := some sp.slot } else e
    Does (.ologRetry h a) (fun s => { u with illegal := badSelector (sel s) }) (guardOn h) (fun s _ => s.g.role = .plain ∧
        ∀ r ∈ s.g.results, r.await ≠ .log true)
      (fun s sp => { s with g := { s.g with olog := (s.g.olog.map (picked s .pending)).map (waited s sp) } }) ∧
    Does (.ologDrop h a) (fun s => { u with illegal := badSelector (sel s) }) (guardOn h) (fun s _ => s.g.role = .plain ∧
        ∀ r ∈ s.g.results, r.await ≠ .log true)
      (fun s _ => ({ s with g := { s.g with olog := s.g.olog.map (picked s (.done none)) } } : State).freeDone s.g.gid) ∧
    UniSets (.ologStat h d) h { sw := [d.toNat], logged := true } d (fun s _ =>
      BitVec.ofNat 64 ((maskOf ((s.g.olog.filter OlEntry.faulty).map (fun e => e.idx))).toNat + s.g.olog.length * 2 ^ 32))

/-- CTX.FL owes the writing of its lines and CTX.LD fills the lines named that are absent (R337); PREEMPT answers an op above 5 with 3, a
context that does not exist with 2 and its own context with 1, takes a context off the package with op 0 or 2, resumes one with op 1, counts its
teams with op 5, and swaps another partition with op 3 or 4 (R338); what a resumption does to halted groups, and what a context that is ended and
queues more grids comes to, are log entries 96 and 51.  LKMAT sets the matrix of a context
that holds and waits for no lock, its operand bits checked first (10 R285; log entry 115). -/
def Obligations.ContextInstructions : Prop :=
  ∀ (h : Hdr) (d a b : BitVec 6),
    let flush := fun (i : Instr) (what : Nat) =>
      Does i (fun _ => { late := true }) (guardOn h) (fun _ _ => True) (fun s sp => s.owes sp [] [] 0 (.flush what))
    let up : Uses := { sr := [a.toNat, b.toNat], sw := [d.toNat], priv := true, late := true, logged := true, cmp := true }
    let op := fun (s : State) => field (s.g.rs b.toNat) 0 3
    let high := fun (s : State) => field (s.g.rs b.toNat) 3 61
    let ctx := fun (s : State) => field (s.g.rs a.toNat) 0 16
    let status := fun (v : W64) (s : State) (sp : Split) => s.owes sp [] [(d.toNat, v)] 0 .nothing
    flush (.ctxFlV h) 0 ∧ flush (.ctxFlA h) 1 ∧ flush (.ctxFlAll h) 2 ∧
    Does (.ctxLdV h a b) (fun _ => { sr := [a.toNat, b.toNat] }) (guardOn h) (fun _ _ => True) (fun s _ =>
      s.fillLines s.g.gid ((upFrom (field (s.g.rs a.toNat) 0 8) (field (s.g.rs b.toNat) 0 9)).filter (fun l =>
        decide (l < s.g.allot) && s.g.absent.contains l))) ∧
    Does (.ctxLdA h a) (fun _ => { sr := [a.toNat] }) (guardOn h) (fun _ _ => True) (fun s _ =>
      s.fillLines s.g.gid (((upFrom 0 8).filter (fun n => (s.g.rs a.toNat).getLsbD n && decide (n < s.g.naccs))).flatMap (fun n =>
        (upFrom (1024 + 64 * n) 64).filter (fun l => s.g.absent.contains l)))) ∧
    Does (.preempt h d a b) (fun _ => up) (guardOn h) (fun s _ => 6 ≤ op s ∨ high s ≠ 0) (status 3) ∧
    Does (.preempt h d a b) (fun _ => up) (guardOn h) (fun s _ => high s = 0 ∧ (op s = 0 ∨ op s = 2) ∧ ctx s = s.g.ctx) (status 1) ∧
    Does (.preempt h d a b) (fun _ => up) (guardOn h)
      (fun s _ => high s = 0 ∧ (op s = 1 ∨ ((op s = 0 ∨ op s = 2) ∧ ctx s ≠ s.g.ctx)) ∧ s.hasCtx (ctx s) = false) (status 2) ∧
    Does (.preempt h d a b) (fun _ => up) (guardOn h) (fun s _ => high s = 0 ∧ op s = 1 ∧ s.hasCtx (ctx s) = true)
      (fun s sp => status 0 (s.restart (ctx s)) sp) ∧
    Does (.preempt h d a b) (fun _ => up) (guardOn h) (fun s _ => high s = 0 ∧ op s = 0 ∧ ctx s ≠ s.g.ctx ∧ s.hasCtx (ctx s) = true)
      (fun s sp => (s.owes sp [] [(d.toNat, 0)] 0 (.preempt (ctx s))).preemptCtx (ctx s) (s.partDies s.g)) ∧
    Does (.preempt h d a b) (fun _ => up) (guardOn h) (fun s _ => high s = 0 ∧ op s = 2 ∧ ctx s ≠ s.g.ctx ∧ s.hasCtx (ctx s) = true)
      (fun s sp => (s.owes sp [] [(d.toNat, 0)] 0 (.ended (ctx s))).preemptCtx (ctx s) (s.partDies s.g)) ∧
    Does (.preempt h d a b) (fun _ => up) (guardOn h) (fun s _ => high s = 0 ∧ op s = 5 ∧ s.hasCtx (ctx s) = true)
      (fun s sp => status (s.ctxTeams (ctx s)) s sp) ∧
    (let die := fun (s : State) => field (s.g.rs a.toNat) 0 2
     let refused := fun (s : State) => (s.partDies s.g).contains (die s) = true ∨ s.swap.isSome = true ∨
       s.swapped.contains (die s) = decide (op s = 3)
     Does (.preempt h d a b) (fun _ => up) (guardOn h) (fun s _ => high s = 0 ∧ (op s = 3 ∨ op s = 4) ∧ s.partitionAt (die s) = false) (status 2) ∧
     Does (.preempt h d a b) (fun _ => up) (guardOn h)
       (fun s _ => high s = 0 ∧ (op s = 3 ∨ op s = 4) ∧ s.partitionAt (die s) = true ∧ refused s) (status 1) ∧
     Does (.preempt h d a b) (fun _ => up) (guardOn h)
       (fun s _ => high s = 0 ∧ (op s = 3 ∨ op s = 4) ∧ s.partitionAt (die s) = true ∧ ¬ refused s)
       (fun s sp => (s.owes sp [] [(d.toNat, 0)] 0 .other).beginSwap (die s) (decide (op s = 3)) s.g.gid s.g.seq)) ∧
    (let busy := fun (s : State) (c : Nat) =>
      s.locks.any (fun r => decide (r.ctx = c)) || s.groups.any (fun g => g.live && decide (g.ctx = c) && g.lreq.isSome)
     let m := fun (s : State) => s.g.rs a.toNat
     let c := fun (s : State) => (s.g.rs b.toNat).toNat
     Does (.lkmat h d a b) (fun _ => up) (guardOn h) (fun s _ => 2 ^ 36 ≤ (m s).toNat ∨ 2 ^ 16 ≤ c s) (status 2) ∧
     Does (.lkmat h d a b) (fun _ => up) (guardOn h)
       (fun s _ => (m s).toNat < 2 ^ 36 ∧ c s < 2 ^ 16 ∧ s.hasCtx (c s) = true ∧ busy s (c s) = true) (status 1) ∧
     Does (.lkmat h d a b) (fun _ => up) (guardOn h)
       (fun s _ => (m s).toNat < 2 ^ 36 ∧ c s < 2 ^ 16 ∧ s.hasCtx (c s) = true ∧ busy s (c s) = false)
       (fun s sp => status 0 (s.modCtx (c s) (fun x => { x with mat := (m s).extractLsb' 0 36 })) sp))

/-! ## Stash, cache and TLB maintenance (07 R189, R191, R198) -/

/-- A prefetch whose walks wait for no line writes no register, takes no entry of the operand log and raises nothing (R179): its lanes are prefetched one
after the other, faults dropped; a run that follows a log prefetches nothing.  STASH.MAP of aligned operands owes its status, the mapping made (an offset
beyond the stash and the order of the statuses: log entries 21 and 85); STASH.WB owes the write-back of its range, CINV, where the walks of its range wait
for no line, what it does to the lines the range translates to (pages without R: log entry 86), done at RESULT_RETURN; TLBI drops what its kind names,
marks apertures stale (log entry 79) and waits for the shoot-down (parked waits: log entry 87). -/
def Obligations.PrefetchAndMaintenance : Prop :=
  (∀ (h : Hdr) (ta : BitVec 4) (o : BitVec 6) (ht : BitVec 2),
    let pref := fun (i : Instr) (l1 : Bool) =>
      Does i (fun _ => { vr := [v1 o], late := true }) (someLane h)
        (fun s _ =>
          let s1 := s.open_.finishAperture s.g.gid ta.toNat
          s.g.role.follows = true ∨ ((s1.g.rta ta.toNat).unsettled = false ∧ ∀ l ∈ lanesOf (activeMask h s),
            s1.lookHeld s1.g (s1.prefEntry s1.g ta.toNat) (laneAt 0 (s1.g.viaTa ta.toNat ((s1.g.op o l).toNat : Int)).1
              (s1.g.viaTa ta.toNat ((s1.g.op o l).toNat : Int)).2) = false))
        (fun s _ =>
        let s1 := s.finishAperture s.g.gid ta.toNat
        if s.g.role.follows = true then s
        else (lanesOf (activeMask h s)).foldl
          (fun x l => x.prefetch x.g l1 ta.toNat ht (s1.g.viaTa ta.toNat ((s1.g.op o l).toNat : Int))) s1)
    pref (.prefL1 h ta o ht) true ∧ pref (.prefL2 h ta o ht) false) ∧
  (∀ (h : Hdr) (d a b : BitVec 6),
    let va := fun (s : State) => s.g.rs a.toNat
    let len := fun (s : State) => s.g.rs b.toNat
    let aligned := fun (s : State) => (va s).toNat % 128 = 0 ∧ (va s).toNat < 2 ^ 57
    let lines := fun (s : State) =>
      let stop := min (2 ^ 57) ((va s).toNat + (len s).toNat)
      State.rangeLines (s.req s.g) ((stop - (va s).toNat) / 4096 + 2) s (va s).toNat stop
    let cinv := fun (i : Instr) (op : Nat) =>
      Does i (fun _ => { sr := [a.toNat, b.toNat], late := true }) (guardOn h)
        (fun s _ => s.g.role.follows = false ∧ (lines s.open_).1.isSome = true)
        (fun s sp => (lines s).2.owes sp [] [] 0 (.lines op ((lines s).1.getD [])))
    let tlbi := fun (i : Instr) (rs : List Nat) (eff : State → State) =>
      Does i (fun _ => { sr := rs, priv := true, late := true }) (guardOn h) (fun s _ => s.g.role.follows = false)
        (fun s sp => (eff s).owes sp [] [] 0 .tlb)
    Does (.stashMap h d a b) (fun _ => { sr := [a.toNat, b.toNat], sw := [d.toNat], late := true, logged := true, cmp := true }) (guardOn h)
      (fun s _ => aligned s ∧ field (len s) 32 32 % 128 = 0 ∧ field (len s) 0 32 % 128 = 0)
      (fun s sp =>
        let r := s.mapStash s.g.tid (va s).toNat (field (len s) 32 32) (field (len s) 0 32)
        r.2.owes sp [] [(d.toNat, BitVec.ofNat 64 r.1)] 0 .nothing) ∧
    Does (.stashWb h a b) (fun _ => { sr := [a.toNat, b.toNat], late := true }) (guardOn h)
      (fun s _ => aligned s ∧ (len s).toNat % 128 = 0 ∧ s.g.role.follows = false)
      (fun s sp => s.owes sp [] [] 0 (.stashWb (va s).toNat ((va s).toNat + (len s).toNat))) ∧
    cinv (.cinvL1 h a b) 0 ∧
    cinv (.cinvWb h a b) 1 ∧
    cinv (.cinvWbi h a b) 2 ∧
    tlbi (.tlbiAll h) [] (fun s =>
      s.shootDown (fun _ => true) (fun _ => true) (fun _ => true) (fun _ x => x.global || x.local_)
        (fun _ _ => true)) ∧
    tlbi (.tlbiGlobal h) [] (fun s => s.shootDown (fun e => e.glob) (fun _ => true) (fun _ => true) (fun _ x => x.global)
      (fun _ l => l.glob)) ∧
    tlbi (.tlbiCtx h b) [b.toNat] (fun s =>
      let c := field (len s) 0 16
      s.shootDown (fun e => !e.glob && decide (e.ctx = c)) (fun w => decide (w.ctx = c)) (fun x => decide (x = c)) (fun _ x => x.local_)
        (fun k l => decide (k = c) && !l.glob)) ∧
    tlbi (.tlbiRange h a b) [a.toNat, b.toNat] (fun s =>
      let lo := (va s).toNat
      let hi := lo + (len s).toNat
      let c := s.g.ctx
      s.shootDown (fun e => (e.glob || decide (e.ctx = c)) && decide (e.va < hi) && decide (lo < e.va + e.size))
        (fun w => decide (w.ctx = c) &&
          decide (w.prefix_ * 2 ^ (12 + 9 * (5 - w.level)) < hi) && decide (lo < (w.prefix_ + 1) * 2 ^ (12 + 9 * (5 - w.level))))
        (fun _ => true) (fun k x => (decide (k = c) || x.global) && decide (x.lo < hi) && decide (lo < x.hi) && decide (lo < hi))
        (fun k l => (decide (k = c) || l.glob) && decide (lo < hi) && decide (128 * l.va / l.size * l.size < hi) &&
          decide (lo < 128 * l.va / l.size * l.size + l.size))))

/-! ## Hardware steps.  Each clause names the state in which the step does its work, and says what it does there. -/

/-- SPLIT_SELECT on a quadrant whose clock runs ends the parks that end there, then gives the issue slot to the eligible split that R63 puts
first, the others passed over, or brings the group that holds it into focus; where nothing may run it does no more (02 R32; 03 R58, R63).  The run
begins in the one eligible split with no register written; the choice among several is the lowest of R63's order, and one of them. -/
def Obligations.RunsBegin : Prop :=
  (∀ (s : State) (tile quad : Nat), (s.tile tile).trans = none → s.snapDue.contains (dieOf tile) = false →
    let r := s.readyQuad tile quad
    (∀ g, r.slotHolder tile quad = some g → exec (.splitSelect tile quad) s = .next (r.focus g.gid)) ∧
    (∀ g sp, r.slotHolder tile quad = none → bestRun (r.candidates tile quad) = some (g, sp) →
      exec (.splitSelect tile quad) s = .next (r.beginSplit tile quad g sp)) ∧
    (r.slotHolder tile quad = none → r.candidates tile quad = [] → exec (.splitSelect tile quad) s = .next r)) ∧
  (∀ (s : State) (sp : Split) (tile quad : Nat), (s.tile tile).trans = none → s.snapDue.contains (dieOf tile) = false → s.others = [] → s.settleStops = s →
    s.wakeGroup s.g.gid = s → s.closeStanding s.g = s → s.groupRuns s.g = true → s.g.tile = tile → s.g.place / 16 = quad →
    s.g.splits = [sp] → s.eligible s.g sp = true → ∃ t, exec (.splitSelect tile quad) s = .next t ∧
      t.g.run = true ∧ t.g.cur = sp.slot ∧ t.g.runLen = 0 ∧
      t.g.splits = [{ sp with park := .ready, passed := 0, plen := 0, wAfter := false }] ∧
      t.g.v = s.g.v ∧ t.g.p = s.g.p ∧ t.g.s = s.g.s ∧ t.g.q = s.g.q ∧ t.g.acc = s.g.acc ∧ t.mem = s.mem ∧ t.teams = s.teams) ∧
  (∀ (l : List (Group × Split)) (b : Group × Split), bestRun l = some b →
    b ∈ l ∧ ∀ x ∈ l, lexLt (runKey (l.any (fun y => decide (64 ≤ y.2.passed))) x) (runKey (l.any (fun y => decide (64 ≤ y.2.passed))) b) = false) ∧
  (∀ l : List (Group × Split), l ≠ [] → (bestRun l).isSome = true)

/-- TRAP_ENTRY takes what is due in a group, a follower what its log has (12 R325, R340): a cause's record is its trap's, and the cause is
cleared.  RESULT_RETURN returns a result that waits for nothing more (02 R34), a known one into the registers it writes, and
REGISTER_LINE_FILL fills an absent line from its image (12 R331, R332), room made for it first (log entries 11 and 97). -/
def Obligations.ResultsAndTrapsCome : Prop :=
  (∀ (s : State) (gid : Nat) (g : Group), s.group gid = some g →
    (∀ d sp, s.dueOf g = some d → g.split d.slot = some sp → exec (.trapEntry gid) s = .next (s.takeDue g sp d)) ∧
    (∀ l, s.dueOf g = none → s.trappable g = true → g.role.follows = true → s.followTrap g = some l →
      exec (.trapEntry gid) s = .next (s.takeLogged g l))) ∧
  (∀ (s : State) (sp : Split) (d : Due), s.g.live = true → s.g.role = .plain → s.g.wounds = [] → s.g.lkStop = false → s.dueOf s.g = some d →
    s.g.split d.slot = some sp → sp.park = .ready →
    exec (.trapEntry s.g.gid) s = .next (({ s with g := s.g.clearDue d } : State).takeTrap s.g.gid d.slot (dueTrap s.g sp s.dt d))) ∧
  (∀ (s : State) (gid : Nat) (g : Group) (r : Result) (lanes : W32), s.group gid = some g →
    g.results.find? (fun x => decide (x.seq = r.seq)) = some r → g.away = false → (s.tile g.tile).trans = none → s.awaited g r = true →
    s.lateHeld g (r.keys lanes) = false →
    exec (.resultReturn gid r.seq lanes) s = .next (s.returnResult g r lanes)) ∧
  (∀ (s : State) (r : Result) (lanes : W32), s.g.live = true → s.g.fences = [] → r.await = .nothing → s.g.lateLines (r.keys lanes) = [] → ∃ t,
      s.returnResult s.g r lanes = t ∧ t.g = s.g.landResult r lanes ∧ t.mem = s.mem ∧ t.teams = s.teams) ∧
  (∀ (g : Group) (r : Result) (n k l : Nat) (x : W64) (y : W32), l < 32 →
    (r.vw = [] → r.sw = [(n, x)] → ∀ j, (g.landResult r 0xFFFFFFFF).rs j = if j = n then x else g.rs j) ∧
    (r.vw = [(k * 32 + l, y)] → r.sw = [] → ∀ j i, i < 32 →
      (g.landResult r 0xFFFFFFFF).rv j i = if j = k ∧ i = l then y else g.rv j i) ∧
    (g.landResult r 0xFFFFFFFF).fpstat = g.fpstat ||| r.flags ∧
    (g.landResult r 0xFFFFFFFF).results = g.results.filter (fun z => decide (z.seq ≠ r.seq))) ∧
  (∀ (s : State) (gid line : Nat) (g : Group), s.group gid = some g → g.absent.contains line = true → g.halted = false →
    (s.tile g.tile).trans = none →
    let acc := decide (1024 ≤ line) && decide (line < 2000)
    let n := (lineSize line + 127) / 128
    let s0 := State.cacheRoom g.tile gid n acc 4096 s
    s0.cacheUsed g.tile acc + n ≤ 2048 → s0.imageLineHeld g line = false →
    (∀ pa s1, s0.imagePlace g (imageLine g line) = (some pa, s1) → s1.cleanRange pa (lineSize line) = true →
      exec (.registerLineFill gid line) s = .next (s1.modGroup gid (fun g =>
        { g.fillLine line ((upFrom pa 128).map s1.physByte) with absent := delNat line g.absent }))) ∧
    (∀ pa s1, s0.imagePlace g (imageLine g line) = (some pa, s1) → s1.cleanRange pa (lineSize line) = false → line < 1024 →
      exec (.registerLineFill gid line) s = .next (s1.modGroup gid (fun g =>
        let g1 := { g.fillLine line ((upFrom pa 128).map s1.physByte) with absent := delNat line g.absent }
        { g1 with regPoison := insNat line g1.regPoison }))) ∧
    (∀ s1, s0.imagePlace g (imageLine g line) = (none, s1) → exec (.registerLineFill gid line) s = .next s1)) ∧
  (∀ (s s1 : State) (line pa : Nat), s.g.live = true → line < 256 → s.g.absent.contains line = true → s.g.halted = false →
    (s.tile s.g.tile).trans = none → s.cacheUsed s.g.tile false + 1 ≤ 2048 → s.imageLineHeld s.g line = false → s.imagePlace s.g (imageLine s.g line) = (some pa, s1) →
    s1.g = s.g → s1.cleanRange pa 128 = true →
    ∃ t, exec (.registerLineFill s.g.gid line) s = .next t ∧ t.g.absent.contains line = false ∧
      ∀ l, l < 32 → t.g.rv line l = BitVec.ofNat 32 (bytesVal ((upFrom (pa + 4 * l) 4).map s1.physByte)))

/-- The matrix engine (06 R145, R164): its oldest job starts once its accumulators are present and no earlier access of its group keeps its scale bytes
from being read, in a tile whose clock runs, and completes; a scale byte, an array cell or an accumulator line in error, found then or poisoned before, makes
a Matrix Data Error of it instead (log entries 98 and 100; cells before lines, log entry 113).
A started ACC.ZERO completes by zeroing its active rows, and no other, and leaves the queue. -/
def Obligations.MatrixSteps : Prop :=
  (∀ (s : State) (j : AccJob) (g : Group) (tile : Nat), s.headJob tile = some j → s.group j.gid = some g → (s.tile tile).trans = none →
    (j.started = false → j.present g = true → (j.scales = 0 ∨ g.scratchBefore j j.scales = false) →
      (s.badScales j g = [] → exec (.accumulatorStart tile) s = .next (s.startJob tile j g)) ∧
      (s.badScales j g ≠ [] → exec (.accumulatorStart tile) s = .next (s.matrixError j g (j.accs.headD 0) false (s.badScales j g)))) ∧
    (∀ cells lines : List Nat, j.started = true →
      let line := fun (b : Nat × Nat × Nat) => accLine b.1 b.2.1 b.2.2
      let bad := j.linesRead.filter (fun b => g.accPoison.contains (line b) || lines.contains (line b))
      let found := dedup ((bad.map line).filter (fun l => lines.contains l))
      let s0 := if found = [] then s else s.modGroup j.gid (fun g => { g with accPoison := found.foldl (fun l k => insNat k l) g.accPoison })
      let rows := (lanesOf j.mask).filter (fun r => cells.contains r)
      (rows = [] → bad = [] → exec (.accumulatorComplete ⟨tile, cells, lines⟩) s = .next (s.completeJob tile j g)) ∧
      (rows ≠ [] → exec (.accumulatorComplete ⟨tile, cells, lines⟩) s = .next (s0.matrixError j g (j.accs.headD 0) false rows)) ∧
      (∀ b l, rows = [] → bad = b :: l →
        exec (.accumulatorComplete ⟨tile, cells, lines⟩) s = .next (s0.matrixError j g b.1 true (bad.map (fun b => b.2.1)))))) ∧
  (∀ (s : State) (j : AccJob) (g : Group) (acc : Nat) (line : Bool) (rows : List Nat), s.g.live = true → g.gid = s.g.gid → ∃ x,
    (s.matrixError j g acc line rows).g.matErr = s.g.matErr ++ [x] ∧ x.pc = j.pc ∧ x.mask = maskOf rows ∧
      (s.matrixError j g acc line rows).jobs = s.jobs.filter (fun y => decide (y.gid ≠ j.gid))) ∧
  (∀ (s : State) (j : AccJob) (tile : Nat), s.headJob tile = some j → ∃ t j', s.startJob tile j s.g = t ∧ t.headJob tile = some j' ∧
      j'.started = true ∧ j'.op = j.op ∧ j'.fragA = j.fragA ∧ j'.fragB = j.fragB ∧ j'.mask = j.mask ∧ t.g = s.g ∧ t.jobs.length = s.jobs.length) ∧
  (∀ (s : State) (j : AccJob) (tile n : Nat), s.headJob tile = some j → s.g.live = true → j.gid = s.g.gid →
    j.op = .zero n → n < 8 → ∃ t, s.completeJob tile j s.g = t ∧ t.jobs.length + 1 = s.jobs.length ∧
      t.g.results = s.g.results.filter (fun r => decide (r.seq ≠ j.seq)) ∧
      (∀ m row col, row < 32 → col < 32 →
        t.g.racc m row col = if m = n ∧ j.mask.getLsbD row = true then 0 else s.g.racc m row col) ∧
      t.g.v = s.g.v ∧ t.g.s = s.g.s ∧ t.mem = s.mem)

/-- The steps of a held access (07 R172, R176, R188; 12 R324).  A walk gives a pending lane its place; a home request performs the located lanes
of its mask once no ordering rule holds their entry: a store puts its bytes where the lane was located, in the scratchpad or in memory, and nowhere
else, a load takes the bytes there; a reply writes its register; and the steps of invalidations (R188), apertures (R175) and migrating
units (R201, R202; log entry 83).  A lane whose walk or place waits for a line stays as it is. -/
def Obligations.AccessSteps : Prop :=
  (∀ (s : State) (gid e : Nat) (g : Group) (x : OlEntry) (lanes : W32),
    ((s.settleEntry gid e).group gid = some g → g.entry e = some x → (s.settleEntry gid e).entryHeld g e = false →
      exec (.pageWalkDone gid e lanes) s = .next (((s.settleEntry gid e).walkEntry g x lanes).noteEntry gid e)) ∧
    (let s0 := s.modGroup gid (fun g => g.settleReleases)
     s0.group gid = some g → g.entry e = some x → s0.mayPerform g x = true → s0.entryHeld g e = false →
      exec (.homeRequest gid e lanes) s = .next ((s0.performEntry gid x lanes).noteEntry gid e)) ∧
    (s.group gid = some g → g.away = false → (s.tile g.tile).trans = none → g.entry e = some x → s.lateHeld g (x.replyKeys lanes) = false →
      s.entryHeld g e = false → exec (.memoryReply gid e lanes) s = .next (s.replyEntry gid x lanes))) ∧
  (∀ (s : State) (gid : Nat) (x : OlEntry) (l : OlLane) (lanes : W32) (p : Place) (k : Nat), x.lanes = [l] → lanes.getLsbD l.lane = true →
    l.st = .located p k → s.performEntry gid x lanes = s.performAt gid x.idx p k [l.lane]) ∧
  (∀ (s s3 : State) (x : OlEntry) (l : OlLane) (st : LaneState), s.g.live = true → s.g.entry x.idx = some x →
    (∀ y ∈ s.g.olog, y.idx = x.idx → y = x) → x.ta = none → x.apt.v = false → x.lanes = [l] → l.lane < 32 → l.st = .pending → s.g.absent.contains (logLine x.idx) = false →
    s.lookHeld s.g x l = false → s.locate s.g x l = (st, s3) → s3.g = s.g →
    ∃ t e, exec (.pageWalkDone s.g.gid x.idx 0xFFFFFFFF) s = .next t ∧ t.g.entry x.idx = some e ∧ e.lanes = [{ l with st := st }] ∧
      t.g.v = s.g.v ∧ t.g.s = s.g.s) ∧
  (∀ (s : State) (x : OlEntry) (l : OlLane) (tm : Team) (off : Nat), s.g.live = true → s.g.role = .plain → s.g.entry x.idx = some x →
    x.kind = .store → x.space = .scr → x.size = 4 → x.lanes = [l] → s.placeHeld (.scr s.g.tid off) = false →
    s.team s.g.tid = some tm → tm.ended = false →
    ∃ t u, s.performAt s.g.gid x.idx (.scr s.g.tid off) 0 [l.lane] = t ∧ t.team s.g.tid = some u ∧ t.mem = s.mem ∧
      ∀ a, memGet u.scr a = if off ≤ a ∧ a < off + 4 then l.data.extractLsb' (8 * (a - off)) 8 else memGet tm.scr a) ∧
  (∀ (s : State) (x : OlEntry) (l : OlLane) (pa : Nat), s.g.live = true → s.g.role = .plain → s.g.entry x.idx = some x → x.kind = .store →
    x.size = 4 → x.lanes = [l] → s.placeHeld (.glob pa) = false → s.awaitsEngine s.g x [l.lane] = false → pa + 4 ≤ 2 ^ 60 →
    (∀ i, i < 4 → ∃ die, s.physKind (pa + i) = .dev die) → s.delivers (dieOf s.g.tile) pa 0 = true →
    ∃ t, s.performAt s.g.gid x.idx (.glob pa) 0 [l.lane] = t ∧ t.g.v = s.g.v ∧ t.g.s = s.g.s ∧
      ∀ a die, a < 2 ^ 60 → s.physKind a = .dev die →
        t.physByte a = if pa ≤ a ∧ a < pa + 4 then l.data.extractLsb' (8 * (a - pa)) 8 else s.physByte a) ∧
  (∀ (s : State) (x : OlEntry) (l : OlLane) (tm : Team) (off : Nat), s.g.live = true → s.g.olog = [x] → x.kind = .load false → x.space = .scr →
    x.size = 4 → x.lanes = [l] → l.st = .located (.scr s.g.tid off) 0 → s.placeHeld (.scr s.g.tid off) = false →
    s.placeClean (.scr s.g.tid off) 4 = true → s.team s.g.tid = some tm → tm.ended = false →
    ∃ t e, s.performAt s.g.gid x.idx (.scr s.g.tid off) 0 [l.lane] = t ∧
      t.g.olog = [e] ∧ e.lanes = [{ l with st := .performed (BitVec.ofNat 128 (bytesVal (memGetList tm.scr off 4))) }] ∧ t.mem = s.mem ∧
      t.teams = s.teams) ∧
  (∀ (s : State) (x : OlEntry) (l : OlLane) (v : BitVec 128), s.g.live = true → s.g.away = false → (s.tile s.g.tile).trans = none →
    s.g.entry x.idx = some x → x.kind = .load false → x.size = 4 → x.lanes = [l] → l.lane < 32 → l.st = .performed v →
    s.g.absent.contains x.dst = false → s.g.absent.contains (logLine x.idx) = false →
    ∃ t, exec (.memoryReply s.g.gid x.idx 0xFFFFFFFF) s = .next t ∧ t.mem = s.mem ∧
      ∀ r i, i < 32 → t.g.rv r i = if r = x.dst ∧ i = l.lane then v.extractLsb' 0 32 else s.g.rv r i) ∧
  (∀ (s : State) (tile sector : Nat), s.invals.any (fun x => decide (x.tile = tile) && decide (x.sector = sector) && !x.received) = true →
    ∃ t, exec (.invalidationReceive tile sector) s = .next t ∧ t.g = s.g ∧ t.mem = s.mem ∧ t.invals.length = s.invals.length ∧
      t.l1.any (fun x => decide (x.tile = tile) && decide (x.sector = sector)) = false) ∧
  (∀ (s : State) (gid : Nat), s.invals.any (fun x => decide (x.gid = gid) && x.received) = true →
    ∃ t, exec (.invalidationAck gid) s = .next t ∧ t.invals.length + 1 = s.invals.length ∧ t.mem = s.mem ∧ t.teams = s.teams ∧
      (gid = s.g.gid → gid ≠ 0 → t.g.acks = s.g.acks - 1)) ∧
  (∀ (s : State) (gid : Nat) (ta : BitVec 4), exec (.apertureTranslateDone gid ta) s = .next (s.settleAperture gid ta.toNat)) ∧
  (∀ (s s1 : State) (ta : BitVec 4) (x : Aperture), s.g.live = true → (s.g.rta ta.toNat).v = true → (s.g.rta ta.toNat).pending = true →
    s.transHeld (s.req s.g) (s.g.rta ta.toNat).base.toNat .read = false →
    s.setAperture (s.req s.g) (s.g.rta ta.toNat) (BitVec.ofNat 64 (s.g.rta ta.toNat).base.toNat) (s.g.rta ta.toNat).cap.toNat = (x, s1) →
    s1.g = s.g →
    ∃ t, exec (.apertureTranslateDone s.g.gid ta) s = .next t ∧ t.g.rta ta.toNat = x ∧ (∀ n, n ≠ ta.toNat → t.g.rta n = s.g.rta n)) ∧
  (∀ (s : State) (u : MigUnit) (m : UnitMove), s.units.find? (fun x => decide (x.unit = u.unit)) = some u → u.moving = some m →
    chipOf (65536 * u.unit) = s.chip.toNat → 512 ≤ s.clock - m.since → ∃ t x, exec (.unitMoveComplete u.unit) s = .next t ∧
      t.units.find? (fun x => decide (x.unit = u.unit)) = some x ∧ x.acting = m.chip ∧ x.die = m.die ∧ x.count = 0 ∧ x.moving = none) ∧
  (∀ (s : State) (u : MigUnit) (n : Nat), s.units.find? (fun x => decide (x.unit = u.unit)) = some u → u.settled = some n →
    s.ahead n = false → ∃ t, exec (.settleHoldEnd u.unit) s = .next t ∧ t = s.setUnit { u with settled := none, count := 0 })

/-- Engine commands (11 R291, R292, R296, R299, R303, R306, R307): a command that nothing holds starts, its destination ranges posted; a step of a
started one makes its next subtraction or moves its next piece; a finished one completes and leaves its queue with its batch; a member's part of a
COLL is kept for the command it is matched with, which differing parameters end; a command bound for a scratchpad without bytes is abandoned
(16 R412; log entry 92). -/
def Obligations.EngineSteps : Prop :=
  (∀ (s : State) (c : Cmd), s.cmd c.id = some c →
    (c.started = false → c.error = none → s.startHeld c = false →
      (s.cmdBound c = true → exec (.engineCommandStart c.id) s = .next (s.abandonCmd c)) ∧
      (s.cmdBound c = false → s.unreachable c = true → exec (.engineCommandStart c.id) s =
        .next ((s.engineError c 0x48 (c.word 0)).modCmd c.id (fun x => { x with error := some 0x48 }))) ∧
      (s.cmdBound c = false → s.unreachable c = false → exec (.engineCommandStart c.id) s = .next (s.startCmd c))) ∧
    (c.started = true → c.error = none → s.cmdSwapped c = false →
      (s.cmdBound c = true → exec (.engineTransferStep c.id) s = .next (s.abandonCmd c)) ∧
      (s.cmdBound c = false → exec (.engineTransferStep c.id) s = .next (s.moveCmd c))) ∧
    (s.cmdOver c = true → exec (.engineCommandComplete c.id) s = .next (s.completeCmd c))) ∧
  (∀ (s : State) (c : Cmd), c.dest = [] → s.postFits s = true → (s.startCmd c).cmds =
    s.cmds.map (fun x => if x.id = c.id then { x with started := true } else x) ∧ (s.startCmd c).owners = s.owners ∧ (s.startCmd c).mem = s.mem) ∧
  (∀ (s : State) (c : Cmd), let total := s.cmdTotal c
    (∀ n, c.subDue total = some n → s.cmdSettled c = true → s.moveCmd c = s.subtract c n) ∧
    (c.subDue total = none → (c.kind ≤ 2 → (s.tile c.tile).trans = none ∨ (c.kind ≠ 1 ∧ c.pos < c.asked)) →
      (c.kind ≠ 4 → c.pos < total → s.moveCmd c = s.movePiece c total) ∧
      (∀ x, c.kind = 4 → s.collOf c = some x →
        ((c.from_ x.rank).length < (x.own c.op).2 → s.moveCmd c = s.ownPiece c x) ∧
        ((x.own c.op).2 ≤ (c.from_ x.rank).length → c.gathered x = true →
          (c.pos < total → s.moveCmd c = s.movePiece c total) ∧
          (∀ va, total ≤ c.pos → x.mirror = some va → x.mirrorLeft c = true → s.moveCmd c = s.mirrorPiece c x va))))) ∧
  (∀ (s : State) (tm : Team) (id off : Nat) (bs : List Byte), s.team tm.tid = some tm → tm.saved = false →
    ∃ u, (s.landBytes id tm.tid [(off, bs)]).team tm.tid = some u ∧ u.scr = memSetList tm.scr off bs) ∧
  (∀ (s : State) (c : Cmd), c.error = none →
    (c.comp = 0 → s.completeCmd c = s.leaveQueue c) ∧
    (∀ p s1, c.comp = 1 → s.objectWaits c = false → s.objectOf c = (some p, s1) → s1.objectHeld p = false →
      s.completeCmd c = (s1.counterAdd p (BitVec.ofNat 64 c.imm)).leaveQueue c)) ∧
  (∀ (s : State) (c : Cmd), (s.leaveQueue c).cmds = s.cmds.filter (fun x => decide (x.id ≠ c.id)) ∧
    (s.leaveQueue c).owners = s.owners.filter (fun o => decide (o.id ≠ c.id)) ∧ (s.leaveQueue c).mem = s.mem ∧ (s.leaveQueue c).teams = s.teams) ∧
  (∀ (s : State) (m : PeerMsg), exec (.collPeerMessage ⟨m.ctx, m.group, m.nth, m.rank⟩ ⟨m.op, m.n, m.typ, m.red, m.root⟩ m.code m.data) s =
    .next ({ s with peerMsgs := s.peerMsgs ++ [m] } : State).matchPeers) ∧
  (∀ (s : State) (m : PeerMsg) (c : Cmd) (x : Coll), s.peerMsgs = [] → m.nth < mapGet (fun _ => 0) (s.ctx m.ctx).colls m.group →
    s.cmds.find? (fun c => !c.done && c.error.isNone && c.matchedBy m) = some c → s.collOf c = some x →
    let same := m.op = c.op ∧ m.n = x.n ∧ m.typ = x.typ ∧ m.red = x.red ∧ m.root = x.root
    (¬ same → ({ s with peerMsgs := [m] } : State).matchPeers = s.failCmd c 0x4A (c.word 0)) ∧
    (same → m.code = 0 → m.rank < x.members.length → m.rank ≠ x.rank → c.peers.any (fun p => decide (p.1 = m.rank)) = false →
      m.data.length = x.share c.op m.rank → ({ s with peerMsgs := [m] } : State).matchPeers =
        s.modCmd c.id (fun y => { y with peers := y.peers ++ [(m.rank, m.data)] })))

/-- Engine commands without a completion object (11 R292, R296, R306) and waits (09 R234 to R236, R245): such a command starts, moves its next piece
and leaves its queue; a wait is looked at where its split is parked; one whose count is reached, or whose time has come, ends with its status, one
decided before ends as it was decided, and a drained QUIET goes on. -/
def Obligations.EngineAndWaitSteps : Prop :=
  (∀ (s : State) (c : Cmd), s.cmd c.id = some c → c.kind = 0 → c.error = none → c.comp = 0 → c.dest = [] → s.cmdSwapped c = false →
    (c.started = false → s.startHeld c = false → s.cmdBound c = false → s.postFits s = true → ∃ t, exec (.engineCommandStart c.id) s = .next t ∧
      t.cmds = s.cmds.map (fun x => if x.id = c.id then { x with started := true } else x) ∧ t.owners = s.owners ∧ t.mem = s.mem) ∧
    (c.started = true → s.cmdBound c = false → c.pos < s.cmdTotal c → (s.tile c.tile).trans = none →
      exec (.engineTransferStep c.id) s = .next (s.movePiece c (s.cmdTotal c))) ∧
    (c.started = true → s.cmdTotal c ≤ c.landed → s.cmdSettled c = true → s.tiles.any (fun x => x.landing.any (fun y => decide (y.cmd = c.id))) = false →
      ∃ t, exec (.engineCommandComplete c.id) s = .next t ∧ t.cmds = s.cmds.filter (fun x => decide (x.id ≠ c.id)) ∧
        t.owners = s.owners.filter (fun o => decide (o.id ≠ c.id)) ∧ t.mem = s.mem)) ∧
  (∀ (s : State) (gid slot : Nat), exec (.waitSatisfied gid slot) s = .next (s.evalWait gid slot false) ∧
    exec (.ctrWaittDeadline gid slot) s = .next (s.evalWait gid slot true)) ∧
  (∀ (s : State) (sp : Split) (w : Wait) (p : Place) (k : Nat) (c st : W64), s.g.live = true → s.g.away = false →
    (s.tile s.g.tile).trans = none → s.g.split sp.slot = some sp → sp.park = .ctr w → w.decided = none → w.bar = false →
    s.waitReads s.g w = some (p, k, c, st) → s.goneScratch p = false → s.atomPoison s.g p 16 k = false →
    (w.target.toNat ≤ c.toNat → ∃ t, exec (.waitSatisfied s.g.gid sp.slot) s = .next t ∧ t = s.endWait s.g sp.slot w true st c) ∧
    (∀ d, w.deadline = some d → d.toNat ≤ s.dt → c.toNat < w.target.toNat →
      ∃ t, exec (.ctrWaittDeadline s.g.gid sp.slot) s = .next t ∧ t = s.endWait s.g sp.slot w false st c) ∧
    (c.toNat < w.target.toNat → exec (.waitSatisfied s.g.gid sp.slot) s = .next s)) ∧
  (∀ (s : State) (sp : Split) (w : Wait) (ok : Bool) (st c : W64), s.g.live = true → s.g.away = false → (s.tile s.g.tile).trans = none →
    s.g.split sp.slot = some sp → sp.park = .ctr w → w.decided = some (ok, st, c) →
    exec (.waitSatisfied s.g.gid sp.slot) s = .next (s.endWait s.g sp.slot w ok st c)) ∧
  (∀ (s : State) (w : Wait) (slot n : Nat) (st c : W64) (ok : Bool) (e : OlEntry), s.g.live = true → s.g.role = .plain →
    s.g.entry w.entry = some e → w.q = none → (s.endWait s.g slot w ok st c).g.rs n = if n = w.d then st else s.g.rs n) ∧
  (∀ (s : State) (g : Group) (gid : Nat) (sp : Split) (sc : Nat) (tag : BitVec 1) (since : Nat), s.group gid = some g → g.away = false →
    (s.tile g.tile).trans = none → g.split sp.slot = some sp → sp.park = .quiet sc tag since → s.drained g sc tag since = true → exec (.quietDrained gid sp.slot) s =
      .next (((s.modGroup gid (fun g => g.wakeNext sp.slot s.clock)).logVals g sp.cnt [(doneKey, 0)]).acquired g true sc)) ∧
  (∀ (s : State) (sp : Split) (tag : BitVec 1) (since : Nat), s.g.live = true → s.g.away = false → (s.tile s.g.tile).trans = none →
    s.g.split sp.slot = some sp → sp.park = .quiet 0 tag since → s.drained s.g 0 tag since = true → ∃ t x, exec (.quietDrained s.g.gid sp.slot) s = .next t ∧
      t.g.split sp.slot = some x ∧ x.park = (if sp.wAfter = true then .wbit else .ready) ∧ x.pc = pcAdd sp.pc sp.plen)

/-- Locks at their slices (10 R271, R272, R274, R275, R278, R282, R283): a request that nothing stands against is granted, one against a holder waits
or, of LK.TRY, is turned away; a grant enters the lock set and its split goes on; a release leaves the slice; a wound is recorded, but not in a group
that is ending. -/
def Obligations.LockSteps : Prop :=
  (∀ (s : State) (gid : Nat) (g : Group) (r : LockReq), s.group gid = some g → g.lreq = some r →
    (r.arrived = false → s.requestHeld g r = false →
      let die := (s.lockDie g r.name).1
      let s1 := (s.lockDie g r.name).2
      (s1.admits g.ctx r.name gid r.mode (s1.waiters g.ctx r.name) = true → exec (.lockRequestArrive gid) s = .next (s1.grantRequest g r die)) ∧
      (s1.admits g.ctx r.name gid r.mode (s1.waiters g.ctx r.name) = false →
        (r.try_ = none → exec (.lockRequestArrive gid) s = .next (s1.queueRequest g r die)) ∧
        (∀ d, r.try_ = some d → exec (.lockRequestArrive gid) s = .next (s1.turnAway g r d)))) ∧
    (r.granted = true → (s.tile g.tile).trans = none → exec (.lockGrantArrive gid) s = .next (s.takeGrant g r))) ∧
  (∀ (s : State) (gid : Nat) (g : Group), s.anyGroup gid = some g → s.releases g = true →
    exec (.lockReleaseArrive gid) s = .next (s.releaseLocks g)) ∧
  (∀ (s : State) (gid : Nat) (g : Group) (m : WoundMsg) (rest : List WoundMsg), s.group gid = some g → s.woundMsgs = m :: rest → m.gid = gid →
    (g.ending = false → (s.tile g.tile).trans = none →
      exec (.woundArrive gid) s = .next (({ s with woundMsgs := rest } : State).takeWound g m)) ∧
    (g.ending = true → exec (.woundArrive gid) s = .next { s with woundMsgs := rest })) ∧
  (∀ (s : State) (r : LockReq), s.g.live = true → s.g.lreq = some r → r.arrived = false → r.upg = false → s.requestHeld s.g r = false →
    let die := (s.lockDie s.g r.name).1
    (s.lockDie s.g r.name).2 = s → s.admits s.g.ctx r.name s.g.gid r.mode (s.waiters s.g.ctx r.name) = true →
    ∃ t, exec (.lockRequestArrive s.g.gid) s = .next t ∧ t.g.lreq = some { r with arrived := true, granted := true } ∧
      t.locks = s.locks ++ [(⟨s.g.ctx, r.name, s.g.gid, true, r.mode, none, die⟩ : LockRec)] ∧ t.mem = s.mem) ∧
  (∀ (s : State) (r : LockReq), s.g.live = true → s.g.lreq = some r → r.arrived = false → r.upg = false → r.try_ = none → s.requestHeld s.g r = false →
    (s.lockDie s.g r.name).2 = s → s.admits s.g.ctx r.name s.g.gid r.mode (s.waiters s.g.ctx r.name) = false →
    ∃ t, exec (.lockRequestArrive s.g.gid) s = .next t ∧ t.g.lreq = some { r with arrived := true, granted := false } ∧
      (∀ x ∈ s.locks, x ∈ t.locks) ∧ t.g.lset = s.g.lset) ∧
  (∀ (s : State) (r : LockReq) (sp : Split), s.g.live = true → s.g.lreq = some r → r.granted = true → r.upg = false → r.try_ = none →
    (s.tile s.g.tile).trans = none → s.g.split r.slot = some sp → ∃ t x, exec (.lockGrantArrive s.g.gid) s = .next t ∧ t.g.lreq = none ∧
      t.g.lset = s.g.lset ++ [(⟨r.name, r.mode, none⟩ : LockHold)] ∧ t.g.split r.slot = some x ∧
      x.park = (if sp.wAfter = true then .wbit else .ready) ∧ x.pc = pcAdd sp.pc sp.plen ∧ t.mem = s.mem) ∧
  (∀ (s : State) (n : W64), s.g.live = true → s.g.lrel = [n] → s.g.lend = false → s.g.storesBefore (s.g.lockSeq.getD s.g.seq) = false →
    s.g.acks = 0 → (∀ x ∈ s.locks, x.gid = s.g.gid → x.name = n → s.lockReaches s.g x.die = true) → ∃ t, exec (.lockReleaseArrive s.g.gid) s = .next t ∧ t.g.lrel = [] ∧
      t.g.lset = s.g.lset.filter (fun l => !([n].contains l.name)) ∧
      (∀ x ∈ t.locks, ¬ (x.ctx = s.g.ctx ∧ x.name = n ∧ x.gid = s.g.gid)) ∧ t.mem = s.mem) ∧
  (∀ (s : State) (m : WoundMsg) (rest : List WoundMsg), s.g.live = true → s.g.ending = false → s.g.lreq = none → s.g.role = .plain →
    (s.tile s.g.tile).trans = none → s.woundMsgs = m :: rest → m.gid = s.g.gid → ∃ t, exec (.woundArrive s.g.gid) s = .next t ∧ t.woundMsgs = rest ∧
      t.g.wounds = s.g.wounds ++ [⟨m.name, m.dt⟩] ∧ t.g.lset = s.g.lset ∧ t.mem = s.mem)

/-- Queues, grids and teams (03 R76 to R90; 12 R334 to R336, R339): a queue's head entry read, or the queue stopped with the error its reading or its
completion object meets; the next entry accepted; a grid's next set of teams, or all of a grid of whole residency, placed; teams and grids retired;
pre-empted teams resumed, and partitions moved out and in. -/
def Obligations.GridSteps : Prop :=
  (∀ (s : State) (n : Nat) (tail : BitVec 32), n < 16384 → exec (.queueDoorbell n tail) s = .next (s.doorbell n tail.toNat)) ∧
  (∀ (s : State) (n : Nat) (v : W64), n < 16384 → exec (.qctlWrite n v) s = .next (s.writeQctl n v)) ∧
  (∀ (s : State) (n : Nat), n < 16384 → s.headReady n = true →
    (s.hasCtx (s.queueCtx n) = false → exec (.queueEntryRead n) s = .next (s.queueErr n 0x27)) ∧
    (∀ s1, s.hasCtx (s.queueCtx n) = true → s.deviceHeld (s.queueCtx n) (s.ringVa n (s.qHead n)) .read = false →
      (∀ e, s.deviceTranslate (s.queueCtx n) (s.ringVa n (s.qHead n)) .read = (.error e, s1) →
        exec (.queueEntryRead n) s = .next (s1.queueErr n 0x22)) ∧
      (∀ pa, s.deviceTranslate (s.queueCtx n) (s.ringVa n (s.qHead n)) .read = (.ok pa, s1) →
        let bytes := (upFrom pa 64).map s1.physByte
        (s1.cleanRange pa 64 = false → exec (.queueEntryRead n) s = .next (s1.queueErr n 0x22)) ∧
        (s1.cleanRange pa 64 = true → badCompletion (Desc.ofBytes bytes).completion = true →
          exec (.queueEntryRead n) s = .next (s1.queueErr n 0x26)) ∧
        (s1.cleanRange pa 64 = true → badCompletion (Desc.ofBytes bytes).completion = false → ∃ t x, exec (.queueEntryRead n) s = .next t ∧
          t.grids = s1.grids ++ [x] ∧ x.queue = n ∧ x.child = false ∧ x.accepted = false ∧ x.ctx = s.queueCtx n ∧
          x.desc = { Desc.ofBytes bytes with depth := 0 } ∧ t.mem = s1.mem)))) ∧
  (∀ (s : State) (i : Nat) (x : Grid), s.nextEntry = some i → s.grids[i]? = some x → s.keyHeld x = false → exec .gridAccept s = .next (s.acceptEntry i x)) ∧
  (∀ (s : State) (i : Nat) (x : Grid), x.err = none → x.child = true → x.desc.flags.getLsbD 3 = false → x.desc.flags.getLsbD 4 = false →
    ∃ t y, s.acceptEntry i x = t ∧ t.grids = s.grids.eraseIdx i ++ [y] ∧ y.accepted = true ∧ y.serial = s.serialNext ∧
      y.key = s.serialNext ∧ y.desc = x.desc ∧ y.chseed = (s.ctx x.ctx).chseed ∧ y.chctl = (s.ctx x.ctx).chctl ∧
      y.prhold = (s.ctx x.ctx).prhold ∧ y.recbase = (s.ctx x.ctx).recbase ∧ t.serialNext = s.serialNext + 1 ∧ t.mem = s.mem) ∧
  (∀ (s t : State) (serial : BitVec 32) (tile trailer : Nat) (x : Grid), s.grid serial = some x → x.waiting = true → (s.ctx x.ctx).away = false →
    s.swapped.contains (dieOf tile) = false → s.thirdWants x = false → s.grids.any (s.goesFirst x) = false → s.areaHeld [tile, trailer] = false →
    (x.desc.flags.getLsbD 1 = false → s.placeSet serial tile trailer = some t → exec (.teamDistribute serial tile trailer) s = .next t) ∧
    (x.desc.flags.getLsbD 1 = true → s.placeAll serial tile = some t → exec (.teamDistribute serial tile trailer) s = .next t)) ∧
  (∀ (s : State) (t : Team), s.team t.tid = some t → t.own = true → s.teamDone t = true →
    (s.grid t.serial).any (fun x => s.recordHeld x t) = false → exec (.teamRetire t.tid) s = .next (s.retire t)) ∧
  (∀ (s : State) (t : Team), s.team t.tid = some t → t.role = .plain → t.chord = none → s.teamDone t = true → s.grid t.serial = none →
    ∃ u, exec (.teamRetire t.tid) s = .next u ∧ u.team t.tid = none ∧ u.groups.any (fun g => decide (g.gid ≠ 0) && decide (g.tid = t.tid)) = false) ∧
  (∀ (s : State) (serial : BitVec 32) (x : Grid), s.grid serial = some x → x.done = true → s.teams.any (fun t => decide (t.serial = serial)) = false →
    s.completeHeld x = false → ∃ u, exec (.gridRetire serial) s = .next u ∧ u.grids = (s.complete x).grids.filter (fun y => !(decide (y.serial = serial) && y.accepted)) ∧
      u.mem = (s.complete x).mem) ∧
  (∀ (s u : State) (tid tile : Nat) (t : Team), s.team tid = some t → s.resumable t = true →
    s.teams.any (fun x => s.resumable x && decide (x.tile = t.tile) && decide (s.resumePrio t < s.resumePrio x)) = false →
    State.resumeAll tile (s.setOf tid) s = some u → exec (.groupResume tid tile) s = .next u) ∧
  (∀ (s : State) (w : Swap), s.swap = some w →
    (w.out = true → s.swapBusy w = false → exec (.partitionSwapDone w.die) s = .next (s.swapOut w)) ∧
    (w.out = false → exec (.partitionSwapDone w.die) s = .next (s.swapIn w))) ∧
  (∀ (s : State) (w : Swap), s.group w.issuer = none → (s.swapOut w).swap = none ∧ (s.swapOut w).swapped = s.swapped ++ s.partOf w.die)

/-- Redundant execution and health (13 R347, R353, R356 to R360, R363, R366 to R370): flips made at a run boundary or failed; the trailer's segments; a
compare that commits, calls a third run, or meets a poisoned slice; the third run placed, and each outcome of the vote; hold limits; a die's fatal error; corrected
errors and the leak of their buckets.  The model's choices here are log entries 58, 61, 63, 69, 78, 81, 101 and 102. -/
def Obligations.CheckSteps : Prop :=
  (∀ (s : State) (gid : Nat) (g : Group), s.anyGroup gid = some g →
    ((g.live = false ∨ g.away = true) → exec (.finjApply gid) s = .next (s.failFlips gid)) ∧
    (g.live = true → g.away = false → g.run = false → exec (.finjApply gid) s = .next (s.applyFlips g))) ∧
  (∀ (s : State) (f : Flip), s.g.live = true → s.g.away = false → s.g.run = false → s.g.flip = [f] → f.sreg = true → f.reg < 64 → f.bit < 64 →
    s.group f.issuer = none → ∃ t, exec (.finjApply s.g.gid) s = .next t ∧ t.g.flip = [] ∧
      (∀ n, t.g.rs n = if n = f.reg then s.g.rs n ^^^ BitVec.ofNat 64 (2 ^ f.bit) else s.g.rs n) ∧ t.g.v = s.g.v ∧ t.mem = s.mem) ∧
  (∀ (s : State) (t : Team) (c : Chord), s.team t.tid = some t → t.chord = some c → c.level ≠ 0 → c.trailerSeg ≤ c.open_ →
    c.segs.any (fun x => decide (x.n < c.trailerSeg)) = false → 2000 ≤ s.elapsed c.trailerDt →
    exec (.trailerSegmentStart t.tid) s = .next (s.modChord t.tid (fun x => { x with trailerSeg := c.trailerSeg + 1 }))) ∧
  (∀ (s : State) (t : Team) (i : Nat), s.team t.tid = some t → t.replay = some i → exec (.segmentCompare t.tid) s = .next (s.replayCompare t.tid i)) ∧
  (∀ (s : State) (t0 t u : Team) (c : Chord) (x : Seg) (rest : List Seg), s.team t.tid = some t0 → t0.chord = some c → t0.replay = none →
    c.segs = x :: rest → x.st ≠ .voting →
    let s1 := s.closeRun c.trailer
    let owed := s1.owedNow t.tid ++ s1.heldNow u.tid
    s1.team t.tid = some t → s1.team c.trailer = some u → s1.runClosed t owed x.n = true → s1.followClosed t.closes u owed x.n = true →
    (s1.sliceBad t c = true → exec (.segmentCompare t.tid) s = .next (s1.endGrid t.serial 0x62)) ∧
    (s1.sliceBad t c = false → t.sigs c.owed owed x.n = u.sigs c.owed owed x.n → (x.rel = true ∨ s1.commitHeld c.vers x.n = false) →
      exec (.segmentCompare t.tid) s = .next (s1.passSegment t.tid x owed)) ∧
    (s1.sliceBad t c = false → t.sigs c.owed owed x.n ≠ u.sigs c.owed owed x.n →
      exec (.segmentCompare t.tid) s = .next ((if x.rel = true then s1.reportLate t.tid else s1).callThird t.tid x.n))) ∧
  (∀ (s : State) (tid : Nat) (x : Seg) (owed : List (Nat × Nat)),
    (x.rel = false → s.passSegment tid x owed = (s.commitVersions tid x.n).segmentOver tid x.n owed) ∧
    (x.rel = true → s.passSegment tid x owed = s.segmentOver tid x.n owed)) ∧
  (∀ (s : State) (t : Team) (c : Chord) (k : Check) (tile : Nat), s.team t.tid = some t → t.chord = some c → c.oldestCheck = some k →
    c.thirdWait = true → s.thirdFits t c tile = true → s.betterThird t c tile = false → c.checkKnown k = true →
    (s.sliceBad t c = true → exec (.thirdRunPlace t.tid tile) s = .next (s.endGrid t.serial 0x62)) ∧
    (s.sliceBad t c = false → exec (.thirdRunPlace t.tid tile) s = .next (s.placeThird t c k tile))) ∧
  (∀ (s : State) (t : Team) (c : Chord) (k : Check) (tile base : Nat), s.team t.tid = some t → t.chord = some c → k.groups = [] →
    s.takeBanks tile (t.scratch + t.stashBytes) = (base, s) → (∀ y ∈ s.teams, y.tid < s.nextId) →
    let v := s.placeThird t c k tile
    (∃ w, v.team s.nextId = some w ∧ w.role = .third ∧ w.tile = tile ∧ w.scr = k.scr ∧ w.scrPoison = k.scrPoison) ∧
      (v.team t.tid).bind (fun z => z.chord) = some { c with third := some s.nextId, thirdWait := false }) ∧
  (∀ (s : State) (t0 t u w : Team) (c : Chord) (x : Seg) (rest : List Seg) (tid3 : Nat), s.team t.tid = some t0 → t0.chord = some c →
    c.third = some tid3 → c.segs = x :: rest → x.st = .voting →
    let s1 := (s.closeRun tid3).closeRun c.trailer
    let owed := s1.owedNow t.tid ++ s1.heldNow u.tid ++ s1.heldNow tid3
    s1.team t.tid = some t → s1.team c.trailer = some u → s1.team tid3 = some w →
    s1.runClosed t owed x.n = true → s1.followClosed t.closes u owed x.n = true → s1.followClosed t.closes w owed x.n = true →
    let lead := t.sigs c.owed owed x.n
    let trail := u.sigs c.owed owed x.n
    let third := w.sigs c.owed owed x.n
    (third = lead → (x.rel = true ∨ s1.commitHeld c.vers x.n = false) → exec (.vote t.tid) s = .next (s1.voteLead t.tid u tid3 x owed)) ∧
    (third ≠ lead → third = trail → (x.rel = true → s1.leadStill t.tid = true) → (x.rel = false → s1.commitHeld c.thirdVers x.n = false) →
      exec (.vote t.tid) s = .next (s1.voteTrail t u tid3 x owed)) ∧
    (third ≠ lead → third ≠ trail → exec (.vote t.tid) s = .next (s1.voteNone t))) ∧
  (∀ (s : State) (ctx d tid n : Nat), (s.bytesOver ctx || s.timeOver ctx) = true →
    (s.oldestClosed ctx = some (d, tid, n) → (s.team tid).any (fun t => t.chord.any (fun c => s.commitHeld c.vers n)) = false →
      exec (.prismHoldLimit ctx) s = .next (s.releaseSegment tid n)) ∧
    (s.oldestClosed ctx = none → s.closedLeft ctx = false → s.oldestOpen ctx = some (d, tid) →
      exec (.prismHoldLimit ctx) s = .next (s.closeOpen tid))) ∧
  (∀ (s : State) (die : Nat), s.dieOn die = true → s.zhr.diesFenced.getLsbD die = false →
    ((s.winGet 0x40).getLsbD 1 = true → exec (.dieFatalError die) s = .next s.freezeNow) ∧
    ((s.winGet 0x40).getLsbD 1 = false → exec (.dieFatalError die) s = .next (s.fenceDie die))) ∧
  (∀ (s : State) (kind unit tid : Nat), correctable kind unit = true →
    exec (.correctedMemoryError kind ⟨unit, tid, []⟩) s = .next (s.addBucket kind unit)) ∧
  (∀ (s : State) (t : Team) (unit : Nat) (words : List Nat), words ≠ [] → s.team t.tid = some t → t.ended = false → t.saved = false →
    exec (.correctedMemoryError 2 ⟨unit, t.tid, words⟩) s = .next (s.wordErrors t words)) ∧
  (∀ (s : State) (kind unit : Nat), (s.bucket kind unit).level ≠ 0 → bucketPeriod kind ≤ s.elapsed (s.bucket kind unit).since →
    ∃ t, exec (.bucketLeak kind unit) s = .next t ∧ (t.bucket kind unit).level + 1 = (s.bucket kind unit).level ∧
      (t.bucket kind unit).since = ((s.bucket kind unit).since + bucketPeriod kind) % 2 ^ 64 ∧ t.g = s.g ∧ t.mem = s.mem)

/-- Gears, balance, droop and caps (14 R374, R376 to R381, R388, R389): a change of gear begins or is deferred, and ends after 300 or 600 ns; a pair's
measured currents set its imbalance, its lighter layer and its balance load; a deferred change is granted after BALWAIT with balance load in the lighter
layer; droops; a governor's clocks and caps.  What the balancer predicts at a transition's start and the current of the balance load are free values, and
so is how much an engine has asked for by then (log entries 103, 120, 122). -/
def Obligations.GearSteps : Prop :=
  (∀ (s : State) (tile : Nat), isTile tile = true →
    let s1 := (s.cancelLapsed tile).recount (pairOf tile)
    (s1.starts tile = true → exec (.gearTransitionStart tile) s = .next (s1.decideGear tile)) ∧
    (s1.starts tile = false → exec (.gearTransitionStart tile) s = .next s1)) ∧
  (∀ (s : State) (tile : Nat), let t := s.decideGear tile
    (((t.tile tile).trans = some (!(s.tile tile).fgear) ∧ (t.tile tile).since = s.dt) ∨ (t.tile tile).deferred = some s.dt) ∧
      (t.tile tile).fgear = (s.tile tile).fgear ∧ t.g = s.g ∧ t.mem = s.mem) ∧
  (∀ (s : State) (tile : Nat) (f : Bool), (s.tile tile).trans = some f →
    ((if f = true then 600 else 300) ≤ s.elapsed (s.tile tile).since → exec (.gearTransitionEnd tile) s =
      .next (s.endChange tile f)) ∧
    (s.elapsed (s.tile tile).since < (if f = true then 600 else 300) → exec (.gearTransitionEnd tile) s = .next s)) ∧
  (∀ (s : State) (tile : Nat) (f : Bool), (s.tile tile).trans = some f → (s.tile tile).landing = [] →
    s.groups.any (fun g => g.live && g.stop && !g.away) = false →
    (if f = true then 600 else 300) ≤ s.elapsed (s.tile tile).since → ∃ t, exec (.gearTransitionEnd tile) s = .next t ∧
      (t.tile tile).fgear = f ∧ (t.tile tile).trans = none ∧ t.g = s.g ∧ t.mem = s.mem) ∧
  (∀ (s : State) (pair up lo pu pl : Nat), pair < 256 → pair % 64 < 18 →
    let s0 := ((pairTiles pair).foldl (fun s t => s.cancelLapsed t) s).recount pair
    let s1 := s0.measured pair up lo
    (s1.candidate pair = none → exec (.pairBalanceMeasure pair up lo pu pl) s = .next s1) ∧
    (∀ t, s1.candidate pair = some t →
      (s1.grants up lo pu pl = true → exec (.pairBalanceMeasure pair up lo pu pl) s = .next (s1.startChange t)) ∧
      (s1.grants up lo pu pl = false → (s1.tile t).deferred = none → exec (.pairBalanceMeasure pair up lo pu pl) s = .next (s1.defer t)))) ∧
  (∀ (s : State) (pair up lo : Nat),
    let p := (s.measured pair up lo).pair pair
    let w := s.fresh.1.toNat
    p.imb = imbUnits up lo ∧ p.light = decide (lo < up) ∧ ((s.pair pair).burn = false → p.burn = false) ∧
      ((s.pair pair).burn = true → p.burn = !(if (s.pair pair).burnLow = true then withinPct up (lo - w) s.balPct else withinPct (up - w) lo s.balPct))) ∧
  (∀ (s : State) (tile d : Nat),
    let s1 := (s.cancelLapsed tile).recount (pairOf tile)
    (s1.tile tile).deferred = some d → s1.balWait ≤ s1.elapsed d → s1.wantsChange tile = true → s1.candidate (pairOf tile) = some tile →
    exec (.balanceWaitExpiry tile) s = .next (s1.grantLate tile) ∧ ((s1.grantLate tile).tile tile).trans = some (!(s1.tile tile).fgear) ∧
      ((s1.grantLate tile).pair (pairOf tile)).burn = true ∧ ((s1.grantLate tile).pair (pairOf tile)).burnLow = (s1.pair (pairOf tile)).light) ∧
  (∀ (s : State) (c : Nat), c < 256 → c % 64 < 36 → ∃ t, exec (.droopStretch c) s = .next t ∧ (t.clu c).stretched = true ∧
    (t.clu c).droops = (s.clu c).droops + 1 ∧ (t.clu c).fmhz = (s.clu c).fmhz ∧ t.g = s.g ∧ t.mem = s.mem) ∧
  (∀ (s : State) (c : Nat), (s.clu c).stretched = true → ∃ t, exec (.droopRecovery c) s = .next t ∧ (t.clu c).stretched = false ∧
    (t.clu c).droops = (s.clu c).droops ∧ t.g = s.g) ∧
  (∀ (s : State) (c : Nat) (f n : BitVec 12) (power : Nat), c < 256 → c % 64 < 36 →
    exec (.governorAdjust c f n power) s = .next ((s.setClocks c f n power).noteUnmet c power)) ∧
  (∀ (s : State) (c : Nat) (f n : BitVec 12) (power : Nat), c < 256 → c % 64 < 36 → s.capBinds = false →
    s.clocksOk (s.clu c) f.toNat n.toNat power = true → ∃ t, exec (.governorAdjust c f n power) s = .next t ∧ (t.clu c).fmhz = f ∧
      (t.clu c).nmhz = n ∧ (t.winGet 0x010010).getLsbD 17 = false ∧ t.g = s.g ∧ t.mem = s.mem) ∧
  (∀ (s : State) (c : Clu) (f n power : Nat), s.clocksOk c f n power = true → 1000 ≤ f ∧ f ≤ 2100 ∧ f % 50 = 0 ∧ 300 ≤ n ∧ n ≤ 550 ∧ n % 50 = 0) ∧
  (∀ (s : State) (n : Nat), s.capEnd = some n → s.ahead n = false → ∃ t, exec .capLeaseExpiry s = .next t ∧ t.capEnd = none ∧
    field (t.winGet 0x010010) 0 16 = field (s.winGet 0x010008) 0 16 ∧ (t.winGet 0x010010).getLsbD 16 = true ∧ t.g = s.g)

/-- The package (11 R313; 15 R391 to R406, R408; log entries 24, 72, 73, 76 and 77).  An access of the host to a line that an engine owns, that moves or
flips, waits, and is performed otherwise; so is one of another chip, which also waits for the host.  A read answers the line's bytes, and the host holds
a line it takes.  A retried flit is counted, a flit for another chip dropped and counted.  A port that comes up records its peer; one that goes down
reports the chips it leaves.  A route entry goes in when it is applied.  A time message moves DT within its bounds, and CORR with it; half rate ends, and
SYNC is lost, as DT says.  A freeze stops the package and drops the links.  A bias flip sets the page's bit; a snapshot's stops, its stream and its
errors; registers; and a unit that becomes ready, with its die's bias table cleared before the first. -/
def Obligations.PackageSteps : Prop :=
  (∀ (s : State) (pa : Nat) (n : Nat) (data : List Byte) (die : Nat), s.physKind pa = .dev die → s.portUp = true →
    (s.lineBusy pa = false → s.waitsBehind pa = false →
      (inLine pa n = true → exec (.hostCxlMemAccess pa 0 n data) s = .next (s.outsideRead pa n)) ∧
      (inLine pa data.length = true → exec (.hostCxlMemAccess pa 1 n data) s = .next (s.outsideWrite pa data)) ∧
      exec (.hostCxlMemAccess pa 2 n data) s = .next (s.hostTake pa)) ∧
    ((s.lineBusy pa = true ∨ s.waitsBehind pa = true) →
      (inLine pa n = true → exec (.hostCxlMemAccess pa 0 n data) s = .next { s with waiting := s.waiting ++ [.host pa 0 n data] }) ∧
      (inLine pa data.length = true → exec (.hostCxlMemAccess pa 1 n data) s = .next { s with waiting := s.waiting ++ [.host pa 1 n data] }) ∧
      exec (.hostCxlMemAccess pa 2 n data) s = .next { s with waiting := s.waiting ++ [.host pa 2 n data] }) ∧
    (s.hostLines.contains (pa / 64) = true → (data = [] ∨ inLine pa data.length = true) →
      exec (.hostCxlMemAccess pa 3 n data) s = .next (s.hostGive pa data))) ∧
  (∀ (s : State) (pa n : Nat) (bs : List Byte), ((s.homeRead none 0 pa 0).physRead pa n = some bs →
      (s.outsideRead pa n).reply = bs ∧ (s.outsideRead pa n).replyStatus = 0) ∧
    (s.hostTake pa).hostLines.contains (pa / 64) = true) ∧
  (∀ (s : State) (port pa : Nat) (h : FlitHead) (wr : Bool) (data : List Byte), port < 48 → (s.winGet (portCtl port + 8)).getLsbD 0 = true →
    (∃ t, exec (.gflFlitReceive port h pa wr true data) s = .next t ∧
      t = (s.winSet (portCtl port + 8) (setField (s.winGet (portCtl port + 8)) 32 32 (field (s.winGet (portCtl port + 8)) 32 32 + 1))).addBucket 6 port) ∧
    (h.chip ≠ s.chip → exec (.gflFlitReceive port h pa wr false data) s = .next { s with strays := s.strays + 1 }) ∧
    (h.chip = s.chip → inLine pa data.length = true → chipOf pa ≠ s.chip.toNat → s.servingChip pa ≠ s.chip →
      exec (.gflFlitReceive port h pa wr false data) s = .next { s with strays := s.strays + 1 }) ∧
    (h.chip = s.chip → inLine pa data.length = true → (chipOf pa = s.chip.toNat ∨ s.servingChip pa = s.chip) →
      ((s.lineHeld pa = true ∨ s.waitsBehind pa = true) → exec (.gflFlitReceive port h pa wr false data) s =
        .next { s with waiting := s.waiting ++ [.flit h pa wr data] }) ∧
      (s.lineHeld pa = false → s.waitsBehind pa = false →
        let s1 := if h.movable = true ∧ h.src ≠ s.chip ∧ h.die < 4 then s.countMovable pa h.src h.die else s
        exec (.gflFlitReceive port h pa wr false data) s =
          .next (if wr = true then s1.outsideWrite pa data else (s1.outsideRead pa data.length).shareChip h.src.toNat pa data.length)))) ∧
  (∀ (s : State) (port : Nat) (peer : BitVec 12), port < 48 → (s.winGet (portCtl port)).getLsbD 0 = true → s.ready (352 + port) = true →
    ∃ t, exec (.gflPortUp port peer) s = .next t ∧ (t.winGet (portCtl port + 8)).getLsbD 0 = true ∧
      field (t.winGet (portCtl port + 8)) 16 12 = peer.toNat ∧ t.mem = s.mem) ∧
  (∀ (s : State) (port : Nat), port < 48 → (s.winGet (portCtl port + 8)).getLsbD 0 = true → exec (.gflPortDown port) s = .next (s.portDown port) ∧
    (s.routedBy port = [] → ((s.portDown port).winGet (portCtl port + 8)).getLsbD 0 = false ∧ (s.portDown port).mem = s.mem)) ∧
  (∀ (s : State) (chip : BitVec 12) (v : W64), s.portUp = true → exec (.routeEntryWrite chip v) s = .next (s.writeRoute chip.toNat v)) ∧
  (∀ (s : State) (chip : BitVec 12) (x : Nat × W64), s.routePend.find? (fun x => decide (x.1 = chip.toNat)) = some x →
    let s1 := { s.winSet (0x080000 + 8 * chip.toNat) x.2 with routePend := s.routePend.filter (fun y => decide (y.1 ≠ chip.toNat)) }
    let lost := chip ≠ s.chip ∧ s.routeUp chip.toNat = true ∧ x.2.getLsbD 63 = true ∧ s1.routeUp chip.toNat = false
    s1.winGet (0x080000 + 8 * chip.toNat) = x.2 ∧ (¬ lost → exec (.routeApply chip) s = .next s1) ∧
      (lost → exec (.routeApply chip) s = .next (s1.pushFault 0 7 0 (BitVec.ofNat 64 chip.toNat) 0))) ∧
  (∀ s : State, s.dieOn 0 = true → s.zhr.diesFenced.getLsbD 0 = false → ∃ t, exec .cxlLinkUp s = .next t ∧ t.portUp = true) ∧
  (∀ (s : State) (line : Nat), s.portUp = true → 64 * line < 0x800000000000 →
    (s.lineBusy (s.hostLine line) = false → s.waitsBehind (s.hostLine line) = false →
      ∃ t, exec (.cxlHostSnoop line) s = .next t ∧ t = s.hostSnoop (s.hostLine line) ∧ (∀ x ∈ s.invals, x ∈ t.invals) ∧ t.g = s.g ∧ t.mem = s.mem) ∧
    ((s.lineBusy (s.hostLine line) = true ∨ s.waitsBehind (s.hostLine line) = true) →
      exec (.cxlHostSnoop line) s = .next { s with waiting := s.waiting ++ [.snoop line] })) ∧
  (∀ (s : State) (root : W64), (s.winGet 0x48).getLsbD 0 = false →
    let sync := (s.winGet 0x48).getLsbD 1
    let corr := fun (t : State) => field (t.winGet 0x48) 32 32
    ∃ t, exec (.timeMessage root) s = .next t ∧ t.lastMessage ≥ s.dt ∧ t.g = s.g ∧ t.mem = s.mem ∧
      (sync = true → s.dt < root.toNat → root.toNat ≤ s.dt + 20 →
        t.dt = (if 1000 ≤ s.elapsed s.slewAt then s.dt + 1 else s.dt) ∧ corr t = (if 1000 ≤ s.elapsed s.slewAt then 1 else corr s)) ∧
      (sync = true → root.toNat < s.dt → s.dt ≤ root.toNat + 20 → t.dt = s.dt ∧ (1000 ≤ s.elapsed s.slewAt → t.lag = 1 ∧ corr t = 2 ^ 32 - 1)) ∧
      (sync = false → s.dt < root.toNat → root.toNat ≤ s.dt + 20 →
        t.dt = root.toNat ∧ (t.winGet 0x48).getLsbD 1 = true ∧ corr t = root.toNat - s.dt) ∧
      (sync = false → root.toNat ≤ s.dt → s.dt ≤ root.toNat + 20 →
        t.dt = s.dt ∧ t.half = false ∧ (t.winGet 0x48).getLsbD 1 = true ∧ corr t = corr s) ∧
      (s.dt + 20 < root.toNat → t.dt = root.toNat ∧ (t.winGet 0x48).getLsbD 1 = true) ∧
      (root.toNat + 20 < s.dt → t.half = true ∧ t.dt = s.dt ∧ (t.winGet 0x48).getLsbD 1 = false ∧ corr t = corr s)) ∧
  (∀ s : State, (s.winGet 0x48).getLsbD 0 = false → (s.winGet 0x48).getLsbD 1 = true → 10000000 ≤ s.elapsed s.lastMessage →
    ∃ t, exec .timeSyncTimeout s = .next t ∧ (t.winGet 0x48).getLsbD 1 = false ∧ t.g = s.g) ∧
  (∀ s : State, s.half = true → (s.dt ≤ s.rootNow + 20 → ∃ t, exec .timeSyncReached s = .next t ∧ t.half = false ∧ (t.winGet 0x48).getLsbD 1 = true ∧
      t.dt = s.dt ∧ field (t.winGet 0x48) 32 32 = field (s.winGet 0x48) 32 32) ∧
    (s.rootNow + 20 < s.dt → exec .timeSyncReached s = .next s)) ∧
  (∀ (s : State) (v : W64), s.portUp = true → exec (.partcfgWrite v) s = .next (s.writePartcfg v) ∧
    exec (.frzctlFreezeWrite v) s = .next (s.writeFrzctl v)) ∧
  (∀ s : State, ∃ t, exec .freezePin s = .next t ∧ t = s.freezeNow ∧ t.frozen = true ∧
    (∀ n, n < 48 → (t.winGet (portCtl n + 8)).getLsbD 0 = false) ∧ t.g = s.g ∧ t.mem = s.mem) ∧
  (∀ (s : State) (die page : Nat), s.portUp = true → s.dieOn die = true → exec (.biasFlipToHost die page) s = .next (s.biasGo die (biasWord page true)) ∧
    exec (.biasFlipToDevice die page) s = .next (s.biasGo die (biasWord page false))) ∧
  (∀ (s : State) (f : BiasFlip), s.flips.find? (fun x => decide (x.die = f.die)) = some f →
    let base := s.chip.toNat * 2 ^ 48 + f.page
    (f.toHost = true → s.owners.any (fun o => decide (o.pa < base + 4096) && decide (base < o.pa + o.len)) = false) →
    (f.toHost = false → s.hostLines.any (fun h => decide (64 * h / 4096 * 4096 = base)) = false) → ∃ t,
    exec (.biasFlipDone f.die) s = .next t ∧ t.flips = s.flips.filter (fun x => decide (x.die ≠ f.die)) ∧
      ((s.biasPlace f.page).2 < 8 → (memGet t.mem (s.biasPlace f.page).1).getLsbD (s.biasPlace f.page).2 = f.toHost) ∧
      (∀ a, a ≠ (s.biasPlace f.page).1 → memGet t.mem a = memGet s.mem a)) ∧
  (∀ s : State, (s.portUp = true → exec .snapshotNow s = .next s.snapshotDue) ∧
    ((s.winGet 0x020000).getLsbD 0 = true → max 1 (field (s.winGet 0x020000) 32 32) * 1000000000 ≤ s.elapsed s.snapSince →
      exec .snapshotInterval s = .next ({ s with snapSince := s.dt } : State).snapshotDue)) ∧
  (∀ (s : State) (die : Nat),
    let dies := (s.partOf die).filter (fun d => s.snapDue.contains d)
    let left := s.snapDue.filter (fun d => !dies.contains d)
    dies ≠ [] → s.groups.any (fun g => g.live && g.run && !g.halted && !g.away && (s.partOf die).contains (dieOf g.tile)) = false →
    ∃ t, exec (.snapshotStopEnd die) s = .next t ∧ t.snapDue = left ∧ t.streaming = left.isEmpty ∧
      (left = [] → (t.winGet 0x020018).getLsbD 0 = true)) ∧
  (∀ (s : State), s.streaming = true → s.streamHeld = false →
    let err := fun (v : W64) => setField (setField v 0 1 0) 1 1 1
    let stop := fun (t : State) => { t.winSet 0x020018 (err (t.winGet 0x020018)) with streaming := false }
    let code := fun (t : State) => err (t.winGet 0x020018)
    (s.stream.2 = false → ∃ t, exec (.snapshotStreamDone false) s = .next t ∧ t.streaming = false ∧
      (t.winGet 0x020018).getLsbD 0 = false ∧ t.mem = s.stream.1.mem) ∧
    (s.stream.2 = true → exec (.snapshotStreamDone false) s = .next ((stop s.stream.1).pushFault 0 6 0 (code s.stream.1) 0)) ∧
    exec (.snapshotStreamDone true) s = .next ((stop s).pushFault 0 6 0 (code s) 0)) ∧
  (∀ (s : State) (off : Nat) (v : W64), s.portUp = true → off % 8 = 0 → off < 0x1000000 → exec (.registerWrite off v) s = .next (s.winWrite off v)) ∧
  (∀ (s : State) (bit : Nat), s.canReady bit = true → ∃ t, exec (.functionReady bit) s = .next t ∧ t.ready bit = true ∧
    (∀ n, n < 400 → n ≠ bit → t.ready n = s.ready n) ∧
    (12 ≤ bit ∨ s.biasBase (bit / 3) = 0 ∨ (∃ n, bit / 3 * 3 ≤ n ∧ n < bit / 3 * 3 + 3 ∧ s.ready n = true) → t.mem = s.mem) ∧
    (bit < 12 → s.biasBase (bit / 3) ≠ 0 → (∀ n, bit / 3 * 3 ≤ n → n < bit / 3 * 3 + 3 → s.ready n = false) →
      (∃ d, s.physKind (s.chip.toNat * 2 ^ 48 + s.biasBase (bit / 3)) = .dev d) →
      ∀ a, memGet t.mem a = if s.biasBase (bit / 3) ≤ a ∧ a < s.biasBase (bit / 3) + 6291456 then 0 else memGet s.mem a))

/-- The management commands (13 R361, R371; 14 R389; 15 R407, R408), of a package whose port is up: the health record, the certificate, caps, CLR_FENCE
with its tile's demerit level set to 0, registers, RESET and SCAN_RD.  A request that the package answers only while its port is up, what RESET keeps,
what CLR_FENCE undoes and the bytes of SCAN_RD are the model's choices (log entries 14, 15, 24, 71, 126). -/
def Obligations.ManagementCommands : Prop :=
  ∀ s : State, s.portUp = true →
    (∃ t, exec .getZhr s = .next t ∧ t.replyStatus = 0 ∧ t.reply.take 4 = [0x5A, 0x48, 0x52, 0x31] ∧ t.g = s.g ∧ t.mem = s.mem) ∧
    (∀ piece, ∃ t, exec (.getCert piece) s = .next t ∧ t.replyStatus = 0 ∧ t.reply.length = min 1024 (Config.certLength - 1024 * piece)) ∧
    (∀ (seq : W64) (cap lease : BitVec 16), ∃ t, exec (.setCap seq cap lease 0) s = .next t ∧
      (seq = s.winGet 0x010018 → t.replyStatus = 1 ∧ t.capEnd = s.capEnd) ∧
      (seq.toNat < (s.winGet 0x010018).toNat → t.replyStatus = 2 ∧ t.capEnd = s.capEnd) ∧
      ((s.winGet 0x010018).toNat < seq.toNat → t.replyStatus = 0 ∧ t.winGet 0x010018 = seq ∧ field (t.winGet 0x010010) 0 16 = cap.toNat ∧
        t.capEnd = some ((s.dt + (if lease.toNat = 0 then 2000 else lease.toNat) * 1000000) % 2 ^ 64))) ∧
    (∀ (seq : W64) (cap lease : BitVec 16) (rest : BitVec 32), rest ≠ 0 → ∃ t, exec (.setCap seq cap lease rest) s = .next t ∧
      t.replyStatus = 3 ∧ t.capEnd = s.capEnd) ∧
    exec .freeze s = .next s.freezeNow ∧
    (∀ index, index < 576 → (s.tile (tileOfIndex index)).fencedField = true → ∃ t, exec (.clrFence index) s = .next t ∧ t.replyStatus = 0 ∧
      (t.tile (tileOfIndex index)).fencedField = false ∧ (t.bucket 1 index).level = 0 ∧ t.mem = s.mem) ∧
    (∀ index, (s.tile (tileOfIndex index)).fencedField = false → ∃ t, exec (.clrFence index) s = .next t ∧ t.replyStatus = 1) ∧
    (∀ off, off % 8 = 0 → off < 0x1000000 → s.frozen = false → ∃ t, exec (.regRd off) s = .next t ∧ t.replyStatus = 0 ∧
      t.reply = leBytes 8 (s.winRead off).toNat ∧ t.win = s.win) ∧
    (∀ off (v : W64), off % 8 = 0 → off < 0x1000000 → s.frozen = false → exec (.regWr off v) s = .next ((s.winWrite off v).answer 0 [])) ∧
    (∀ off (v : W64), s.frozen = true → exec (.regRd off) s = .next (s.answer 1 []) ∧ exec (.regWr off v) s = .next (s.answer 1 [])) ∧
    (∃ t, exec .reset s = .next t ∧ t.mem = s.mem ∧ t.hostMem = s.hostMem ∧ t.zhr = { State.reset.zhr with seq := s.zhr.seq } ∧
      t.g = State.reset.g ∧ t.teams = [] ∧ t.ctxs = State.reset.ctxs ∧ t.win = State.reset.win ∧ t.frozen = false ∧ t.dt = State.reset.dt) ∧
    (∀ chain off, s.frozen = true → ∃ t, exec (.scanRd chain off) s = .next t ∧ t.replyStatus = 0 ∧ t.reply.length = 64 ∧ t.mem = s.mem ∧ t.g = s.g) ∧
    (∀ chain off, s.frozen = false → exec (.scanRd chain off) s = .next (s.answer 1 []))

/-! ## Reset, memory and freezing -/

/-- The machine right after reset: what the spec gives (01 R20; 03 R90; 10 R265; 13 R365; 14 R387, R389; 15 R408): no group, team, grid,
lock, command or cached copy; DT 0; GRIDID's serial 0; every context that exists with the default matrix; memory lists nothing. -/
def Obligations.AfterReset : Prop :=
  State.reset.g.live = false ∧ State.reset.others = [] ∧ State.reset.teams = [] ∧ State.reset.grids = [] ∧ State.reset.locks = [] ∧
  State.reset.cmds = [] ∧ State.reset.jobs = [] ∧ State.reset.l1 = [] ∧ State.reset.tlb = [] ∧ State.reset.dt = 0 ∧
  State.reset.serialNext = 0 ∧ State.reset.frozen = false ∧ State.reset.memOk = true ∧ State.reset.mem = [] ∧
  (∀ n, (State.reset.ctx n).mat = 0x0122475CF) ∧
  (∀ c, c < 256 → (State.reset.clu c).fmhz = 2100 ∧ (State.reset.clu c).nmhz = 550 ∧ (State.reset.clu c).droops = 0)

/-- A byte of device memory reads as it was written, and every other byte of device memory as before (01 R16; 07 R170). -/
def Obligations.MemoryReadsBack : Prop :=
  ∀ (s : State) (pa qa : Nat) (die die' : Nat) (b : Byte), pa < 2 ^ 60 → qa < 2 ^ 60 → s.physKind pa = .dev die → s.physKind qa = .dev die' →
    (s.physSet pa b).physByte qa = (if qa = pa then b else s.physByte qa) ∧ (s.memOk = true → (s.physSet pa b).memOk = true)

/-- Every step keeps every memory in its canonical form (the model's own invariant): device, host and remote memory. -/
def Obligations.StepKeepsMemory : Prop :=
  ∀ s t : State, s.memOk = true → step s = .next t → t.memOk = true

end
end

