-- ==== Sys2Proof/Laws/State.lean ====
section
/-! SUPPORT. One lemma per field per update of a state or a group, each true by `rfl`: no later proof unfolds a record update. -/

namespace Sys2Proof.Machine

/-! `State.modTeam` -/

@[simp] theorem State.modTeam_g (s : State) (n : Nat) (f : Team → Team) : (s.modTeam n f).g = s.g := rfl
@[simp] theorem State.modTeam_others (s : State) (n : Nat) (f : Team → Team) : (s.modTeam n f).others = s.others := rfl
@[simp] theorem State.modTeam_grids (s : State) (n : Nat) (f : Team → Team) : (s.modTeam n f).grids = s.grids := rfl
@[simp] theorem State.modTeam_ctxs (s : State) (n : Nat) (f : Team → Team) : (s.modTeam n f).ctxs = s.ctxs := rfl
@[simp] theorem State.modTeam_mem (s : State) (n : Nat) (f : Team → Team) : (s.modTeam n f).mem = s.mem := rfl
@[simp] theorem State.modTeam_hostMem (s : State) (n : Nat) (f : Team → Team) : (s.modTeam n f).hostMem = s.hostMem := rfl
@[simp] theorem State.modTeam_remote (s : State) (n : Nat) (f : Team → Team) : (s.modTeam n f).remote = s.remote := rfl
@[simp] theorem State.modTeam_poison (s : State) (n : Nat) (f : Team → Team) : (s.modTeam n f).poison = s.poison := rfl
@[simp] theorem State.modTeam_coded (s : State) (n : Nat) (f : Team → Team) : (s.modTeam n f).coded = s.coded := rfl
@[simp] theorem State.modTeam_tlb (s : State) (n : Nat) (f : Team → Team) : (s.modTeam n f).tlb = s.tlb := rfl
@[simp] theorem State.modTeam_walks (s : State) (n : Nat) (f : Team → Team) : (s.modTeam n f).walks = s.walks := rfl
@[simp] theorem State.modTeam_fetched (s : State) (n : Nat) (f : Team → Team) : (s.modTeam n f).fetched = s.fetched := rfl
@[simp] theorem State.modTeam_l1 (s : State) (n : Nat) (f : Team → Team) : (s.modTeam n f).l1 = s.l1 := rfl
@[simp] theorem State.modTeam_l2 (s : State) (n : Nat) (f : Team → Team) : (s.modTeam n f).l2 = s.l2 := rfl
@[simp] theorem State.modTeam_lostStores (s : State) (n : Nat) (f : Team → Team) : (s.modTeam n f).lostStores = s.lostStores := rfl
@[simp] theorem State.modTeam_strays (s : State) (n : Nat) (f : Team → Team) : (s.modTeam n f).strays = s.strays := rfl
@[simp] theorem State.modTeam_owners (s : State) (n : Nat) (f : Team → Team) : (s.modTeam n f).owners = s.owners := rfl
@[simp] theorem State.modTeam_hostLines (s : State) (n : Nat) (f : Team → Team) : (s.modTeam n f).hostLines = s.hostLines := rfl
@[simp] theorem State.modTeam_chipShares (s : State) (n : Nat) (f : Team → Team) : (s.modTeam n f).chipShares = s.chipShares := rfl
@[simp] theorem State.modTeam_invals (s : State) (n : Nat) (f : Team → Team) : (s.modTeam n f).invals = s.invals := rfl
@[simp] theorem State.modTeam_prefs (s : State) (n : Nat) (f : Team → Team) : (s.modTeam n f).prefs = s.prefs := rfl
@[simp] theorem State.modTeam_pushes (s : State) (n : Nat) (f : Team → Team) : (s.modTeam n f).pushes = s.pushes := rfl
@[simp] theorem State.modTeam_waiting (s : State) (n : Nat) (f : Team → Team) : (s.modTeam n f).waiting = s.waiting := rfl
@[simp] theorem State.modTeam_units (s : State) (n : Nat) (f : Team → Team) : (s.modTeam n f).units = s.units := rfl
@[simp] theorem State.modTeam_locks (s : State) (n : Nat) (f : Team → Team) : (s.modTeam n f).locks = s.locks := rfl
@[simp] theorem State.modTeam_woundMsgs (s : State) (n : Nat) (f : Team → Team) : (s.modTeam n f).woundMsgs = s.woundMsgs := rfl
@[simp] theorem State.modTeam_domains (s : State) (n : Nat) (f : Team → Team) : (s.modTeam n f).domains = s.domains := rfl
@[simp] theorem State.modTeam_cmds (s : State) (n : Nat) (f : Team → Team) : (s.modTeam n f).cmds = s.cmds := rfl
@[simp] theorem State.modTeam_peerMsgs (s : State) (n : Nat) (f : Team → Team) : (s.modTeam n f).peerMsgs = s.peerMsgs := rfl
@[simp] theorem State.modTeam_jobs (s : State) (n : Nat) (f : Team → Team) : (s.modTeam n f).jobs = s.jobs := rfl
@[simp] theorem State.modTeam_tiles (s : State) (n : Nat) (f : Team → Team) : (s.modTeam n f).tiles = s.tiles := rfl
@[simp] theorem State.modTeam_pairs (s : State) (n : Nat) (f : Team → Team) : (s.modTeam n f).pairs = s.pairs := rfl
@[simp] theorem State.modTeam_clus (s : State) (n : Nat) (f : Team → Team) : (s.modTeam n f).clus = s.clus := rfl
@[simp] theorem State.modTeam_buckets (s : State) (n : Nat) (f : Team → Team) : (s.modTeam n f).buckets = s.buckets := rfl
@[simp] theorem State.modTeam_zhr (s : State) (n : Nat) (f : Team → Team) : (s.modTeam n f).zhr = s.zhr := rfl
@[simp] theorem State.modTeam_win (s : State) (n : Nat) (f : Team → Team) : (s.modTeam n f).win = s.win := rfl
@[simp] theorem State.modTeam_routePend (s : State) (n : Nat) (f : Team → Team) : (s.modTeam n f).routePend = s.routePend := rfl
@[simp] theorem State.modTeam_flips (s : State) (n : Nat) (f : Team → Team) : (s.modTeam n f).flips = s.flips := rfl
@[simp] theorem State.modTeam_swap (s : State) (n : Nat) (f : Team → Team) : (s.modTeam n f).swap = s.swap := rfl
@[simp] theorem State.modTeam_swapped (s : State) (n : Nat) (f : Team → Team) : (s.modTeam n f).swapped = s.swapped := rfl
@[simp] theorem State.modTeam_swapTeams (s : State) (n : Nat) (f : Team → Team) : (s.modTeam n f).swapTeams = s.swapTeams := rfl
@[simp] theorem State.modTeam_streaming (s : State) (n : Nat) (f : Team → Team) : (s.modTeam n f).streaming = s.streaming := rfl
@[simp] theorem State.modTeam_snapDue (s : State) (n : Nat) (f : Team → Team) : (s.modTeam n f).snapDue = s.snapDue := rfl
@[simp] theorem State.modTeam_snapAt (s : State) (n : Nat) (f : Team → Team) : (s.modTeam n f).snapAt = s.snapAt := rfl
@[simp] theorem State.modTeam_snapSince (s : State) (n : Nat) (f : Team → Team) : (s.modTeam n f).snapSince = s.snapSince := rfl
@[simp] theorem State.modTeam_capEnd (s : State) (n : Nat) (f : Team → Team) : (s.modTeam n f).capEnd = s.capEnd := rfl
@[simp] theorem State.modTeam_pgtab (s : State) (n : Nat) (f : Team → Team) : (s.modTeam n f).pgtab = s.pgtab := rfl
@[simp] theorem State.modTeam_chip (s : State) (n : Nat) (f : Team → Team) : (s.modTeam n f).chip = s.chip := rfl
@[simp] theorem State.modTeam_form (s : State) (n : Nat) (f : Team → Team) : (s.modTeam n f).form = s.form := rfl
@[simp] theorem State.modTeam_serialNext (s : State) (n : Nat) (f : Team → Team) : (s.modTeam n f).serialNext = s.serialNext := rfl
@[simp] theorem State.modTeam_nextId (s : State) (n : Nat) (f : Team → Team) : (s.modTeam n f).nextId = s.nextId := rfl
@[simp] theorem State.modTeam_dt (s : State) (n : Nat) (f : Team → Team) : (s.modTeam n f).dt = s.dt := rfl
@[simp] theorem State.modTeam_half (s : State) (n : Nat) (f : Team → Team) : (s.modTeam n f).half = s.half := rfl
@[simp] theorem State.modTeam_lag (s : State) (n : Nat) (f : Team → Team) : (s.modTeam n f).lag = s.lag := rfl
@[simp] theorem State.modTeam_lastMessage (s : State) (n : Nat) (f : Team → Team) : (s.modTeam n f).lastMessage = s.lastMessage := rfl
@[simp] theorem State.modTeam_rootDt (s : State) (n : Nat) (f : Team → Team) : (s.modTeam n f).rootDt = s.rootDt := rfl
@[simp] theorem State.modTeam_rootClock (s : State) (n : Nat) (f : Team → Team) : (s.modTeam n f).rootClock = s.rootClock := rfl
@[simp] theorem State.modTeam_slewAt (s : State) (n : Nat) (f : Team → Team) : (s.modTeam n f).slewAt = s.slewAt := rfl
@[simp] theorem State.modTeam_clock (s : State) (n : Nat) (f : Team → Team) : (s.modTeam n f).clock = s.clock := rfl
@[simp] theorem State.modTeam_frozen (s : State) (n : Nat) (f : Team → Team) : (s.modTeam n f).frozen = s.frozen := rfl
@[simp] theorem State.modTeam_inputs (s : State) (n : Nat) (f : Team → Team) : (s.modTeam n f).inputs = s.inputs := rfl
@[simp] theorem State.modTeam_free (s : State) (n : Nat) (f : Team → Team) : (s.modTeam n f).free = s.free := rfl
@[simp] theorem State.modTeam_reply (s : State) (n : Nat) (f : Team → Team) : (s.modTeam n f).reply = s.reply := rfl
@[simp] theorem State.modTeam_replyStatus (s : State) (n : Nat) (f : Team → Team) : (s.modTeam n f).replyStatus = s.replyStatus := rfl
@[simp] theorem State.modTeam_raised (s : State) (n : Nat) (f : Team → Team) : (s.modTeam n f).raised = s.raised := rfl
@[simp] theorem State.modTeam_records (s : State) (n : Nat) (f : Team → Team) : (s.modTeam n f).records = s.records := rfl
@[simp] theorem State.modTeam_resets (s : State) (n : Nat) (f : Team → Team) : (s.modTeam n f).resets = s.resets := rfl

/-! `State.modGrid` -/

@[simp] theorem State.modGrid_g (s : State) (n : BitVec 32) (f : Grid → Grid) : (s.modGrid n f).g = s.g := rfl
@[simp] theorem State.modGrid_others (s : State) (n : BitVec 32) (f : Grid → Grid) : (s.modGrid n f).others = s.others := rfl
@[simp] theorem State.modGrid_teams (s : State) (n : BitVec 32) (f : Grid → Grid) : (s.modGrid n f).teams = s.teams := rfl
@[simp] theorem State.modGrid_ctxs (s : State) (n : BitVec 32) (f : Grid → Grid) : (s.modGrid n f).ctxs = s.ctxs := rfl
@[simp] theorem State.modGrid_mem (s : State) (n : BitVec 32) (f : Grid → Grid) : (s.modGrid n f).mem = s.mem := rfl
@[simp] theorem State.modGrid_hostMem (s : State) (n : BitVec 32) (f : Grid → Grid) : (s.modGrid n f).hostMem = s.hostMem := rfl
@[simp] theorem State.modGrid_remote (s : State) (n : BitVec 32) (f : Grid → Grid) : (s.modGrid n f).remote = s.remote := rfl
@[simp] theorem State.modGrid_poison (s : State) (n : BitVec 32) (f : Grid → Grid) : (s.modGrid n f).poison = s.poison := rfl
@[simp] theorem State.modGrid_coded (s : State) (n : BitVec 32) (f : Grid → Grid) : (s.modGrid n f).coded = s.coded := rfl
@[simp] theorem State.modGrid_tlb (s : State) (n : BitVec 32) (f : Grid → Grid) : (s.modGrid n f).tlb = s.tlb := rfl
@[simp] theorem State.modGrid_walks (s : State) (n : BitVec 32) (f : Grid → Grid) : (s.modGrid n f).walks = s.walks := rfl
@[simp] theorem State.modGrid_fetched (s : State) (n : BitVec 32) (f : Grid → Grid) : (s.modGrid n f).fetched = s.fetched := rfl
@[simp] theorem State.modGrid_l1 (s : State) (n : BitVec 32) (f : Grid → Grid) : (s.modGrid n f).l1 = s.l1 := rfl
@[simp] theorem State.modGrid_l2 (s : State) (n : BitVec 32) (f : Grid → Grid) : (s.modGrid n f).l2 = s.l2 := rfl
@[simp] theorem State.modGrid_lostStores (s : State) (n : BitVec 32) (f : Grid → Grid) : (s.modGrid n f).lostStores = s.lostStores := rfl
@[simp] theorem State.modGrid_strays (s : State) (n : BitVec 32) (f : Grid → Grid) : (s.modGrid n f).strays = s.strays := rfl
@[simp] theorem State.modGrid_owners (s : State) (n : BitVec 32) (f : Grid → Grid) : (s.modGrid n f).owners = s.owners := rfl
@[simp] theorem State.modGrid_hostLines (s : State) (n : BitVec 32) (f : Grid → Grid) : (s.modGrid n f).hostLines = s.hostLines := rfl
@[simp] theorem State.modGrid_chipShares (s : State) (n : BitVec 32) (f : Grid → Grid) : (s.modGrid n f).chipShares = s.chipShares := rfl
@[simp] theorem State.modGrid_invals (s : State) (n : BitVec 32) (f : Grid → Grid) : (s.modGrid n f).invals = s.invals := rfl
@[simp] theorem State.modGrid_prefs (s : State) (n : BitVec 32) (f : Grid → Grid) : (s.modGrid n f).prefs = s.prefs := rfl
@[simp] theorem State.modGrid_pushes (s : State) (n : BitVec 32) (f : Grid → Grid) : (s.modGrid n f).pushes = s.pushes := rfl
@[simp] theorem State.modGrid_waiting (s : State) (n : BitVec 32) (f : Grid → Grid) : (s.modGrid n f).waiting = s.waiting := rfl
@[simp] theorem State.modGrid_units (s : State) (n : BitVec 32) (f : Grid → Grid) : (s.modGrid n f).units = s.units := rfl
@[simp] theorem State.modGrid_locks (s : State) (n : BitVec 32) (f : Grid → Grid) : (s.modGrid n f).locks = s.locks := rfl
@[simp] theorem State.modGrid_woundMsgs (s : State) (n : BitVec 32) (f : Grid → Grid) : (s.modGrid n f).woundMsgs = s.woundMsgs := rfl
@[simp] theorem State.modGrid_domains (s : State) (n : BitVec 32) (f : Grid → Grid) : (s.modGrid n f).domains = s.domains := rfl
@[simp] theorem State.modGrid_cmds (s : State) (n : BitVec 32) (f : Grid → Grid) : (s.modGrid n f).cmds = s.cmds := rfl
@[simp] theorem State.modGrid_peerMsgs (s : State) (n : BitVec 32) (f : Grid → Grid) : (s.modGrid n f).peerMsgs = s.peerMsgs := rfl
@[simp] theorem State.modGrid_jobs (s : State) (n : BitVec 32) (f : Grid → Grid) : (s.modGrid n f).jobs = s.jobs := rfl
@[simp] theorem State.modGrid_tiles (s : State) (n : BitVec 32) (f : Grid → Grid) : (s.modGrid n f).tiles = s.tiles := rfl
@[simp] theorem State.modGrid_pairs (s : State) (n : BitVec 32) (f : Grid → Grid) : (s.modGrid n f).pairs = s.pairs := rfl
@[simp] theorem State.modGrid_clus (s : State) (n : BitVec 32) (f : Grid → Grid) : (s.modGrid n f).clus = s.clus := rfl
@[simp] theorem State.modGrid_buckets (s : State) (n : BitVec 32) (f : Grid → Grid) : (s.modGrid n f).buckets = s.buckets := rfl
@[simp] theorem State.modGrid_zhr (s : State) (n : BitVec 32) (f : Grid → Grid) : (s.modGrid n f).zhr = s.zhr := rfl
@[simp] theorem State.modGrid_win (s : State) (n : BitVec 32) (f : Grid → Grid) : (s.modGrid n f).win = s.win := rfl
@[simp] theorem State.modGrid_routePend (s : State) (n : BitVec 32) (f : Grid → Grid) : (s.modGrid n f).routePend = s.routePend := rfl
@[simp] theorem State.modGrid_flips (s : State) (n : BitVec 32) (f : Grid → Grid) : (s.modGrid n f).flips = s.flips := rfl
@[simp] theorem State.modGrid_swap (s : State) (n : BitVec 32) (f : Grid → Grid) : (s.modGrid n f).swap = s.swap := rfl
@[simp] theorem State.modGrid_swapped (s : State) (n : BitVec 32) (f : Grid → Grid) : (s.modGrid n f).swapped = s.swapped := rfl
@[simp] theorem State.modGrid_swapTeams (s : State) (n : BitVec 32) (f : Grid → Grid) : (s.modGrid n f).swapTeams = s.swapTeams := rfl
@[simp] theorem State.modGrid_streaming (s : State) (n : BitVec 32) (f : Grid → Grid) : (s.modGrid n f).streaming = s.streaming := rfl
@[simp] theorem State.modGrid_snapDue (s : State) (n : BitVec 32) (f : Grid → Grid) : (s.modGrid n f).snapDue = s.snapDue := rfl
@[simp] theorem State.modGrid_snapAt (s : State) (n : BitVec 32) (f : Grid → Grid) : (s.modGrid n f).snapAt = s.snapAt := rfl
@[simp] theorem State.modGrid_snapSince (s : State) (n : BitVec 32) (f : Grid → Grid) : (s.modGrid n f).snapSince = s.snapSince := rfl
@[simp] theorem State.modGrid_capEnd (s : State) (n : BitVec 32) (f : Grid → Grid) : (s.modGrid n f).capEnd = s.capEnd := rfl
@[simp] theorem State.modGrid_pgtab (s : State) (n : BitVec 32) (f : Grid → Grid) : (s.modGrid n f).pgtab = s.pgtab := rfl
@[simp] theorem State.modGrid_chip (s : State) (n : BitVec 32) (f : Grid → Grid) : (s.modGrid n f).chip = s.chip := rfl
@[simp] theorem State.modGrid_form (s : State) (n : BitVec 32) (f : Grid → Grid) : (s.modGrid n f).form = s.form := rfl
@[simp] theorem State.modGrid_serialNext (s : State) (n : BitVec 32) (f : Grid → Grid) : (s.modGrid n f).serialNext = s.serialNext := rfl
@[simp] theorem State.modGrid_nextId (s : State) (n : BitVec 32) (f : Grid → Grid) : (s.modGrid n f).nextId = s.nextId := rfl
@[simp] theorem State.modGrid_dt (s : State) (n : BitVec 32) (f : Grid → Grid) : (s.modGrid n f).dt = s.dt := rfl
@[simp] theorem State.modGrid_half (s : State) (n : BitVec 32) (f : Grid → Grid) : (s.modGrid n f).half = s.half := rfl
@[simp] theorem State.modGrid_lag (s : State) (n : BitVec 32) (f : Grid → Grid) : (s.modGrid n f).lag = s.lag := rfl
@[simp] theorem State.modGrid_lastMessage (s : State) (n : BitVec 32) (f : Grid → Grid) : (s.modGrid n f).lastMessage = s.lastMessage := rfl
@[simp] theorem State.modGrid_rootDt (s : State) (n : BitVec 32) (f : Grid → Grid) : (s.modGrid n f).rootDt = s.rootDt := rfl
@[simp] theorem State.modGrid_rootClock (s : State) (n : BitVec 32) (f : Grid → Grid) : (s.modGrid n f).rootClock = s.rootClock := rfl
@[simp] theorem State.modGrid_slewAt (s : State) (n : BitVec 32) (f : Grid → Grid) : (s.modGrid n f).slewAt = s.slewAt := rfl
@[simp] theorem State.modGrid_clock (s : State) (n : BitVec 32) (f : Grid → Grid) : (s.modGrid n f).clock = s.clock := rfl
@[simp] theorem State.modGrid_frozen (s : State) (n : BitVec 32) (f : Grid → Grid) : (s.modGrid n f).frozen = s.frozen := rfl
@[simp] theorem State.modGrid_inputs (s : State) (n : BitVec 32) (f : Grid → Grid) : (s.modGrid n f).inputs = s.inputs := rfl
@[simp] theorem State.modGrid_free (s : State) (n : BitVec 32) (f : Grid → Grid) : (s.modGrid n f).free = s.free := rfl
@[simp] theorem State.modGrid_reply (s : State) (n : BitVec 32) (f : Grid → Grid) : (s.modGrid n f).reply = s.reply := rfl
@[simp] theorem State.modGrid_replyStatus (s : State) (n : BitVec 32) (f : Grid → Grid) : (s.modGrid n f).replyStatus = s.replyStatus := rfl
@[simp] theorem State.modGrid_raised (s : State) (n : BitVec 32) (f : Grid → Grid) : (s.modGrid n f).raised = s.raised := rfl
@[simp] theorem State.modGrid_records (s : State) (n : BitVec 32) (f : Grid → Grid) : (s.modGrid n f).records = s.records := rfl
@[simp] theorem State.modGrid_resets (s : State) (n : BitVec 32) (f : Grid → Grid) : (s.modGrid n f).resets = s.resets := rfl

/-! `State.winSet` -/

@[simp] theorem State.winSet_g (s : State) (n : Nat) (x : W64) : (s.winSet n x).g = s.g := rfl
@[simp] theorem State.winSet_others (s : State) (n : Nat) (x : W64) : (s.winSet n x).others = s.others := rfl
@[simp] theorem State.winSet_teams (s : State) (n : Nat) (x : W64) : (s.winSet n x).teams = s.teams := rfl
@[simp] theorem State.winSet_grids (s : State) (n : Nat) (x : W64) : (s.winSet n x).grids = s.grids := rfl
@[simp] theorem State.winSet_ctxs (s : State) (n : Nat) (x : W64) : (s.winSet n x).ctxs = s.ctxs := rfl
@[simp] theorem State.winSet_mem (s : State) (n : Nat) (x : W64) : (s.winSet n x).mem = s.mem := rfl
@[simp] theorem State.winSet_hostMem (s : State) (n : Nat) (x : W64) : (s.winSet n x).hostMem = s.hostMem := rfl
@[simp] theorem State.winSet_remote (s : State) (n : Nat) (x : W64) : (s.winSet n x).remote = s.remote := rfl
@[simp] theorem State.winSet_poison (s : State) (n : Nat) (x : W64) : (s.winSet n x).poison = s.poison := rfl
@[simp] theorem State.winSet_coded (s : State) (n : Nat) (x : W64) : (s.winSet n x).coded = s.coded := rfl
@[simp] theorem State.winSet_tlb (s : State) (n : Nat) (x : W64) : (s.winSet n x).tlb = s.tlb := rfl
@[simp] theorem State.winSet_walks (s : State) (n : Nat) (x : W64) : (s.winSet n x).walks = s.walks := rfl
@[simp] theorem State.winSet_fetched (s : State) (n : Nat) (x : W64) : (s.winSet n x).fetched = s.fetched := rfl
@[simp] theorem State.winSet_l1 (s : State) (n : Nat) (x : W64) : (s.winSet n x).l1 = s.l1 := rfl
@[simp] theorem State.winSet_l2 (s : State) (n : Nat) (x : W64) : (s.winSet n x).l2 = s.l2 := rfl
@[simp] theorem State.winSet_lostStores (s : State) (n : Nat) (x : W64) : (s.winSet n x).lostStores = s.lostStores := rfl
@[simp] theorem State.winSet_strays (s : State) (n : Nat) (x : W64) : (s.winSet n x).strays = s.strays := rfl
@[simp] theorem State.winSet_owners (s : State) (n : Nat) (x : W64) : (s.winSet n x).owners = s.owners := rfl
@[simp] theorem State.winSet_hostLines (s : State) (n : Nat) (x : W64) : (s.winSet n x).hostLines = s.hostLines := rfl
@[simp] theorem State.winSet_chipShares (s : State) (n : Nat) (x : W64) : (s.winSet n x).chipShares = s.chipShares := rfl
@[simp] theorem State.winSet_invals (s : State) (n : Nat) (x : W64) : (s.winSet n x).invals = s.invals := rfl
@[simp] theorem State.winSet_prefs (s : State) (n : Nat) (x : W64) : (s.winSet n x).prefs = s.prefs := rfl
@[simp] theorem State.winSet_pushes (s : State) (n : Nat) (x : W64) : (s.winSet n x).pushes = s.pushes := rfl
@[simp] theorem State.winSet_waiting (s : State) (n : Nat) (x : W64) : (s.winSet n x).waiting = s.waiting := rfl
@[simp] theorem State.winSet_units (s : State) (n : Nat) (x : W64) : (s.winSet n x).units = s.units := rfl
@[simp] theorem State.winSet_locks (s : State) (n : Nat) (x : W64) : (s.winSet n x).locks = s.locks := rfl
@[simp] theorem State.winSet_woundMsgs (s : State) (n : Nat) (x : W64) : (s.winSet n x).woundMsgs = s.woundMsgs := rfl
@[simp] theorem State.winSet_domains (s : State) (n : Nat) (x : W64) : (s.winSet n x).domains = s.domains := rfl
@[simp] theorem State.winSet_cmds (s : State) (n : Nat) (x : W64) : (s.winSet n x).cmds = s.cmds := rfl
@[simp] theorem State.winSet_peerMsgs (s : State) (n : Nat) (x : W64) : (s.winSet n x).peerMsgs = s.peerMsgs := rfl
@[simp] theorem State.winSet_jobs (s : State) (n : Nat) (x : W64) : (s.winSet n x).jobs = s.jobs := rfl
@[simp] theorem State.winSet_tiles (s : State) (n : Nat) (x : W64) : (s.winSet n x).tiles = s.tiles := rfl
@[simp] theorem State.winSet_pairs (s : State) (n : Nat) (x : W64) : (s.winSet n x).pairs = s.pairs := rfl
@[simp] theorem State.winSet_clus (s : State) (n : Nat) (x : W64) : (s.winSet n x).clus = s.clus := rfl
@[simp] theorem State.winSet_buckets (s : State) (n : Nat) (x : W64) : (s.winSet n x).buckets = s.buckets := rfl
@[simp] theorem State.winSet_zhr (s : State) (n : Nat) (x : W64) : (s.winSet n x).zhr = s.zhr := rfl
@[simp] theorem State.winSet_routePend (s : State) (n : Nat) (x : W64) : (s.winSet n x).routePend = s.routePend := rfl
@[simp] theorem State.winSet_flips (s : State) (n : Nat) (x : W64) : (s.winSet n x).flips = s.flips := rfl
@[simp] theorem State.winSet_swap (s : State) (n : Nat) (x : W64) : (s.winSet n x).swap = s.swap := rfl
@[simp] theorem State.winSet_swapped (s : State) (n : Nat) (x : W64) : (s.winSet n x).swapped = s.swapped := rfl
@[simp] theorem State.winSet_swapTeams (s : State) (n : Nat) (x : W64) : (s.winSet n x).swapTeams = s.swapTeams := rfl
@[simp] theorem State.winSet_streaming (s : State) (n : Nat) (x : W64) : (s.winSet n x).streaming = s.streaming := rfl
@[simp] theorem State.winSet_snapDue (s : State) (n : Nat) (x : W64) : (s.winSet n x).snapDue = s.snapDue := rfl
@[simp] theorem State.winSet_snapAt (s : State) (n : Nat) (x : W64) : (s.winSet n x).snapAt = s.snapAt := rfl
@[simp] theorem State.winSet_snapSince (s : State) (n : Nat) (x : W64) : (s.winSet n x).snapSince = s.snapSince := rfl
@[simp] theorem State.winSet_capEnd (s : State) (n : Nat) (x : W64) : (s.winSet n x).capEnd = s.capEnd := rfl
@[simp] theorem State.winSet_pgtab (s : State) (n : Nat) (x : W64) : (s.winSet n x).pgtab = s.pgtab := rfl
@[simp] theorem State.winSet_chip (s : State) (n : Nat) (x : W64) : (s.winSet n x).chip = s.chip := rfl
@[simp] theorem State.winSet_form (s : State) (n : Nat) (x : W64) : (s.winSet n x).form = s.form := rfl
@[simp] theorem State.winSet_serialNext (s : State) (n : Nat) (x : W64) : (s.winSet n x).serialNext = s.serialNext := rfl
@[simp] theorem State.winSet_nextId (s : State) (n : Nat) (x : W64) : (s.winSet n x).nextId = s.nextId := rfl
@[simp] theorem State.winSet_dt (s : State) (n : Nat) (x : W64) : (s.winSet n x).dt = s.dt := rfl
@[simp] theorem State.winSet_half (s : State) (n : Nat) (x : W64) : (s.winSet n x).half = s.half := rfl
@[simp] theorem State.winSet_lag (s : State) (n : Nat) (x : W64) : (s.winSet n x).lag = s.lag := rfl
@[simp] theorem State.winSet_lastMessage (s : State) (n : Nat) (x : W64) : (s.winSet n x).lastMessage = s.lastMessage := rfl
@[simp] theorem State.winSet_rootDt (s : State) (n : Nat) (x : W64) : (s.winSet n x).rootDt = s.rootDt := rfl
@[simp] theorem State.winSet_rootClock (s : State) (n : Nat) (x : W64) : (s.winSet n x).rootClock = s.rootClock := rfl
@[simp] theorem State.winSet_slewAt (s : State) (n : Nat) (x : W64) : (s.winSet n x).slewAt = s.slewAt := rfl
@[simp] theorem State.winSet_clock (s : State) (n : Nat) (x : W64) : (s.winSet n x).clock = s.clock := rfl
@[simp] theorem State.winSet_frozen (s : State) (n : Nat) (x : W64) : (s.winSet n x).frozen = s.frozen := rfl
@[simp] theorem State.winSet_inputs (s : State) (n : Nat) (x : W64) : (s.winSet n x).inputs = s.inputs := rfl
@[simp] theorem State.winSet_free (s : State) (n : Nat) (x : W64) : (s.winSet n x).free = s.free := rfl
@[simp] theorem State.winSet_reply (s : State) (n : Nat) (x : W64) : (s.winSet n x).reply = s.reply := rfl
@[simp] theorem State.winSet_replyStatus (s : State) (n : Nat) (x : W64) : (s.winSet n x).replyStatus = s.replyStatus := rfl
@[simp] theorem State.winSet_raised (s : State) (n : Nat) (x : W64) : (s.winSet n x).raised = s.raised := rfl
@[simp] theorem State.winSet_records (s : State) (n : Nat) (x : W64) : (s.winSet n x).records = s.records := rfl
@[simp] theorem State.winSet_resets (s : State) (n : Nat) (x : W64) : (s.winSet n x).resets = s.resets := rfl

/-! `State.mapGroups` -/

@[simp] theorem State.mapGroups_teams (s : State) (f : Group → Group) : (s.mapGroups f).teams = s.teams := rfl
@[simp] theorem State.mapGroups_grids (s : State) (f : Group → Group) : (s.mapGroups f).grids = s.grids := rfl
@[simp] theorem State.mapGroups_ctxs (s : State) (f : Group → Group) : (s.mapGroups f).ctxs = s.ctxs := rfl
@[simp] theorem State.mapGroups_mem (s : State) (f : Group → Group) : (s.mapGroups f).mem = s.mem := rfl
@[simp] theorem State.mapGroups_hostMem (s : State) (f : Group → Group) : (s.mapGroups f).hostMem = s.hostMem := rfl
@[simp] theorem State.mapGroups_remote (s : State) (f : Group → Group) : (s.mapGroups f).remote = s.remote := rfl
@[simp] theorem State.mapGroups_poison (s : State) (f : Group → Group) : (s.mapGroups f).poison = s.poison := rfl
@[simp] theorem State.mapGroups_coded (s : State) (f : Group → Group) : (s.mapGroups f).coded = s.coded := rfl
@[simp] theorem State.mapGroups_tlb (s : State) (f : Group → Group) : (s.mapGroups f).tlb = s.tlb := rfl
@[simp] theorem State.mapGroups_walks (s : State) (f : Group → Group) : (s.mapGroups f).walks = s.walks := rfl
@[simp] theorem State.mapGroups_fetched (s : State) (f : Group → Group) : (s.mapGroups f).fetched = s.fetched := rfl
@[simp] theorem State.mapGroups_l1 (s : State) (f : Group → Group) : (s.mapGroups f).l1 = s.l1 := rfl
@[simp] theorem State.mapGroups_l2 (s : State) (f : Group → Group) : (s.mapGroups f).l2 = s.l2 := rfl
@[simp] theorem State.mapGroups_lostStores (s : State) (f : Group → Group) : (s.mapGroups f).lostStores = s.lostStores := rfl
@[simp] theorem State.mapGroups_strays (s : State) (f : Group → Group) : (s.mapGroups f).strays = s.strays := rfl
@[simp] theorem State.mapGroups_owners (s : State) (f : Group → Group) : (s.mapGroups f).owners = s.owners := rfl
@[simp] theorem State.mapGroups_hostLines (s : State) (f : Group → Group) : (s.mapGroups f).hostLines = s.hostLines := rfl
@[simp] theorem State.mapGroups_chipShares (s : State) (f : Group → Group) : (s.mapGroups f).chipShares = s.chipShares := rfl
@[simp] theorem State.mapGroups_invals (s : State) (f : Group → Group) : (s.mapGroups f).invals = s.invals := rfl
@[simp] theorem State.mapGroups_prefs (s : State) (f : Group → Group) : (s.mapGroups f).prefs = s.prefs := rfl
@[simp] theorem State.mapGroups_pushes (s : State) (f : Group → Group) : (s.mapGroups f).pushes = s.pushes := rfl
@[simp] theorem State.mapGroups_waiting (s : State) (f : Group → Group) : (s.mapGroups f).waiting = s.waiting := rfl
@[simp] theorem State.mapGroups_units (s : State) (f : Group → Group) : (s.mapGroups f).units = s.units := rfl
@[simp] theorem State.mapGroups_locks (s : State) (f : Group → Group) : (s.mapGroups f).locks = s.locks := rfl
@[simp] theorem State.mapGroups_woundMsgs (s : State) (f : Group → Group) : (s.mapGroups f).woundMsgs = s.woundMsgs := rfl
@[simp] theorem State.mapGroups_domains (s : State) (f : Group → Group) : (s.mapGroups f).domains = s.domains := rfl
@[simp] theorem State.mapGroups_cmds (s : State) (f : Group → Group) : (s.mapGroups f).cmds = s.cmds := rfl
@[simp] theorem State.mapGroups_peerMsgs (s : State) (f : Group → Group) : (s.mapGroups f).peerMsgs = s.peerMsgs := rfl
@[simp] theorem State.mapGroups_jobs (s : State) (f : Group → Group) : (s.mapGroups f).jobs = s.jobs := rfl
@[simp] theorem State.mapGroups_tiles (s : State) (f : Group → Group) : (s.mapGroups f).tiles = s.tiles := rfl
@[simp] theorem State.mapGroups_pairs (s : State) (f : Group → Group) : (s.mapGroups f).pairs = s.pairs := rfl
@[simp] theorem State.mapGroups_clus (s : State) (f : Group → Group) : (s.mapGroups f).clus = s.clus := rfl
@[simp] theorem State.mapGroups_buckets (s : State) (f : Group → Group) : (s.mapGroups f).buckets = s.buckets := rfl
@[simp] theorem State.mapGroups_zhr (s : State) (f : Group → Group) : (s.mapGroups f).zhr = s.zhr := rfl
@[simp] theorem State.mapGroups_win (s : State) (f : Group → Group) : (s.mapGroups f).win = s.win := rfl
@[simp] theorem State.mapGroups_routePend (s : State) (f : Group → Group) : (s.mapGroups f).routePend = s.routePend := rfl
@[simp] theorem State.mapGroups_flips (s : State) (f : Group → Group) : (s.mapGroups f).flips = s.flips := rfl
@[simp] theorem State.mapGroups_swap (s : State) (f : Group → Group) : (s.mapGroups f).swap = s.swap := rfl
@[simp] theorem State.mapGroups_swapped (s : State) (f : Group → Group) : (s.mapGroups f).swapped = s.swapped := rfl
@[simp] theorem State.mapGroups_swapTeams (s : State) (f : Group → Group) : (s.mapGroups f).swapTeams = s.swapTeams := rfl
@[simp] theorem State.mapGroups_streaming (s : State) (f : Group → Group) : (s.mapGroups f).streaming = s.streaming := rfl
@[simp] theorem State.mapGroups_snapDue (s : State) (f : Group → Group) : (s.mapGroups f).snapDue = s.snapDue := rfl
@[simp] theorem State.mapGroups_snapAt (s : State) (f : Group → Group) : (s.mapGroups f).snapAt = s.snapAt := rfl
@[simp] theorem State.mapGroups_snapSince (s : State) (f : Group → Group) : (s.mapGroups f).snapSince = s.snapSince := rfl
@[simp] theorem State.mapGroups_capEnd (s : State) (f : Group → Group) : (s.mapGroups f).capEnd = s.capEnd := rfl
@[simp] theorem State.mapGroups_pgtab (s : State) (f : Group → Group) : (s.mapGroups f).pgtab = s.pgtab := rfl
@[simp] theorem State.mapGroups_chip (s : State) (f : Group → Group) : (s.mapGroups f).chip = s.chip := rfl
@[simp] theorem State.mapGroups_form (s : State) (f : Group → Group) : (s.mapGroups f).form = s.form := rfl
@[simp] theorem State.mapGroups_serialNext (s : State) (f : Group → Group) : (s.mapGroups f).serialNext = s.serialNext := rfl
@[simp] theorem State.mapGroups_nextId (s : State) (f : Group → Group) : (s.mapGroups f).nextId = s.nextId := rfl
@[simp] theorem State.mapGroups_dt (s : State) (f : Group → Group) : (s.mapGroups f).dt = s.dt := rfl
@[simp] theorem State.mapGroups_half (s : State) (f : Group → Group) : (s.mapGroups f).half = s.half := rfl
@[simp] theorem State.mapGroups_lag (s : State) (f : Group → Group) : (s.mapGroups f).lag = s.lag := rfl
@[simp] theorem State.mapGroups_lastMessage (s : State) (f : Group → Group) : (s.mapGroups f).lastMessage = s.lastMessage := rfl
@[simp] theorem State.mapGroups_rootDt (s : State) (f : Group → Group) : (s.mapGroups f).rootDt = s.rootDt := rfl
@[simp] theorem State.mapGroups_rootClock (s : State) (f : Group → Group) : (s.mapGroups f).rootClock = s.rootClock := rfl
@[simp] theorem State.mapGroups_slewAt (s : State) (f : Group → Group) : (s.mapGroups f).slewAt = s.slewAt := rfl
@[simp] theorem State.mapGroups_clock (s : State) (f : Group → Group) : (s.mapGroups f).clock = s.clock := rfl
@[simp] theorem State.mapGroups_frozen (s : State) (f : Group → Group) : (s.mapGroups f).frozen = s.frozen := rfl
@[simp] theorem State.mapGroups_inputs (s : State) (f : Group → Group) : (s.mapGroups f).inputs = s.inputs := rfl
@[simp] theorem State.mapGroups_free (s : State) (f : Group → Group) : (s.mapGroups f).free = s.free := rfl
@[simp] theorem State.mapGroups_reply (s : State) (f : Group → Group) : (s.mapGroups f).reply = s.reply := rfl
@[simp] theorem State.mapGroups_replyStatus (s : State) (f : Group → Group) : (s.mapGroups f).replyStatus = s.replyStatus := rfl
@[simp] theorem State.mapGroups_raised (s : State) (f : Group → Group) : (s.mapGroups f).raised = s.raised := rfl
@[simp] theorem State.mapGroups_records (s : State) (f : Group → Group) : (s.mapGroups f).records = s.records := rfl
@[simp] theorem State.mapGroups_resets (s : State) (f : Group → Group) : (s.mapGroups f).resets = s.resets := rfl

/-! `State.closeGroup` -/

@[simp] theorem State.closeGroup_g (s : State) (g : Group) (a b c : Nat) : (s.closeGroup g a b c).g = s.g := rfl
@[simp] theorem State.closeGroup_others (s : State) (g : Group) (a b c : Nat) : (s.closeGroup g a b c).others = s.others := rfl
@[simp] theorem State.closeGroup_grids (s : State) (g : Group) (a b c : Nat) : (s.closeGroup g a b c).grids = s.grids := rfl
@[simp] theorem State.closeGroup_ctxs (s : State) (g : Group) (a b c : Nat) : (s.closeGroup g a b c).ctxs = s.ctxs := rfl
@[simp] theorem State.closeGroup_mem (s : State) (g : Group) (a b c : Nat) : (s.closeGroup g a b c).mem = s.mem := rfl
@[simp] theorem State.closeGroup_hostMem (s : State) (g : Group) (a b c : Nat) : (s.closeGroup g a b c).hostMem = s.hostMem := rfl
@[simp] theorem State.closeGroup_remote (s : State) (g : Group) (a b c : Nat) : (s.closeGroup g a b c).remote = s.remote := rfl
@[simp] theorem State.closeGroup_poison (s : State) (g : Group) (a b c : Nat) : (s.closeGroup g a b c).poison = s.poison := rfl
@[simp] theorem State.closeGroup_coded (s : State) (g : Group) (a b c : Nat) : (s.closeGroup g a b c).coded = s.coded := rfl
@[simp] theorem State.closeGroup_tlb (s : State) (g : Group) (a b c : Nat) : (s.closeGroup g a b c).tlb = s.tlb := rfl
@[simp] theorem State.closeGroup_walks (s : State) (g : Group) (a b c : Nat) : (s.closeGroup g a b c).walks = s.walks := rfl
@[simp] theorem State.closeGroup_fetched (s : State) (g : Group) (a b c : Nat) : (s.closeGroup g a b c).fetched = s.fetched := rfl
@[simp] theorem State.closeGroup_l1 (s : State) (g : Group) (a b c : Nat) : (s.closeGroup g a b c).l1 = s.l1 := rfl
@[simp] theorem State.closeGroup_l2 (s : State) (g : Group) (a b c : Nat) : (s.closeGroup g a b c).l2 = s.l2 := rfl
@[simp] theorem State.closeGroup_lostStores (s : State) (g : Group) (a b c : Nat) : (s.closeGroup g a b c).lostStores = s.lostStores := rfl
@[simp] theorem State.closeGroup_strays (s : State) (g : Group) (a b c : Nat) : (s.closeGroup g a b c).strays = s.strays := rfl
@[simp] theorem State.closeGroup_owners (s : State) (g : Group) (a b c : Nat) : (s.closeGroup g a b c).owners = s.owners := rfl
@[simp] theorem State.closeGroup_hostLines (s : State) (g : Group) (a b c : Nat) : (s.closeGroup g a b c).hostLines = s.hostLines := rfl
@[simp] theorem State.closeGroup_chipShares (s : State) (g : Group) (a b c : Nat) : (s.closeGroup g a b c).chipShares = s.chipShares := rfl
@[simp] theorem State.closeGroup_invals (s : State) (g : Group) (a b c : Nat) : (s.closeGroup g a b c).invals = s.invals := rfl
@[simp] theorem State.closeGroup_prefs (s : State) (g : Group) (a b c : Nat) : (s.closeGroup g a b c).prefs = s.prefs := rfl
@[simp] theorem State.closeGroup_pushes (s : State) (g : Group) (a b c : Nat) : (s.closeGroup g a b c).pushes = s.pushes := rfl
@[simp] theorem State.closeGroup_waiting (s : State) (g : Group) (a b c : Nat) : (s.closeGroup g a b c).waiting = s.waiting := rfl
@[simp] theorem State.closeGroup_units (s : State) (g : Group) (a b c : Nat) : (s.closeGroup g a b c).units = s.units := rfl
@[simp] theorem State.closeGroup_locks (s : State) (g : Group) (a b c : Nat) : (s.closeGroup g a b c).locks = s.locks := rfl
@[simp] theorem State.closeGroup_woundMsgs (s : State) (g : Group) (a b c : Nat) : (s.closeGroup g a b c).woundMsgs = s.woundMsgs := rfl
@[simp] theorem State.closeGroup_domains (s : State) (g : Group) (a b c : Nat) : (s.closeGroup g a b c).domains = s.domains := rfl
@[simp] theorem State.closeGroup_cmds (s : State) (g : Group) (a b c : Nat) : (s.closeGroup g a b c).cmds = s.cmds := rfl
@[simp] theorem State.closeGroup_peerMsgs (s : State) (g : Group) (a b c : Nat) : (s.closeGroup g a b c).peerMsgs = s.peerMsgs := rfl
@[simp] theorem State.closeGroup_jobs (s : State) (g : Group) (a b c : Nat) : (s.closeGroup g a b c).jobs = s.jobs := rfl
@[simp] theorem State.closeGroup_tiles (s : State) (g : Group) (a b c : Nat) : (s.closeGroup g a b c).tiles = s.tiles := rfl
@[simp] theorem State.closeGroup_pairs (s : State) (g : Group) (a b c : Nat) : (s.closeGroup g a b c).pairs = s.pairs := rfl
@[simp] theorem State.closeGroup_clus (s : State) (g : Group) (a b c : Nat) : (s.closeGroup g a b c).clus = s.clus := rfl
@[simp] theorem State.closeGroup_buckets (s : State) (g : Group) (a b c : Nat) : (s.closeGroup g a b c).buckets = s.buckets := rfl
@[simp] theorem State.closeGroup_zhr (s : State) (g : Group) (a b c : Nat) : (s.closeGroup g a b c).zhr = s.zhr := rfl
@[simp] theorem State.closeGroup_win (s : State) (g : Group) (a b c : Nat) : (s.closeGroup g a b c).win = s.win := rfl
@[simp] theorem State.closeGroup_routePend (s : State) (g : Group) (a b c : Nat) : (s.closeGroup g a b c).routePend = s.routePend := rfl
@[simp] theorem State.closeGroup_flips (s : State) (g : Group) (a b c : Nat) : (s.closeGroup g a b c).flips = s.flips := rfl
@[simp] theorem State.closeGroup_swap (s : State) (g : Group) (a b c : Nat) : (s.closeGroup g a b c).swap = s.swap := rfl
@[simp] theorem State.closeGroup_swapped (s : State) (g : Group) (a b c : Nat) : (s.closeGroup g a b c).swapped = s.swapped := rfl
@[simp] theorem State.closeGroup_swapTeams (s : State) (g : Group) (a b c : Nat) : (s.closeGroup g a b c).swapTeams = s.swapTeams := rfl
@[simp] theorem State.closeGroup_streaming (s : State) (g : Group) (a b c : Nat) : (s.closeGroup g a b c).streaming = s.streaming := rfl
@[simp] theorem State.closeGroup_snapDue (s : State) (g : Group) (a b c : Nat) : (s.closeGroup g a b c).snapDue = s.snapDue := rfl
@[simp] theorem State.closeGroup_snapAt (s : State) (g : Group) (a b c : Nat) : (s.closeGroup g a b c).snapAt = s.snapAt := rfl
@[simp] theorem State.closeGroup_snapSince (s : State) (g : Group) (a b c : Nat) : (s.closeGroup g a b c).snapSince = s.snapSince := rfl
@[simp] theorem State.closeGroup_capEnd (s : State) (g : Group) (a b c : Nat) : (s.closeGroup g a b c).capEnd = s.capEnd := rfl
@[simp] theorem State.closeGroup_pgtab (s : State) (g : Group) (a b c : Nat) : (s.closeGroup g a b c).pgtab = s.pgtab := rfl
@[simp] theorem State.closeGroup_chip (s : State) (g : Group) (a b c : Nat) : (s.closeGroup g a b c).chip = s.chip := rfl
@[simp] theorem State.closeGroup_form (s : State) (g : Group) (a b c : Nat) : (s.closeGroup g a b c).form = s.form := rfl
@[simp] theorem State.closeGroup_serialNext (s : State) (g : Group) (a b c : Nat) : (s.closeGroup g a b c).serialNext = s.serialNext := rfl
@[simp] theorem State.closeGroup_nextId (s : State) (g : Group) (a b c : Nat) : (s.closeGroup g a b c).nextId = s.nextId := rfl
@[simp] theorem State.closeGroup_dt (s : State) (g : Group) (a b c : Nat) : (s.closeGroup g a b c).dt = s.dt := rfl
@[simp] theorem State.closeGroup_half (s : State) (g : Group) (a b c : Nat) : (s.closeGroup g a b c).half = s.half := rfl
@[simp] theorem State.closeGroup_lag (s : State) (g : Group) (a b c : Nat) : (s.closeGroup g a b c).lag = s.lag := rfl
@[simp] theorem State.closeGroup_lastMessage (s : State) (g : Group) (a b c : Nat) : (s.closeGroup g a b c).lastMessage = s.lastMessage := rfl
@[simp] theorem State.closeGroup_rootDt (s : State) (g : Group) (a b c : Nat) : (s.closeGroup g a b c).rootDt = s.rootDt := rfl
@[simp] theorem State.closeGroup_rootClock (s : State) (g : Group) (a b c : Nat) : (s.closeGroup g a b c).rootClock = s.rootClock := rfl
@[simp] theorem State.closeGroup_slewAt (s : State) (g : Group) (a b c : Nat) : (s.closeGroup g a b c).slewAt = s.slewAt := rfl
@[simp] theorem State.closeGroup_clock (s : State) (g : Group) (a b c : Nat) : (s.closeGroup g a b c).clock = s.clock := rfl
@[simp] theorem State.closeGroup_frozen (s : State) (g : Group) (a b c : Nat) : (s.closeGroup g a b c).frozen = s.frozen := rfl
@[simp] theorem State.closeGroup_inputs (s : State) (g : Group) (a b c : Nat) : (s.closeGroup g a b c).inputs = s.inputs := rfl
@[simp] theorem State.closeGroup_free (s : State) (g : Group) (a b c : Nat) : (s.closeGroup g a b c).free = s.free := rfl
@[simp] theorem State.closeGroup_reply (s : State) (g : Group) (a b c : Nat) : (s.closeGroup g a b c).reply = s.reply := rfl
@[simp] theorem State.closeGroup_replyStatus (s : State) (g : Group) (a b c : Nat) : (s.closeGroup g a b c).replyStatus = s.replyStatus := rfl
@[simp] theorem State.closeGroup_raised (s : State) (g : Group) (a b c : Nat) : (s.closeGroup g a b c).raised = s.raised := rfl
@[simp] theorem State.closeGroup_records (s : State) (g : Group) (a b c : Nat) : (s.closeGroup g a b c).records = s.records := rfl
@[simp] theorem State.closeGroup_resets (s : State) (g : Group) (a b c : Nat) : (s.closeGroup g a b c).resets = s.resets := rfl

/-! `State.modChord` -/

@[simp] theorem State.modChord_g (s : State) (n : Nat) (f : Chord → Chord) : (s.modChord n f).g = s.g := rfl
@[simp] theorem State.modChord_others (s : State) (n : Nat) (f : Chord → Chord) : (s.modChord n f).others = s.others := rfl
@[simp] theorem State.modChord_grids (s : State) (n : Nat) (f : Chord → Chord) : (s.modChord n f).grids = s.grids := rfl
@[simp] theorem State.modChord_ctxs (s : State) (n : Nat) (f : Chord → Chord) : (s.modChord n f).ctxs = s.ctxs := rfl
@[simp] theorem State.modChord_mem (s : State) (n : Nat) (f : Chord → Chord) : (s.modChord n f).mem = s.mem := rfl
@[simp] theorem State.modChord_hostMem (s : State) (n : Nat) (f : Chord → Chord) : (s.modChord n f).hostMem = s.hostMem := rfl
@[simp] theorem State.modChord_remote (s : State) (n : Nat) (f : Chord → Chord) : (s.modChord n f).remote = s.remote := rfl
@[simp] theorem State.modChord_poison (s : State) (n : Nat) (f : Chord → Chord) : (s.modChord n f).poison = s.poison := rfl
@[simp] theorem State.modChord_coded (s : State) (n : Nat) (f : Chord → Chord) : (s.modChord n f).coded = s.coded := rfl
@[simp] theorem State.modChord_tlb (s : State) (n : Nat) (f : Chord → Chord) : (s.modChord n f).tlb = s.tlb := rfl
@[simp] theorem State.modChord_walks (s : State) (n : Nat) (f : Chord → Chord) : (s.modChord n f).walks = s.walks := rfl
@[simp] theorem State.modChord_fetched (s : State) (n : Nat) (f : Chord → Chord) : (s.modChord n f).fetched = s.fetched := rfl
@[simp] theorem State.modChord_l1 (s : State) (n : Nat) (f : Chord → Chord) : (s.modChord n f).l1 = s.l1 := rfl
@[simp] theorem State.modChord_l2 (s : State) (n : Nat) (f : Chord → Chord) : (s.modChord n f).l2 = s.l2 := rfl
@[simp] theorem State.modChord_lostStores (s : State) (n : Nat) (f : Chord → Chord) : (s.modChord n f).lostStores = s.lostStores := rfl
@[simp] theorem State.modChord_strays (s : State) (n : Nat) (f : Chord → Chord) : (s.modChord n f).strays = s.strays := rfl
@[simp] theorem State.modChord_owners (s : State) (n : Nat) (f : Chord → Chord) : (s.modChord n f).owners = s.owners := rfl
@[simp] theorem State.modChord_hostLines (s : State) (n : Nat) (f : Chord → Chord) : (s.modChord n f).hostLines = s.hostLines := rfl
@[simp] theorem State.modChord_chipShares (s : State) (n : Nat) (f : Chord → Chord) : (s.modChord n f).chipShares = s.chipShares := rfl
@[simp] theorem State.modChord_invals (s : State) (n : Nat) (f : Chord → Chord) : (s.modChord n f).invals = s.invals := rfl
@[simp] theorem State.modChord_prefs (s : State) (n : Nat) (f : Chord → Chord) : (s.modChord n f).prefs = s.prefs := rfl
@[simp] theorem State.modChord_pushes (s : State) (n : Nat) (f : Chord → Chord) : (s.modChord n f).pushes = s.pushes := rfl
@[simp] theorem State.modChord_waiting (s : State) (n : Nat) (f : Chord → Chord) : (s.modChord n f).waiting = s.waiting := rfl
@[simp] theorem State.modChord_units (s : State) (n : Nat) (f : Chord → Chord) : (s.modChord n f).units = s.units := rfl
@[simp] theorem State.modChord_locks (s : State) (n : Nat) (f : Chord → Chord) : (s.modChord n f).locks = s.locks := rfl
@[simp] theorem State.modChord_woundMsgs (s : State) (n : Nat) (f : Chord → Chord) : (s.modChord n f).woundMsgs = s.woundMsgs := rfl
@[simp] theorem State.modChord_domains (s : State) (n : Nat) (f : Chord → Chord) : (s.modChord n f).domains = s.domains := rfl
@[simp] theorem State.modChord_cmds (s : State) (n : Nat) (f : Chord → Chord) : (s.modChord n f).cmds = s.cmds := rfl
@[simp] theorem State.modChord_peerMsgs (s : State) (n : Nat) (f : Chord → Chord) : (s.modChord n f).peerMsgs = s.peerMsgs := rfl
@[simp] theorem State.modChord_jobs (s : State) (n : Nat) (f : Chord → Chord) : (s.modChord n f).jobs = s.jobs := rfl
@[simp] theorem State.modChord_tiles (s : State) (n : Nat) (f : Chord → Chord) : (s.modChord n f).tiles = s.tiles := rfl
@[simp] theorem State.modChord_pairs (s : State) (n : Nat) (f : Chord → Chord) : (s.modChord n f).pairs = s.pairs := rfl
@[simp] theorem State.modChord_clus (s : State) (n : Nat) (f : Chord → Chord) : (s.modChord n f).clus = s.clus := rfl
@[simp] theorem State.modChord_buckets (s : State) (n : Nat) (f : Chord → Chord) : (s.modChord n f).buckets = s.buckets := rfl
@[simp] theorem State.modChord_zhr (s : State) (n : Nat) (f : Chord → Chord) : (s.modChord n f).zhr = s.zhr := rfl
@[simp] theorem State.modChord_win (s : State) (n : Nat) (f : Chord → Chord) : (s.modChord n f).win = s.win := rfl
@[simp] theorem State.modChord_routePend (s : State) (n : Nat) (f : Chord → Chord) : (s.modChord n f).routePend = s.routePend := rfl
@[simp] theorem State.modChord_flips (s : State) (n : Nat) (f : Chord → Chord) : (s.modChord n f).flips = s.flips := rfl
@[simp] theorem State.modChord_swap (s : State) (n : Nat) (f : Chord → Chord) : (s.modChord n f).swap = s.swap := rfl
@[simp] theorem State.modChord_swapped (s : State) (n : Nat) (f : Chord → Chord) : (s.modChord n f).swapped = s.swapped := rfl
@[simp] theorem State.modChord_swapTeams (s : State) (n : Nat) (f : Chord → Chord) : (s.modChord n f).swapTeams = s.swapTeams := rfl
@[simp] theorem State.modChord_streaming (s : State) (n : Nat) (f : Chord → Chord) : (s.modChord n f).streaming = s.streaming := rfl
@[simp] theorem State.modChord_snapDue (s : State) (n : Nat) (f : Chord → Chord) : (s.modChord n f).snapDue = s.snapDue := rfl
@[simp] theorem State.modChord_snapAt (s : State) (n : Nat) (f : Chord → Chord) : (s.modChord n f).snapAt = s.snapAt := rfl
@[simp] theorem State.modChord_snapSince (s : State) (n : Nat) (f : Chord → Chord) : (s.modChord n f).snapSince = s.snapSince := rfl
@[simp] theorem State.modChord_capEnd (s : State) (n : Nat) (f : Chord → Chord) : (s.modChord n f).capEnd = s.capEnd := rfl
@[simp] theorem State.modChord_pgtab (s : State) (n : Nat) (f : Chord → Chord) : (s.modChord n f).pgtab = s.pgtab := rfl
@[simp] theorem State.modChord_chip (s : State) (n : Nat) (f : Chord → Chord) : (s.modChord n f).chip = s.chip := rfl
@[simp] theorem State.modChord_form (s : State) (n : Nat) (f : Chord → Chord) : (s.modChord n f).form = s.form := rfl
@[simp] theorem State.modChord_serialNext (s : State) (n : Nat) (f : Chord → Chord) : (s.modChord n f).serialNext = s.serialNext := rfl
@[simp] theorem State.modChord_nextId (s : State) (n : Nat) (f : Chord → Chord) : (s.modChord n f).nextId = s.nextId := rfl
@[simp] theorem State.modChord_dt (s : State) (n : Nat) (f : Chord → Chord) : (s.modChord n f).dt = s.dt := rfl
@[simp] theorem State.modChord_half (s : State) (n : Nat) (f : Chord → Chord) : (s.modChord n f).half = s.half := rfl
@[simp] theorem State.modChord_lag (s : State) (n : Nat) (f : Chord → Chord) : (s.modChord n f).lag = s.lag := rfl
@[simp] theorem State.modChord_lastMessage (s : State) (n : Nat) (f : Chord → Chord) : (s.modChord n f).lastMessage = s.lastMessage := rfl
@[simp] theorem State.modChord_rootDt (s : State) (n : Nat) (f : Chord → Chord) : (s.modChord n f).rootDt = s.rootDt := rfl
@[simp] theorem State.modChord_rootClock (s : State) (n : Nat) (f : Chord → Chord) : (s.modChord n f).rootClock = s.rootClock := rfl
@[simp] theorem State.modChord_slewAt (s : State) (n : Nat) (f : Chord → Chord) : (s.modChord n f).slewAt = s.slewAt := rfl
@[simp] theorem State.modChord_clock (s : State) (n : Nat) (f : Chord → Chord) : (s.modChord n f).clock = s.clock := rfl
@[simp] theorem State.modChord_frozen (s : State) (n : Nat) (f : Chord → Chord) : (s.modChord n f).frozen = s.frozen := rfl
@[simp] theorem State.modChord_inputs (s : State) (n : Nat) (f : Chord → Chord) : (s.modChord n f).inputs = s.inputs := rfl
@[simp] theorem State.modChord_free (s : State) (n : Nat) (f : Chord → Chord) : (s.modChord n f).free = s.free := rfl
@[simp] theorem State.modChord_reply (s : State) (n : Nat) (f : Chord → Chord) : (s.modChord n f).reply = s.reply := rfl
@[simp] theorem State.modChord_replyStatus (s : State) (n : Nat) (f : Chord → Chord) : (s.modChord n f).replyStatus = s.replyStatus := rfl
@[simp] theorem State.modChord_raised (s : State) (n : Nat) (f : Chord → Chord) : (s.modChord n f).raised = s.raised := rfl
@[simp] theorem State.modChord_records (s : State) (n : Nat) (f : Chord → Chord) : (s.modChord n f).records = s.records := rfl
@[simp] theorem State.modChord_resets (s : State) (n : Nat) (f : Chord → Chord) : (s.modChord n f).resets = s.resets := rfl

/-! `State.counted` -/

@[simp] theorem State.counted_others (s : State) : (s.counted).others = s.others := rfl
@[simp] theorem State.counted_teams (s : State) : (s.counted).teams = s.teams := rfl
@[simp] theorem State.counted_grids (s : State) : (s.counted).grids = s.grids := rfl
@[simp] theorem State.counted_ctxs (s : State) : (s.counted).ctxs = s.ctxs := rfl
@[simp] theorem State.counted_mem (s : State) : (s.counted).mem = s.mem := rfl
@[simp] theorem State.counted_hostMem (s : State) : (s.counted).hostMem = s.hostMem := rfl
@[simp] theorem State.counted_remote (s : State) : (s.counted).remote = s.remote := rfl
@[simp] theorem State.counted_poison (s : State) : (s.counted).poison = s.poison := rfl
@[simp] theorem State.counted_coded (s : State) : (s.counted).coded = s.coded := rfl
@[simp] theorem State.counted_tlb (s : State) : (s.counted).tlb = s.tlb := rfl
@[simp] theorem State.counted_walks (s : State) : (s.counted).walks = s.walks := rfl
@[simp] theorem State.counted_fetched (s : State) : (s.counted).fetched = s.fetched := rfl
@[simp] theorem State.counted_l1 (s : State) : (s.counted).l1 = s.l1 := rfl
@[simp] theorem State.counted_l2 (s : State) : (s.counted).l2 = s.l2 := rfl
@[simp] theorem State.counted_lostStores (s : State) : (s.counted).lostStores = s.lostStores := rfl
@[simp] theorem State.counted_strays (s : State) : (s.counted).strays = s.strays := rfl
@[simp] theorem State.counted_owners (s : State) : (s.counted).owners = s.owners := rfl
@[simp] theorem State.counted_hostLines (s : State) : (s.counted).hostLines = s.hostLines := rfl
@[simp] theorem State.counted_chipShares (s : State) : (s.counted).chipShares = s.chipShares := rfl
@[simp] theorem State.counted_invals (s : State) : (s.counted).invals = s.invals := rfl
@[simp] theorem State.counted_prefs (s : State) : (s.counted).prefs = s.prefs := rfl
@[simp] theorem State.counted_pushes (s : State) : (s.counted).pushes = s.pushes := rfl
@[simp] theorem State.counted_waiting (s : State) : (s.counted).waiting = s.waiting := rfl
@[simp] theorem State.counted_units (s : State) : (s.counted).units = s.units := rfl
@[simp] theorem State.counted_locks (s : State) : (s.counted).locks = s.locks := rfl
@[simp] theorem State.counted_woundMsgs (s : State) : (s.counted).woundMsgs = s.woundMsgs := rfl
@[simp] theorem State.counted_domains (s : State) : (s.counted).domains = s.domains := rfl
@[simp] theorem State.counted_cmds (s : State) : (s.counted).cmds = s.cmds := rfl
@[simp] theorem State.counted_peerMsgs (s : State) : (s.counted).peerMsgs = s.peerMsgs := rfl
@[simp] theorem State.counted_jobs (s : State) : (s.counted).jobs = s.jobs := rfl
@[simp] theorem State.counted_tiles (s : State) : (s.counted).tiles = s.tiles := rfl
@[simp] theorem State.counted_pairs (s : State) : (s.counted).pairs = s.pairs := rfl
@[simp] theorem State.counted_clus (s : State) : (s.counted).clus = s.clus := rfl
@[simp] theorem State.counted_buckets (s : State) : (s.counted).buckets = s.buckets := rfl
@[simp] theorem State.counted_zhr (s : State) : (s.counted).zhr = s.zhr := rfl
@[simp] theorem State.counted_win (s : State) : (s.counted).win = s.win := rfl
@[simp] theorem State.counted_routePend (s : State) : (s.counted).routePend = s.routePend := rfl
@[simp] theorem State.counted_flips (s : State) : (s.counted).flips = s.flips := rfl
@[simp] theorem State.counted_swap (s : State) : (s.counted).swap = s.swap := rfl
@[simp] theorem State.counted_swapped (s : State) : (s.counted).swapped = s.swapped := rfl
@[simp] theorem State.counted_swapTeams (s : State) : (s.counted).swapTeams = s.swapTeams := rfl
@[simp] theorem State.counted_streaming (s : State) : (s.counted).streaming = s.streaming := rfl
@[simp] theorem State.counted_snapDue (s : State) : (s.counted).snapDue = s.snapDue := rfl
@[simp] theorem State.counted_snapAt (s : State) : (s.counted).snapAt = s.snapAt := rfl
@[simp] theorem State.counted_snapSince (s : State) : (s.counted).snapSince = s.snapSince := rfl
@[simp] theorem State.counted_capEnd (s : State) : (s.counted).capEnd = s.capEnd := rfl
@[simp] theorem State.counted_pgtab (s : State) : (s.counted).pgtab = s.pgtab := rfl
@[simp] theorem State.counted_chip (s : State) : (s.counted).chip = s.chip := rfl
@[simp] theorem State.counted_form (s : State) : (s.counted).form = s.form := rfl
@[simp] theorem State.counted_serialNext (s : State) : (s.counted).serialNext = s.serialNext := rfl
@[simp] theorem State.counted_nextId (s : State) : (s.counted).nextId = s.nextId := rfl
@[simp] theorem State.counted_dt (s : State) : (s.counted).dt = s.dt := rfl
@[simp] theorem State.counted_half (s : State) : (s.counted).half = s.half := rfl
@[simp] theorem State.counted_lag (s : State) : (s.counted).lag = s.lag := rfl
@[simp] theorem State.counted_lastMessage (s : State) : (s.counted).lastMessage = s.lastMessage := rfl
@[simp] theorem State.counted_rootDt (s : State) : (s.counted).rootDt = s.rootDt := rfl
@[simp] theorem State.counted_rootClock (s : State) : (s.counted).rootClock = s.rootClock := rfl
@[simp] theorem State.counted_slewAt (s : State) : (s.counted).slewAt = s.slewAt := rfl
@[simp] theorem State.counted_clock (s : State) : (s.counted).clock = s.clock := rfl
@[simp] theorem State.counted_frozen (s : State) : (s.counted).frozen = s.frozen := rfl
@[simp] theorem State.counted_inputs (s : State) : (s.counted).inputs = s.inputs := rfl
@[simp] theorem State.counted_free (s : State) : (s.counted).free = s.free := rfl
@[simp] theorem State.counted_reply (s : State) : (s.counted).reply = s.reply := rfl
@[simp] theorem State.counted_replyStatus (s : State) : (s.counted).replyStatus = s.replyStatus := rfl
@[simp] theorem State.counted_raised (s : State) : (s.counted).raised = s.raised := rfl
@[simp] theorem State.counted_records (s : State) : (s.counted).records = s.records := rfl
@[simp] theorem State.counted_resets (s : State) : (s.counted).resets = s.resets := rfl

/-! `Group.wv` -/

@[simp] theorem Group.wv_gid (g : Group) (r l : Nat) (x : W32) : (g.wv r l x).gid = g.gid := rfl
@[simp] theorem Group.wv_tid (g : Group) (r l : Nat) (x : W32) : (g.wv r l x).tid = g.tid := rfl
@[simp] theorem Group.wv_ctx (g : Group) (r l : Nat) (x : W32) : (g.wv r l x).ctx = g.ctx := rfl
@[simp] theorem Group.wv_live (g : Group) (r l : Nat) (x : W32) : (g.wv r l x).live = g.live := rfl
@[simp] theorem Group.wv_halted (g : Group) (r l : Nat) (x : W32) : (g.wv r l x).halted = g.halted := rfl
@[simp] theorem Group.wv_away (g : Group) (r l : Nat) (x : W32) : (g.wv r l x).away = g.away := rfl
@[simp] theorem Group.wv_stop (g : Group) (r l : Nat) (x : W32) : (g.wv r l x).stop = g.stop := rfl
@[simp] theorem Group.wv_role (g : Group) (r l : Nat) (x : W32) : (g.wv r l x).role = g.role := rfl
@[simp] theorem Group.wv_gidx (g : Group) (r l : Nat) (x : W32) : (g.wv r l x).gidx = g.gidx := rfl
@[simp] theorem Group.wv_teamIdx (g : Group) (r l : Nat) (x : W32) : (g.wv r l x).teamIdx = g.teamIdx := rfl
@[simp] theorem Group.wv_teamDim (g : Group) (r l : Nat) (x : W32) : (g.wv r l x).teamDim = g.teamDim := rfl
@[simp] theorem Group.wv_gridId (g : Group) (r l : Nat) (x : W32) : (g.wv r l x).gridId = g.gridId := rfl
@[simp] theorem Group.wv_gridKey (g : Group) (r l : Nat) (x : W32) : (g.wv r l x).gridKey = g.gridKey := rfl
@[simp] theorem Group.wv_gridDim (g : Group) (r l : Nat) (x : W32) : (g.wv r l x).gridDim = g.gridDim := rfl
@[simp] theorem Group.wv_depth (g : Group) (r l : Nat) (x : W32) : (g.wv r l x).depth = g.depth := rfl
@[simp] theorem Group.wv_argptr (g : Group) (r l : Nat) (x : W32) : (g.wv r l x).argptr = g.argptr := rfl
@[simp] theorem Group.wv_prio (g : Group) (r l : Nat) (x : W32) : (g.wv r l x).prio = g.prio := rfl
@[simp] theorem Group.wv_coRes (g : Group) (r l : Nat) (x : W32) : (g.wv r l x).coRes = g.coRes := rfl
@[simp] theorem Group.wv_tile (g : Group) (r l : Nat) (x : W32) : (g.wv r l x).tile = g.tile := rfl
@[simp] theorem Group.wv_place (g : Group) (r l : Nat) (x : W32) : (g.wv r l x).place = g.place := rfl
@[simp] theorem Group.wv_ctxBase (g : Group) (r l : Nat) (x : W32) : (g.wv r l x).ctxBase = g.ctxBase := rfl
@[simp] theorem Group.wv_allot (g : Group) (r l : Nat) (x : W32) : (g.wv r l x).allot = g.allot := rfl
@[simp] theorem Group.wv_naccs (g : Group) (r l : Nat) (x : W32) : (g.wv r l x).naccs = g.naccs := rfl
@[simp] theorem Group.wv_scratch (g : Group) (r l : Nat) (x : W32) : (g.wv r l x).scratch = g.scratch := rfl
@[simp] theorem Group.wv_xb (g : Group) (r l : Nat) (x : W32) : (g.wv r l x).xb = g.xb := rfl
@[simp] theorem Group.wv_p (g : Group) (r l : Nat) (x : W32) : (g.wv r l x).p = g.p := rfl
@[simp] theorem Group.wv_s (g : Group) (r l : Nat) (x : W32) : (g.wv r l x).s = g.s := rfl
@[simp] theorem Group.wv_q (g : Group) (r l : Nat) (x : W32) : (g.wv r l x).q = g.q := rfl
@[simp] theorem Group.wv_ta (g : Group) (r l : Nat) (x : W32) : (g.wv r l x).ta = g.ta := rfl
@[simp] theorem Group.wv_acc (g : Group) (r l : Nat) (x : W32) : (g.wv r l x).acc = g.acc := rfl
@[simp] theorem Group.wv_accPoison (g : Group) (r l : Nat) (x : W32) : (g.wv r l x).accPoison = g.accPoison := rfl
@[simp] theorem Group.wv_regPoison (g : Group) (r l : Nat) (x : W32) : (g.wv r l x).regPoison = g.regPoison := rfl
@[simp] theorem Group.wv_mends (g : Group) (r l : Nat) (x : W32) : (g.wv r l x).mends = g.mends := rfl
@[simp] theorem Group.wv_splits (g : Group) (r l : Nat) (x : W32) : (g.wv r l x).splits = g.splits := rfl
@[simp] theorem Group.wv_keptPc (g : Group) (r l : Nat) (x : W32) : (g.wv r l x).keptPc = g.keptPc := rfl
@[simp] theorem Group.wv_newSplits (g : Group) (r l : Nat) (x : W32) : (g.wv r l x).newSplits = g.newSplits := rfl
@[simp] theorem Group.wv_stack (g : Group) (r l : Nat) (x : W32) : (g.wv r l x).stack = g.stack := rfl
@[simp] theorem Group.wv_run (g : Group) (r l : Nat) (x : W32) : (g.wv r l x).run = g.run := rfl
@[simp] theorem Group.wv_cur (g : Group) (r l : Nat) (x : W32) : (g.wv r l x).cur = g.cur := rfl
@[simp] theorem Group.wv_runLen (g : Group) (r l : Nat) (x : W32) : (g.wv r l x).runLen = g.runLen := rfl
@[simp] theorem Group.wv_atEnd (g : Group) (r l : Nat) (x : W32) : (g.wv r l x).atEnd = g.atEnd := rfl
@[simp] theorem Group.wv_resumed (g : Group) (r l : Nat) (x : W32) : (g.wv r l x).resumed = g.resumed := rfl
@[simp] theorem Group.wv_absent (g : Group) (r l : Nat) (x : W32) : (g.wv r l x).absent = g.absent := rfl
@[simp] theorem Group.wv_hs (g : Group) (r l : Nat) (x : W32) : (g.wv r l x).hs = g.hs := rfl
@[simp] theorem Group.wv_txb (g : Group) (r l : Nat) (x : W32) : (g.wv r l x).txb = g.txb := rfl
@[simp] theorem Group.wv_inh (g : Group) (r l : Nat) (x : W32) : (g.wv r l x).inh = g.inh := rfl
@[simp] theorem Group.wv_trapSeq (g : Group) (r l : Nat) (x : W32) : (g.wv r l x).trapSeq = g.trapSeq := rfl
@[simp] theorem Group.wv_trapsTaken (g : Group) (r l : Nat) (x : W32) : (g.wv r l x).trapsTaken = g.trapsTaken := rfl
@[simp] theorem Group.wv_haz (g : Group) (r l : Nat) (x : W32) : (g.wv r l x).haz = g.haz := rfl
@[simp] theorem Group.wv_tcause (g : Group) (r l : Nat) (x : W32) : (g.wv r l x).tcause = g.tcause := rfl
@[simp] theorem Group.wv_tpc (g : Group) (r l : Nat) (x : W32) : (g.wv r l x).tpc = g.tpc := rfl
@[simp] theorem Group.wv_tresume (g : Group) (r l : Nat) (x : W32) : (g.wv r l x).tresume = g.tresume := rfl
@[simp] theorem Group.wv_tmask (g : Group) (r l : Nat) (x : W32) : (g.wv r l x).tmask = g.tmask := rfl
@[simp] theorem Group.wv_taddr (g : Group) (r l : Nat) (x : W32) : (g.wv r l x).taddr = g.taddr := rfl
@[simp] theorem Group.wv_tdt (g : Group) (r l : Nat) (x : W32) : (g.wv r l x).tdt = g.tdt := rfl
@[simp] theorem Group.wv_tother (g : Group) (r l : Nat) (x : W32) : (g.wv r l x).tother = g.tother := rfl
@[simp] theorem Group.wv_tlanecause (g : Group) (r l : Nat) (x : W32) : (g.wv r l x).tlanecause = g.tlanecause := rfl
@[simp] theorem Group.wv_twalk (g : Group) (r l : Nat) (x : W32) : (g.wv r l x).twalk = g.twalk := rfl
@[simp] theorem Group.wv_fpstat (g : Group) (r l : Nat) (x : W32) : (g.wv r l x).fpstat = g.fpstat := rfl
@[simp] theorem Group.wv_fpctl (g : Group) (r l : Nat) (x : W32) : (g.wv r l x).fpctl = g.fpctl := rfl
@[simp] theorem Group.wv_srcount (g : Group) (r l : Nat) (x : W32) : (g.wv r l x).srcount = g.srcount := rfl
@[simp] theorem Group.wv_batchSeq (g : Group) (r l : Nat) (x : W32) : (g.wv r l x).batchSeq = g.batchSeq := rfl
@[simp] theorem Group.wv_batchDone (g : Group) (r l : Nat) (x : W32) : (g.wv r l x).batchDone = g.batchDone := rfl
@[simp] theorem Group.wv_phase (g : Group) (r l : Nat) (x : W32) : (g.wv r l x).phase = g.phase := rfl
@[simp] theorem Group.wv_olog (g : Group) (r l : Nat) (x : W32) : (g.wv r l x).olog = g.olog := rfl
@[simp] theorem Group.wv_seq (g : Group) (r l : Nat) (x : W32) : (g.wv r l x).seq = g.seq := rfl
@[simp] theorem Group.wv_acks (g : Group) (r l : Nat) (x : W32) : (g.wv r l x).acks = g.acks := rfl
@[simp] theorem Group.wv_results (g : Group) (r l : Nat) (x : W32) : (g.wv r l x).results = g.results := rfl
@[simp] theorem Group.wv_fences (g : Group) (r l : Nat) (x : W32) : (g.wv r l x).fences = g.fences := rfl
@[simp] theorem Group.wv_lset (g : Group) (r l : Nat) (x : W32) : (g.wv r l x).lset = g.lset := rfl
@[simp] theorem Group.wv_age (g : Group) (r l : Nat) (x : W32) : (g.wv r l x).age = g.age := rfl
@[simp] theorem Group.wv_agev (g : Group) (r l : Nat) (x : W32) : (g.wv r l x).agev = g.agev := rfl
@[simp] theorem Group.wv_agehold (g : Group) (r l : Nat) (x : W32) : (g.wv r l x).agehold = g.agehold := rfl
@[simp] theorem Group.wv_wounds (g : Group) (r l : Nat) (x : W32) : (g.wv r l x).wounds = g.wounds := rfl
@[simp] theorem Group.wv_lreq (g : Group) (r l : Nat) (x : W32) : (g.wv r l x).lreq = g.lreq := rfl
@[simp] theorem Group.wv_lkStop (g : Group) (r l : Nat) (x : W32) : (g.wv r l x).lkStop = g.lkStop := rfl
@[simp] theorem Group.wv_lrel (g : Group) (r l : Nat) (x : W32) : (g.wv r l x).lrel = g.lrel := rfl
@[simp] theorem Group.wv_lend (g : Group) (r l : Nat) (x : W32) : (g.wv r l x).lend = g.lend := rfl
@[simp] theorem Group.wv_lockSeq (g : Group) (r l : Nat) (x : W32) : (g.wv r l x).lockSeq = g.lockSeq := rfl
@[simp] theorem Group.wv_gearReq (g : Group) (r l : Nat) (x : W32) : (g.wv r l x).gearReq = g.gearReq := rfl
@[simp] theorem Group.wv_gearStart (g : Group) (r l : Nat) (x : W32) : (g.wv r l x).gearStart = g.gearStart := rfl
@[simp] theorem Group.wv_engErr (g : Group) (r l : Nat) (x : W32) : (g.wv r l x).engErr = g.engErr := rfl
@[simp] theorem Group.wv_engAddr (g : Group) (r l : Nat) (x : W32) : (g.wv r l x).engAddr = g.engAddr := rfl
@[simp] theorem Group.wv_engDt (g : Group) (r l : Nat) (x : W32) : (g.wv r l x).engDt = g.engDt := rfl
@[simp] theorem Group.wv_engDue (g : Group) (r l : Nat) (x : W32) : (g.wv r l x).engDue = g.engDue := rfl
@[simp] theorem Group.wv_splitSel (g : Group) (r l : Nat) (x : W32) : (g.wv r l x).splitSel = g.splitSel := rfl
@[simp] theorem Group.wv_lkSel (g : Group) (r l : Nat) (x : W32) : (g.wv r l x).lkSel = g.lkSel := rfl
@[simp] theorem Group.wv_olSel (g : Group) (r l : Nat) (x : W32) : (g.wv r l x).olSel = g.olSel := rfl
@[simp] theorem Group.wv_acctSel (g : Group) (r l : Nat) (x : W32) : (g.wv r l x).acctSel = g.acctSel := rfl
@[simp] theorem Group.wv_icount (g : Group) (r l : Nat) (x : W32) : (g.wv r l x).icount = g.icount := rfl
@[simp] theorem Group.wv_cleared (g : Group) (r l : Nat) (x : W32) : (g.wv r l x).cleared = g.cleared := rfl
@[simp] theorem Group.wv_flip (g : Group) (r l : Nat) (x : W32) : (g.wv r l x).flip = g.flip := rfl
@[simp] theorem Group.wv_matErr (g : Group) (r l : Nat) (x : W32) : (g.wv r l x).matErr = g.matErr := rfl

/-! `Group.ws` -/

@[simp] theorem Group.ws_gid (g : Group) (n : Nat) (x : W64) : (g.ws n x).gid = g.gid := rfl
@[simp] theorem Group.ws_tid (g : Group) (n : Nat) (x : W64) : (g.ws n x).tid = g.tid := rfl
@[simp] theorem Group.ws_ctx (g : Group) (n : Nat) (x : W64) : (g.ws n x).ctx = g.ctx := rfl
@[simp] theorem Group.ws_live (g : Group) (n : Nat) (x : W64) : (g.ws n x).live = g.live := rfl
@[simp] theorem Group.ws_halted (g : Group) (n : Nat) (x : W64) : (g.ws n x).halted = g.halted := rfl
@[simp] theorem Group.ws_away (g : Group) (n : Nat) (x : W64) : (g.ws n x).away = g.away := rfl
@[simp] theorem Group.ws_stop (g : Group) (n : Nat) (x : W64) : (g.ws n x).stop = g.stop := rfl
@[simp] theorem Group.ws_role (g : Group) (n : Nat) (x : W64) : (g.ws n x).role = g.role := rfl
@[simp] theorem Group.ws_gidx (g : Group) (n : Nat) (x : W64) : (g.ws n x).gidx = g.gidx := rfl
@[simp] theorem Group.ws_teamIdx (g : Group) (n : Nat) (x : W64) : (g.ws n x).teamIdx = g.teamIdx := rfl
@[simp] theorem Group.ws_teamDim (g : Group) (n : Nat) (x : W64) : (g.ws n x).teamDim = g.teamDim := rfl
@[simp] theorem Group.ws_gridId (g : Group) (n : Nat) (x : W64) : (g.ws n x).gridId = g.gridId := rfl
@[simp] theorem Group.ws_gridKey (g : Group) (n : Nat) (x : W64) : (g.ws n x).gridKey = g.gridKey := rfl
@[simp] theorem Group.ws_gridDim (g : Group) (n : Nat) (x : W64) : (g.ws n x).gridDim = g.gridDim := rfl
@[simp] theorem Group.ws_depth (g : Group) (n : Nat) (x : W64) : (g.ws n x).depth = g.depth := rfl
@[simp] theorem Group.ws_argptr (g : Group) (n : Nat) (x : W64) : (g.ws n x).argptr = g.argptr := rfl
@[simp] theorem Group.ws_prio (g : Group) (n : Nat) (x : W64) : (g.ws n x).prio = g.prio := rfl
@[simp] theorem Group.ws_coRes (g : Group) (n : Nat) (x : W64) : (g.ws n x).coRes = g.coRes := rfl
@[simp] theorem Group.ws_tile (g : Group) (n : Nat) (x : W64) : (g.ws n x).tile = g.tile := rfl
@[simp] theorem Group.ws_place (g : Group) (n : Nat) (x : W64) : (g.ws n x).place = g.place := rfl
@[simp] theorem Group.ws_ctxBase (g : Group) (n : Nat) (x : W64) : (g.ws n x).ctxBase = g.ctxBase := rfl
@[simp] theorem Group.ws_allot (g : Group) (n : Nat) (x : W64) : (g.ws n x).allot = g.allot := rfl
@[simp] theorem Group.ws_naccs (g : Group) (n : Nat) (x : W64) : (g.ws n x).naccs = g.naccs := rfl
@[simp] theorem Group.ws_scratch (g : Group) (n : Nat) (x : W64) : (g.ws n x).scratch = g.scratch := rfl
@[simp] theorem Group.ws_xb (g : Group) (n : Nat) (x : W64) : (g.ws n x).xb = g.xb := rfl
@[simp] theorem Group.ws_v (g : Group) (n : Nat) (x : W64) : (g.ws n x).v = g.v := rfl
@[simp] theorem Group.ws_p (g : Group) (n : Nat) (x : W64) : (g.ws n x).p = g.p := rfl
@[simp] theorem Group.ws_q (g : Group) (n : Nat) (x : W64) : (g.ws n x).q = g.q := rfl
@[simp] theorem Group.ws_ta (g : Group) (n : Nat) (x : W64) : (g.ws n x).ta = g.ta := rfl
@[simp] theorem Group.ws_acc (g : Group) (n : Nat) (x : W64) : (g.ws n x).acc = g.acc := rfl
@[simp] theorem Group.ws_accPoison (g : Group) (n : Nat) (x : W64) : (g.ws n x).accPoison = g.accPoison := rfl
@[simp] theorem Group.ws_regPoison (g : Group) (n : Nat) (x : W64) : (g.ws n x).regPoison = g.regPoison := rfl
@[simp] theorem Group.ws_mends (g : Group) (n : Nat) (x : W64) : (g.ws n x).mends = g.mends := rfl
@[simp] theorem Group.ws_splits (g : Group) (n : Nat) (x : W64) : (g.ws n x).splits = g.splits := rfl
@[simp] theorem Group.ws_keptPc (g : Group) (n : Nat) (x : W64) : (g.ws n x).keptPc = g.keptPc := rfl
@[simp] theorem Group.ws_newSplits (g : Group) (n : Nat) (x : W64) : (g.ws n x).newSplits = g.newSplits := rfl
@[simp] theorem Group.ws_stack (g : Group) (n : Nat) (x : W64) : (g.ws n x).stack = g.stack := rfl
@[simp] theorem Group.ws_run (g : Group) (n : Nat) (x : W64) : (g.ws n x).run = g.run := rfl
@[simp] theorem Group.ws_cur (g : Group) (n : Nat) (x : W64) : (g.ws n x).cur = g.cur := rfl
@[simp] theorem Group.ws_runLen (g : Group) (n : Nat) (x : W64) : (g.ws n x).runLen = g.runLen := rfl
@[simp] theorem Group.ws_atEnd (g : Group) (n : Nat) (x : W64) : (g.ws n x).atEnd = g.atEnd := rfl
@[simp] theorem Group.ws_resumed (g : Group) (n : Nat) (x : W64) : (g.ws n x).resumed = g.resumed := rfl
@[simp] theorem Group.ws_absent (g : Group) (n : Nat) (x : W64) : (g.ws n x).absent = g.absent := rfl
@[simp] theorem Group.ws_hs (g : Group) (n : Nat) (x : W64) : (g.ws n x).hs = g.hs := rfl
@[simp] theorem Group.ws_txb (g : Group) (n : Nat) (x : W64) : (g.ws n x).txb = g.txb := rfl
@[simp] theorem Group.ws_inh (g : Group) (n : Nat) (x : W64) : (g.ws n x).inh = g.inh := rfl
@[simp] theorem Group.ws_trapSeq (g : Group) (n : Nat) (x : W64) : (g.ws n x).trapSeq = g.trapSeq := rfl
@[simp] theorem Group.ws_trapsTaken (g : Group) (n : Nat) (x : W64) : (g.ws n x).trapsTaken = g.trapsTaken := rfl
@[simp] theorem Group.ws_haz (g : Group) (n : Nat) (x : W64) : (g.ws n x).haz = g.haz := rfl
@[simp] theorem Group.ws_tcause (g : Group) (n : Nat) (x : W64) : (g.ws n x).tcause = g.tcause := rfl
@[simp] theorem Group.ws_tpc (g : Group) (n : Nat) (x : W64) : (g.ws n x).tpc = g.tpc := rfl
@[simp] theorem Group.ws_tresume (g : Group) (n : Nat) (x : W64) : (g.ws n x).tresume = g.tresume := rfl
@[simp] theorem Group.ws_tmask (g : Group) (n : Nat) (x : W64) : (g.ws n x).tmask = g.tmask := rfl
@[simp] theorem Group.ws_taddr (g : Group) (n : Nat) (x : W64) : (g.ws n x).taddr = g.taddr := rfl
@[simp] theorem Group.ws_tdt (g : Group) (n : Nat) (x : W64) : (g.ws n x).tdt = g.tdt := rfl
@[simp] theorem Group.ws_tother (g : Group) (n : Nat) (x : W64) : (g.ws n x).tother = g.tother := rfl
@[simp] theorem Group.ws_tlanecause (g : Group) (n : Nat) (x : W64) : (g.ws n x).tlanecause = g.tlanecause := rfl
@[simp] theorem Group.ws_twalk (g : Group) (n : Nat) (x : W64) : (g.ws n x).twalk = g.twalk := rfl
@[simp] theorem Group.ws_fpstat (g : Group) (n : Nat) (x : W64) : (g.ws n x).fpstat = g.fpstat := rfl
@[simp] theorem Group.ws_fpctl (g : Group) (n : Nat) (x : W64) : (g.ws n x).fpctl = g.fpctl := rfl
@[simp] theorem Group.ws_srcount (g : Group) (n : Nat) (x : W64) : (g.ws n x).srcount = g.srcount := rfl
@[simp] theorem Group.ws_batchSeq (g : Group) (n : Nat) (x : W64) : (g.ws n x).batchSeq = g.batchSeq := rfl
@[simp] theorem Group.ws_batchDone (g : Group) (n : Nat) (x : W64) : (g.ws n x).batchDone = g.batchDone := rfl
@[simp] theorem Group.ws_phase (g : Group) (n : Nat) (x : W64) : (g.ws n x).phase = g.phase := rfl
@[simp] theorem Group.ws_olog (g : Group) (n : Nat) (x : W64) : (g.ws n x).olog = g.olog := rfl
@[simp] theorem Group.ws_seq (g : Group) (n : Nat) (x : W64) : (g.ws n x).seq = g.seq := rfl
@[simp] theorem Group.ws_acks (g : Group) (n : Nat) (x : W64) : (g.ws n x).acks = g.acks := rfl
@[simp] theorem Group.ws_results (g : Group) (n : Nat) (x : W64) : (g.ws n x).results = g.results := rfl
@[simp] theorem Group.ws_fences (g : Group) (n : Nat) (x : W64) : (g.ws n x).fences = g.fences := rfl
@[simp] theorem Group.ws_lset (g : Group) (n : Nat) (x : W64) : (g.ws n x).lset = g.lset := rfl
@[simp] theorem Group.ws_age (g : Group) (n : Nat) (x : W64) : (g.ws n x).age = g.age := rfl
@[simp] theorem Group.ws_agev (g : Group) (n : Nat) (x : W64) : (g.ws n x).agev = g.agev := rfl
@[simp] theorem Group.ws_agehold (g : Group) (n : Nat) (x : W64) : (g.ws n x).agehold = g.agehold := rfl
@[simp] theorem Group.ws_wounds (g : Group) (n : Nat) (x : W64) : (g.ws n x).wounds = g.wounds := rfl
@[simp] theorem Group.ws_lreq (g : Group) (n : Nat) (x : W64) : (g.ws n x).lreq = g.lreq := rfl
@[simp] theorem Group.ws_lkStop (g : Group) (n : Nat) (x : W64) : (g.ws n x).lkStop = g.lkStop := rfl
@[simp] theorem Group.ws_lrel (g : Group) (n : Nat) (x : W64) : (g.ws n x).lrel = g.lrel := rfl
@[simp] theorem Group.ws_lend (g : Group) (n : Nat) (x : W64) : (g.ws n x).lend = g.lend := rfl
@[simp] theorem Group.ws_lockSeq (g : Group) (n : Nat) (x : W64) : (g.ws n x).lockSeq = g.lockSeq := rfl
@[simp] theorem Group.ws_gearReq (g : Group) (n : Nat) (x : W64) : (g.ws n x).gearReq = g.gearReq := rfl
@[simp] theorem Group.ws_gearStart (g : Group) (n : Nat) (x : W64) : (g.ws n x).gearStart = g.gearStart := rfl
@[simp] theorem Group.ws_engErr (g : Group) (n : Nat) (x : W64) : (g.ws n x).engErr = g.engErr := rfl
@[simp] theorem Group.ws_engAddr (g : Group) (n : Nat) (x : W64) : (g.ws n x).engAddr = g.engAddr := rfl
@[simp] theorem Group.ws_engDt (g : Group) (n : Nat) (x : W64) : (g.ws n x).engDt = g.engDt := rfl
@[simp] theorem Group.ws_engDue (g : Group) (n : Nat) (x : W64) : (g.ws n x).engDue = g.engDue := rfl
@[simp] theorem Group.ws_splitSel (g : Group) (n : Nat) (x : W64) : (g.ws n x).splitSel = g.splitSel := rfl
@[simp] theorem Group.ws_lkSel (g : Group) (n : Nat) (x : W64) : (g.ws n x).lkSel = g.lkSel := rfl
@[simp] theorem Group.ws_olSel (g : Group) (n : Nat) (x : W64) : (g.ws n x).olSel = g.olSel := rfl
@[simp] theorem Group.ws_acctSel (g : Group) (n : Nat) (x : W64) : (g.ws n x).acctSel = g.acctSel := rfl
@[simp] theorem Group.ws_icount (g : Group) (n : Nat) (x : W64) : (g.ws n x).icount = g.icount := rfl
@[simp] theorem Group.ws_cleared (g : Group) (n : Nat) (x : W64) : (g.ws n x).cleared = g.cleared := rfl
@[simp] theorem Group.ws_flip (g : Group) (n : Nat) (x : W64) : (g.ws n x).flip = g.flip := rfl
@[simp] theorem Group.ws_matErr (g : Group) (n : Nat) (x : W64) : (g.ws n x).matErr = g.matErr := rfl

/-! `Group.wta` -/

@[simp] theorem Group.wta_gid (g : Group) (n : Nat) (a : Aperture) : (g.wta n a).gid = g.gid := rfl
@[simp] theorem Group.wta_tid (g : Group) (n : Nat) (a : Aperture) : (g.wta n a).tid = g.tid := rfl
@[simp] theorem Group.wta_ctx (g : Group) (n : Nat) (a : Aperture) : (g.wta n a).ctx = g.ctx := rfl
@[simp] theorem Group.wta_live (g : Group) (n : Nat) (a : Aperture) : (g.wta n a).live = g.live := rfl
@[simp] theorem Group.wta_halted (g : Group) (n : Nat) (a : Aperture) : (g.wta n a).halted = g.halted := rfl
@[simp] theorem Group.wta_away (g : Group) (n : Nat) (a : Aperture) : (g.wta n a).away = g.away := rfl
@[simp] theorem Group.wta_stop (g : Group) (n : Nat) (a : Aperture) : (g.wta n a).stop = g.stop := rfl
@[simp] theorem Group.wta_role (g : Group) (n : Nat) (a : Aperture) : (g.wta n a).role = g.role := rfl
@[simp] theorem Group.wta_gidx (g : Group) (n : Nat) (a : Aperture) : (g.wta n a).gidx = g.gidx := rfl
@[simp] theorem Group.wta_teamIdx (g : Group) (n : Nat) (a : Aperture) : (g.wta n a).teamIdx = g.teamIdx := rfl
@[simp] theorem Group.wta_teamDim (g : Group) (n : Nat) (a : Aperture) : (g.wta n a).teamDim = g.teamDim := rfl
@[simp] theorem Group.wta_gridId (g : Group) (n : Nat) (a : Aperture) : (g.wta n a).gridId = g.gridId := rfl
@[simp] theorem Group.wta_gridKey (g : Group) (n : Nat) (a : Aperture) : (g.wta n a).gridKey = g.gridKey := rfl
@[simp] theorem Group.wta_gridDim (g : Group) (n : Nat) (a : Aperture) : (g.wta n a).gridDim = g.gridDim := rfl
@[simp] theorem Group.wta_depth (g : Group) (n : Nat) (a : Aperture) : (g.wta n a).depth = g.depth := rfl
@[simp] theorem Group.wta_argptr (g : Group) (n : Nat) (a : Aperture) : (g.wta n a).argptr = g.argptr := rfl
@[simp] theorem Group.wta_prio (g : Group) (n : Nat) (a : Aperture) : (g.wta n a).prio = g.prio := rfl
@[simp] theorem Group.wta_coRes (g : Group) (n : Nat) (a : Aperture) : (g.wta n a).coRes = g.coRes := rfl
@[simp] theorem Group.wta_tile (g : Group) (n : Nat) (a : Aperture) : (g.wta n a).tile = g.tile := rfl
@[simp] theorem Group.wta_place (g : Group) (n : Nat) (a : Aperture) : (g.wta n a).place = g.place := rfl
@[simp] theorem Group.wta_ctxBase (g : Group) (n : Nat) (a : Aperture) : (g.wta n a).ctxBase = g.ctxBase := rfl
@[simp] theorem Group.wta_allot (g : Group) (n : Nat) (a : Aperture) : (g.wta n a).allot = g.allot := rfl
@[simp] theorem Group.wta_naccs (g : Group) (n : Nat) (a : Aperture) : (g.wta n a).naccs = g.naccs := rfl
@[simp] theorem Group.wta_scratch (g : Group) (n : Nat) (a : Aperture) : (g.wta n a).scratch = g.scratch := rfl
@[simp] theorem Group.wta_xb (g : Group) (n : Nat) (a : Aperture) : (g.wta n a).xb = g.xb := rfl
@[simp] theorem Group.wta_v (g : Group) (n : Nat) (a : Aperture) : (g.wta n a).v = g.v := rfl
@[simp] theorem Group.wta_p (g : Group) (n : Nat) (a : Aperture) : (g.wta n a).p = g.p := rfl
@[simp] theorem Group.wta_s (g : Group) (n : Nat) (a : Aperture) : (g.wta n a).s = g.s := rfl
@[simp] theorem Group.wta_q (g : Group) (n : Nat) (a : Aperture) : (g.wta n a).q = g.q := rfl
@[simp] theorem Group.wta_acc (g : Group) (n : Nat) (a : Aperture) : (g.wta n a).acc = g.acc := rfl
@[simp] theorem Group.wta_accPoison (g : Group) (n : Nat) (a : Aperture) : (g.wta n a).accPoison = g.accPoison := rfl
@[simp] theorem Group.wta_regPoison (g : Group) (n : Nat) (a : Aperture) : (g.wta n a).regPoison = g.regPoison := rfl
@[simp] theorem Group.wta_mends (g : Group) (n : Nat) (a : Aperture) : (g.wta n a).mends = g.mends := rfl
@[simp] theorem Group.wta_splits (g : Group) (n : Nat) (a : Aperture) : (g.wta n a).splits = g.splits := rfl
@[simp] theorem Group.wta_keptPc (g : Group) (n : Nat) (a : Aperture) : (g.wta n a).keptPc = g.keptPc := rfl
@[simp] theorem Group.wta_newSplits (g : Group) (n : Nat) (a : Aperture) : (g.wta n a).newSplits = g.newSplits := rfl
@[simp] theorem Group.wta_stack (g : Group) (n : Nat) (a : Aperture) : (g.wta n a).stack = g.stack := rfl
@[simp] theorem Group.wta_run (g : Group) (n : Nat) (a : Aperture) : (g.wta n a).run = g.run := rfl
@[simp] theorem Group.wta_cur (g : Group) (n : Nat) (a : Aperture) : (g.wta n a).cur = g.cur := rfl
@[simp] theorem Group.wta_runLen (g : Group) (n : Nat) (a : Aperture) : (g.wta n a).runLen = g.runLen := rfl
@[simp] theorem Group.wta_atEnd (g : Group) (n : Nat) (a : Aperture) : (g.wta n a).atEnd = g.atEnd := rfl
@[simp] theorem Group.wta_resumed (g : Group) (n : Nat) (a : Aperture) : (g.wta n a).resumed = g.resumed := rfl
@[simp] theorem Group.wta_absent (g : Group) (n : Nat) (a : Aperture) : (g.wta n a).absent = g.absent := rfl
@[simp] theorem Group.wta_hs (g : Group) (n : Nat) (a : Aperture) : (g.wta n a).hs = g.hs := rfl
@[simp] theorem Group.wta_txb (g : Group) (n : Nat) (a : Aperture) : (g.wta n a).txb = g.txb := rfl
@[simp] theorem Group.wta_inh (g : Group) (n : Nat) (a : Aperture) : (g.wta n a).inh = g.inh := rfl
@[simp] theorem Group.wta_trapSeq (g : Group) (n : Nat) (a : Aperture) : (g.wta n a).trapSeq = g.trapSeq := rfl
@[simp] theorem Group.wta_trapsTaken (g : Group) (n : Nat) (a : Aperture) : (g.wta n a).trapsTaken = g.trapsTaken := rfl
@[simp] theorem Group.wta_haz (g : Group) (n : Nat) (a : Aperture) : (g.wta n a).haz = g.haz := rfl
@[simp] theorem Group.wta_tcause (g : Group) (n : Nat) (a : Aperture) : (g.wta n a).tcause = g.tcause := rfl
@[simp] theorem Group.wta_tpc (g : Group) (n : Nat) (a : Aperture) : (g.wta n a).tpc = g.tpc := rfl
@[simp] theorem Group.wta_tresume (g : Group) (n : Nat) (a : Aperture) : (g.wta n a).tresume = g.tresume := rfl
@[simp] theorem Group.wta_tmask (g : Group) (n : Nat) (a : Aperture) : (g.wta n a).tmask = g.tmask := rfl
@[simp] theorem Group.wta_taddr (g : Group) (n : Nat) (a : Aperture) : (g.wta n a).taddr = g.taddr := rfl
@[simp] theorem Group.wta_tdt (g : Group) (n : Nat) (a : Aperture) : (g.wta n a).tdt = g.tdt := rfl
@[simp] theorem Group.wta_tother (g : Group) (n : Nat) (a : Aperture) : (g.wta n a).tother = g.tother := rfl
@[simp] theorem Group.wta_tlanecause (g : Group) (n : Nat) (a : Aperture) : (g.wta n a).tlanecause = g.tlanecause := rfl
@[simp] theorem Group.wta_twalk (g : Group) (n : Nat) (a : Aperture) : (g.wta n a).twalk = g.twalk := rfl
@[simp] theorem Group.wta_fpstat (g : Group) (n : Nat) (a : Aperture) : (g.wta n a).fpstat = g.fpstat := rfl
@[simp] theorem Group.wta_fpctl (g : Group) (n : Nat) (a : Aperture) : (g.wta n a).fpctl = g.fpctl := rfl
@[simp] theorem Group.wta_srcount (g : Group) (n : Nat) (a : Aperture) : (g.wta n a).srcount = g.srcount := rfl
@[simp] theorem Group.wta_batchSeq (g : Group) (n : Nat) (a : Aperture) : (g.wta n a).batchSeq = g.batchSeq := rfl
@[simp] theorem Group.wta_batchDone (g : Group) (n : Nat) (a : Aperture) : (g.wta n a).batchDone = g.batchDone := rfl
@[simp] theorem Group.wta_phase (g : Group) (n : Nat) (a : Aperture) : (g.wta n a).phase = g.phase := rfl
@[simp] theorem Group.wta_olog (g : Group) (n : Nat) (a : Aperture) : (g.wta n a).olog = g.olog := rfl
@[simp] theorem Group.wta_seq (g : Group) (n : Nat) (a : Aperture) : (g.wta n a).seq = g.seq := rfl
@[simp] theorem Group.wta_acks (g : Group) (n : Nat) (a : Aperture) : (g.wta n a).acks = g.acks := rfl
@[simp] theorem Group.wta_results (g : Group) (n : Nat) (a : Aperture) : (g.wta n a).results = g.results := rfl
@[simp] theorem Group.wta_fences (g : Group) (n : Nat) (a : Aperture) : (g.wta n a).fences = g.fences := rfl
@[simp] theorem Group.wta_lset (g : Group) (n : Nat) (a : Aperture) : (g.wta n a).lset = g.lset := rfl
@[simp] theorem Group.wta_age (g : Group) (n : Nat) (a : Aperture) : (g.wta n a).age = g.age := rfl
@[simp] theorem Group.wta_agev (g : Group) (n : Nat) (a : Aperture) : (g.wta n a).agev = g.agev := rfl
@[simp] theorem Group.wta_agehold (g : Group) (n : Nat) (a : Aperture) : (g.wta n a).agehold = g.agehold := rfl
@[simp] theorem Group.wta_wounds (g : Group) (n : Nat) (a : Aperture) : (g.wta n a).wounds = g.wounds := rfl
@[simp] theorem Group.wta_lreq (g : Group) (n : Nat) (a : Aperture) : (g.wta n a).lreq = g.lreq := rfl
@[simp] theorem Group.wta_lkStop (g : Group) (n : Nat) (a : Aperture) : (g.wta n a).lkStop = g.lkStop := rfl
@[simp] theorem Group.wta_lrel (g : Group) (n : Nat) (a : Aperture) : (g.wta n a).lrel = g.lrel := rfl
@[simp] theorem Group.wta_lend (g : Group) (n : Nat) (a : Aperture) : (g.wta n a).lend = g.lend := rfl
@[simp] theorem Group.wta_lockSeq (g : Group) (n : Nat) (a : Aperture) : (g.wta n a).lockSeq = g.lockSeq := rfl
@[simp] theorem Group.wta_gearReq (g : Group) (n : Nat) (a : Aperture) : (g.wta n a).gearReq = g.gearReq := rfl
@[simp] theorem Group.wta_gearStart (g : Group) (n : Nat) (a : Aperture) : (g.wta n a).gearStart = g.gearStart := rfl
@[simp] theorem Group.wta_engErr (g : Group) (n : Nat) (a : Aperture) : (g.wta n a).engErr = g.engErr := rfl
@[simp] theorem Group.wta_engAddr (g : Group) (n : Nat) (a : Aperture) : (g.wta n a).engAddr = g.engAddr := rfl
@[simp] theorem Group.wta_engDt (g : Group) (n : Nat) (a : Aperture) : (g.wta n a).engDt = g.engDt := rfl
@[simp] theorem Group.wta_engDue (g : Group) (n : Nat) (a : Aperture) : (g.wta n a).engDue = g.engDue := rfl
@[simp] theorem Group.wta_splitSel (g : Group) (n : Nat) (a : Aperture) : (g.wta n a).splitSel = g.splitSel := rfl
@[simp] theorem Group.wta_lkSel (g : Group) (n : Nat) (a : Aperture) : (g.wta n a).lkSel = g.lkSel := rfl
@[simp] theorem Group.wta_olSel (g : Group) (n : Nat) (a : Aperture) : (g.wta n a).olSel = g.olSel := rfl
@[simp] theorem Group.wta_acctSel (g : Group) (n : Nat) (a : Aperture) : (g.wta n a).acctSel = g.acctSel := rfl
@[simp] theorem Group.wta_icount (g : Group) (n : Nat) (a : Aperture) : (g.wta n a).icount = g.icount := rfl
@[simp] theorem Group.wta_cleared (g : Group) (n : Nat) (a : Aperture) : (g.wta n a).cleared = g.cleared := rfl
@[simp] theorem Group.wta_flip (g : Group) (n : Nat) (a : Aperture) : (g.wta n a).flip = g.flip := rfl
@[simp] theorem Group.wta_matErr (g : Group) (n : Nat) (a : Aperture) : (g.wta n a).matErr = g.matErr := rfl

/-! `Group.wacc` -/

@[simp] theorem Group.wacc_gid (g : Group) (n row col : Nat) (x : W64) : (g.wacc n row col x).gid = g.gid := rfl
@[simp] theorem Group.wacc_tid (g : Group) (n row col : Nat) (x : W64) : (g.wacc n row col x).tid = g.tid := rfl
@[simp] theorem Group.wacc_ctx (g : Group) (n row col : Nat) (x : W64) : (g.wacc n row col x).ctx = g.ctx := rfl
@[simp] theorem Group.wacc_live (g : Group) (n row col : Nat) (x : W64) : (g.wacc n row col x).live = g.live := rfl
@[simp] theorem Group.wacc_halted (g : Group) (n row col : Nat) (x : W64) : (g.wacc n row col x).halted = g.halted := rfl
@[simp] theorem Group.wacc_away (g : Group) (n row col : Nat) (x : W64) : (g.wacc n row col x).away = g.away := rfl
@[simp] theorem Group.wacc_stop (g : Group) (n row col : Nat) (x : W64) : (g.wacc n row col x).stop = g.stop := rfl
@[simp] theorem Group.wacc_role (g : Group) (n row col : Nat) (x : W64) : (g.wacc n row col x).role = g.role := rfl
@[simp] theorem Group.wacc_gidx (g : Group) (n row col : Nat) (x : W64) : (g.wacc n row col x).gidx = g.gidx := rfl
@[simp] theorem Group.wacc_teamIdx (g : Group) (n row col : Nat) (x : W64) : (g.wacc n row col x).teamIdx = g.teamIdx := rfl
@[simp] theorem Group.wacc_teamDim (g : Group) (n row col : Nat) (x : W64) : (g.wacc n row col x).teamDim = g.teamDim := rfl
@[simp] theorem Group.wacc_gridId (g : Group) (n row col : Nat) (x : W64) : (g.wacc n row col x).gridId = g.gridId := rfl
@[simp] theorem Group.wacc_gridKey (g : Group) (n row col : Nat) (x : W64) : (g.wacc n row col x).gridKey = g.gridKey := rfl
@[simp] theorem Group.wacc_gridDim (g : Group) (n row col : Nat) (x : W64) : (g.wacc n row col x).gridDim = g.gridDim := rfl
@[simp] theorem Group.wacc_depth (g : Group) (n row col : Nat) (x : W64) : (g.wacc n row col x).depth = g.depth := rfl
@[simp] theorem Group.wacc_argptr (g : Group) (n row col : Nat) (x : W64) : (g.wacc n row col x).argptr = g.argptr := rfl
@[simp] theorem Group.wacc_prio (g : Group) (n row col : Nat) (x : W64) : (g.wacc n row col x).prio = g.prio := rfl
@[simp] theorem Group.wacc_coRes (g : Group) (n row col : Nat) (x : W64) : (g.wacc n row col x).coRes = g.coRes := rfl
@[simp] theorem Group.wacc_tile (g : Group) (n row col : Nat) (x : W64) : (g.wacc n row col x).tile = g.tile := rfl
@[simp] theorem Group.wacc_place (g : Group) (n row col : Nat) (x : W64) : (g.wacc n row col x).place = g.place := rfl
@[simp] theorem Group.wacc_ctxBase (g : Group) (n row col : Nat) (x : W64) : (g.wacc n row col x).ctxBase = g.ctxBase := rfl
@[simp] theorem Group.wacc_allot (g : Group) (n row col : Nat) (x : W64) : (g.wacc n row col x).allot = g.allot := rfl
@[simp] theorem Group.wacc_naccs (g : Group) (n row col : Nat) (x : W64) : (g.wacc n row col x).naccs = g.naccs := rfl
@[simp] theorem Group.wacc_scratch (g : Group) (n row col : Nat) (x : W64) : (g.wacc n row col x).scratch = g.scratch := rfl
@[simp] theorem Group.wacc_xb (g : Group) (n row col : Nat) (x : W64) : (g.wacc n row col x).xb = g.xb := rfl
@[simp] theorem Group.wacc_v (g : Group) (n row col : Nat) (x : W64) : (g.wacc n row col x).v = g.v := rfl
@[simp] theorem Group.wacc_p (g : Group) (n row col : Nat) (x : W64) : (g.wacc n row col x).p = g.p := rfl
@[simp] theorem Group.wacc_s (g : Group) (n row col : Nat) (x : W64) : (g.wacc n row col x).s = g.s := rfl
@[simp] theorem Group.wacc_q (g : Group) (n row col : Nat) (x : W64) : (g.wacc n row col x).q = g.q := rfl
@[simp] theorem Group.wacc_ta (g : Group) (n row col : Nat) (x : W64) : (g.wacc n row col x).ta = g.ta := rfl
@[simp] theorem Group.wacc_accPoison (g : Group) (n row col : Nat) (x : W64) : (g.wacc n row col x).accPoison = g.accPoison := rfl
@[simp] theorem Group.wacc_regPoison (g : Group) (n row col : Nat) (x : W64) : (g.wacc n row col x).regPoison = g.regPoison := rfl
@[simp] theorem Group.wacc_mends (g : Group) (n row col : Nat) (x : W64) : (g.wacc n row col x).mends = g.mends := rfl
@[simp] theorem Group.wacc_splits (g : Group) (n row col : Nat) (x : W64) : (g.wacc n row col x).splits = g.splits := rfl
@[simp] theorem Group.wacc_keptPc (g : Group) (n row col : Nat) (x : W64) : (g.wacc n row col x).keptPc = g.keptPc := rfl
@[simp] theorem Group.wacc_newSplits (g : Group) (n row col : Nat) (x : W64) : (g.wacc n row col x).newSplits = g.newSplits := rfl
@[simp] theorem Group.wacc_stack (g : Group) (n row col : Nat) (x : W64) : (g.wacc n row col x).stack = g.stack := rfl
@[simp] theorem Group.wacc_run (g : Group) (n row col : Nat) (x : W64) : (g.wacc n row col x).run = g.run := rfl
@[simp] theorem Group.wacc_cur (g : Group) (n row col : Nat) (x : W64) : (g.wacc n row col x).cur = g.cur := rfl
@[simp] theorem Group.wacc_runLen (g : Group) (n row col : Nat) (x : W64) : (g.wacc n row col x).runLen = g.runLen := rfl
@[simp] theorem Group.wacc_atEnd (g : Group) (n row col : Nat) (x : W64) : (g.wacc n row col x).atEnd = g.atEnd := rfl
@[simp] theorem Group.wacc_resumed (g : Group) (n row col : Nat) (x : W64) : (g.wacc n row col x).resumed = g.resumed := rfl
@[simp] theorem Group.wacc_absent (g : Group) (n row col : Nat) (x : W64) : (g.wacc n row col x).absent = g.absent := rfl
@[simp] theorem Group.wacc_hs (g : Group) (n row col : Nat) (x : W64) : (g.wacc n row col x).hs = g.hs := rfl
@[simp] theorem Group.wacc_txb (g : Group) (n row col : Nat) (x : W64) : (g.wacc n row col x).txb = g.txb := rfl
@[simp] theorem Group.wacc_inh (g : Group) (n row col : Nat) (x : W64) : (g.wacc n row col x).inh = g.inh := rfl
@[simp] theorem Group.wacc_trapSeq (g : Group) (n row col : Nat) (x : W64) : (g.wacc n row col x).trapSeq = g.trapSeq := rfl
@[simp] theorem Group.wacc_trapsTaken (g : Group) (n row col : Nat) (x : W64) : (g.wacc n row col x).trapsTaken = g.trapsTaken := rfl
@[simp] theorem Group.wacc_haz (g : Group) (n row col : Nat) (x : W64) : (g.wacc n row col x).haz = g.haz := rfl
@[simp] theorem Group.wacc_tcause (g : Group) (n row col : Nat) (x : W64) : (g.wacc n row col x).tcause = g.tcause := rfl
@[simp] theorem Group.wacc_tpc (g : Group) (n row col : Nat) (x : W64) : (g.wacc n row col x).tpc = g.tpc := rfl
@[simp] theorem Group.wacc_tresume (g : Group) (n row col : Nat) (x : W64) : (g.wacc n row col x).tresume = g.tresume := rfl
@[simp] theorem Group.wacc_tmask (g : Group) (n row col : Nat) (x : W64) : (g.wacc n row col x).tmask = g.tmask := rfl
@[simp] theorem Group.wacc_taddr (g : Group) (n row col : Nat) (x : W64) : (g.wacc n row col x).taddr = g.taddr := rfl
@[simp] theorem Group.wacc_tdt (g : Group) (n row col : Nat) (x : W64) : (g.wacc n row col x).tdt = g.tdt := rfl
@[simp] theorem Group.wacc_tother (g : Group) (n row col : Nat) (x : W64) : (g.wacc n row col x).tother = g.tother := rfl
@[simp] theorem Group.wacc_tlanecause (g : Group) (n row col : Nat) (x : W64) : (g.wacc n row col x).tlanecause = g.tlanecause := rfl
@[simp] theorem Group.wacc_twalk (g : Group) (n row col : Nat) (x : W64) : (g.wacc n row col x).twalk = g.twalk := rfl
@[simp] theorem Group.wacc_fpstat (g : Group) (n row col : Nat) (x : W64) : (g.wacc n row col x).fpstat = g.fpstat := rfl
@[simp] theorem Group.wacc_fpctl (g : Group) (n row col : Nat) (x : W64) : (g.wacc n row col x).fpctl = g.fpctl := rfl
@[simp] theorem Group.wacc_srcount (g : Group) (n row col : Nat) (x : W64) : (g.wacc n row col x).srcount = g.srcount := rfl
@[simp] theorem Group.wacc_batchSeq (g : Group) (n row col : Nat) (x : W64) : (g.wacc n row col x).batchSeq = g.batchSeq := rfl
@[simp] theorem Group.wacc_batchDone (g : Group) (n row col : Nat) (x : W64) : (g.wacc n row col x).batchDone = g.batchDone := rfl
@[simp] theorem Group.wacc_phase (g : Group) (n row col : Nat) (x : W64) : (g.wacc n row col x).phase = g.phase := rfl
@[simp] theorem Group.wacc_olog (g : Group) (n row col : Nat) (x : W64) : (g.wacc n row col x).olog = g.olog := rfl
@[simp] theorem Group.wacc_seq (g : Group) (n row col : Nat) (x : W64) : (g.wacc n row col x).seq = g.seq := rfl
@[simp] theorem Group.wacc_acks (g : Group) (n row col : Nat) (x : W64) : (g.wacc n row col x).acks = g.acks := rfl
@[simp] theorem Group.wacc_results (g : Group) (n row col : Nat) (x : W64) : (g.wacc n row col x).results = g.results := rfl
@[simp] theorem Group.wacc_fences (g : Group) (n row col : Nat) (x : W64) : (g.wacc n row col x).fences = g.fences := rfl
@[simp] theorem Group.wacc_lset (g : Group) (n row col : Nat) (x : W64) : (g.wacc n row col x).lset = g.lset := rfl
@[simp] theorem Group.wacc_age (g : Group) (n row col : Nat) (x : W64) : (g.wacc n row col x).age = g.age := rfl
@[simp] theorem Group.wacc_agev (g : Group) (n row col : Nat) (x : W64) : (g.wacc n row col x).agev = g.agev := rfl
@[simp] theorem Group.wacc_agehold (g : Group) (n row col : Nat) (x : W64) : (g.wacc n row col x).agehold = g.agehold := rfl
@[simp] theorem Group.wacc_wounds (g : Group) (n row col : Nat) (x : W64) : (g.wacc n row col x).wounds = g.wounds := rfl
@[simp] theorem Group.wacc_lreq (g : Group) (n row col : Nat) (x : W64) : (g.wacc n row col x).lreq = g.lreq := rfl
@[simp] theorem Group.wacc_lkStop (g : Group) (n row col : Nat) (x : W64) : (g.wacc n row col x).lkStop = g.lkStop := rfl
@[simp] theorem Group.wacc_lrel (g : Group) (n row col : Nat) (x : W64) : (g.wacc n row col x).lrel = g.lrel := rfl
@[simp] theorem Group.wacc_lend (g : Group) (n row col : Nat) (x : W64) : (g.wacc n row col x).lend = g.lend := rfl
@[simp] theorem Group.wacc_lockSeq (g : Group) (n row col : Nat) (x : W64) : (g.wacc n row col x).lockSeq = g.lockSeq := rfl
@[simp] theorem Group.wacc_gearReq (g : Group) (n row col : Nat) (x : W64) : (g.wacc n row col x).gearReq = g.gearReq := rfl
@[simp] theorem Group.wacc_gearStart (g : Group) (n row col : Nat) (x : W64) : (g.wacc n row col x).gearStart = g.gearStart := rfl
@[simp] theorem Group.wacc_engErr (g : Group) (n row col : Nat) (x : W64) : (g.wacc n row col x).engErr = g.engErr := rfl
@[simp] theorem Group.wacc_engAddr (g : Group) (n row col : Nat) (x : W64) : (g.wacc n row col x).engAddr = g.engAddr := rfl
@[simp] theorem Group.wacc_engDt (g : Group) (n row col : Nat) (x : W64) : (g.wacc n row col x).engDt = g.engDt := rfl
@[simp] theorem Group.wacc_engDue (g : Group) (n row col : Nat) (x : W64) : (g.wacc n row col x).engDue = g.engDue := rfl
@[simp] theorem Group.wacc_splitSel (g : Group) (n row col : Nat) (x : W64) : (g.wacc n row col x).splitSel = g.splitSel := rfl
@[simp] theorem Group.wacc_lkSel (g : Group) (n row col : Nat) (x : W64) : (g.wacc n row col x).lkSel = g.lkSel := rfl
@[simp] theorem Group.wacc_olSel (g : Group) (n row col : Nat) (x : W64) : (g.wacc n row col x).olSel = g.olSel := rfl
@[simp] theorem Group.wacc_acctSel (g : Group) (n row col : Nat) (x : W64) : (g.wacc n row col x).acctSel = g.acctSel := rfl
@[simp] theorem Group.wacc_icount (g : Group) (n row col : Nat) (x : W64) : (g.wacc n row col x).icount = g.icount := rfl
@[simp] theorem Group.wacc_cleared (g : Group) (n row col : Nat) (x : W64) : (g.wacc n row col x).cleared = g.cleared := rfl
@[simp] theorem Group.wacc_flip (g : Group) (n row col : Nat) (x : W64) : (g.wacc n row col x).flip = g.flip := rfl
@[simp] theorem Group.wacc_matErr (g : Group) (n row col : Nat) (x : W64) : (g.wacc n row col x).matErr = g.matErr := rfl

/-! `Group.setSplit` -/

@[simp] theorem Group.setSplit_gid (g : Group) (sp : Split) : (g.setSplit sp).gid = g.gid := rfl
@[simp] theorem Group.setSplit_tid (g : Group) (sp : Split) : (g.setSplit sp).tid = g.tid := rfl
@[simp] theorem Group.setSplit_ctx (g : Group) (sp : Split) : (g.setSplit sp).ctx = g.ctx := rfl
@[simp] theorem Group.setSplit_live (g : Group) (sp : Split) : (g.setSplit sp).live = g.live := rfl
@[simp] theorem Group.setSplit_halted (g : Group) (sp : Split) : (g.setSplit sp).halted = g.halted := rfl
@[simp] theorem Group.setSplit_away (g : Group) (sp : Split) : (g.setSplit sp).away = g.away := rfl
@[simp] theorem Group.setSplit_stop (g : Group) (sp : Split) : (g.setSplit sp).stop = g.stop := rfl
@[simp] theorem Group.setSplit_role (g : Group) (sp : Split) : (g.setSplit sp).role = g.role := rfl
@[simp] theorem Group.setSplit_gidx (g : Group) (sp : Split) : (g.setSplit sp).gidx = g.gidx := rfl
@[simp] theorem Group.setSplit_teamIdx (g : Group) (sp : Split) : (g.setSplit sp).teamIdx = g.teamIdx := rfl
@[simp] theorem Group.setSplit_teamDim (g : Group) (sp : Split) : (g.setSplit sp).teamDim = g.teamDim := rfl
@[simp] theorem Group.setSplit_gridId (g : Group) (sp : Split) : (g.setSplit sp).gridId = g.gridId := rfl
@[simp] theorem Group.setSplit_gridKey (g : Group) (sp : Split) : (g.setSplit sp).gridKey = g.gridKey := rfl
@[simp] theorem Group.setSplit_gridDim (g : Group) (sp : Split) : (g.setSplit sp).gridDim = g.gridDim := rfl
@[simp] theorem Group.setSplit_depth (g : Group) (sp : Split) : (g.setSplit sp).depth = g.depth := rfl
@[simp] theorem Group.setSplit_argptr (g : Group) (sp : Split) : (g.setSplit sp).argptr = g.argptr := rfl
@[simp] theorem Group.setSplit_prio (g : Group) (sp : Split) : (g.setSplit sp).prio = g.prio := rfl
@[simp] theorem Group.setSplit_coRes (g : Group) (sp : Split) : (g.setSplit sp).coRes = g.coRes := rfl
@[simp] theorem Group.setSplit_tile (g : Group) (sp : Split) : (g.setSplit sp).tile = g.tile := rfl
@[simp] theorem Group.setSplit_place (g : Group) (sp : Split) : (g.setSplit sp).place = g.place := rfl
@[simp] theorem Group.setSplit_ctxBase (g : Group) (sp : Split) : (g.setSplit sp).ctxBase = g.ctxBase := rfl
@[simp] theorem Group.setSplit_allot (g : Group) (sp : Split) : (g.setSplit sp).allot = g.allot := rfl
@[simp] theorem Group.setSplit_naccs (g : Group) (sp : Split) : (g.setSplit sp).naccs = g.naccs := rfl
@[simp] theorem Group.setSplit_scratch (g : Group) (sp : Split) : (g.setSplit sp).scratch = g.scratch := rfl
@[simp] theorem Group.setSplit_xb (g : Group) (sp : Split) : (g.setSplit sp).xb = g.xb := rfl
@[simp] theorem Group.setSplit_v (g : Group) (sp : Split) : (g.setSplit sp).v = g.v := rfl
@[simp] theorem Group.setSplit_p (g : Group) (sp : Split) : (g.setSplit sp).p = g.p := rfl
@[simp] theorem Group.setSplit_s (g : Group) (sp : Split) : (g.setSplit sp).s = g.s := rfl
@[simp] theorem Group.setSplit_q (g : Group) (sp : Split) : (g.setSplit sp).q = g.q := rfl
@[simp] theorem Group.setSplit_ta (g : Group) (sp : Split) : (g.setSplit sp).ta = g.ta := rfl
@[simp] theorem Group.setSplit_acc (g : Group) (sp : Split) : (g.setSplit sp).acc = g.acc := rfl
@[simp] theorem Group.setSplit_accPoison (g : Group) (sp : Split) : (g.setSplit sp).accPoison = g.accPoison := rfl
@[simp] theorem Group.setSplit_regPoison (g : Group) (sp : Split) : (g.setSplit sp).regPoison = g.regPoison := rfl
@[simp] theorem Group.setSplit_dirty (g : Group) (sp : Split) : (g.setSplit sp).dirty = g.dirty := rfl
@[simp] theorem Group.setSplit_touched (g : Group) (sp : Split) : (g.setSplit sp).touched = g.touched := rfl
@[simp] theorem Group.setSplit_mends (g : Group) (sp : Split) : (g.setSplit sp).mends = g.mends := rfl
@[simp] theorem Group.setSplit_keptPc (g : Group) (sp : Split) : (g.setSplit sp).keptPc = g.keptPc := rfl
@[simp] theorem Group.setSplit_newSplits (g : Group) (sp : Split) : (g.setSplit sp).newSplits = g.newSplits := rfl
@[simp] theorem Group.setSplit_stack (g : Group) (sp : Split) : (g.setSplit sp).stack = g.stack := rfl
@[simp] theorem Group.setSplit_run (g : Group) (sp : Split) : (g.setSplit sp).run = g.run := rfl
@[simp] theorem Group.setSplit_cur (g : Group) (sp : Split) : (g.setSplit sp).cur = g.cur := rfl
@[simp] theorem Group.setSplit_runLen (g : Group) (sp : Split) : (g.setSplit sp).runLen = g.runLen := rfl
@[simp] theorem Group.setSplit_atEnd (g : Group) (sp : Split) : (g.setSplit sp).atEnd = g.atEnd := rfl
@[simp] theorem Group.setSplit_resumed (g : Group) (sp : Split) : (g.setSplit sp).resumed = g.resumed := rfl
@[simp] theorem Group.setSplit_absent (g : Group) (sp : Split) : (g.setSplit sp).absent = g.absent := rfl
@[simp] theorem Group.setSplit_hs (g : Group) (sp : Split) : (g.setSplit sp).hs = g.hs := rfl
@[simp] theorem Group.setSplit_txb (g : Group) (sp : Split) : (g.setSplit sp).txb = g.txb := rfl
@[simp] theorem Group.setSplit_inh (g : Group) (sp : Split) : (g.setSplit sp).inh = g.inh := rfl
@[simp] theorem Group.setSplit_trapSeq (g : Group) (sp : Split) : (g.setSplit sp).trapSeq = g.trapSeq := rfl
@[simp] theorem Group.setSplit_trapsTaken (g : Group) (sp : Split) : (g.setSplit sp).trapsTaken = g.trapsTaken := rfl
@[simp] theorem Group.setSplit_haz (g : Group) (sp : Split) : (g.setSplit sp).haz = g.haz := rfl
@[simp] theorem Group.setSplit_tcause (g : Group) (sp : Split) : (g.setSplit sp).tcause = g.tcause := rfl
@[simp] theorem Group.setSplit_tpc (g : Group) (sp : Split) : (g.setSplit sp).tpc = g.tpc := rfl
@[simp] theorem Group.setSplit_tresume (g : Group) (sp : Split) : (g.setSplit sp).tresume = g.tresume := rfl
@[simp] theorem Group.setSplit_tmask (g : Group) (sp : Split) : (g.setSplit sp).tmask = g.tmask := rfl
@[simp] theorem Group.setSplit_taddr (g : Group) (sp : Split) : (g.setSplit sp).taddr = g.taddr := rfl
@[simp] theorem Group.setSplit_tdt (g : Group) (sp : Split) : (g.setSplit sp).tdt = g.tdt := rfl
@[simp] theorem Group.setSplit_tother (g : Group) (sp : Split) : (g.setSplit sp).tother = g.tother := rfl
@[simp] theorem Group.setSplit_tlanecause (g : Group) (sp : Split) : (g.setSplit sp).tlanecause = g.tlanecause := rfl
@[simp] theorem Group.setSplit_twalk (g : Group) (sp : Split) : (g.setSplit sp).twalk = g.twalk := rfl
@[simp] theorem Group.setSplit_fpstat (g : Group) (sp : Split) : (g.setSplit sp).fpstat = g.fpstat := rfl
@[simp] theorem Group.setSplit_fpctl (g : Group) (sp : Split) : (g.setSplit sp).fpctl = g.fpctl := rfl
@[simp] theorem Group.setSplit_srcount (g : Group) (sp : Split) : (g.setSplit sp).srcount = g.srcount := rfl
@[simp] theorem Group.setSplit_batchSeq (g : Group) (sp : Split) : (g.setSplit sp).batchSeq = g.batchSeq := rfl
@[simp] theorem Group.setSplit_batchDone (g : Group) (sp : Split) : (g.setSplit sp).batchDone = g.batchDone := rfl
@[simp] theorem Group.setSplit_phase (g : Group) (sp : Split) : (g.setSplit sp).phase = g.phase := rfl
@[simp] theorem Group.setSplit_olog (g : Group) (sp : Split) : (g.setSplit sp).olog = g.olog := rfl
@[simp] theorem Group.setSplit_seq (g : Group) (sp : Split) : (g.setSplit sp).seq = g.seq := rfl
@[simp] theorem Group.setSplit_acks (g : Group) (sp : Split) : (g.setSplit sp).acks = g.acks := rfl
@[simp] theorem Group.setSplit_results (g : Group) (sp : Split) : (g.setSplit sp).results = g.results := rfl
@[simp] theorem Group.setSplit_fences (g : Group) (sp : Split) : (g.setSplit sp).fences = g.fences := rfl
@[simp] theorem Group.setSplit_lset (g : Group) (sp : Split) : (g.setSplit sp).lset = g.lset := rfl
@[simp] theorem Group.setSplit_age (g : Group) (sp : Split) : (g.setSplit sp).age = g.age := rfl
@[simp] theorem Group.setSplit_agev (g : Group) (sp : Split) : (g.setSplit sp).agev = g.agev := rfl
@[simp] theorem Group.setSplit_agehold (g : Group) (sp : Split) : (g.setSplit sp).agehold = g.agehold := rfl
@[simp] theorem Group.setSplit_wounds (g : Group) (sp : Split) : (g.setSplit sp).wounds = g.wounds := rfl
@[simp] theorem Group.setSplit_lreq (g : Group) (sp : Split) : (g.setSplit sp).lreq = g.lreq := rfl
@[simp] theorem Group.setSplit_lkStop (g : Group) (sp : Split) : (g.setSplit sp).lkStop = g.lkStop := rfl
@[simp] theorem Group.setSplit_lrel (g : Group) (sp : Split) : (g.setSplit sp).lrel = g.lrel := rfl
@[simp] theorem Group.setSplit_lend (g : Group) (sp : Split) : (g.setSplit sp).lend = g.lend := rfl
@[simp] theorem Group.setSplit_lockSeq (g : Group) (sp : Split) : (g.setSplit sp).lockSeq = g.lockSeq := rfl
@[simp] theorem Group.setSplit_gearReq (g : Group) (sp : Split) : (g.setSplit sp).gearReq = g.gearReq := rfl
@[simp] theorem Group.setSplit_gearStart (g : Group) (sp : Split) : (g.setSplit sp).gearStart = g.gearStart := rfl
@[simp] theorem Group.setSplit_engErr (g : Group) (sp : Split) : (g.setSplit sp).engErr = g.engErr := rfl
@[simp] theorem Group.setSplit_engAddr (g : Group) (sp : Split) : (g.setSplit sp).engAddr = g.engAddr := rfl
@[simp] theorem Group.setSplit_engDt (g : Group) (sp : Split) : (g.setSplit sp).engDt = g.engDt := rfl
@[simp] theorem Group.setSplit_engDue (g : Group) (sp : Split) : (g.setSplit sp).engDue = g.engDue := rfl
@[simp] theorem Group.setSplit_splitSel (g : Group) (sp : Split) : (g.setSplit sp).splitSel = g.splitSel := rfl
@[simp] theorem Group.setSplit_lkSel (g : Group) (sp : Split) : (g.setSplit sp).lkSel = g.lkSel := rfl
@[simp] theorem Group.setSplit_olSel (g : Group) (sp : Split) : (g.setSplit sp).olSel = g.olSel := rfl
@[simp] theorem Group.setSplit_acctSel (g : Group) (sp : Split) : (g.setSplit sp).acctSel = g.acctSel := rfl
@[simp] theorem Group.setSplit_icount (g : Group) (sp : Split) : (g.setSplit sp).icount = g.icount := rfl
@[simp] theorem Group.setSplit_cleared (g : Group) (sp : Split) : (g.setSplit sp).cleared = g.cleared := rfl
@[simp] theorem Group.setSplit_flip (g : Group) (sp : Split) : (g.setSplit sp).flip = g.flip := rfl
@[simp] theorem Group.setSplit_matErr (g : Group) (sp : Split) : (g.setSplit sp).matErr = g.matErr := rfl

/-! `Group.relabel` -/

@[simp] theorem Group.relabel_gid (g : Group) (a b : Nat) : (g.relabel a b).gid = g.gid := rfl
@[simp] theorem Group.relabel_tid (g : Group) (a b : Nat) : (g.relabel a b).tid = g.tid := rfl
@[simp] theorem Group.relabel_ctx (g : Group) (a b : Nat) : (g.relabel a b).ctx = g.ctx := rfl
@[simp] theorem Group.relabel_live (g : Group) (a b : Nat) : (g.relabel a b).live = g.live := rfl
@[simp] theorem Group.relabel_halted (g : Group) (a b : Nat) : (g.relabel a b).halted = g.halted := rfl
@[simp] theorem Group.relabel_away (g : Group) (a b : Nat) : (g.relabel a b).away = g.away := rfl
@[simp] theorem Group.relabel_stop (g : Group) (a b : Nat) : (g.relabel a b).stop = g.stop := rfl
@[simp] theorem Group.relabel_role (g : Group) (a b : Nat) : (g.relabel a b).role = g.role := rfl
@[simp] theorem Group.relabel_gidx (g : Group) (a b : Nat) : (g.relabel a b).gidx = g.gidx := rfl
@[simp] theorem Group.relabel_teamIdx (g : Group) (a b : Nat) : (g.relabel a b).teamIdx = g.teamIdx := rfl
@[simp] theorem Group.relabel_teamDim (g : Group) (a b : Nat) : (g.relabel a b).teamDim = g.teamDim := rfl
@[simp] theorem Group.relabel_gridId (g : Group) (a b : Nat) : (g.relabel a b).gridId = g.gridId := rfl
@[simp] theorem Group.relabel_gridKey (g : Group) (a b : Nat) : (g.relabel a b).gridKey = g.gridKey := rfl
@[simp] theorem Group.relabel_gridDim (g : Group) (a b : Nat) : (g.relabel a b).gridDim = g.gridDim := rfl
@[simp] theorem Group.relabel_depth (g : Group) (a b : Nat) : (g.relabel a b).depth = g.depth := rfl
@[simp] theorem Group.relabel_argptr (g : Group) (a b : Nat) : (g.relabel a b).argptr = g.argptr := rfl
@[simp] theorem Group.relabel_prio (g : Group) (a b : Nat) : (g.relabel a b).prio = g.prio := rfl
@[simp] theorem Group.relabel_coRes (g : Group) (a b : Nat) : (g.relabel a b).coRes = g.coRes := rfl
@[simp] theorem Group.relabel_tile (g : Group) (a b : Nat) : (g.relabel a b).tile = g.tile := rfl
@[simp] theorem Group.relabel_place (g : Group) (a b : Nat) : (g.relabel a b).place = g.place := rfl
@[simp] theorem Group.relabel_ctxBase (g : Group) (a b : Nat) : (g.relabel a b).ctxBase = g.ctxBase := rfl
@[simp] theorem Group.relabel_allot (g : Group) (a b : Nat) : (g.relabel a b).allot = g.allot := rfl
@[simp] theorem Group.relabel_naccs (g : Group) (a b : Nat) : (g.relabel a b).naccs = g.naccs := rfl
@[simp] theorem Group.relabel_scratch (g : Group) (a b : Nat) : (g.relabel a b).scratch = g.scratch := rfl
@[simp] theorem Group.relabel_xb (g : Group) (a b : Nat) : (g.relabel a b).xb = g.xb := rfl
@[simp] theorem Group.relabel_v (g : Group) (a b : Nat) : (g.relabel a b).v = g.v := rfl
@[simp] theorem Group.relabel_p (g : Group) (a b : Nat) : (g.relabel a b).p = g.p := rfl
@[simp] theorem Group.relabel_s (g : Group) (a b : Nat) : (g.relabel a b).s = g.s := rfl
@[simp] theorem Group.relabel_q (g : Group) (a b : Nat) : (g.relabel a b).q = g.q := rfl
@[simp] theorem Group.relabel_ta (g : Group) (a b : Nat) : (g.relabel a b).ta = g.ta := rfl
@[simp] theorem Group.relabel_acc (g : Group) (a b : Nat) : (g.relabel a b).acc = g.acc := rfl
@[simp] theorem Group.relabel_accPoison (g : Group) (a b : Nat) : (g.relabel a b).accPoison = g.accPoison := rfl
@[simp] theorem Group.relabel_regPoison (g : Group) (a b : Nat) : (g.relabel a b).regPoison = g.regPoison := rfl
@[simp] theorem Group.relabel_dirty (g : Group) (a b : Nat) : (g.relabel a b).dirty = g.dirty := rfl
@[simp] theorem Group.relabel_touched (g : Group) (a b : Nat) : (g.relabel a b).touched = g.touched := rfl
@[simp] theorem Group.relabel_mends (g : Group) (a b : Nat) : (g.relabel a b).mends = g.mends := rfl
@[simp] theorem Group.relabel_splits (g : Group) (a b : Nat) : (g.relabel a b).splits = g.splits := rfl
@[simp] theorem Group.relabel_keptPc (g : Group) (a b : Nat) : (g.relabel a b).keptPc = g.keptPc := rfl
@[simp] theorem Group.relabel_newSplits (g : Group) (a b : Nat) : (g.relabel a b).newSplits = g.newSplits := rfl
@[simp] theorem Group.relabel_stack (g : Group) (a b : Nat) : (g.relabel a b).stack = g.stack := rfl
@[simp] theorem Group.relabel_run (g : Group) (a b : Nat) : (g.relabel a b).run = g.run := rfl
@[simp] theorem Group.relabel_cur (g : Group) (a b : Nat) : (g.relabel a b).cur = g.cur := rfl
@[simp] theorem Group.relabel_runLen (g : Group) (a b : Nat) : (g.relabel a b).runLen = g.runLen := rfl
@[simp] theorem Group.relabel_atEnd (g : Group) (a b : Nat) : (g.relabel a b).atEnd = g.atEnd := rfl
@[simp] theorem Group.relabel_resumed (g : Group) (a b : Nat) : (g.relabel a b).resumed = g.resumed := rfl
@[simp] theorem Group.relabel_absent (g : Group) (a b : Nat) : (g.relabel a b).absent = g.absent := rfl
@[simp] theorem Group.relabel_hs (g : Group) (a b : Nat) : (g.relabel a b).hs = g.hs := rfl
@[simp] theorem Group.relabel_txb (g : Group) (a b : Nat) : (g.relabel a b).txb = g.txb := rfl
@[simp] theorem Group.relabel_inh (g : Group) (a b : Nat) : (g.relabel a b).inh = g.inh := rfl
@[simp] theorem Group.relabel_trapSeq (g : Group) (a b : Nat) : (g.relabel a b).trapSeq = g.trapSeq := rfl
@[simp] theorem Group.relabel_trapsTaken (g : Group) (a b : Nat) : (g.relabel a b).trapsTaken = g.trapsTaken := rfl
@[simp] theorem Group.relabel_haz (g : Group) (a b : Nat) : (g.relabel a b).haz = g.haz := rfl
@[simp] theorem Group.relabel_tcause (g : Group) (a b : Nat) : (g.relabel a b).tcause = g.tcause := rfl
@[simp] theorem Group.relabel_tpc (g : Group) (a b : Nat) : (g.relabel a b).tpc = g.tpc := rfl
@[simp] theorem Group.relabel_tresume (g : Group) (a b : Nat) : (g.relabel a b).tresume = g.tresume := rfl
@[simp] theorem Group.relabel_tmask (g : Group) (a b : Nat) : (g.relabel a b).tmask = g.tmask := rfl
@[simp] theorem Group.relabel_taddr (g : Group) (a b : Nat) : (g.relabel a b).taddr = g.taddr := rfl
@[simp] theorem Group.relabel_tdt (g : Group) (a b : Nat) : (g.relabel a b).tdt = g.tdt := rfl
@[simp] theorem Group.relabel_tother (g : Group) (a b : Nat) : (g.relabel a b).tother = g.tother := rfl
@[simp] theorem Group.relabel_tlanecause (g : Group) (a b : Nat) : (g.relabel a b).tlanecause = g.tlanecause := rfl
@[simp] theorem Group.relabel_twalk (g : Group) (a b : Nat) : (g.relabel a b).twalk = g.twalk := rfl
@[simp] theorem Group.relabel_fpstat (g : Group) (a b : Nat) : (g.relabel a b).fpstat = g.fpstat := rfl
@[simp] theorem Group.relabel_fpctl (g : Group) (a b : Nat) : (g.relabel a b).fpctl = g.fpctl := rfl
@[simp] theorem Group.relabel_srcount (g : Group) (a b : Nat) : (g.relabel a b).srcount = g.srcount := rfl
@[simp] theorem Group.relabel_batchSeq (g : Group) (a b : Nat) : (g.relabel a b).batchSeq = g.batchSeq := rfl
@[simp] theorem Group.relabel_batchDone (g : Group) (a b : Nat) : (g.relabel a b).batchDone = g.batchDone := rfl
@[simp] theorem Group.relabel_phase (g : Group) (a b : Nat) : (g.relabel a b).phase = g.phase := rfl
@[simp] theorem Group.relabel_seq (g : Group) (a b : Nat) : (g.relabel a b).seq = g.seq := rfl
@[simp] theorem Group.relabel_acks (g : Group) (a b : Nat) : (g.relabel a b).acks = g.acks := rfl
@[simp] theorem Group.relabel_fences (g : Group) (a b : Nat) : (g.relabel a b).fences = g.fences := rfl
@[simp] theorem Group.relabel_lset (g : Group) (a b : Nat) : (g.relabel a b).lset = g.lset := rfl
@[simp] theorem Group.relabel_age (g : Group) (a b : Nat) : (g.relabel a b).age = g.age := rfl
@[simp] theorem Group.relabel_agev (g : Group) (a b : Nat) : (g.relabel a b).agev = g.agev := rfl
@[simp] theorem Group.relabel_agehold (g : Group) (a b : Nat) : (g.relabel a b).agehold = g.agehold := rfl
@[simp] theorem Group.relabel_wounds (g : Group) (a b : Nat) : (g.relabel a b).wounds = g.wounds := rfl
@[simp] theorem Group.relabel_lreq (g : Group) (a b : Nat) : (g.relabel a b).lreq = g.lreq := rfl
@[simp] theorem Group.relabel_lkStop (g : Group) (a b : Nat) : (g.relabel a b).lkStop = g.lkStop := rfl
@[simp] theorem Group.relabel_lrel (g : Group) (a b : Nat) : (g.relabel a b).lrel = g.lrel := rfl
@[simp] theorem Group.relabel_lend (g : Group) (a b : Nat) : (g.relabel a b).lend = g.lend := rfl
@[simp] theorem Group.relabel_lockSeq (g : Group) (a b : Nat) : (g.relabel a b).lockSeq = g.lockSeq := rfl
@[simp] theorem Group.relabel_gearReq (g : Group) (a b : Nat) : (g.relabel a b).gearReq = g.gearReq := rfl
@[simp] theorem Group.relabel_gearStart (g : Group) (a b : Nat) : (g.relabel a b).gearStart = g.gearStart := rfl
@[simp] theorem Group.relabel_engErr (g : Group) (a b : Nat) : (g.relabel a b).engErr = g.engErr := rfl
@[simp] theorem Group.relabel_engAddr (g : Group) (a b : Nat) : (g.relabel a b).engAddr = g.engAddr := rfl
@[simp] theorem Group.relabel_engDt (g : Group) (a b : Nat) : (g.relabel a b).engDt = g.engDt := rfl
@[simp] theorem Group.relabel_engDue (g : Group) (a b : Nat) : (g.relabel a b).engDue = g.engDue := rfl
@[simp] theorem Group.relabel_splitSel (g : Group) (a b : Nat) : (g.relabel a b).splitSel = g.splitSel := rfl
@[simp] theorem Group.relabel_lkSel (g : Group) (a b : Nat) : (g.relabel a b).lkSel = g.lkSel := rfl
@[simp] theorem Group.relabel_olSel (g : Group) (a b : Nat) : (g.relabel a b).olSel = g.olSel := rfl
@[simp] theorem Group.relabel_acctSel (g : Group) (a b : Nat) : (g.relabel a b).acctSel = g.acctSel := rfl
@[simp] theorem Group.relabel_icount (g : Group) (a b : Nat) : (g.relabel a b).icount = g.icount := rfl
@[simp] theorem Group.relabel_cleared (g : Group) (a b : Nat) : (g.relabel a b).cleared = g.cleared := rfl
@[simp] theorem Group.relabel_flip (g : Group) (a b : Nat) : (g.relabel a b).flip = g.flip := rfl
@[simp] theorem Group.relabel_matErr (g : Group) (a b : Nat) : (g.relabel a b).matErr = g.matErr := rfl

end Sys2Proof.Machine
end

