-- ==== Sys2Proof/Laws/Issue.lean ====
section
/-! SUPPORT. What issuing an instruction leaves unchanged: the end of a run, the counts, and the records of redundant execution change only
the bookkeeping that `State.still` blanks. -/

namespace Sys2Proof.Machine

/-! ## Groups -/

@[simp] theorem Group.still_setSplit (g : Group) (sp : Split) : (g.setSplit sp).still = g.still := rfl

@[simp] theorem Group.still_dropSlot (g : Group) (a b : Nat) : (g.dropSlot a b).still = g.still := by
  unfold Group.dropSlot
  dsimp only
  split <;> rfl

@[simp] theorem Group.still_relabel (g : Group) (a b : Nat) : (g.relabel a b).still = g.still := by
  have h1 : ∀ l : List OlEntry, (l.map (fun e =>
      { e with slot := if e.slot = a then b else e.slot, again := if e.again = some a then some b else e.again })).map
      (fun (e : OlEntry) => { e with slot := 0, again := e.again.map (fun _ => 0) }) =
      l.map (fun (e : OlEntry) => { e with slot := 0, again := e.again.map (fun _ => 0) }) := by
    intro l; rw [List.map_map]; congr 1; funext e
    have : (if e.again = some a then some b else e.again).map (fun _ => 0) = e.again.map (fun _ => 0) := by
      split
      · rename_i h; rw [h]; rfl
      · rfl
    simp only [Function.comp, this]
  have h2 : ∀ l : List Result, (l.map (fun r => if r.slot = a then { r with slot := b } else r)).map
      (fun (r : Result) => { r with slot := 0 }) = l.map (fun (r : Result) => { r with slot := 0 }) := by
    intro l; rw [List.map_map]; congr 1; funext r; simp only [Function.comp]; split <;> rfl
  simp only [Group.relabel, Group.still, h1, h2]

@[simp] theorem Group.still_mergeAt (clock fuel : Nat) : ∀ (g : Group) (slot : Nat), (Group.mergeAt clock fuel g slot).still = g.still := by
  induction fuel with
  | zero => intro g slot; rfl
  | succ n ih =>
    intro g slot
    unfold Group.mergeAt
    split
    · rfl
    · split
      · split
        · rfl
        · extract_lets lo hi g1 g1' g2 g3
          have h1 : g1.still = g.still := (Group.still_setSplit _ _).trans (Group.still_relabel _ _ _)
          have h1' : g1'.still = g1.still := by
            have : (g1.engDue.map (fun (x : Nat × BitVec 57) => if x.1 = hi then (lo, x.2) else x)).map (fun x => ((0 : Nat), x.2)) =
                g1.engDue.map (fun x => ((0 : Nat), x.2)) := by
              cases g1.engDue with
              | none => rfl
              | some x => simp only [Option.map_some]; split <;> rfl
            simp only [g1', Group.still, this]
          have h2 : g2.still = g.still := (Group.still_dropSlot _ _ _).trans (h1'.trans h1)
          have h3 : g3.still = g.still := (ih _ _).trans h2
          split
          · exact (ih _ _).trans h3
          · exact h3
      · rfl

theorem Group.still_foldl {α : Type} (f : Group → α → Group) (hf : ∀ g x, (f g x).still = g.still) (l : List α) :
    ∀ g : Group, (l.foldl f g).still = g.still := by
  induction l with
  | nil => intro g; rfl
  | cons x rest ih => intro g; rw [List.foldl_cons, ih, hf]

@[simp] theorem Group.still_makeSplits (g : Group) (slot clock : Nat) : (g.makeSplits slot clock).still = g.still := by
  unfold Group.makeSplits
  split
  · rfl
  · dsimp only
    rw [Group.still_mergeAt, Group.still_foldl]
    · rfl
    · intro g x; split <;> rfl

@[simp] theorem Group.still_endRun (g : Group) (slot clock hold : Nat) : (g.endRun slot clock hold).still = g.still := by
  unfold Group.endRun
  split
  · rfl
  · dsimp only; rw [Group.still_mergeAt]; rfl

@[simp] theorem Group.still_endPark (g : Group) (slot : Nat) (p : Park) (len : Nat) (w : Bool) :
    (g.endPark slot p len w).still = g.still := by
  unfold Group.endPark
  split <;> rfl

@[simp] theorem Group.still_unpoison (g : Group) (u : Uses) (m : W32) : (g.unpoison u m).still = g.still := by
  unfold Group.unpoison
  split <;> rfl

/-! ## States -/

/-- A change of the issuing group's bookkeeping alone. -/
theorem State.still_setG (s : State) (g : Group) (h : g.still = s.g.still) : ({ s with g := g } : State).still = s.still := by
  simp only [State.still, h]

/-- A change of what redundant execution records of teams. -/
theorem State.still_modTeam (s : State) (n : Nat) (f : Team → Team) (h : ∀ t, (f t).still = t.still) : (s.modTeam n f).still = s.still := by
  have : (s.teams.map (fun t => if t.tid = n then f t else t)).map Team.still = s.teams.map Team.still := by
    rw [List.map_map]; congr 1; funext t; simp only [Function.comp]; split <;> simp [h]
  simp only [State.still, State.modTeam, this]

@[simp] theorem State.still_modChord (s : State) (n : Nat) (f : Chord → Chord) : (s.modChord n f).still = s.still :=
  State.still_modTeam s n _ (fun _ => rfl)

@[simp] theorem State.still_addFolds (s : State) (g : Group) (n : Nat) (b : Bool) (l : List (W32 × W32)) :
    (s.addFolds g n b l).still = s.still := by
  unfold State.addFolds
  split
  · rfl
  · exact State.still_modTeam s _ _ (fun _ => rfl)

@[simp] theorem State.still_logVals (s : State) (g : Group) (n : Nat) (l : List (Nat × W64)) : (s.logVals g n l).still = s.still := by
  unfold State.logVals
  split <;> simp

@[simp] theorem State.still_closeGroup (s : State) (g : Group) (a b c : Nat) : (s.closeGroup g a b c).still = s.still := by
  unfold State.closeGroup
  apply State.still_modTeam
  intro t
  split <;> rfl

theorem State.still_foldl {α : Type} (f : State → α → State) (hf : ∀ s x, (f s x).still = s.still) (l : List α) :
    ∀ s : State, (l.foldl f s).still = s.still := by
  induction l with
  | nil => intro s; rfl
  | cons x rest ih => intro s; rw [List.foldl_cons, ih, hf]

@[simp] theorem State.still_closeBehind (s : State) (g : Group) : (s.closeBehind g).still = s.still := by
  unfold State.closeBehind
  split
  · split
    · rfl
    · exact State.still_foldl _ (fun s x => State.still_closeGroup s _ _ _ _) _ _
  · rfl

@[simp] theorem State.still_closeFollower (s : State) (g : Group) : (s.closeFollower g).still = s.still := by
  unfold State.closeFollower
  split
  · exact State.still_foldl _ (fun s x => State.still_closeGroup s _ _ _ _) _ _
  · rfl

@[simp] theorem State.still_closeStill (s : State) (a b : Nat) : (s.closeStill a b).still = s.still :=
  State.still_foldl _ (fun s x => State.still_closeBehind s _) _ _

@[simp] theorem State.still_openNext (s : State) (a : Nat) : (s.openNext a).still = s.still := by
  unfold State.openNext
  split
  · rfl
  · exact (State.still_modTeam _ _ (fun t => { t with sectors := [] }) (fun _ => rfl)).trans (State.still_modChord _ _ _)

@[simp] theorem State.still_closeSegment (s : State) (g : Group) (a b : Nat) : (s.closeSegment g a b).still = s.still := by
  unfold State.closeSegment
  split <;> simp

/-- Lines copied for a checkpoint are bookkeeping. -/
theorem State.still_mapTouched (s : State) (b : Group → Bool) :
    (s.mapGroups (fun g => if b g then { g with touched := [] } else g)).still = s.still := by
  have h : (s.others.map (fun g => if b g then { g with touched := [] } else g)).map Group.uncopied = s.others.map Group.uncopied := by
    rw [List.map_map]; congr 1; funext g; simp only [Function.comp]; split <;> rfl
  have hg : Group.still (if b s.g then { s.g with touched := [] } else s.g) = s.g.still := by split <;> rfl
  simp only [State.still, State.mapGroups, h, hg]

@[simp] theorem State.still_takeChecks (s : State) (a : Nat) : (s.takeChecks a).still = s.still := by
  unfold State.takeChecks
  split
  · rfl
  · dsimp only
    split
    · rfl
    · split
      · rfl
      · exact (State.still_mapTouched _ _).trans (State.still_modChord _ _ _)

@[simp] theorem State.still_logRun (s : State) (g : Group) (a : Nat) : (s.logRun g a).still = s.still := by
  unfold State.logRun
  split <;> simp

/-- Where two states differ only in bookkeeping, so do their issuing groups. -/
theorem State.still_g {s t : State} (h : s.still = t.still) : s.g.still = t.g.still := congrArg State.g h

@[simp] theorem State.still_boundary (s : State) (a : Nat) : (s.boundary a).still = s.still := by
  unfold State.boundary
  split
  · rfl
  · dsimp only
    rw [State.still_setG _ _ (Group.still_makeSplits _ _ _), State.still_closeBehind]
    split <;> split <;> simp

@[simp] theorem State.still_counted (s : State) : s.counted.still = s.still := rfl

@[simp] theorem State.still_advance (s : State) (h : Hdr) (sp : Split) (pc : BitVec 57) (e : Bool) (n : Nat) :
    (s.advance h sp pc e n).still = s.still := by
  unfold State.advance
  apply State.still_setG
  split
  · split
    · rfl
    · rw [Group.still_endPark]; rfl
  · split
    · rw [Group.still_endRun]; rfl
    · rfl

@[simp] theorem State.still_followEnd (s : State) (a : Nat) : (s.followEnd a).still = s.still := by
  unfold State.followEnd
  split
  · exact State.still_setG _ _ (Group.still_endRun _ _ _ _)
  · rfl

/-- What an instruction's fate does beyond its effect is bookkeeping, but where it traps. -/
theorem State.still_finish (s : State) (i : Instr) (h : Hdr) (sp : Split) (f : Fate) (hf : ∀ t, f ≠ .trap t) :
    (s.finish i h sp f).still = s.still := by
  cases f with
  | trap t => exact absurd rfl (hf t)
  | park p => simp only [State.finish, State.still_boundary, State.still_counted]; exact State.still_setG _ _ (Group.still_endPark _ _ _ _ _)
  | pass p =>
    simp only [State.finish, State.still_boundary, State.still_counted]
    exact State.still_setG _ _ ((Group.still_endPark _ _ _ _ _).trans rfl)
  | _ => simp [State.finish]

@[simp] theorem State.still_finish_fall (s : State) (i : Instr) (h : Hdr) (sp : Split) : (s.finish i h sp .fall).still = s.still :=
  State.still_finish s i h sp .fall (by simp)

@[simp] theorem State.still_countIf (s : State) (u : Uses) : (s.countIf u).still = s.still := by
  unfold State.countIf State.countStore
  split
  · split
    · rename_i x s1 full heq
      have h1 : s1.still = s.still := by
        revert heq
        split
        · intro h; cases h; rfl
        · split
          · intro h; cases h; simp
          · intro h; cases h; rfl
      split
      · rw [State.still_closeSegment, h1]
      · exact h1
  · rfl

@[simp] theorem State.still_foldWrites (s : State) (u : Uses) (m : W32) : (s.foldWrites u m).still = s.still := by
  unfold State.foldWrites
  split
  · rfl
  · simp

@[simp] theorem State.still_logNow (s : State) (u : Uses) (m : W32) : (s.logNow u m).still = s.still := by
  unfold State.logNow
  split
  · simp
  · split <;> simp

/-! ## What is recorded for redundant execution leaves the issuing group alone -/

theorem State.g_foldl {α : Type} (f : State → α → State) (hf : ∀ s x, (f s x).g = s.g) (l : List α) :
    ∀ s : State, (l.foldl f s).g = s.g := by
  induction l with
  | nil => intro s; rfl
  | cons x rest ih => intro s; rw [List.foldl_cons, ih, hf]

@[simp] theorem State.g_addFolds (s : State) (g : Group) (n : Nat) (b : Bool) (l : List (W32 × W32)) : (s.addFolds g n b l).g = s.g := by
  unfold State.addFolds
  split <;> rfl

@[simp] theorem State.g_logVals (s : State) (g : Group) (n : Nat) (l : List (Nat × W64)) : (s.logVals g n l).g = s.g := by
  unfold State.logVals
  split <;> rfl

@[simp] theorem State.g_closeGroup (s : State) (g : Group) (a b c : Nat) : (s.closeGroup g a b c).g = s.g := rfl

@[simp] theorem State.g_closeBehind (s : State) (g : Group) : (s.closeBehind g).g = s.g := by
  unfold State.closeBehind
  split
  · split
    · rfl
    · exact State.g_foldl (fun s x => s.closeGroup _ _ _ _) (fun s x => State.g_closeGroup s _ _ _ _) _ _
  · rfl

@[simp] theorem State.g_closeFollower (s : State) (g : Group) : (s.closeFollower g).g = s.g := by
  unfold State.closeFollower
  split
  · exact State.g_foldl (fun s x => s.closeGroup _ _ _ _) (fun s x => State.g_closeGroup s _ _ _ _) _ _
  · rfl

@[simp] theorem State.g_closeStill (s : State) (a b : Nat) : (s.closeStill a b).g = s.g :=
  State.g_foldl _ (fun s x => State.g_closeBehind s _) _ _

@[simp] theorem State.g_openNext (s : State) (a : Nat) : (s.openNext a).g = s.g := by
  unfold State.openNext
  split <;> rfl

@[simp] theorem State.g_closeSegment (s : State) (g : Group) (a b : Nat) : (s.closeSegment g a b).g = s.g := by
  unfold State.closeSegment
  split
  · rfl
  · simp

theorem State.g_mapTouched (s : State) (b : Group → Bool) :
    (s.mapGroups (fun g => if b g then { g with touched := [] } else g)).g =
      { s.g with touched := (s.mapGroups (fun g => if b g then { g with touched := [] } else g)).g.touched } := by
  simp only [State.mapGroups]
  split <;> rfl

/-- Taking checkpoints leaves the issuing group but for the marks of lines copied. -/
theorem State.g_takeChecks (s : State) (a : Nat) : (s.takeChecks a).g = { s.g with touched := (s.takeChecks a).g.touched } := by
  unfold State.takeChecks
  split
  · rfl
  · dsimp only
    split
    · rfl
    · split
      · rfl
      · exact State.g_mapTouched _ _

@[simp] theorem State.g_logRun (s : State) (g : Group) (a : Nat) : (s.logRun g a).g = s.g := by
  unfold State.logRun
  split <;> rfl

@[simp] theorem State.g_foldWrites (s : State) (u : Uses) (m : W32) : (s.foldWrites u m).g = s.g := by
  unfold State.foldWrites
  split
  · rfl
  · simp

@[simp] theorem State.g_logNow (s : State) (u : Uses) (m : W32) : (s.logNow u m).g = s.g := by
  unfold State.logNow
  split
  · simp
  · split
    · simp
    · rfl

@[simp] theorem State.g_countIf (s : State) (u : Uses) : (s.countIf u).g = s.g := by
  unfold State.countIf State.countStore
  split
  · split
    · rename_i x s1 full heq
      have h1 : s1.g = s.g := by
        revert heq
        split
        · intro h; cases h; rfl
        · split
          · intro h; cases h; rfl
          · intro h; cases h; rfl
      split
      · rw [State.g_closeSegment, h1]
      · exact h1
  · rfl

theorem State.g_takeIf (b : Prop) [Decidable b] (t : State) (n : Nat) :
    (if b then t.takeChecks n else t).g = { t.g with touched := (if b then t.takeChecks n else t).g.touched } := by
  split
  · exact State.g_takeChecks _ _
  · rfl

/-- The end of a run where nothing waits to be made: the issuing group stays. -/
@[simp] theorem State.g_boundary (s : State) (a : Nat) (h : s.g.newSplits = []) : (s.boundary a).g = s.g := by
  have hm : ∀ t : State, t.g = s.g → t.g.makeSplits a s.clock = s.g := by
    intro t ht
    rw [ht]
    unfold Group.makeSplits
    simp [h]
  unfold State.boundary
  split
  · rfl
  · apply hm
    rw [State.g_closeBehind]
    split <;> split <;> simp

/-! ## Issuing -/

@[simp] theorem State.open_still (s : State) : s.open_.still = s.still := rfl

@[simp] theorem State.open_running (s : State) : s.open_.g.running = s.g.running := rfl

@[simp] theorem State.still_takeIf (b : Prop) [Decidable b] (t : State) (n : Nat) : (if b then t.takeChecks n else t).still = t.still := by
  split <;> simp

@[simp] theorem State.still_checkedBy (s t : State) : (s.checkedBy t).still = t.still := State.still_takeIf _ _ _

theorem State.g_checkedBy (s t : State) : (s.checkedBy t).g = { t.g with touched := (s.checkedBy t).g.touched } := State.g_takeIf _ _ _

/-- The body of an instruction that goes to be performed. -/
theorem perform_run (s s1 : State) (i : Instr) (h : Hdr) (u : Uses) (fs : List (W32 × W32)) (m : W32) (sp : Split)
    (body : State → State × Fate) (f : Fate) (hd : u.logged = false ∨ s.g.role = .plain)
    (hi : s.g.role.follows = true → s.instrTrap s.g = none) (hb : body s.open_ = (s1, f)) (hw : f ≠ .wait) (ht : ∀ x, f ≠ .trap x) :
    ∃ s2 t : State, s.perform i h u fs m sp body = some t ∧ s2.still = s1.still ∧ s2.g = { s1.g with regPoison := s2.g.regPoison } ∧
      t.still = (s2.finish i h sp f).still ∧ t.g = (s2.finish i h sp f).g := by
  have hc : ((s.g.role.follows || s.doneBefore) && u.logged) = false := by
    rcases hd with hd | hd
    · simp [hd]
    · simp [hd, Role.follows, State.doneBefore]
  have hn : (if s.g.role.follows = true then s.instrTrap s.g else none) = none := by
    split
    · exact hi ‹_›
    · rfl
  unfold State.perform
  rw [show ({ s with g := { s.g with cleared := none } } : State) = s.open_ from rfl, hb]
  simp only [hn, hc, Bool.false_eq_true, if_false]
  have key : ∀ x : State, x.still = s1.still → x.g = s1.g.unpoison u m →
      ∃ s2 t : State, (let s6 := (x.countIf u).finish i h sp f; some (s6.closeFollower s6.g)) = some t ∧ s2.still = s1.still ∧
        s2.g = { s1.g with regPoison := s2.g.regPoison } ∧ t.still = (s2.finish i h sp f).still ∧ t.g = (s2.finish i h sp f).g := by
    intro x hx hg
    refine ⟨x.countIf u, _, rfl, ?_, ?_, ?_, ?_⟩
    · rw [State.still_countIf, hx]
    · rw [State.g_countIf, hg]
      unfold Group.unpoison
      split <;> rfl
    · simp only [State.still_closeFollower]
    · simp only [State.g_closeFollower]
  have hu : ({ s1 with g := s1.g.unpoison u m } : State).still = s1.still := State.still_setG _ _ (Group.still_unpoison _ _ _)
  have hx : ∀ b : Bool, ∀ l, (({ s1 with g := s1.g.unpoison u m } : State).addFolds s.g s.g.seq b l).still = s1.still := by
    intro b l; rw [State.still_addFolds, hu]
  cases f with
  | wait => exact absurd rfl hw
  | trap t => exact absurd rfl (ht t)
  | fall => exact key _ (by simp only [State.still_logNow, State.still_foldWrites, hx]) (by simp)
  | jump pc => exact key _ (by simp only [State.still_logNow, State.still_foldWrites, hx]) (by simp)
  | stop => exact key _ (by simp only [State.still_logNow, State.still_foldWrites, hx]) (by simp)
  | park p => exact key _ (hx _ _) (by simp)
  | pass p => exact key _ (hx _ _) (by simp)
  | placed => exact key _ (hx _ _) (by simp)

/-- An instruction that can issue and whose guard is on: its body's effect and what its fate makes of the split. -/
theorem issue_run (s s1 : State) (i : Instr) (h : Hdr) (u : Uses) (sp : Split) (lanes : State → W32) (on : State → Bool)
    (body : State → State × Fate) (f : Fate) (hc : s.canIssue i u sp) (ho : on s = true)
    (hb : body s.open_ = (s1, f)) (hw : f ≠ .wait) (ht : ∀ x, f ≠ .trap x) :
    ∃ s2 t : State, issue i h u lanes on body s = .next t ∧ s2.still = s1.still ∧ s2.g = { s1.g with regPoison := s2.g.regPoison } ∧
      t.still = (s2.finish i h sp f).still ∧ t.g = { (s2.finish i h sp f).g with touched := t.g.touched } := by
  obtain ⟨hr, hp, hm, hy, hs, hfull, hit, hpl⟩ := hc
  have hst : (u.store && s.storeStop s.g) = false := by
    cases hu : u.store
    · rfl
    · simp [hs hu]
  have hd : (u.logged = false ∧ u.cmp = false) ∨ s.g.role = .plain := by
    cases h1 : u.logged <;> cases h2 : u.cmp <;> simp [h1, h2] at hpl ⊢ <;> exact hpl
  have hl : u.logged = false ∨ s.g.role = .plain := hd.imp (·.1) id
  unfold issue
  simp only [hr, hp, hm, hy, hst, ho, hfull, Bool.not_true, Bool.or_self, Bool.false_eq_true, if_false]
  have key : ∀ fs, ∃ s2 t : State, (Host.Outcome.next (match s.perform i h u fs (lanes s) sp body with
        | none => if u.queued = true then s else s.checkedBy (s.heldUp sp.slot)
        | some t => s.checkedBy t) : Out) = .next t ∧
      s2.still = s1.still ∧ s2.g = { s1.g with regPoison := s2.g.regPoison } ∧
      t.still = (s2.finish i h sp f).still ∧ t.g = { (s2.finish i h sp f).g with touched := t.g.touched } := by
    intro fs
    obtain ⟨s2, t, e, h1, h2, h3, h4⟩ := perform_run s s1 i h u fs (lanes s) sp body f hl hit hb hw ht
    rw [e]
    exact ⟨s2, _, rfl, h1, h2, by simp only [State.still_checkedBy, h3], by rw [State.g_checkedBy, h4]⟩
  by_cases hcl : s.g.cleared = some sp.slot
  · simp only [hcl, if_true]; exact key []
  · simp only [hcl, if_false]
    by_cases hk : u.cmp = true
    · have hpl : s.g.role = .plain := by
        rcases hd with ⟨_, h2⟩ | h1
        · rw [h2] at hk; exact absurd hk (by decide)
        · exact h1
      simp only [hk, Bool.not_true, Bool.false_eq_true, if_false]
      obtain ⟨s2, t, e, h1, h2, h3, h4⟩ := perform_run s s1 i h u [] (lanes s) sp body f hl hit hb hw ht
      simp only [hpl, e]
      exact ⟨s2, _, rfl, h1, h2, by simp only [State.still_checkedBy, h3], by rw [State.g_checkedBy, h4]⟩
    · have hk : u.cmp = false := by simpa using hk
      simp only [hk, Bool.not_false, if_true]
      exact key u.folds

/-- The same where the body goes on to the next instruction; with its guard off it does nothing. -/
theorem issue_fall (s : State) (i : Instr) (h : Hdr) (u : Uses) (sp : Split) (lanes : State → W32) (on : State → Bool)
    (body : State → State × Fate) (hc : s.canIssue i u sp)
    (s1 : State) (hb : on s = true → body s.open_ = (s1, .fall)) :
    ∃ t, issue i h u lanes on body s = .next t ∧ t.still = (if on s = true then s1 else s).still := by
  by_cases ho : on s = true
  · obtain ⟨s2, t, e, h1, _, h3, _⟩ := issue_run s s1 i h u sp lanes on body .fall hc ho (hb ho) (by simp) (by simp)
    exact ⟨t, e, by rw [h3, State.still_finish_fall, h1, if_pos ho]⟩
  · obtain ⟨hr, hp, hm, hy, hs, _⟩ := hc
    have hst : (u.store && s.storeStop s.g) = false := by
      cases hu : u.store
      · rfl
      · simp [hs hu]
    have ho : on s = false := by simpa using ho
    unfold issue
    simp only [hr, hp, hm, hy, hst, ho, Bool.not_true, Bool.or_self, Bool.false_eq_true, if_false, Bool.not_false, if_true]
    exact ⟨_, rfl, by simp⟩

end Sys2Proof.Machine
end

