-- ==== Sys2Proof/Laws/Map.lean ====
section
/-! SUPPORT. The laws of sparse arrays: a read after a write, and the canonical form that every write keeps. -/

namespace Sys2Proof.Machine

theorem mapGet_mapErase {β : Type} (d : Nat → β) (m : Sparse β) (i j : Nat) :
    mapGet d (mapErase i m) j = if j = i then d j else mapGet d m j := by
  induction m with
  | nil => simp [mapErase, mapGet]
  | cons y rest ih =>
    obtain ⟨k, y⟩ := y
    by_cases hk : k = i
    · subst hk
      by_cases hj : j = k
      · subst hj; simp [mapErase, ih]
      · simp [mapErase, mapGet, ih, hj, Ne.symm hj]
    · by_cases hkj : k = j
      · subst hkj; simp [mapErase, mapGet, hk]
      · simp [mapErase, mapGet, hk, hkj, ih]

theorem mapGet_mapInsert {β : Type} (d : Nat → β) (m : Sparse β) (i j : Nat) (x : β) (h : ∀ p ∈ m, p.1 ≠ i) :
    mapGet d (mapInsert i x m) j = if j = i then x else mapGet d m j := by
  induction m with
  | nil =>
    by_cases hj : j = i
    · simp [mapInsert, mapGet, hj]
    · simp [mapInsert, mapGet, hj, Ne.symm hj]
  | cons y rest ih =>
    obtain ⟨k, y⟩ := y
    have hk : k ≠ i := h (k, y) (by simp)
    have hr : ∀ p ∈ rest, p.1 ≠ i := fun p hp => h p (by simp [hp])
    by_cases hik : i < k
    · by_cases hj : j = i
      · simp [mapInsert, hik, mapGet, hj]
      · simp [mapInsert, hik, mapGet, hj, Ne.symm hj]
    · by_cases hj : k = j
      · subst hj; simp [mapInsert, hik, mapGet, hk]
      · simp [mapInsert, hik, mapGet, hj, ih hr]

theorem mapErase_ne {β : Type} (i : Nat) (m : Sparse β) : ∀ p ∈ mapErase i m, p.1 ≠ i := by
  induction m with
  | nil => simp [mapErase]
  | cons y rest ih =>
    obtain ⟨k, y⟩ := y
    by_cases hk : k = i
    · simpa [mapErase, hk] using ih
    · simp only [mapErase, hk, if_false]
      intro p hp
      rcases List.mem_cons.mp hp with rfl | hp
      · exact hk
      · exact ih p hp

/-- A read after a write. -/
theorem mapGet_mapSet {β : Type} [DecidableEq β] (d : Nat → β) (m : Sparse β) (i j : Nat) (x : β) :
    mapGet d (mapSet d m i x) j = if j = i then x else mapGet d m j := by
  unfold mapSet
  split
  · next h => rw [mapGet_mapErase]; split <;> simp_all
  · rw [mapGet_mapInsert _ _ _ _ _ (mapErase_ne i m), mapGet_mapErase]; split <;> simp_all

@[simp] theorem mapGet_mapSet_self {β : Type} [DecidableEq β] (d : Nat → β) (m : Sparse β) (i : Nat) (x : β) :
    mapGet d (mapSet d m i x) i = x := by simp [mapGet_mapSet]

theorem mapGet_mapSet_ne {β : Type} [DecidableEq β] (d : Nat → β) (m : Sparse β) (i j : Nat) (x : β) (h : j ≠ i) :
    mapGet d (mapSet d m i x) j = mapGet d m j := by simp [mapGet_mapSet, h]

/-! ## The canonical form -/

theorem mapWfFrom_weaken {β : Type} [DecidableEq β] (d : Nat → β) (m : Sparse β) (lo lo' : Option Nat)
    (h : mapWfFrom d lo m = true) (hl : ∀ a, lo' = some a → ∃ b, lo = some b ∧ a ≤ b) : mapWfFrom d lo' m = true := by
  cases m with
  | nil => rfl
  | cons y rest =>
    obtain ⟨k, y⟩ := y
    simp only [mapWfFrom, Bool.and_eq_true, decide_eq_true_eq] at h ⊢
    refine ⟨⟨?_, h.1.2⟩, h.2⟩
    cases lo' with
    | none => rfl
    | some a =>
      obtain ⟨b, rfl, hab⟩ := hl a rfl
      simpa using lt_of_le_of_lt hab (by simpa using h.1.1)

theorem mapErase_wf {β : Type} [DecidableEq β] (d : Nat → β) (i : Nat) (m : Sparse β) :
    ∀ lo, mapWfFrom d lo m = true → mapWfFrom d lo (mapErase i m) = true := by
  induction m with
  | nil => intro lo h; exact h
  | cons y rest ih =>
    obtain ⟨k, y⟩ := y
    intro lo h
    simp only [mapWfFrom, Bool.and_eq_true, decide_eq_true_eq] at h
    by_cases hk : k = i
    · simp only [mapErase, hk, if_true]
      refine ih lo (mapWfFrom_weaken d rest (some k) lo h.2 ?_)
      intro a ha; subst ha
      exact ⟨k, rfl, le_of_lt (by simpa using h.1.1)⟩
    · simp only [mapErase, hk, if_false, mapWfFrom, Bool.and_eq_true, decide_eq_true_eq]
      exact ⟨h.1, ih _ h.2⟩

theorem mapInsert_wf {β : Type} [DecidableEq β] (d : Nat → β) (i : Nat) (x : β) (hx : x ≠ d i) (m : Sparse β) :
    ∀ lo, (∀ a, lo = some a → a < i) → (∀ p ∈ m, p.1 ≠ i) → mapWfFrom d lo m = true → mapWfFrom d lo (mapInsert i x m) = true := by
  induction m with
  | nil =>
    intro lo hlo _ _
    cases lo with
    | none => simp [mapInsert, mapWfFrom, hx]
    | some a => simp [mapInsert, mapWfFrom, hx, hlo a rfl]
  | cons y rest ih =>
    obtain ⟨k, y⟩ := y
    intro lo hlo hne h
    have hk : k ≠ i := hne (k, y) (by simp)
    have hr : ∀ p ∈ rest, p.1 ≠ i := fun p hp => hne p (by simp [hp])
    simp only [mapWfFrom, Bool.and_eq_true, decide_eq_true_eq] at h
    by_cases hik : i < k
    · cases lo with
      | none => simp [mapInsert, mapWfFrom, hik, hx, h.1.2, h.2]
      | some a => simp [mapInsert, mapWfFrom, hik, hx, h.1.2, h.2, hlo a rfl]
    · simp only [mapInsert, hik, if_false, mapWfFrom, Bool.and_eq_true, decide_eq_true_eq]
      exact ⟨h.1, ih (some k) (by intro a ha; cases ha; omega) hr h.2⟩

/-- A write keeps the canonical form of a sparse array. -/
theorem mapSet_wf {β : Type} [DecidableEq β] (d : Nat → β) (m : Sparse β) (i : Nat) (x : β) (h : mapWf d m = true) :
    mapWf d (mapSet d m i x) = true := by
  unfold mapSet mapWf at *
  split
  · exact mapErase_wf d i m none h
  · next hx => exact mapInsert_wf d i x hx _ none (by simp) (mapErase_ne i m) (mapErase_wf d i m none h)

/-! ## Memory -/

/-- A byte read after a byte written. -/
theorem memGet_memSet (m : Sparse Byte) (a b : Nat) (x : Byte) : memGet (memSet m a x) b = if b = a then x else memGet m b :=
  mapGet_mapSet _ _ _ _ _

theorem memSet_wf (m : Sparse Byte) (a : Nat) (x : Byte) (h : Memory.wf m = true) : Memory.wf (memSet m a x) = true :=
  mapSet_wf _ _ _ _ h

theorem memSetList_wf (bs : List Byte) : ∀ (m : Sparse Byte) (a : Nat), Memory.wf m = true → Memory.wf (memSetList m a bs) = true := by
  induction bs with
  | nil => intro m a h; exact h
  | cons b rest ih => intro m a h; exact ih _ _ (memSet_wf m a b h)

theorem memGet_memSetList (bs : List Byte) : ∀ (m : Sparse Byte) (a b : Nat),
    memGet (memSetList m a bs) b = if a ≤ b ∧ b < a + bs.length then bs.getD (b - a) 0 else memGet m b := by
  induction bs with
  | nil => intro m a b; simp [memSetList]
  | cons x rest ih =>
    intro m a b
    rw [memSetList, ih, memGet_memSet]
    by_cases h1 : b = a
    · subst h1; simp
    · by_cases h2 : a ≤ b ∧ b < a + (rest.length + 1)
      · have h3 : a + 1 ≤ b ∧ b < a + 1 + rest.length := by omega
        have h4 : b - a = (b - (a + 1)) + 1 := by omega
        simp [h2, h3, h4]
      · have h3 : ¬ (a + 1 ≤ b ∧ b < a + 1 + rest.length) := by omega
        rw [if_neg h3, if_neg h1, if_neg (by simpa using h2)]

/-- Entries taken out by their index: the indices kept read as before, the others as nothing listed. -/
theorem mapGet_filter {β : Type} (d : Nat → β) (keep : Nat → Bool) (m : Sparse β) (j : Nat) :
    mapGet d (m.filter (fun c => keep c.1)) j = if keep j then mapGet d m j else d j := by
  induction m with
  | nil => simp [mapGet]
  | cons y rest ih =>
    obtain ⟨k, y⟩ := y
    by_cases hkj : k = j
    · subst hkj; cases hk : keep k <;> simp_all [mapGet]
    · cases hk : keep k <;> simp [mapGet, hk, hkj, ih]

/-- Entries taken out leave the form. -/
theorem mapWf_filter {β : Type} [DecidableEq β] (d : Nat → β) (keep : Nat × β → Bool) (m : Sparse β) :
    ∀ lo, mapWfFrom d lo m = true → mapWfFrom d lo (m.filter keep) = true := by
  induction m with
  | nil => intro lo _; rfl
  | cons y rest ih =>
    intro lo h
    have h' := h
    simp only [mapWfFrom, Bool.and_eq_true, decide_eq_true_eq] at h'
    cases hk : keep y
    · simp only [List.filter_cons, hk, Bool.false_eq_true, if_false]
      refine ih lo (mapWfFrom_weaken d rest (some y.1) lo h'.2 ?_)
      intro a ha
      subst ha
      exact ⟨y.1, rfl, Nat.le_of_lt (by simpa using h'.1.1)⟩
    · simp only [List.filter_cons, hk, if_true, mapWfFrom, Bool.and_eq_true, decide_eq_true_eq]
      exact ⟨h'.1, ih (some y.1) h'.2⟩

end Sys2Proof.Machine
end

