-- ==== Sys2Proof/Laws/Regs.lean ====
section
/-! SUPPORT. What a read of a register gives after a write of one (02 R35, R36, R41). -/

namespace Sys2Proof.Machine

/-! ## Lanes of vector registers -/

theorem rv_wv (g : Group) (r l r' l' : Nat) (x : W32) (hl : l < 32) (hl' : l' < 32) :
    (g.wv r l x).rv r' l' = if r' = r ∧ l' = l then x else g.rv r' l' := by
  simp only [Group.rv, Group.wv, mapGet_mapSet]
  by_cases h : r' = r ∧ l' = l
  · rw [if_pos h, if_pos (by rw [h.1, h.2])]
  · rw [if_neg h, if_neg (by intro e; apply h; omega)]

/-- Everything of a group but the vector registers and the lines they make dirty. -/
theorem wvFold_rest (l : List Nat) (r : Nat) (f : Nat → W32) : ∀ g : Group,
    l.foldl (fun g k => g.wv r k (f k)) g = { g with v := (l.foldl (fun g k => g.wv r k (f k)) g).v, dirty := (l.foldl (fun g k => g.wv r k (f k)) g).dirty, touched := (l.foldl (fun g k => g.wv r k (f k)) g).touched } := by
  induction l with
  | nil => intro g; rfl
  | cons k rest ih => intro g; rw [List.foldl_cons, ih]; rfl

theorem wvMask_rest (g : Group) (r : Nat) (m : W32) (f : Nat → W32) :
    g.wvMask r m f = { g with v := (g.wvMask r m f).v, dirty := (g.wvMask r m f).dirty, touched := (g.wvMask r m f).touched } := wvFold_rest _ _ _ _

theorem wv64Fold_rest (l : List Nat) (r : Nat) (f : Nat → W64) : ∀ g : Group,
    l.foldl (fun g k => g.wv64 r k (f k)) g = { g with v := (l.foldl (fun g k => g.wv64 r k (f k)) g).v, dirty := (l.foldl (fun g k => g.wv64 r k (f k)) g).dirty, touched := (l.foldl (fun g k => g.wv64 r k (f k)) g).touched } := by
  induction l with
  | nil => intro g; rfl
  | cons k rest ih => intro g; rw [List.foldl_cons, ih]; rfl

theorem wv64Mask_rest (g : Group) (r : Nat) (m : W32) (f : Nat → W64) :
    g.wv64Mask r m f = { g with v := (g.wv64Mask r m f).v, dirty := (g.wv64Mask r m f).dirty, touched := (g.wv64Mask r m f).touched } := wv64Fold_rest _ _ _ _

theorem laneList_lt : ∀ l ∈ laneList, l < 32 := by decide

theorem mem_laneList {l : Nat} (h : l < 32) : l ∈ laneList := by
  revert l; decide

theorem mem_lanesOf {m : W32} {l : Nat} (h : l < 32) : l ∈ lanesOf m ↔ m.getLsbD l = true := by
  simp [lanesOf, mem_laneList h]

theorem lanesOf_lt {m : W32} : ∀ l ∈ lanesOf m, l < 32 := fun l h => laneList_lt l (List.mem_of_mem_filter h)

theorem wvFold_rv (ls : List Nat) (r : Nat) (f : Nat → W32) : ∀ (g : Group), (∀ k ∈ ls, k < 32) → ∀ (r' l' : Nat), l' < 32 →
    (ls.foldl (fun g k => g.wv r k (f k)) g).rv r' l' = if r' = r ∧ l' ∈ ls then f l' else g.rv r' l' := by
  induction ls with
  | nil => intro g _ r' l' _; simp
  | cons k rest ih =>
    intro g hk r' l' hl'
    rw [List.foldl_cons, ih _ (fun x hx => hk x (by simp [hx])) _ _ hl', rv_wv _ _ _ _ _ _ (hk k (by simp)) hl']
    by_cases h1 : r' = r
    · by_cases h2 : l' ∈ rest
      · simp [h1, h2]
      · by_cases h3 : l' = k
        · subst h3; simp [h1]
        · simp [h1, h2, h3]
    · simp [h1]

/-- A read of a lane after a write of a register under a mask. -/
theorem rv_wvMask (g : Group) (r : Nat) (m : W32) (f : Nat → W32) (r' l' : Nat) (h : l' < 32) :
    (g.wvMask r m f).rv r' l' = if r' = r ∧ m.getLsbD l' = true then f l' else g.rv r' l' := by
  rw [Group.wvMask, wvFold_rv _ _ _ _ lanesOf_lt _ _ h]
  simp only [mem_lanesOf h]

theorem wv64Fold_rv (ls : List Nat) (r : Nat) (f : Nat → W64) : ∀ (g : Group), (∀ k ∈ ls, k < 32) → ∀ (r' l' : Nat), l' < 32 →
    (ls.foldl (fun g k => g.wv64 r k (f k)) g).rv r' l' =
      if l' ∈ ls then (if r' = r then (f l').extractLsb' 0 32 else if r' = r + 1 then (f l').extractLsb' 32 32 else g.rv r' l')
      else g.rv r' l' := by
  induction ls with
  | nil => intro g _ r' l' _; simp
  | cons k rest ih =>
    intro g hk r' l' hl'
    have hk0 := hk k (by simp)
    rw [List.foldl_cons, ih _ (fun x hx => hk x (by simp [hx])) _ _ hl', Group.wv64, rv_wv _ _ _ _ _ _ hk0 hl', rv_wv _ _ _ _ _ _ hk0 hl']
    by_cases h2 : l' ∈ rest
    · by_cases h0 : r' = r
      · simp [h2, h0]
      · by_cases h1 : r' = r + 1
        · simp [h2, h1]
        · simp [h2, h0, h1]
    · by_cases h3 : l' = k
      · subst h3
        by_cases h0 : r' = r
        · subst h0; simp [h2]
        · simp [h2, h0]
      · simp [h2, h3]

/-- A read of a lane after a write of a pair under a mask. -/
theorem rv_wv64Mask (g : Group) (r : Nat) (m : W32) (f : Nat → W64) (r' l' : Nat) (h : l' < 32) :
    (g.wv64Mask r m f).rv r' l' =
      if m.getLsbD l' = true then (if r' = r then (f l').extractLsb' 0 32 else if r' = r + 1 then (f l').extractLsb' 32 32 else g.rv r' l')
      else g.rv r' l' := by
  rw [Group.wv64Mask, wv64Fold_rv _ _ _ _ lanesOf_lt _ _ h]
  simp only [mem_lanesOf h]

/-! ## Uniform registers, predicates, apertures, accumulators -/

theorem rs_ws (g : Group) (n k : Nat) (x : W64) : (g.ws n x).rs k = if k = n then x else g.rs k := mapGet_mapSet _ _ _ _ _

theorem rta_wta (g : Group) (n k : Nat) (a : Aperture) : (g.wta n a).rta k = if k = n then a else g.rta k := mapGet_mapSet _ _ _ _ _

/-- A write of p7 is discarded; p7 reads as 1 (R35). -/
theorem rp_wp (g : Group) (i k : Nat) (x : W32) : (g.wp i x).rp k = if k = i ∧ i ≠ 7 then x else g.rp k := by
  unfold Group.wp Group.rp
  by_cases hi : i = 7
  · simp [hi]
  · by_cases hk : k = 7
    · subst hk; simp [hi, Ne.symm hi]
    · simp [hi, hk, mapGet_mapSet]

theorem wp_rest (g : Group) (i : Nat) (x : W32) : g.wp i x = { g with p := (g.wp i x).p, dirty := (g.wp i x).dirty, touched := (g.wp i x).touched } := by
  unfold Group.wp; split <;> rfl

theorem wpMask_rest (g : Group) (i : Nat) (m x : W32) : g.wpMask i m x = { g with p := (g.wpMask i m x).p, dirty := (g.wpMask i m x).dirty, touched := (g.wpMask i m x).touched } :=
  wp_rest _ _ _

/-- A read of a predicate after a write of one in the lanes of a mask. -/
theorem rp_wpMask (g : Group) (i k : Nat) (m x : W32) :
    (g.wpMask i m x).rp k = if k = i ∧ i ≠ 7 then (g.rp i &&& ~~~m) ||| (x &&& m) else g.rp k := rp_wp _ _ _ _

theorem wq_rest (g : Group) (i : Nat) (b : Bool) : g.wq i b = { g with q := (g.wq i b).q } := by
  unfold Group.wq; split <;> rfl

theorem racc_wacc (g : Group) (n r c n' r' c' : Nat) (x : W64) (hr : r < 32) (hc : c < 32) (hr' : r' < 32) (hc' : c' < 32) :
    (g.wacc n r c x).racc n' r' c' = if n' = n ∧ r' = r ∧ c' = c then x else g.racc n' r' c' := by
  simp only [Group.racc, Group.wacc, mapGet_mapSet]
  by_cases h : n' = n ∧ r' = r ∧ c' = c
  · rw [if_pos h, if_pos (by rw [h.1, h.2.1, h.2.2])]
  · rw [if_neg h, if_neg (by intro e; apply h; omega)]

end Sys2Proof.Machine
end

