-- ==== Sys2Proof/Laws/Forms.lean ====
section
/-! SUPPORT. One law per operand form: what every instruction of the form does, so that an instruction's own statement needs only its
function. -/

namespace Sys2Proof.Machine

/-! ## What the body sees -/

@[simp] theorem open_phys (s : State) (n : Nat) : s.open_.g.phys n = s.g.phys n := rfl
@[simp] theorem open_rs (s : State) (n : Nat) : s.open_.g.rs n = s.g.rs n := rfl
@[simp] theorem open_rp (s : State) (n : Nat) : s.open_.g.rp n = s.g.rp n := rfl
@[simp] theorem open_activeMask (h : Hdr) (s : State) : activeMask h s.open_ = activeMask h s := rfl

/-- A field of the issuing group that `State.still` keeps. -/
theorem still_field {β : Type} {s t : State} (f : Group → β) (hf : ∀ g : Group, f g.still = f g) (h : s.still = t.still) : f s.g = f t.g := by
  rw [← hf s.g, ← hf t.g, State.still_g h]

/-! ## Whole effects -/

/-- A lane-set instruction whose body, on its active lanes, goes on. -/
theorem lane_fall {i : Instr} {h : Hdr} {u : Uses} {body : W32 → Split → State → State × Fate} {s : State} {sp : Split}
    (he : exec i s = issueLane i h u body s) (hc : s.canIssue i u sp) (s1 : State)
    (hb : someLane h s = true → body (activeMask h s) sp s.open_ = (s1, .fall)) :
    ∃ t, exec i s = .next t ∧ t.still = (if someLane h s = true then s1 else s).still := by
  obtain ⟨t, ht, hs⟩ := issue_fall s i h u sp (activeMask h) (fun s => decide (activeMask h s ≠ 0))
    (fun t => match t.g.running with
      | none => (t, .fall)
      | some sp => body (activeMask h t) sp t) hc s1 (fun ho => by simp only [State.open_running, hc.1]; exact hb ho)
  exact ⟨t, he.trans ht, hs⟩

/-- A uniform-set instruction whose body, where its guard is true, goes on. -/
theorem uni_fall {i : Instr} {h : Hdr} {u : Uses} {body : Split → State → State × Fate} {s : State} {sp : Split}
    (he : exec i s = issueUni i h u body s) (hc : s.canIssue i u sp) (s1 : State)
    (hb : guardOn h s = true → body sp s.open_ = (s1, .fall)) :
    ∃ t, exec i s = .next t ∧ t.still = (if guardOn h s = true then s1 else s).still := by
  obtain ⟨t, ht, hs⟩ := issue_fall s i h u sp (fun _ => 1) (fun s => s.g.guardTrue h.g)
    (fun t => match t.g.running with
      | none => (t, .fall)
      | some sp => body sp t) hc s1 (fun ho => by simp only [State.open_running, hc.1]; exact hb ho)
  exact ⟨t, he.trans ht, hs⟩

/-! ## Lanes -/

/-- The state after lanes have been written differs from the one before in those registers. -/
theorem laneSets_still {s t : State} {h : Hdr} {r0 : Nat} {f : Nat → W32}
    (hs : t.still = (if someLane h s = true then { s.open_ with g := s.open_.g.wvMask r0 (activeMask h s) f } else s).still) :
    (∀ r l, l < 32 → t.g.rv r l = if r = r0 ∧ (activeMask h s).getLsbD l = true then f l else s.g.rv r l) ∧
    t.still = ({ s with g := { s.g with v := t.g.v, dirty := t.g.dirty } } : State).still := by
  have hs' : t.still = ({ s with g := s.open_.g.wvMask r0 (activeMask h s) f } : State).still := by
    rw [hs]
    by_cases h0 : activeMask h s = 0
    · simp only [someLane, h0, ne_eq, not_true_eq_false, decide_false, Bool.false_eq_true, if_false]
      rfl
    · simp only [someLane, ne_eq, h0, not_false_eq_true, decide_true, if_true]
      rfl
  have hv : t.g.v = (s.open_.g.wvMask r0 (activeMask h s) f).v := congrArg (fun s : State => s.g.v) hs'
  have hd : t.g.dirty = (s.open_.g.wvMask r0 (activeMask h s) f).dirty := congrArg (fun s : State => s.g.dirty) hs'
  refine ⟨?_, ?_⟩
  · intro r l hl
    rw [show t.g.rv r l = (s.open_.g.wvMask r0 (activeMask h s) f).rv r l from by simp only [Group.rv, hv], rv_wvMask _ _ _ _ _ _ hl]
    rfl
  · rw [hs', hv, hd, wvMask_rest]
    rfl

theorem laneSets_of {i : Instr} {h : Hdr} {u : Uses} {d : BitVec 6} {f : Group → W32 → Nat → W32}
    (he : ∀ s, exec i s = issueLane i h u (fun m sp s => setLanes d (fun g => f g m) m sp s) s) (hf : ∀ g c, f { g with cleared := c } = f g) :
    LaneSets i h u d f := by
  intro s sp hc
  obtain ⟨t, ht, hs⟩ := lane_fall (he s) hc ({ s.open_ with g := s.open_.g.wvMask (s.g.phys d.toNat) (activeMask h s) (f s.g (activeMask h s)) })
    (fun _ => by simp only [setLanes, State.open_, hf]; rfl)
  exact ⟨t, ht, laneSets_still hs⟩

theorem laneSetsPair_still {s t : State} {h : Hdr} {r0 : Nat} {f : Nat → W64}
    (hs : t.still = (if someLane h s = true then { s.open_ with g := s.open_.g.wv64Mask r0 (activeMask h s) f } else s).still) :
    (∀ r l, l < 32 → t.g.rv r l =
      if (activeMask h s).getLsbD l = true then
        (if r = r0 then (f l).extractLsb' 0 32 else if r = r0 + 1 then (f l).extractLsb' 32 32 else s.g.rv r l)
      else s.g.rv r l) ∧
    t.still = ({ s with g := { s.g with v := t.g.v, dirty := t.g.dirty } } : State).still := by
  have hs' : t.still = ({ s with g := s.open_.g.wv64Mask r0 (activeMask h s) f } : State).still := by
    rw [hs]
    by_cases h0 : activeMask h s = 0
    · simp only [someLane, h0, ne_eq, not_true_eq_false, decide_false, Bool.false_eq_true, if_false]
      rfl
    · simp only [someLane, ne_eq, h0, not_false_eq_true, decide_true, if_true]
      rfl
  have hv : t.g.v = (s.open_.g.wv64Mask r0 (activeMask h s) f).v := congrArg (fun s : State => s.g.v) hs'
  have hd : t.g.dirty = (s.open_.g.wv64Mask r0 (activeMask h s) f).dirty := congrArg (fun s : State => s.g.dirty) hs'
  refine ⟨?_, ?_⟩
  · intro r l hl
    rw [show t.g.rv r l = (s.open_.g.wv64Mask r0 (activeMask h s) f).rv r l from by simp only [Group.rv, hv], rv_wv64Mask _ _ _ _ _ _ hl]
    rfl
  · rw [hs', hv, hd, wv64Mask_rest]
    rfl

theorem laneSetsPair_of {i : Instr} {h : Hdr} {u : Uses} {d : BitVec 6} {f : Group → W32 → Nat → W64}
    (he : ∀ s, exec i s = issueLane i h u (fun m sp s => setLanes64 d (fun g => f g m) m sp s) s) (hf : ∀ g c, f { g with cleared := c } = f g) :
    LaneSetsPair i h u d f := by
  intro s sp hc
  obtain ⟨t, ht, hs⟩ := lane_fall (he s) hc ({ s.open_ with g := s.open_.g.wv64Mask (s.g.phys d.toNat) (activeMask h s) (f s.g (activeMask h s)) })
    (fun _ => by simp only [setLanes64, State.open_, hf]; rfl)
  exact ⟨t, ht, laneSetsPair_still hs⟩

theorem laneFlags_zero (f : Nat → BitVec 5) : laneFlags 0#32 f = 0#5 := rfl

theorem laneSetsF_of {i : Instr} {h : Hdr} {u : Uses} {d : BitVec 6} {f : Group → Nat → W32 × BitVec 5}
    (he : ∀ s, exec i s = issueLane i h u (setLanesF d f) s) (hf : ∀ g c, f { g with cleared := c } = f g) :
    LaneSetsF i h u d f := by
  intro s sp hc
  obtain ⟨t, ht, hs⟩ := lane_fall (he s) hc ({ s.open_ with g := (s.open_.g.wvMask (s.g.phys d.toNat) (activeMask h s) (fun l => (f s.g l).1)).flag (laneFlags (activeMask h s) (fun l => (f s.g l).2)) })
    (fun _ => by simp only [setLanesF, State.open_, hf, laneFlags]; rfl)
  have hp : t.g.fpstat = s.g.fpstat ||| laneFlags (activeMask h s) (fun l => (f s.g l).2) := by
    rw [still_field (fun g => g.fpstat) (fun _ => rfl) hs]
    by_cases h0 : activeMask h s = 0
    · simp [someLane, h0, laneFlags_zero]
    · simp only [someLane, ne_eq, h0, not_false_eq_true, decide_true, if_true, Group.flag]
      rw [wvMask_rest]
      rfl
  have hs2 : ({ t with g := { t.g with fpstat := s.g.fpstat } } : State).still =
      (if someLane h s = true then { s.open_ with g := s.open_.g.wvMask (s.g.phys d.toNat) (activeMask h s) (fun l => (f s.g l).1) } else s).still := by
    have := congrArg (fun x : State => ({ x with g := { x.g with fpstat := s.g.fpstat } } : State)) hs
    refine Eq.trans (by rfl) (this.trans ?_)
    split
    · rw [wvMask_rest]; rfl
    · rfl
  obtain ⟨h1, h2⟩ := laneSets_still hs2
  refine ⟨t, ht, fun r l hl => h1 r l hl, hp, ?_⟩
  have := congrArg (fun x : State => ({ x with g := { x.g with fpstat := t.g.fpstat } } : State)) h2
  exact this

theorem laneSetsPairF_of {i : Instr} {h : Hdr} {u : Uses} {d : BitVec 6} {f : Group → Nat → W64 × BitVec 5}
    (he : ∀ s, exec i s = issueLane i h u (setLanesF64 d f) s) (hf : ∀ g c, f { g with cleared := c } = f g) :
    LaneSetsPairF i h u d f := by
  intro s sp hc
  obtain ⟨t, ht, hs⟩ := lane_fall (he s) hc ({ s.open_ with g := (s.open_.g.wv64Mask (s.g.phys d.toNat) (activeMask h s) (fun l => (f s.g l).1)).flag (laneFlags (activeMask h s) (fun l => (f s.g l).2)) })
    (fun _ => by simp only [setLanesF64, State.open_, hf, laneFlags]; rfl)
  have hp : t.g.fpstat = s.g.fpstat ||| laneFlags (activeMask h s) (fun l => (f s.g l).2) := by
    rw [still_field (fun g => g.fpstat) (fun _ => rfl) hs]
    by_cases h0 : activeMask h s = 0
    · simp [someLane, h0, laneFlags_zero]
    · simp only [someLane, ne_eq, h0, not_false_eq_true, decide_true, if_true, Group.flag]
      rw [wv64Mask_rest]
      rfl
  have hs2 : ({ t with g := { t.g with fpstat := s.g.fpstat } } : State).still =
      (if someLane h s = true then { s.open_ with g := s.open_.g.wv64Mask (s.g.phys d.toNat) (activeMask h s) (fun l => (f s.g l).1) } else s).still := by
    have := congrArg (fun x : State => ({ x with g := { x.g with fpstat := s.g.fpstat } } : State)) hs
    refine Eq.trans (by rfl) (this.trans ?_)
    split
    · rw [wv64Mask_rest]; rfl
    · rfl
  obtain ⟨h1, h2⟩ := laneSetsPair_still hs2
  refine ⟨t, ht, fun r l hl => h1 r l hl, hp, ?_⟩
  have := congrArg (fun x : State => ({ x with g := { x.g with fpstat := t.g.fpstat } } : State)) h2
  exact this

/-! ## Uniform registers -/

theorem uniSets_of {i : Instr} {h : Hdr} {u : Uses} {d : BitVec 6} {f : State → Split → W64}
    (he : ∀ s, exec i s = issueUni i h u (fun sp s => ({ s with g := s.g.ws d.toNat (f s sp) }, .fall)) s)
    (hf : ∀ s : State, f s.open_ = f s) :
    UniSets i h u d f := by
  intro s sp hc
  obtain ⟨t, ht, hs⟩ := uni_fall (he s) hc ({ s.open_ with g := s.open_.g.ws d.toNat (f s sp) })
    (fun _ => by simp only [hf])
  refine ⟨t, ht, ?_, ?_⟩
  · intro n
    have hv := still_field (fun g => g.s) (fun _ => rfl) hs
    by_cases hg : guardOn h s = true
    · simp only [hg, if_true] at hv
      rw [show t.g.rs n = (s.open_.g.ws d.toNat (f s sp)).rs n from by simp only [Group.rs, hv], rs_ws]
      simp [hg]
    · simp only [hg, Bool.false_eq_true, if_false] at hv
      rw [show t.g.rs n = s.g.rs n from by simp only [Group.rs, hv]]
      simp [hg]
  · have hv := still_field (fun g => g.s) (fun _ => rfl) hs
    have hd := still_field (fun g => g.dirty) (fun _ => rfl) hs
    rw [hs]
    by_cases hg : guardOn h s = true
    · simp only [hg, if_true] at hv hd ⊢
      rw [hv, hd]; rfl
    · simp only [hg, Bool.false_eq_true, if_false] at hv hd ⊢
      rw [hv, hd]

/-! ## Predicates -/

theorem maskFold_bit (ls : List Nat) (l : Nat) (hl : l < 32) : ∀ a : W32,
    (ls.foldl (fun m k => m ||| BitVec.ofNat 32 (2 ^ k)) a).getLsbD l = (a.getLsbD l || decide (l ∈ ls)) := by
  induction ls with
  | nil => intro a; simp
  | cons k rest ih =>
    intro a
    rw [List.foldl_cons, ih]
    have : (BitVec.ofNat 32 (2 ^ k)).getLsbD l = decide (l = k) := by
      rw [BitVec.getLsbD_ofNat]
      simp [hl, Nat.testBit_two_pow, eq_comm]
    simp only [BitVec.getLsbD_or, this, List.mem_cons, Bool.decide_or, Bool.or_assoc]

/-- A mask of lanes has the bits of its lanes. -/
theorem maskOf_bit (q : Nat → Bool) (l : Nat) (hl : l < 32) : (maskOf (laneList.filter q)).getLsbD l = q l := by
  rw [maskOf, maskFold_bit _ _ hl]
  simp [mem_laneList hl]

theorem predSets_still {s t : State} {h : Hdr} {p : BitVec 3} {x : W32}
    (hs : t.still = (if someLane h s = true then { s.open_ with g := s.open_.g.wpMask p.toNat (activeMask h s) x } else s).still) :
    (∀ k l, l < 32 → (t.g.rp k).getLsbD l =
      if k = p.toNat ∧ p.toNat ≠ 7 ∧ (activeMask h s).getLsbD l = true then x.getLsbD l else (s.g.rp k).getLsbD l) ∧
    t.still = ({ s with g := { s.g with p := t.g.p, dirty := t.g.dirty } } : State).still := by
  have hp := still_field (fun g => g.p) (fun _ => rfl) hs
  have hd := still_field (fun g => g.dirty) (fun _ => rfl) hs
  by_cases h0 : someLane h s = true
  · simp only [h0, if_true] at hp hd hs
    refine ⟨?_, ?_⟩
    · intro k l hl
      rw [show t.g.rp k = (s.open_.g.wpMask p.toNat (activeMask h s) x).rp k from by simp only [Group.rp, hp], rp_wpMask]
      by_cases hk : k = p.toNat ∧ p.toNat ≠ 7
      · rw [if_pos hk]
        have hr : s.open_.g.rp p.toNat = s.g.rp k := by rw [hk.1]; rfl
        rw [hr]
        by_cases hm : (activeMask h s).getLsbD l = true
        · rw [if_pos ⟨hk.1, hk.2, hm⟩]
          simp only [BitVec.getLsbD_or, BitVec.getLsbD_and, BitVec.getLsbD_not, hm, hl, Bool.not_true, Bool.and_false, Bool.and_true,
            Bool.false_or]
        · rw [if_neg (fun c => hm c.2.2)]
          have hm : (activeMask h s).getLsbD l = false := by simpa using hm
          simp only [BitVec.getLsbD_or, BitVec.getLsbD_and, BitVec.getLsbD_not, hm, hl, Bool.not_false, Bool.and_false, Bool.and_true,
            Bool.or_false, decide_true]
      · rw [if_neg hk, if_neg (fun c => hk ⟨c.1, c.2.1⟩)]
        rfl
    · rw [hs, hp, hd, wpMask_rest]
      rfl
  · simp only [h0, Bool.false_eq_true, if_false] at hp hd hs
    have hm : activeMask h s = 0 := by simpa [someLane] using h0
    refine ⟨?_, ?_⟩
    · intro k l _
      rw [show t.g.rp k = s.g.rp k from by simp only [Group.rp, hp]]
      simp [hm]
    · rw [hs, hp, hd]

/-- A lane-set instruction that writes a predicate. -/
theorem predSets_of {i : Instr} {h : Hdr} {u : Uses} {p : BitVec 3} {f : Group → W32 → Nat → Bool} {x : W32 → Group → W32}
    (he : ∀ s, exec i s = issueLane i h u (fun m _ s => ({ s with g := s.g.wpMask p.toNat m (x m s.g) }, .fall)) s)
    (hx : ∀ m g l, l < 32 → (x m g).getLsbD l = f g m l) (hf : ∀ m g c, x m { g with cleared := c } = x m g) : PredSets i h u p f := by
  intro s sp hc
  obtain ⟨t, ht, hs⟩ := lane_fall (he s) hc ({ s.open_ with g := s.open_.g.wpMask p.toNat (activeMask h s) (x (activeMask h s) s.g) })
    (fun _ => by simp only [State.open_, hf])
  obtain ⟨h1, h2⟩ := predSets_still hs
  exact ⟨t, ht, fun k l hl => by rw [h1 k l hl, hx _ _ _ hl], h2⟩

theorem predSetsF_of {i : Instr} {h : Hdr} {u : Uses} {p : BitVec 3} {f : Group → Nat → Bool × BitVec 5}
    (he : ∀ s, exec i s = issueLane i h u (setPredF p f) s) (hf : ∀ g c, f { g with cleared := c } = f g) : PredSetsF i h u p f := by
  intro s sp hc
  obtain ⟨t, ht, hs⟩ := lane_fall (he s) hc ({ s.open_ with g := (s.open_.g.wpMask p.toNat (activeMask h s) (maskOf (laneList.filter (fun l => (f s.g l).1)))).flag (laneFlags (activeMask h s) (fun l => (f s.g l).2)) })
    (fun _ => by simp only [setPredF, State.open_, hf, laneFlags])
  have hp : t.g.fpstat = s.g.fpstat ||| laneFlags (activeMask h s) (fun l => (f s.g l).2) := by
    rw [still_field (fun g => g.fpstat) (fun _ => rfl) hs]
    by_cases h0 : activeMask h s = 0
    · simp [someLane, h0, laneFlags_zero]
    · simp only [someLane, ne_eq, h0, not_false_eq_true, decide_true, if_true, Group.flag]
      rw [wpMask_rest]
      rfl
  have hs2 : ({ t with g := { t.g with fpstat := s.g.fpstat } } : State).still =
      (if someLane h s = true then { s.open_ with g := s.open_.g.wpMask p.toNat (activeMask h s) (maskOf (laneList.filter (fun l => (f s.g l).1))) } else s).still := by
    have := congrArg (fun x : State => ({ x with g := { x.g with fpstat := s.g.fpstat } } : State)) hs
    refine Eq.trans (by rfl) (this.trans ?_)
    split
    · rw [wpMask_rest]; rfl
    · rfl
  obtain ⟨h1, h2⟩ := predSets_still hs2
  refine ⟨t, ht, fun k l hl => ?_, hp, ?_⟩
  · have := h1 k l hl
    rw [maskOf_bit _ _ hl] at this
    exact this
  · exact congrArg (fun x : State => ({ x with g := { x.g with fpstat := t.g.fpstat } } : State)) h2

/-! ## Splits -/

theorem split_putSplit (x : Split) (n : Nat) : ∀ l : List Split,
    (putSplit x l).find? (fun y => decide (y.slot = n)) = if n = x.slot then some x else l.find? (fun y => decide (y.slot = n)) := by
  intro l
  induction l with
  | nil =>
    simp only [putSplit, List.find?_cons, List.find?_nil]
    by_cases h : n = x.slot
    · simp [h]
    · simp [h, Ne.symm h]
  | cons y rest ih =>
    unfold putSplit
    by_cases h1 : x.slot = y.slot
    · simp only [h1, if_true, List.find?_cons]
      by_cases h2 : n = y.slot
      · simp [h2]
      · simp [h2, Ne.symm h2]
    · simp only [h1, if_false]
      by_cases h3 : x.slot < y.slot
      · simp only [h3, if_true, List.find?_cons]
        by_cases h2 : n = x.slot
        · simp [h2]
        · simp [h2, Ne.symm h2]
      · simp only [h3, if_false, List.find?_cons, ih]
        by_cases h2 : n = x.slot
        · simp [h2, Ne.symm h1]
        · simp [h2]

theorem mergeAt_single (c n : Nat) (g : Group) (x : Split) (slot : Nat) (h : g.splits = [x]) : Group.mergeAt c n g slot = g := by
  cases n with
  | zero => rfl
  | succ n =>
    unfold Group.mergeAt
    split
    · rfl
    · rename_i sp hs
      have h1 : sp = x ∧ x.slot = slot := by
        simp only [Group.split, h, List.find?_cons, List.find?_nil] at hs
        split at hs
        · rename_i hd; exact ⟨(Option.some.inj hs).symm, of_decide_eq_true hd⟩
        · cases hs
      split
      · simp [h, h1.2]
      · rfl

theorem running_split {g : Group} {sp : Split} (h : g.running = some sp) : g.split sp.slot = some sp ∧ g.run = true := by
  unfold Group.running at h
  split at h
  · rename_i hr
    have hs : sp.slot = g.cur := by
      have := List.find?_some h
      simpa using this
    refine ⟨by rw [hs]; exact h, ?_⟩
    simp only [Bool.and_eq_true] at hr
    exact hr.1.1.1
  · cases h

/-- A group with one split, its slot, lanes and PC, and none still to be made. -/
def Group.one (g : Group) (sp : Split) (pc : BitVec 57) : Prop :=
  (∃ x, g.splits = [x] ∧ x.slot = sp.slot ∧ x.mask = sp.mask ∧ x.pc = pc) ∧ g.newSplits = []

theorem Group.one_split {g : Group} {sp : Split} {pc : BitVec 57} (h : g.one sp pc) :
    ∃ x, g.splits = [x] ∧ g.split sp.slot = some x ∧ x.slot = sp.slot ∧ x.mask = sp.mask ∧ x.pc = pc := by
  obtain ⟨⟨x, hx, h1, h2, h3⟩, _⟩ := h
  exact ⟨x, hx, by simp [Group.split, hx, h1], h1, h2, h3⟩

theorem Group.one_endRun {g : Group} {sp : Split} {pc : BitVec 57} (h : g.one sp pc) (c d : Nat) : (g.endRun sp.slot c d).one sp pc := by
  obtain ⟨x, hx, hs, h1, h2, h3⟩ := Group.one_split h
  have hn := h.2
  unfold Group.endRun
  simp only [hs]
  rw [mergeAt_single _ _ _ { x with park := .ready, age := c, hold := d } _ (by simp [Group.setSplit, hx, putSplit])]
  refine ⟨⟨{ x with park := .ready, age := c, hold := d }, ?_, h1, h2, h3⟩, hn⟩
  simp [Group.setSplit, hx, putSplit]

theorem Group.one_endPark {g : Group} {sp : Split} {pc : BitVec 57} (h : g.one sp pc) (p : Park) (n : Nat) (w : Bool) :
    (g.endPark sp.slot p n w).one sp pc := by
  obtain ⟨x, hx, hs, h1, h2, h3⟩ := Group.one_split h
  have hn := h.2
  unfold Group.endPark
  simp only [hs]
  refine ⟨⟨{ x with park := p, plen := n, passed := 0, wAfter := w, cnt := g.icount }, ?_, h1, h2, h3⟩, hn⟩
  simp [Group.setSplit, hx, putSplit]

theorem one_advance {s : State} {h : Hdr} {sp : Split} {pc : BitVec 57} {e : Bool} {n : Nat} (hs : s.g.splits = [sp])
    (hn : s.g.newSplits = []) : (s.advance h sp pc e n).g.one sp pc := by
  have h1 : (s.g.setSplit { sp with pc := pc }).one sp pc := ⟨⟨{ sp with pc := pc }, by simp [Group.setSplit, hs, putSplit], rfl, rfl, rfl⟩, hn⟩
  obtain ⟨x, hx, hy, h2, h3, h4⟩ := Group.one_split h1
  unfold State.advance
  dsimp only
  split
  · rw [hy]
    dsimp only
    apply Group.one_endPark
    refine ⟨⟨{ x with hold := n }, ?_, h2, h3, h4⟩, hn⟩
    simp [hx, putSplit]
  · split
    · exact Group.one_endRun h1 _ _
    · exact h1

theorem one_finish_fall {s : State} {i : Instr} {h : Hdr} {sp : Split} (hs : s.g.splits = [sp]) (hn : s.g.newSplits = []) :
    (s.finish i h sp .fall).g.one sp (pcAdd sp.pc (instrBytes i)) := by
  have h1 : (s.advance h sp (pcAdd sp.pc (instrBytes i)) false 0).counted.g.one sp (pcAdd sp.pc (instrBytes i)) := by
    have := one_advance (h := h) (pc := pcAdd sp.pc (instrBytes i)) (e := false) (n := 0) hs hn
    exact this
  have h2 : ((s.advance h sp (pcAdd sp.pc (instrBytes i)) false 0).counted.followEnd sp.slot).g.one sp (pcAdd sp.pc (instrBytes i)) := by
    unfold State.followEnd
    split
    · exact Group.one_endRun h1 _ _
    · exact h1
  simp only [State.finish]
  rw [State.g_boundary _ _ h2.2]
  exact h2

theorem one_finish_jump {s : State} {i : Instr} {h : Hdr} {sp : Split} {pc : BitVec 57} (hs : s.g.splits = [sp]) (hn : s.g.newSplits = []) :
    (s.finish i h sp (.jump pc)).g.one sp pc := by
  have h1 : (s.advance h sp pc true (s.clock + 4)).counted.g.one sp pc := one_advance (h := h) (pc := pc) (e := true) (n := s.clock + 4) hs hn
  simp only [State.finish]
  rw [State.g_boundary _ _ h1.2]
  exact h1

/-- An instruction whose body goes on leaves its split, where it is the only one, past the instruction. -/
theorem issue_adv (s s1 : State) (i : Instr) (h : Hdr) (u : Uses) (sp : Split) (lanes : State → W32) (on : State → Bool)
    (body : State → State × Fate) (hc : s.canIssue i u sp) (hb : on s = true → body s.open_ = (s1, .fall))
    (h1 : on s = true → s1.g.splits = [sp] ∧ s1.g.newSplits = []) (hs : s.g.splits = [sp]) (hn : s.g.newSplits = []) :
    ∃ t x, issue i h u lanes on body s = .next t ∧ t.g.splits = [x] ∧ x.slot = sp.slot ∧ x.mask = sp.mask ∧
      x.pc = pcAdd sp.pc (instrBytes i) := by
  by_cases ho : on s = true
  · obtain ⟨s2, t, e, _, h2, _, h4⟩ := issue_run s s1 i h u sp lanes on body .fall hc ho (hb ho) (by simp) (by simp)
    have hs2 : s2.g.splits = [sp] ∧ s2.g.newSplits = [] := by rw [h2]; exact h1 ho
    obtain ⟨⟨x, hx, ha, hm, hp⟩, _⟩ := one_finish_fall (i := i) (h := h) hs2.1 hs2.2
    exact ⟨t, x, e, by rw [h4, hx], ha, hm, hp⟩
  · obtain ⟨hr, hp, hm, hy, hst, _⟩ := hc
    have hst : (u.store && s.storeStop s.g) = false := by
      cases hu : u.store
      · rfl
      · simp [hst hu]
    have ho : on s = false := by simpa using ho
    have hg : (s.countIf u).g = s.g := State.g_countIf s u
    obtain ⟨⟨x, hx, ha, hm', hp'⟩, _⟩ := one_finish_fall (s := s.countIf u) (i := i) (h := h) (by rw [hg]; exact hs) (by rw [hg]; exact hn)
    unfold issue
    simp only [hr, hp, hm, hy, hst, ho, Bool.not_true, Bool.or_self, Bool.false_eq_true, if_false, Bool.not_false, if_true]
    exact ⟨_, x, rfl, by rw [State.g_checkedBy]; dsimp only; rw [State.g_closeFollower, hx], ha, hm', hp'⟩

/-! ## Whether a run goes on -/

@[simp] theorem run_relabel (g : Group) (a b : Nat) : (g.relabel a b).run = g.run := rfl

@[simp] theorem run_dropSlot (g : Group) (a b : Nat) : (g.dropSlot a b).run = g.run := by
  unfold Group.dropSlot
  dsimp only
  split <;> rfl

@[simp] theorem run_mergeAt (clock fuel : Nat) : ∀ (g : Group) (slot : Nat), (Group.mergeAt clock fuel g slot).run = g.run := by
  induction fuel with
  | zero => intro g slot; rfl
  | succ n ih =>
    intro g slot
    unfold Group.mergeAt
    split
    · rfl
    · split
      · split
        · rfl
        · extract_lets lo hi g1 g1' g2 g3
          have h2 : g2.run = g.run := run_dropSlot _ _ _
          have h3 : g3.run = g.run := (ih _ _).trans h2
          split
          · exact (ih _ _).trans h3
          · exact h3
      · rfl

theorem run_endRun (g : Group) (slot c d : Nat) : (g.endRun slot c d).run = false := by
  unfold Group.endRun
  split
  · rfl
  · simp

theorem run_endPark (g : Group) (slot : Nat) (p : Park) (n : Nat) (w : Bool) : (g.endPark slot p n w).run = false := by
  unfold Group.endPark
  split <;> rfl

theorem run_makeSplits (g : Group) (slot c : Nat) : (g.makeSplits slot c).run = g.run := by
  unfold Group.makeSplits
  split
  · rfl
  · dsimp only
    rw [run_mergeAt]
    have : ∀ (l : List (Nat × W32)) (a : Group), (l.foldl (fun (g : Group) x =>
        if (g.split x.1).isNone then g.setSplit (Split.fresh x.1 (mapGet (fun _ => 0) g.keptPc x.1) x.2 c) else g) a).run = a.run := by
      intro l
      induction l with
      | nil => intro a; rfl
      | cons x rest ih => intro a; rw [List.foldl_cons, ih]; split <;> rfl
    rw [this]

theorem run_boundary (s : State) (slot : Nat) (h : s.g.run = false) : (s.boundary slot).g.run = false := by
  unfold State.boundary
  simp only [h, Bool.false_eq_true, if_false]
  rw [run_makeSplits, State.g_closeBehind]
  split <;> split <;> simp [h]

theorem run_finish_jump (s : State) (i : Instr) (h : Hdr) (sp : Split) (pc : BitVec 57) : (s.finish i h sp (.jump pc)).g.run = false := by
  simp only [State.finish]
  apply run_boundary
  simp only [State.counted, State.advance]
  split
  · split
    · rename_i hx
      simp [Group.setSplit, Group.split, split_putSplit] at hx
    · exact run_endPark _ _ _ _ _
  · simp [run_endRun]

/-- A uniform-set instruction that jumps. -/
theorem jumps_of {i : Instr} {h : Hdr} {u : Uses} {body : Split → State → State × Fate} {need : State → Split → Prop}
    {eff : State → Split → State} {pc : State → Split → BitVec 57} (he : ∀ s, exec i s = issueUni i h u body s)
    (hb : ∀ s sp, s.g.running = some sp → need s sp → (body sp s.open_).2 = .jump (pc s sp) ∧ (body sp s.open_).1.still = (eff s sp).still ∧
      (body sp s.open_).1.g.splits = s.g.splits ∧ (body sp s.open_).1.g.newSplits = s.g.newSplits) : Jumps i h u need eff pc := by
  intro s sp hc hg hn
  obtain ⟨hb1, hb2, hb3, hb4⟩ := hb s sp hc.1 hn
  obtain ⟨s2, t, e, h1, h2, h3, h4⟩ := issue_run s (body sp s.open_).1 i h u sp (fun _ => 1) (fun s => s.g.guardTrue h.g)
    (fun t => match t.g.running with
      | none => (t, .fall)
      | some sp => body sp t) (.jump (pc s sp)) hc hg (by simp only [State.open_running, hc.1]; exact Prod.ext rfl hb1) (by simp) (by simp)
  refine ⟨t, (he s).trans e, ?_, ?_, ?_⟩
  · rw [h3, State.still_finish _ _ _ _ _ (by simp), h1, hb2]
  · rw [h4, run_finish_jump]
  · intro hs hn'
    obtain ⟨⟨x, hx, ha, hm, hp⟩, _⟩ := one_finish_jump (s := s2) (i := i) (h := h) (pc := pc s sp) (sp := sp)
      (by rw [h2]; exact hb3.trans hs) (by rw [h2]; exact hb4.trans hn')
    exact ⟨x, by rw [h4, hx], ha, hm, hp⟩

/-- What differs in the marks of lines copied alone has the same splits and the same run. -/
theorem uncopied_splits {g h : Group} (e : g = { h with touched := g.touched }) : g.splits = h.splits ∧ g.run = h.run :=
  ⟨(congrArg (fun x : Group => x.splits) e).trans rfl, (congrArg (fun x : Group => x.run) e).trans rfl⟩

theorem split_endPark {g : Group} {sp : Split} (h : g.split sp.slot = some sp) (p : Park) (k : Nat) (w : Bool) (n : Nat) :
    (g.endPark sp.slot p k w).split n =
      if n = sp.slot then some { sp with park := p, plen := k, passed := 0, wAfter := w, cnt := g.icount } else g.split n := by
  unfold Group.endPark
  rw [h]
  exact split_putSplit { sp with park := p, plen := k, passed := 0, wAfter := w, cnt := g.icount } n g.splits

/-- An instruction that parks at itself, or past itself. -/
theorem parks_of {i : Instr} {h : Hdr} {u : State → Uses} {on : State → Bool} {need : State → Split → Prop} {eff : State → Split → State}
    {p : State → Split → Park} {lanes : State → W32} {body : State → State → State × Fate}
    (he : ∀ s, exec i s = issue i h (u s) lanes on (body s) s)
    (hb : ∀ s sp, s.canIssue i (u s) sp → on s = true → need s sp →
      ((body s s.open_).2 = .park (p s sp) ∨ (body s s.open_).2 = .pass (p s sp)) ∧ (body s s.open_).1.still = (eff s sp).still ∧
      (body s s.open_).1.g.splits = s.g.splits ∧ (body s s.open_).1.g.newSplits = s.g.newSplits) : Parks i u on need eff p := by
  intro s sp hc hg hn hn'
  have hsp := (running_split hc.1).1
  obtain ⟨hb, hst, hk'⟩ := hb s sp hc hg hn
  rcases hb with hb | hb
  · obtain ⟨s2, t, e, h1, h2, h3, h4⟩ := issue_run s _ i h (u s) sp lanes on (body s) (.park (p s sp)) hc hg (Prod.ext rfl hb)
      (by simp) (by simp)
    have hs2 : s2.g.split sp.slot = some sp := by rw [h2]; simp only [Group.split]; rw [hk'.1]; exact hsp
    have hs3 : ∀ n, s2.g.split n = s.g.split n := by intro n; rw [h2]; simp only [Group.split]; rw [hk'.1]
    have hn2 : s2.g.newSplits = [] := by rw [h2]; exact hk'.2.trans hn'
    have hg3 : (s2.finish i h sp (.park (p s sp))).g = ({ s2 with g := s2.g.endPark sp.slot (p s sp) (instrBytes i) h.w } : State).counted.g := by
      simp only [State.finish]
      refine State.g_boundary _ _ ?_
      simp only [State.counted, Group.endPark, hs2]
      exact hn2
    obtain ⟨hsp', hrun⟩ := uncopied_splits h4
    rw [hg3] at hsp' hrun
    have hspl : ∀ n, t.g.split n = (s2.g.endPark sp.slot (p s sp) (instrBytes i) h.w).split n := by
      intro n; simp only [Group.split, hsp']; rfl
    refine ⟨t, (he s).trans e, ?_, ?_, { sp with park := p s sp, plen := instrBytes i, passed := 0, wAfter := h.w, cnt := s2.g.icount }, ?_,
      rfl, rfl, rfl, ?_⟩
    · rw [h3, State.still_finish _ _ _ _ _ (by simp), h1, hst]
    · rw [hrun]; exact run_endPark _ _ _ _ _
    · rw [hspl]
      exact (split_endPark hs2 _ _ _ _).trans (if_pos rfl)
    · intro n hn
      rw [hspl, ← hs3 n]
      exact (split_endPark hs2 _ _ _ _).trans (if_neg hn)
  · obtain ⟨s2, t, e, h1, h2, h3, h4⟩ := issue_run s _ i h (u s) sp lanes on (body s) (.pass (p s sp)) hc hg (Prod.ext rfl hb)
      (by simp) (by simp)
    have hs3 : ∀ n, s2.g.split n = s.g.split n := by intro n; rw [h2]; simp only [Group.split]; rw [hk'.1]
    have hn2 : s2.g.newSplits = [] := by rw [h2]; exact hk'.2.trans hn'
    have hs2 : (s2.g.setSplit { sp with pc := pcAdd sp.pc (instrBytes i) }).split sp.slot = some { sp with pc := pcAdd sp.pc (instrBytes i) } := by
      simp [Group.setSplit, Group.split, split_putSplit]
    have hg3 : (s2.finish i h sp (.pass (p s sp))).g =
        ({ s2 with g := (s2.g.setSplit { sp with pc := pcAdd sp.pc (instrBytes i) }).endPark sp.slot (p s sp) 0 h.w } : State).counted.g := by
      simp only [State.finish]
      refine State.g_boundary _ _ ?_
      simp only [State.counted, Group.endPark, hs2]
      exact hn2
    obtain ⟨hsp', hrun⟩ := uncopied_splits h4
    rw [hg3] at hsp' hrun
    have hspl : ∀ n, t.g.split n =
        ((s2.g.setSplit { sp with pc := pcAdd sp.pc (instrBytes i) }).endPark sp.slot (p s sp) 0 h.w).split n := by
      intro n; simp only [Group.split, hsp']; rfl
    refine ⟨t, (he s).trans e, ?_, ?_, { sp with pc := pcAdd sp.pc (instrBytes i), park := p s sp, plen := 0, passed := 0, wAfter := h.w, cnt := s2.g.icount }, ?_,
      rfl, rfl, ?_, ?_⟩
    · rw [h3, State.still_finish _ _ _ _ _ (by simp), h1, hst]
    · rw [hrun]; exact run_endPark _ _ _ _ _
    · rw [hspl]
      exact (split_endPark (sp := { sp with pc := pcAdd sp.pc (instrBytes i) }) hs2 _ _ _ _).trans (if_pos rfl)
    · simp [pcAdd]
    · intro n hn
      rw [hspl, ← hs3 n]
      refine (split_endPark (sp := { sp with pc := pcAdd sp.pc (instrBytes i) }) hs2 _ _ _ _).trans ((if_neg hn).trans ?_)
      exact (split_putSplit { sp with pc := pcAdd sp.pc (instrBytes i) } n s2.g.splits).trans (if_neg hn)

/-! ## Effects stated whole -/

/-- An instruction's whole effect, from its body. -/
theorem does_issue {i : Instr} {h : Hdr} {u : State → Uses} {on : State → Bool} {need : State → Split → Prop} {eff : State → Split → State}
    {lanes : State → W32} {body : State → State → State × Fate} (he : ∀ s, exec i s = issue i h (u s) lanes on (body s) s)
    (hb : ∀ s sp, s.canIssue i (u s) sp → on s = true → need s sp →
      (body s s.open_).2 = .fall ∧ (body s s.open_).1.still = (eff s.open_ sp).still) : Does i u on need eff := by
  intro s sp hc hn
  obtain ⟨t, ht, hs⟩ := issue_fall s i h (u s) sp lanes on (body s) hc (body s s.open_).1
    (fun ho => Prod.ext rfl (hb s sp hc ho (hn ho)).1)
  refine ⟨t, (he s).trans ht, hs.trans ?_⟩
  by_cases ho : on s = true
  · rw [if_pos ho, if_pos ho, (hb s sp hc ho (hn ho)).2]
  · rw [if_neg ho, if_neg ho]

theorem does_lane {i : Instr} {h : Hdr} {u : State → Uses} {need : State → Split → Prop} {eff : State → Split → State}
    {body : State → W32 → Split → State → State × Fate} (he : ∀ s, exec i s = issueLane i h (u s) (body s) s)
    (hb : ∀ s sp, s.canIssue i (u s) sp → someLane h s = true → need s sp → (body s (activeMask h s) sp s.open_).2 = .fall ∧
      (body s (activeMask h s) sp s.open_).1.still = (eff s.open_ sp).still) : Does i u (someLane h) need eff :=
  does_issue (h := h) (lanes := activeMask h) (on := fun s => decide (activeMask h s ≠ 0)) (body := fun s t => match t.g.running with
      | none => (t, .fall)
      | some sp => body s (activeMask h t) sp t) he
    (fun s sp hc ho hn => by simp only [State.open_running, hc.1]; exact hb s sp hc ho hn)

theorem does_uni {i : Instr} {h : Hdr} {u : State → Uses} {need : State → Split → Prop} {eff : State → Split → State}
    {body : State → Split → State → State × Fate} (he : ∀ s, exec i s = issueUni i h (u s) (body s) s)
    (hb : ∀ s sp, s.canIssue i (u s) sp → guardOn h s = true → need s sp → (body s sp s.open_).2 = .fall ∧
      (body s sp s.open_).1.still = (eff s.open_ sp).still) : Does i u (guardOn h) need eff :=
  does_issue (h := h) (lanes := fun _ => 1) (on := fun s => s.g.guardTrue h.g) (body := fun s t => match t.g.running with
      | none => (t, .fall)
      | some sp => body s sp t) he
    (fun s sp hc ho hn => by simp only [State.open_running, hc.1]; exact hb s sp hc ho hn)

/-- An instruction that goes on moves its split past itself, from its body. -/
theorem advances_issue {i : Instr} {h : Hdr} {u : State → Uses} {on : State → Bool} {need : State → Split → Prop}
    {lanes : State → W32} {body : State → State → State × Fate} (he : ∀ s, exec i s = issue i h (u s) lanes on (body s) s)
    (hb : ∀ s sp, s.canIssue i (u s) sp → on s = true → need s sp → (body s s.open_).2 = .fall ∧
      (body s s.open_).1.g.splits = s.g.splits ∧ (body s s.open_).1.g.newSplits = s.g.newSplits) : Advances i u on need := by
  intro s sp hc hn hs hn'
  obtain ⟨t, x, ht, h⟩ := issue_adv s (body s s.open_).1 i h (u s) sp lanes on (body s) hc
    (fun ho => Prod.ext rfl (hb s sp hc ho (hn ho)).1)
    (fun ho => ⟨(hb s sp hc ho (hn ho)).2.1.trans hs, (hb s sp hc ho (hn ho)).2.2.trans hn'⟩) hs hn'
  exact ⟨t, x, (he s).trans ht, h⟩

theorem advances_lane {i : Instr} {h : Hdr} {u : State → Uses} {need : State → Split → Prop}
    {body : State → W32 → Split → State → State × Fate} (he : ∀ s, exec i s = issueLane i h (u s) (body s) s)
    (hb : ∀ s sp, s.canIssue i (u s) sp → someLane h s = true → need s sp → (body s (activeMask h s) sp s.open_).2 = .fall ∧
      (body s (activeMask h s) sp s.open_).1.g.splits = s.g.splits ∧ (body s (activeMask h s) sp s.open_).1.g.newSplits = s.g.newSplits) :
    Advances i u (someLane h) need :=
  advances_issue (h := h) (lanes := activeMask h) (on := fun s => decide (activeMask h s ≠ 0)) (body := fun s t => match t.g.running with
      | none => (t, .fall)
      | some sp => body s (activeMask h t) sp t) he
    (fun s sp hc ho hn => by simp only [State.open_running, hc.1]; exact hb s sp hc ho hn)

theorem advances_uni {i : Instr} {h : Hdr} {u : State → Uses} {need : State → Split → Prop}
    {body : State → Split → State → State × Fate} (he : ∀ s, exec i s = issueUni i h (u s) (body s) s)
    (hb : ∀ s sp, s.canIssue i (u s) sp → guardOn h s = true → need s sp → (body s sp s.open_).2 = .fall ∧
      (body s sp s.open_).1.g.splits = s.g.splits ∧ (body s sp s.open_).1.g.newSplits = s.g.newSplits) : Advances i u (guardOn h) need :=
  advances_issue (h := h) (lanes := fun _ => 1) (on := fun s => s.g.guardTrue h.g) (body := fun s t => match t.g.running with
      | none => (t, .fall)
      | some sp => body s sp t) he
    (fun s sp hc ho hn => by simp only [State.open_running, hc.1]; exact hb s sp hc ho hn)

/-- A uniform-set instruction that parks. -/
theorem parks_uni {i : Instr} {h : Hdr} {u : State → Uses} {need : State → Split → Prop} {eff : State → Split → State}
    {p : State → Split → Park} {body : State → Split → State → State × Fate} (he : ∀ s, exec i s = issueUni i h (u s) (body s) s)
    (hb : ∀ s sp, s.canIssue i (u s) sp → guardOn h s = true → need s sp →
      ((body s sp s.open_).2 = .park (p s sp) ∨ (body s sp s.open_).2 = .pass (p s sp)) ∧ (body s sp s.open_).1.still = (eff s sp).still ∧
      (body s sp s.open_).1.g.splits = s.g.splits ∧ (body s sp s.open_).1.g.newSplits = s.g.newSplits) : Parks i u (guardOn h) need eff p :=
  parks_of (h := h) (lanes := fun _ => 1) (on := fun s => s.g.guardTrue h.g) (body := fun s t => match t.g.running with
      | none => (t, .fall)
      | some sp => body s sp t) he
    (fun s sp hc hg hn => by simp only [State.open_running, hc.1]; exact hb s sp hc hg hn)

/-- What an instruction names decides whether it can issue: two descriptions that the checks read alike. -/
theorem canIssue_congr {s : State} {i : Instr} {u u' : Uses} {sp : Split} (h : s.canIssue i u sp) (hp : s.preCheck i u' sp = s.preCheck i u sp)
    (hm : s.g.missing u' = s.g.missing u) (hs : u'.store = u.store) (hl : u'.logged = u.logged) (hk : u'.cmp = u.cmp)
    (hr : s.roomless u' = s.roomless u) : s.canIssue i u' sp := by
  obtain ⟨h1, h2, h3, h4, h5, h6, h7, h8⟩ := h
  exact ⟨h1, hp.trans h2, hm.trans h3, h4, fun h => h5 (hs ▸ h), hr.trans h6, h7, fun h => h8 (hl ▸ hk ▸ h)⟩

/-! ## Traps -/

@[simp] theorem g_physSet (s : State) (pa : Nat) (b : Byte) : (s.physSet pa b).g = s.g := by
  unfold State.physSet
  repeat' split
  all_goals rfl

@[simp] theorem g_physSetList (bs : List Byte) : ∀ (s : State) (pa : Nat), (s.physSetList pa bs).g = s.g := by
  induction bs with
  | nil => intro s pa; rfl
  | cons b rest ih => intro s pa; unfold State.physSetList; rw [ih, g_physSet]

@[simp] theorem g_physWrite (s : State) (pa : Nat) (bs : List Byte) : (s.physWrite pa bs).g = s.g := by
  unfold State.physWrite
  split
  · exact g_physSetList _ _ _
  · rfl

@[simp] theorem g_winSet (s : State) (off : Nat) (x : W64) : (s.winSet off x).g = s.g := rfl

@[simp] theorem g_modCtx (s : State) (c : Nat) (f : Context → Context) : (s.modCtx c f).g = s.g := by
  unfold State.modCtx
  split <;> rfl

@[simp] theorem g_account (s : State) (c k : Nat) : (s.account c k).g = s.g := g_modCtx _ _ _

@[simp] theorem g_accountN (c k n : Nat) : ∀ s : State, (s.accountN c k n).g = s.g := by
  induction n with
  | zero => intro s; rfl
  | succ n ih => intro s; unfold State.accountN; rw [ih, g_account]

@[simp] theorem g_l2Evict (s : State) (x : L2Line) : (s.l2Evict x).g = s.g := by
  unfold State.l2Evict
  dsimp only
  split
  · split <;> simp
  · rfl

@[simp] theorem g_l2Make (s : State) (die : Nat) : (s.l2Make die).g = s.g := by
  unfold State.l2Make
  dsimp only
  split
  · rfl
  · split
    · exact g_l2Evict _ _
    · rfl

@[simp] theorem g_l2Use (s : State) (pa : Nat) (c : Option Nat) (wr : Bool) : (s.l2Use pa c wr).g = s.g := by
  unfold State.l2Use
  split
  · rfl
  · dsimp only
    split <;> split <;> simp

@[simp] theorem g_countHome (s : State) (c : Option Nat) (pa kind : Nat) (wr : Bool) : (s.countHome c pa kind wr).g = s.g := by
  unfold State.countHome
  split
  · split <;> simp
  · split
    · exact g_l2Use _ _ _ _
    · rfl

@[simp] theorem g_sweepStash (s : State) (hit : Team → StashLine → Bool) (f : StashLine → Option StashLine) : (s.sweepStash hit f).g = s.g := by
  unfold State.sweepStash
  dsimp only
  have : ∀ (l : List Team) (x : State), (l.foldl (fun x t => x.accountN t.ctx 7
      (t.stash.flatMap (fun m => m.lines.filter (fun l => hit t l && l.dirty))).length) x).g = x.g := by
    intro l
    induction l with
    | nil => intro x; rfl
    | cons t rest ih => intro x; rw [List.foldl_cons, ih, g_accountN]
  rw [this]

/-- A store of the device itself changes nothing of the issuing group. -/
@[simp] theorem g_deviceStore (s : State) (c : Option Nat) (pa : Nat) (bs : List Byte) : (s.deviceStore c pa bs).g = s.g := by
  unfold State.deviceStore State.homeWrite
  split
  · simp only [if_true, State.sendInvals, State.takeStash, State.recallStash, g_sweepStash, g_physWrite, g_countHome]
  · simp [State.loseStore]

@[simp] theorem g_writeEvent (s : State) (x : Push) : (s.writeEvent x).g = s.g := by
  unfold State.writeEvent
  simp only []
  generalize s.queueDrops x.queue = b
  cases b
  · rw [if_neg Bool.false_ne_true]
    exact g_deviceStore s none (s.queueSlot x.queue) x.bytes
  · rw [if_pos rfl, g_winSet]

@[simp] theorem g_pushEvent (s : State) (x : Push) : (s.pushEvent x).g = s.g := by
  unfold State.pushEvent
  split
  · rfl
  · exact g_writeEvent _ _

@[simp] theorem g_pushFault (s : State) (q ty c : Nat) (a b : W64) : (s.pushFault q ty c a b).g = s.g := by
  unfold State.pushFault
  exact g_pushEvent _ _

theorem role_enterTrap (g : Group) (slot : Nat) (t : Trap) (v : BitVec 57) (c : Nat) :
    (g.enterTrap slot t v c).role = g.role ∧ (g.enterTrap slot t v c).newSplits = g.newSplits ∧ (g.enterTrap slot t v c).run = false := by
  unfold Group.enterTrap
  split
  · exact ⟨rfl, rfl, rfl⟩
  · dsimp only
    split <;> exact ⟨rfl, rfl, rfl⟩

theorem running_live {g : Group} {sp : Split} (h : g.running = some sp) : g.live = true := by
  unfold Group.running at h
  split at h
  · rename_i hr
    simp only [Bool.and_eq_true] at hr
    exact hr.1.1.2
  · cases h

/-- The issuing group is found by its number. -/
theorem group_self {s : State} (h : s.g.live = true) : s.group s.g.gid = some s.g := by
  simp [State.group, State.groups, h]

/-- The group after taking a trap (12 R318 to R320). -/
theorem g_takeTrap {s : State} (h : s.g.live = true) (slot : Nat) (t : Trap) :
    (s.takeTrap s.g.gid slot t).g = s.g.enterTrap slot t (s.ctx s.g.ctx).tvec s.clock := by
  unfold State.takeTrap
  rw [group_self h]
  dsimp only
  split
  · rw [g_pushFault]; simp [State.modGroup]
  · simp [State.modGroup]

/-- A trap raised in a team that is not checked is taken. -/
theorem traps_finish (s : State) (i : Instr) (h : Hdr) (sp : Split) (tr : Trap) (hr : s.g.running = some sp) (hp : s.g.role = .plain)
    (hn : s.g.newSplits = []) (hc : tr.cause ≠ 0x12) :
    (s.finish i h sp (.trap tr)).still = (s.takeTrap s.g.gid sp.slot tr).still ∧
      (s.finish i h sp (.trap tr)).g.splits = (s.takeTrap s.g.gid sp.slot tr).g.splits := by
  have hl := running_live hr
  have hg := g_takeTrap hl sp.slot tr
  obtain ⟨h1, h2, h3⟩ := role_enterTrap s.g sp.slot tr (s.ctx s.g.ctx).tvec s.clock
  have hrole : (s.takeTrap s.g.gid sp.slot tr).g.role = .plain := by rw [hg, h1, hp]
  have he : s.trapHere sp.slot tr = s.takeTrap s.g.gid sp.slot tr := by
    unfold State.trapHere State.countDataError
    simp only [hc, hp, if_false, ne_eq, not_false_eq_true, decide_true, Bool.and_true, Role.follows, Bool.false_eq_true]
    unfold State.logTrap
    simp [hrole]
  simp only [State.finish, he]
  refine ⟨by rw [State.still_boundary, State.still_counted], ?_⟩
  rw [State.g_boundary]
  · rfl
  · show (s.takeTrap s.g.gid sp.slot tr).g.newSplits = []
    rw [hg, h2, hn]

/-- An instruction that a check stops takes its trap (02 R31). -/
theorem traps_pre {i : Instr} {h : Hdr} {u : Uses} {lanes : State → W32} {on : State → Bool} {body : State → State × Fate} {s : State}
    (he : exec i s = issue i h u lanes on body s) {sp : Split} {tr : Trap} (hr : s.g.running = some sp) (hp : s.g.role = .plain)
    (hn : s.g.newSplits = []) (hc : tr.cause ≠ 0x12) (ht : s.preCheck i u sp = some tr) : Traps i s sp tr := by
  obtain ⟨h1, h2⟩ := traps_finish s i h sp tr hr hp hn hc
  refine ⟨s.finish i h sp (.trap tr), ?_, h1, h2⟩
  rw [he]
  unfold issue
  simp only [hr, ht, State.checkedBy, hp, reduceCtorEq, if_false]

/-- An instruction whose body traps. -/
theorem traps_body {i : Instr} {h : Hdr} {u : Uses} {lanes : State → W32} {on : State → Bool} {body : State → State × Fate} {s : State}
    (he : exec i s = issue i h u lanes on body s) {sp : Split} {tr : Trap} (hi : s.canIssue i u sp) (ho : on s = true)
    (hp : s.g.role = .plain) (hn : s.g.newSplits = []) (hc : tr.cause ≠ 0x12) (hb : body s.open_ = (s.open_, .trap tr)) :
    Traps i s sp tr := by
  obtain ⟨hr, hpre, hm, hy, hst, hroom, _⟩ := hi
  obtain ⟨h1, h2⟩ := traps_finish s i h sp tr hr hp hn hc
  refine ⟨s.finish i h sp (.trap tr), ?_, h1, h2⟩
  have hst : (u.store && s.storeStop s.g) = false := by
    cases hu : u.store
    · rfl
    · simp [hst hu]
  have hperf : ∀ fs, s.perform i h u fs (lanes s) sp body = some (s.finish i h sp (.trap tr)) := by
    intro fs
    unfold State.perform
    rw [show ({ s with g := { s.g with cleared := none } } : State) = s.open_ from rfl]
    rw [hb]
    simp only [hp, Role.follows, State.doneBefore, Bool.false_or, reduceCtorEq, decide_false, Bool.false_and, Bool.false_eq_true, if_false]
    rfl
  rw [he]
  unfold issue
  simp only [hr, hpre, hm, hy, hst, hroom, ho, hp, hperf, Bool.not_true, Bool.or_self, Bool.false_eq_true, if_false, State.checkedBy, reduceCtorEq]
  simp

end Sys2Proof.Machine
end

