-- ==== Sys2Proof/Laws/Effects.lean ====
section
/-! SUPPORT. One law for each shared operation that an instruction's body ends in: what it does where it can go on. -/

namespace Sys2Proof.Machine

/-- Room in the tile's queue of accumulator jobs: the job joins it and its result is awaited (06 R146). -/
theorem enqueue_room {s : State} (h : (s.jobs.filter (fun j => decide (j.tile = s.g.tile))).length < 8) (sp : Split) (m : W32) (md : Nat)
    (op : AccOp) (fa fb : Sparse W32) (sa sb : Nat) (dest : List Nat) :
    enqueue s sp m md op fa fb sa sb dest =
      (({ s with jobs := s.jobs ++ [(⟨s.g.tile, s.g.gid, s.g.seq, sp.slot, sp.pc, m, md, op, fa, fb, sa, sb, [], [], false⟩ : AccJob)] } :
        State).pendingResult sp dest [], .fall) := by
  unfold enqueue
  rw [if_neg (by simpa using h)]

/-- Room for more lines in a tile's cache: nothing is evicted (01 R12). -/
theorem cacheRoom_free {s : State} {tile need : Nat} {acc : Bool} (h : s.cacheUsed tile acc + need ≤ 2048) (keep n : Nat) :
    State.cacheRoom tile keep need acc n s = s := by
  cases n with
  | zero => rfl
  | succ n => rw [State.cacheRoom, if_pos h]

/-- A free entry of the operand log, with room for its lines: the access is held in it (07 R169; 12 R324). -/
theorem hold_entry {s : State} (h : s.entryFree = true) (i : Instr) (sp : Split) (m : W32) (x : Held) (l : List OlLane) :
    (s.hold i sp m x l).2 = .fall ∧ (s.hold i sp m x l).1.still = (s.withEntry i sp m x l).still := by
  obtain ⟨h1, h2⟩ := (Bool.and_eq_true _ _).mp h
  obtain ⟨n, hn⟩ := Option.isSome_iff_exists.mp h1
  have hr : s.cacheUsed s.g.tile false + 8 ≤ 2048 := of_decide_eq_true h2
  unfold State.hold State.withEntry
  rw [hn]
  obtain ⟨k, sc, sz, scp, od, ds, ta, hi, un⟩ := x
  cases ta <;>
  · dsimp only
    rw [cacheRoom_free hr, if_neg (by omega)]
    refine ⟨rfl, ?_⟩
    dsimp only
    split
    · rfl
    · rw [State.still_logVals]; rfl

theorem takeEntry_plain {s : State} (h : s.g.role.follows = false) : s.takeEntry = s.g.freeEntry := by
  unfold State.takeEntry
  simp [h]

end Sys2Proof.Machine
end

