-- ==== Sys2Proof/Laws/Memory.lean ====
section
/-! SUPPORT. The operations on physical memory keep every memory in its canonical form. -/

namespace Sys2Proof.Machine

/-- One byte written keeps the form. -/
theorem memOk_physSet (s : State) (pa : Nat) (b : Byte) (h : s.memOk = true) : (s.physSet pa b).memOk = true := by
  unfold State.memOk at h
  simp only [Bool.and_eq_true] at h
  obtain ⟨⟨h1, h2⟩, h3⟩ := h
  unfold State.physSet
  split <;> simp only [State.memOk, Bool.and_eq_true] <;>
    first
    | exact ⟨⟨memSet_wf _ _ _ h1, h2⟩, h3⟩
    | exact ⟨⟨h1, memSet_wf _ _ _ h2⟩, h3⟩
    | exact ⟨⟨h1, h2⟩, memSet_wf _ _ _ h3⟩
    | exact ⟨⟨h1, h2⟩, h3⟩

/-- Bytes written one after another keep it. -/
theorem memOk_physSetList (bs : List Byte) : ∀ (s : State) (pa : Nat), s.memOk = true → (s.physSetList pa bs).memOk = true := by
  induction bs with
  | nil => intro s pa h; exact h
  | cons b rest ih => intro s pa h; exact ih _ _ (memOk_physSet s pa b h)

/-- A store at a physical address keeps it. -/
theorem memOk_physWrite (s : State) (pa : Nat) (bs : List Byte) (h : s.memOk = true) : (s.physWrite pa bs).memOk = true := by
  unfold State.physWrite
  split
  · exact memOk_physSetList bs s pa h
  · exact h

/-- A group changed keeps it. -/
theorem memOk_modGroup (s : State) (gid : Nat) (f : Group → Group) (h : s.memOk = true) : (s.modGroup gid f).memOk = true := by
  unfold State.modGroup
  split <;> exact h

/-- What changes no memory keeps it. -/
theorem memOk_same {s t : State} (h1 : t.mem = s.mem) (h2 : t.hostMem = s.hostMem) (h3 : t.remote = s.remote) (h : s.memOk = true) :
    t.memOk = true := by
  simpa only [State.memOk, h1, h2, h3] using h

/-- A context's counter raised keeps it. -/
theorem memOk_account (s : State) (ctx sel : Nat) (h : s.memOk = true) : (s.account ctx sel).memOk = true := by
  unfold State.account State.modCtx
  split <;> exact h

theorem memOk_accountN (ctx sel n : Nat) : ∀ s : State, s.memOk = true → (s.accountN ctx sel n).memOk = true := by
  induction n with
  | zero => intro s h; exact h
  | succ n ih => intro s h; exact ih _ (memOk_account s ctx sel h)

/-- Stash lines written back keep it. -/
theorem memOk_sweepStash (s : State) (hit : Team → StashLine → Bool) (f : StashLine → Option StashLine) (h : s.memOk = true) :
    (s.sweepStash hit f).memOk = true := by
  unfold State.sweepStash
  dsimp only
  have key : ∀ (l : List Team) (k : Team → Nat) (x : State), x.memOk = true →
      (l.foldl (fun x t => x.accountN t.ctx 7 (k t)) x).memOk = true := by
    intro l k
    induction l with
    | nil => intro x hx; exact hx
    | cons t rest ih => intro x hx; exact ih _ (memOk_accountN _ _ _ _ hx)
  exact key _ _ _ (memOk_same rfl rfl rfl h)

/-- A store at a home keeps it. -/
theorem memOk_homeWrite (s : State) (tile gid tid pa : Nat) (bs : List Byte) (h : s.memOk = true) :
    (s.homeWrite tile gid tid pa bs).memOk = true := by
  have hw := memOk_sweepStash (s.physWrite pa bs) (fun t l => decide (t.tid ≠ tid) && decide (l.pa = pa / 128)) (fun _ => none)
    (memOk_physWrite s pa bs h)
  unfold State.homeWrite State.takeStash State.recallStash
  split
  · dsimp only
    split
    · exact memOk_same rfl rfl rfl hw
    · exact memOk_modGroup _ _ _ (memOk_same rfl rfl rfl hw)
  · exact memOk_same rfl rfl rfl h

/-! ## Ranges in the device's own encoding -/

/-- A byte written is no longer coded, and every other byte of a coded range is the free value it was. -/
theorem codedAt_uncode (l : List (Nat × Nat × Nat)) (pa qa : Nat) :
    codedAt (uncode l pa) qa = if qa = pa then none else codedAt l qa := by
  induction l with
  | nil => simp [codedAt, uncode]
  | cons x rest ih =>
    obtain ⟨a, b, t⟩ := x
    have hcons : uncode ((a, b, t) :: rest) pa = (if decide (a ≤ pa) && decide (pa < b) then
        [(a, pa, t), (pa + 1, b, t + (pa + 1 - a))].filter (fun y => decide (y.1 < y.2.1)) else [(a, b, t)]) ++ uncode rest pa := by
      simp [uncode]
    have happ : ∀ u v : List (Nat × Nat × Nat), codedAt (u ++ v) qa = (codedAt u qa).orElse (fun _ => codedAt v qa) := by
      intro u v
      simp only [codedAt, List.find?_append]
      cases u.find? (fun x => decide (x.1 ≤ qa) && decide (qa < x.2.1)) <;> rfl
    have hc : codedAt ((a, b, t) :: rest) qa = (codedAt [(a, b, t)] qa).orElse (fun _ => codedAt rest qa) := happ [(a, b, t)] rest
    rw [hcons, happ, ih, hc]
    by_cases hin : a ≤ pa ∧ pa < b
    · simp only [hin.1, hin.2, decide_true, Bool.and_self, if_true]
      by_cases hq : qa = pa
      · subst hq
        simp only [if_true]
        by_cases h1 : a < qa <;> by_cases h2 : qa + 1 < b <;> simp [codedAt, h1, h2]
      · simp only [hq, if_false]
        congr 1
        by_cases h1 : a < pa <;> by_cases h2 : pa + 1 < b <;> simp only [codedAt, h1, h2, List.filter_cons, List.filter_nil, List.find?_cons,
            List.find?_nil, decide_true, decide_false, if_true, if_false, Bool.false_eq_true] <;>
          by_cases h3 : a ≤ qa <;> by_cases h4 : qa < b <;> by_cases h5 : qa < pa <;> by_cases h6 : pa + 1 ≤ qa <;>
          simp [h3, h4, h5, h6] <;> first | omega | (congr 2; omega)
    · have : (decide (a ≤ pa) && decide (pa < b)) = false := by
        rw [← Bool.not_eq_true, Bool.and_eq_true, decide_eq_true_eq, decide_eq_true_eq]; exact hin
      simp only [this, Bool.false_eq_true, if_false]
      by_cases hq : qa = pa
      · subst hq
        simp only [if_true, codedAt, List.find?_cons, this, List.find?_nil]
        rfl
      · simp only [hq, if_false]

/-- A physical range left blank keeps the form. -/
theorem memOk_blank (s : State) (pa n : Nat) (h : s.memOk = true) : (s.blank pa n).memOk = true := by
  unfold State.memOk at h
  simp only [Bool.and_eq_true] at h
  obtain ⟨⟨h1, h2⟩, h3⟩ := h
  unfold State.blank
  dsimp only
  split
  · simp only [State.memOk, Bool.and_eq_true]; exact ⟨⟨mapWf_filter _ _ _ none h1, h2⟩, h3⟩
  · simp only [State.memOk, Bool.and_eq_true]; exact ⟨⟨h1, mapWf_filter _ _ _ none h2⟩, h3⟩
  · simp only [State.memOk, Bool.and_eq_true]; exact ⟨⟨h1, h2⟩, mapWf_filter _ _ _ none h3⟩
  · simp only [State.memOk, Bool.and_eq_true]; exact ⟨⟨h1, h2⟩, h3⟩

/-- A range of device memory left blank reads as 0; every other byte as before. -/
theorem memGet_blank (s : State) (pa n a die : Nat) (hk : s.physKind pa = .dev die) :
    memGet (s.blank pa n).mem a = if localOf pa ≤ a ∧ a < localOf pa + n then 0 else memGet s.mem a := by
  have h := mapGet_filter byteDefault (fun k => !within k (localOf pa) n) s.mem a
  unfold State.blank
  rw [hk]
  simp only [memGet]
  rw [h]
  by_cases h1 : localOf pa ≤ a <;> by_cases h2 : a < localOf pa + n <;> simp [within, h1, h2, byteDefault]

end Sys2Proof.Machine
end

