-- ==== Sys2Proof/Laws/PerInstr.lean ====
section
/-! SUPPORT. One lemma per constructor about its words: an instruction has at most two (02 R23). -/

namespace Sys2Proof.Laws.Codec

/-- An instruction is at most two words long (02 R23). -/
def Statement (i : Instr) : Prop := (encode i).length ≤ 2

theorem iadd (h : Hdr) (d : BitVec 6) (a : BitVec 6) (b : BitVec 6) : Statement (.iadd h d a b) := Nat.le_of_ble_eq_true rfl
theorem isub (h : Hdr) (d : BitVec 6) (a : BitVec 6) (b : BitVec 6) : Statement (.isub h d a b) := Nat.le_of_ble_eq_true rfl
theorem imul (h : Hdr) (d : BitVec 6) (a : BitVec 6) (b : BitVec 6) : Statement (.imul h d a b) := Nat.le_of_ble_eq_true rfl
theorem imulh (h : Hdr) (d : BitVec 6) (a : BitVec 6) (b : BitVec 6) : Statement (.imulh h d a b) := Nat.le_of_ble_eq_true rfl
theorem imulhu (h : Hdr) (d : BitVec 6) (a : BitVec 6) (b : BitVec 6) : Statement (.imulhu h d a b) := Nat.le_of_ble_eq_true rfl
theorem imad (h : Hdr) (d : BitVec 6) (a : BitVec 6) (b : BitVec 6) (c : BitVec 6) : Statement (.imad h d a b c) := Nat.le_of_ble_eq_true rfl
theorem imin (h : Hdr) (d : BitVec 6) (a : BitVec 6) (b : BitVec 6) : Statement (.imin h d a b) := Nat.le_of_ble_eq_true rfl
theorem imax (h : Hdr) (d : BitVec 6) (a : BitVec 6) (b : BitVec 6) : Statement (.imax h d a b) := Nat.le_of_ble_eq_true rfl
theorem iminu (h : Hdr) (d : BitVec 6) (a : BitVec 6) (b : BitVec 6) : Statement (.iminu h d a b) := Nat.le_of_ble_eq_true rfl
theorem imaxu (h : Hdr) (d : BitVec 6) (a : BitVec 6) (b : BitVec 6) : Statement (.imaxu h d a b) := Nat.le_of_ble_eq_true rfl
theorem iabs (h : Hdr) (d : BitVec 6) (a : BitVec 6) : Statement (.iabs h d a) := Nat.le_of_ble_eq_true rfl
theorem ineg (h : Hdr) (d : BitVec 6) (a : BitVec 6) : Statement (.ineg h d a) := Nat.le_of_ble_eq_true rfl
theorem andv (h : Hdr) (d : BitVec 6) (a : BitVec 6) (b : BitVec 6) : Statement (.andv h d a b) := Nat.le_of_ble_eq_true rfl
theorem orv (h : Hdr) (d : BitVec 6) (a : BitVec 6) (b : BitVec 6) : Statement (.orv h d a b) := Nat.le_of_ble_eq_true rfl
theorem xorv (h : Hdr) (d : BitVec 6) (a : BitVec 6) (b : BitVec 6) : Statement (.xorv h d a b) := Nat.le_of_ble_eq_true rfl
theorem andn (h : Hdr) (d : BitVec 6) (a : BitVec 6) (b : BitVec 6) : Statement (.andn h d a b) := Nat.le_of_ble_eq_true rfl
theorem shl (h : Hdr) (d : BitVec 6) (a : BitVec 6) (b : BitVec 6) : Statement (.shl h d a b) := Nat.le_of_ble_eq_true rfl
theorem shr (h : Hdr) (d : BitVec 6) (a : BitVec 6) (b : BitVec 6) : Statement (.shr h d a b) := Nat.le_of_ble_eq_true rfl
theorem sar (h : Hdr) (d : BitVec 6) (a : BitVec 6) (b : BitVec 6) : Statement (.sar h d a b) := Nat.le_of_ble_eq_true rfl
theorem rotl (h : Hdr) (d : BitVec 6) (a : BitVec 6) (b : BitVec 6) : Statement (.rotl h d a b) := Nat.le_of_ble_eq_true rfl
theorem bfx (h : Hdr) (d : BitVec 6) (a : BitVec 6) (b : BitVec 6) (t : BitVec 4) (op : BitVec 4) (n : BitVec 8) : Statement (.bfx h d a b t op n) := Nat.le_of_ble_eq_true rfl
theorem bfi (h : Hdr) (d : BitVec 6) (a : BitVec 6) (b : BitVec 6) (c : BitVec 6) (op : BitVec 4) (n : BitVec 8) : Statement (.bfi h d a b c op n) := Nat.le_of_ble_eq_true rfl
theorem popc (h : Hdr) (d : BitVec 6) (a : BitVec 6) : Statement (.popc h d a) := Nat.le_of_ble_eq_true rfl
theorem clz (h : Hdr) (d : BitVec 6) (a : BitVec 6) : Statement (.clz h d a) := Nat.le_of_ble_eq_true rfl
theorem brev (h : Hdr) (d : BitVec 6) (a : BitVec 6) : Statement (.brev h d a) := Nat.le_of_ble_eq_true rfl
theorem icmp (h : Hdr) (cc : BitVec 3) (p : BitVec 3) (a : BitVec 6) (b : BitVec 6) : Statement (.icmp h cc p a b) := Nat.le_of_ble_eq_true rfl
theorem sel (h : Hdr) (d : BitVec 6) (a : BitVec 6) (b : BitVec 6) (neg : BitVec 1) (p : BitVec 3) : Statement (.sel h d a b neg p) := Nat.le_of_ble_eq_true rfl
theorem mov (h : Hdr) (d : BitVec 6) (a : BitVec 6) : Statement (.mov h d a) := Nat.le_of_ble_eq_true rfl
theorem movi (h : Hdr) (d : BitVec 6) (k : BitVec 32) : Statement (.movi h d k) := Nat.le_of_ble_eq_true rfl
theorem iaddi (h : Hdr) (d : BitVec 6) (a : BitVec 6) (k : BitVec 32) : Statement (.iaddi h d a k) := Nat.le_of_ble_eq_true rfl
theorem iadd64 (h : Hdr) (d : BitVec 6) (a : BitVec 6) (b : BitVec 6) : Statement (.iadd64 h d a b) := Nat.le_of_ble_eq_true rfl
theorem lidx (h : Hdr) (d : BitVec 6) : Statement (.lidx h d) := Nat.le_of_ble_eq_true rfl
theorem fadd (h : Hdr) (d : BitVec 6) (a : BitVec 6) (b : BitVec 6) : Statement (.fadd h d a b) := Nat.le_of_ble_eq_true rfl
theorem fsub (h : Hdr) (d : BitVec 6) (a : BitVec 6) (b : BitVec 6) : Statement (.fsub h d a b) := Nat.le_of_ble_eq_true rfl
theorem fmul (h : Hdr) (d : BitVec 6) (a : BitVec 6) (b : BitVec 6) : Statement (.fmul h d a b) := Nat.le_of_ble_eq_true rfl
theorem ffma (h : Hdr) (d : BitVec 6) (a : BitVec 6) (b : BitVec 6) (c : BitVec 6) (rm : BitVec 2) (negc : BitVec 1) (negp : BitVec 1) (rs : BitVec 1) : Statement (.ffma h d a b c rm negc negp rs) := Nat.le_of_ble_eq_true rfl
theorem fmin (h : Hdr) (d : BitVec 6) (a : BitVec 6) (b : BitVec 6) : Statement (.fmin h d a b) := Nat.le_of_ble_eq_true rfl
theorem fmax (h : Hdr) (d : BitVec 6) (a : BitVec 6) (b : BitVec 6) : Statement (.fmax h d a b) := Nat.le_of_ble_eq_true rfl
theorem fcmp (h : Hdr) (cc : BitVec 3) (p : BitVec 3) (a : BitVec 6) (b : BitVec 6) : Statement (.fcmp h cc p a b) := Nat.le_of_ble_eq_true rfl
theorem fclass (h : Hdr) (d : BitVec 6) (a : BitVec 6) (hf : BitVec 1) (t : BitVec 2) : Statement (.fclass h d a hf t) := Nat.le_of_ble_eq_true rfl
theorem dadd (h : Hdr) (d : BitVec 6) (a : BitVec 6) (b : BitVec 6) : Statement (.dadd h d a b) := Nat.le_of_ble_eq_true rfl
theorem dmul (h : Hdr) (d : BitVec 6) (a : BitVec 6) (b : BitVec 6) : Statement (.dmul h d a b) := Nat.le_of_ble_eq_true rfl
theorem dfma (h : Hdr) (d : BitVec 6) (a : BitVec 6) (b : BitVec 6) (c : BitVec 6) (rm : BitVec 2) (negc : BitVec 1) (negp : BitVec 1) (rs : BitVec 1) : Statement (.dfma h d a b c rm negc negp rs) := Nat.le_of_ble_eq_true rfl
theorem dcmp (h : Hdr) (cc : BitVec 3) (p : BitVec 3) (a : BitVec 6) (b : BitVec 6) : Statement (.dcmp h cc p a b) := Nat.le_of_ble_eq_true rfl
theorem hadd2 (h : Hdr) (d : BitVec 6) (a : BitVec 6) (b : BitVec 6) (t : BitVec 4) (rm : BitVec 2) (rs : BitVec 1) : Statement (.hadd2 h d a b t rm rs) := Nat.le_of_ble_eq_true rfl
theorem hmul2 (h : Hdr) (d : BitVec 6) (a : BitVec 6) (b : BitVec 6) (t : BitVec 4) (rm : BitVec 2) (rs : BitVec 1) : Statement (.hmul2 h d a b t rm rs) := Nat.le_of_ble_eq_true rfl
theorem hfma2 (h : Hdr) (d : BitVec 6) (a : BitVec 6) (b : BitVec 6) (c : BitVec 6) (t : BitVec 4) (rm : BitVec 2) (negc : BitVec 1) (negp : BitVec 1) (rs : BitVec 1) : Statement (.hfma2 h d a b c t rm negc negp rs) := Nat.le_of_ble_eq_true rfl
theorem frcp (h : Hdr) (d : BitVec 6) (a : BitVec 6) : Statement (.frcp h d a) := Nat.le_of_ble_eq_true rfl
theorem frsq (h : Hdr) (d : BitVec 6) (a : BitVec 6) : Statement (.frsq h d a) := Nat.le_of_ble_eq_true rfl
theorem fsqrt (h : Hdr) (d : BitVec 6) (a : BitVec 6) : Statement (.fsqrt h d a) := Nat.le_of_ble_eq_true rfl
theorem fex2 (h : Hdr) (d : BitVec 6) (a : BitVec 6) : Statement (.fex2 h d a) := Nat.le_of_ble_eq_true rfl
theorem flg2 (h : Hdr) (d : BitVec 6) (a : BitVec 6) : Statement (.flg2 h d a) := Nat.le_of_ble_eq_true rfl
theorem fsin (h : Hdr) (d : BitVec 6) (a : BitVec 6) : Statement (.fsin h d a) := Nat.le_of_ble_eq_true rfl
theorem fcos (h : Hdr) (d : BitVec 6) (a : BitVec 6) : Statement (.fcos h d a) := Nat.le_of_ble_eq_true rfl
theorem cvt (h : Hdr) (d : BitVec 6) (a : BitVec 6) (dt : BitVec 4) (rm : BitVec 2) (st : BitVec 4) (spos : BitVec 2) (dpos : BitVec 2) (sat : BitVec 1) (rs : BitVec 1) : Statement (.cvt h d a dt rm st spos dpos sat rs) := Nat.le_of_ble_eq_true rfl
theorem frnd (h : Hdr) (d : BitVec 6) (a : BitVec 6) (t : BitVec 4) (rm : BitVec 2) (op : BitVec 4) (rs : BitVec 1) : Statement (.frnd h d a t rm op rs) := Nat.le_of_ble_eq_true rfl
theorem nanorg (h : Hdr) (d : BitVec 6) (a : BitVec 6) (hf : BitVec 1) (t : BitVec 2) : Statement (.nanorg h d a hf t) := Nat.le_of_ble_eq_true rfl
theorem dxbPack (h : Hdr) (d : BitVec 6) (a : BitVec 6) (c : BitVec 6) (t : BitVec 4) (rm : BitVec 2) (rs : BitVec 1) : Statement (.dxbPack h d a c t rm rs) := Nat.le_of_ble_eq_true rfl
theorem dxbUnpk (h : Hdr) (d : BitVec 6) (a : BitVec 6) (c : BitVec 6) (t : BitVec 4) : Statement (.dxbUnpk h d a c t) := Nat.le_of_ble_eq_true rfl
theorem fabs (h : Hdr) (d : BitVec 6) (a : BitVec 6) : Statement (.fabs h d a) := Nat.le_of_ble_eq_true rfl
theorem fneg (h : Hdr) (d : BitVec 6) (a : BitVec 6) : Statement (.fneg h d a) := Nat.le_of_ble_eq_true rfl
theorem dmin (h : Hdr) (d : BitVec 6) (a : BitVec 6) (b : BitVec 6) : Statement (.dmin h d a b) := Nat.le_of_ble_eq_true rfl
theorem dmax (h : Hdr) (d : BitVec 6) (a : BitVec 6) (b : BitVec 6) : Statement (.dmax h d a b) := Nat.le_of_ble_eq_true rfl
theorem mma (h : Hdr) (acc : BitVec 3) (a : BitVec 6) (b : BitVec 6) (c : BitVec 6) (t : BitVec 4) (z : BitVec 1) (rm : BitVec 2) (rs : BitVec 1) : Statement (.mma h acc a b c t z rm rs) := Nat.le_of_ble_eq_true rfl
theorem accRd (h : Hdr) (d : BitVec 6) (acc : BitVec 3) (t : BitVec 4) (rm : BitVec 2) (n : BitVec 4) (j0 : BitVec 5) (rs : BitVec 1) : Statement (.accRd h d acc t rm n j0 rs) := Nat.le_of_ble_eq_true rfl
theorem accWr (h : Hdr) (acc : BitVec 3) (a : BitVec 6) (t : BitVec 4) (rm : BitVec 2) (n : BitVec 4) (j0 : BitVec 5) (rs : BitVec 1) : Statement (.accWr h acc a t rm n j0 rs) := Nat.le_of_ble_eq_true rfl
theorem accZero (h : Hdr) (acc : BitVec 3) : Statement (.accZero h acc) := Nat.le_of_ble_eq_true rfl
theorem accCvt (h : Hdr) (d : BitVec 6) (acc : BitVec 3) (c : BitVec 6) (t : BitVec 4) (rm : BitVec 2) (sat : BitVec 1) (rs : BitVec 1) : Statement (.accCvt h d acc c t rm sat rs) := Nat.le_of_ble_eq_true rfl
theorem ldB (h : Hdr) (d : BitVec 6) (ta : BitVec 4) (o : BitVec 6) (ht : BitVec 2) : Statement (.ldB h d ta o ht) := Nat.le_of_ble_eq_true rfl
theorem ldH (h : Hdr) (d : BitVec 6) (ta : BitVec 4) (o : BitVec 6) (ht : BitVec 2) : Statement (.ldH h d ta o ht) := Nat.le_of_ble_eq_true rfl
theorem ldW (h : Hdr) (d : BitVec 6) (ta : BitVec 4) (o : BitVec 6) (ht : BitVec 2) : Statement (.ldW h d ta o ht) := Nat.le_of_ble_eq_true rfl
theorem ldD (h : Hdr) (d : BitVec 6) (ta : BitVec 4) (o : BitVec 6) (ht : BitVec 2) : Statement (.ldD h d ta o ht) := Nat.le_of_ble_eq_true rfl
theorem ldQ (h : Hdr) (d : BitVec 6) (ta : BitVec 4) (o : BitVec 6) (ht : BitVec 2) : Statement (.ldQ h d ta o ht) := Nat.le_of_ble_eq_true rfl
theorem stB (h : Hdr) (d : BitVec 6) (ta : BitVec 4) (o : BitVec 6) (ht : BitVec 2) : Statement (.stB h d ta o ht) := Nat.le_of_ble_eq_true rfl
theorem stH (h : Hdr) (d : BitVec 6) (ta : BitVec 4) (o : BitVec 6) (ht : BitVec 2) : Statement (.stH h d ta o ht) := Nat.le_of_ble_eq_true rfl
theorem stW (h : Hdr) (d : BitVec 6) (ta : BitVec 4) (o : BitVec 6) (ht : BitVec 2) : Statement (.stW h d ta o ht) := Nat.le_of_ble_eq_true rfl
theorem stD (h : Hdr) (d : BitVec 6) (ta : BitVec 4) (o : BitVec 6) (ht : BitVec 2) : Statement (.stD h d ta o ht) := Nat.le_of_ble_eq_true rfl
theorem stQ (h : Hdr) (d : BitVec 6) (ta : BitVec 4) (o : BitVec 6) (ht : BitVec 2) : Statement (.stQ h d ta o ht) := Nat.le_of_ble_eq_true rfl
theorem ldsW (h : Hdr) (d : BitVec 6) (a : BitVec 6) : Statement (.ldsW h d a) := Nat.le_of_ble_eq_true rfl
theorem ldsD (h : Hdr) (d : BitVec 6) (a : BitVec 6) : Statement (.ldsD h d a) := Nat.le_of_ble_eq_true rfl
theorem ldsQ (h : Hdr) (d : BitVec 6) (a : BitVec 6) : Statement (.ldsQ h d a) := Nat.le_of_ble_eq_true rfl
theorem stsW (h : Hdr) (d : BitVec 6) (a : BitVec 6) : Statement (.stsW h d a) := Nat.le_of_ble_eq_true rfl
theorem stsD (h : Hdr) (d : BitVec 6) (a : BitVec 6) : Statement (.stsD h d a) := Nat.le_of_ble_eq_true rfl
theorem stsQ (h : Hdr) (d : BitVec 6) (a : BitVec 6) : Statement (.stsQ h d a) := Nat.le_of_ble_eq_true rfl
theorem ldcW (h : Hdr) (d : BitVec 6) (a : BitVec 6) : Statement (.ldcW h d a) := Nat.le_of_ble_eq_true rfl
theorem stcW (h : Hdr) (d : BitVec 6) (a : BitVec 6) : Statement (.stcW h d a) := Nat.le_of_ble_eq_true rfl
theorem ldx (h : Hdr) (d : BitVec 6) (ta : BitVec 4) (o : BitVec 6) (ht : BitVec 2) (t : BitVec 4) (mode : BitVec 4) (disp : BitVec 8) : Statement (.ldx h d ta o ht t mode disp) := Nat.le_of_ble_eq_true rfl
theorem stx (h : Hdr) (d : BitVec 6) (ta : BitVec 4) (o : BitVec 6) (ht : BitVec 2) (t : BitVec 4) (mode : BitVec 4) (disp : BitVec 8) : Statement (.stx h d ta o ht t mode disp) := Nat.le_of_ble_eq_true rfl
theorem prefL1 (h : Hdr) (ta : BitVec 4) (o : BitVec 6) (ht : BitVec 2) : Statement (.prefL1 h ta o ht) := Nat.le_of_ble_eq_true rfl
theorem prefL2 (h : Hdr) (ta : BitVec 4) (o : BitVec 6) (ht : BitVec 2) : Statement (.prefL2 h ta o ht) := Nat.le_of_ble_eq_true rfl
theorem atom (h : Hdr) (d : BitVec 6) (ta : BitVec 4) (o : BitVec 6) (c : BitVec 6) (t : BitVec 4) (sc : BitVec 2) (op : BitVec 4) (ord : BitVec 2) : Statement (.atom h d ta o c t sc op ord) := Nat.le_of_ble_eq_true rfl
theorem red (h : Hdr) (d : BitVec 6) (ta : BitVec 4) (o : BitVec 6) (t : BitVec 4) (sc : BitVec 2) (op : BitVec 4) (ord : BitVec 2) : Statement (.red h d ta o t sc op ord) := Nat.le_of_ble_eq_true rfl
theorem cas (h : Hdr) (d : BitVec 6) (ta : BitVec 4) (o : BitVec 6) (c : BitVec 6) (t : BitVec 4) (sc : BitVec 2) (ord : BitVec 2) : Statement (.cas h d ta o c t sc ord) := Nat.le_of_ble_eq_true rfl
theorem atoms (h : Hdr) (d : BitVec 6) (a : BitVec 6) (b : BitVec 6) (c : BitVec 6) (t : BitVec 4) (sc : BitVec 2) (op : BitVec 4) (ord : BitVec 2) : Statement (.atoms h d a b c t sc op ord) := Nat.le_of_ble_eq_true rfl
theorem reds (h : Hdr) (a : BitVec 6) (b : BitVec 6) (t : BitVec 4) (sc : BitVec 2) (op : BitVec 4) (ord : BitVec 2) : Statement (.reds h a b t sc op ord) := Nat.le_of_ble_eq_true rfl
theorem binr (h : Hdr) (d : BitVec 6) (a : BitVec 6) (b : BitVec 6) : Statement (.binr h d a b) := Nat.le_of_ble_eq_true rfl
theorem cell (h : Hdr) (d : BitVec 6) (a : BitVec 6) (b : BitVec 6) (c : BitVec 6) (dim : BitVec 4) (n : BitVec 6) : Statement (.cell h d a b c dim n) := Nat.le_of_ble_eq_true rfl
theorem atomc (h : Hdr) (d : BitVec 6) (a : BitVec 6) (b : BitVec 6) (c : BitVec 6) (t : BitVec 4) (sc : BitVec 2) (op : BitVec 4) (ord : BitVec 2) : Statement (.atomc h d a b c t sc op ord) := Nat.le_of_ble_eq_true rfl
theorem brl (h : Hdr) (k : BitVec 32) : Statement (.brl h k) := Nat.le_of_ble_eq_true rfl
theorem join (h : Hdr) : Statement (.join h) := Nat.le_of_ble_eq_true rfl
theorem lxPick (h : Hdr) (d : BitVec 6) (a : BitVec 6) (b : BitVec 6) : Statement (.lxPick h d a b) := Nat.le_of_ble_eq_true rfl
theorem lxFlip (h : Hdr) (d : BitVec 6) (a : BitVec 6) (n : BitVec 5) : Statement (.lxFlip h d a n) := Nat.le_of_ble_eq_true rfl
theorem lxRot (h : Hdr) (d : BitVec 6) (a : BitVec 6) (n : BitVec 5) : Statement (.lxRot h d a n) := Nat.le_of_ble_eq_true rfl
theorem lxShift (h : Hdr) (d : BitVec 6) (a : BitVec 6) (n : BitVec 6) : Statement (.lxShift h d a n) := Nat.le_of_ble_eq_true rfl
theorem pviewMask (h : Hdr) (d : BitVec 6) (neg : BitVec 1) (p : BitVec 3) : Statement (.pviewMask h d neg p) := Nat.le_of_ble_eq_true rfl
theorem pviewAny (h : Hdr) (pd : BitVec 3) (neg : BitVec 1) (p : BitVec 3) : Statement (.pviewAny h pd neg p) := Nat.le_of_ble_eq_true rfl
theorem pviewAll (h : Hdr) (pd : BitVec 3) (neg : BitVec 1) (p : BitVec 3) : Statement (.pviewAll h pd neg p) := Nat.le_of_ble_eq_true rfl
theorem pviewCount (h : Hdr) (d : BitVec 6) (neg : BitVec 1) (p : BitVec 3) : Statement (.pviewCount h d neg p) := Nat.le_of_ble_eq_true rfl
theorem lcomb (h : Hdr) (d : BitVec 6) (a : BitVec 6) (t : BitVec 4) (op : BitVec 4) : Statement (.lcomb h d a t op) := Nat.le_of_ble_eq_true rfl
theorem exitL (h : Hdr) : Statement (.exitL h) := Nat.le_of_ble_eq_true rfl
theorem nop (h : Hdr) : Statement (.nop h) := Nat.le_of_ble_eq_true rfl
theorem pset (h : Hdr) (op : BitVec 3) (pd : BitVec 3) (pa : BitVec 3) (pb : BitVec 3) : Statement (.pset h op pd pa pb) := Nat.le_of_ble_eq_true rfl
theorem pmovFromP (h : Hdr) (d : BitVec 6) : Statement (.pmovFromP h d) := Nat.le_of_ble_eq_true rfl
theorem pmovToP (h : Hdr) (a : BitVec 6) : Statement (.pmovToP h a) := Nat.le_of_ble_eq_true rfl
theorem sadd (h : Hdr) (d : BitVec 6) (a : BitVec 6) (b : BitVec 6) : Statement (.sadd h d a b) := Nat.le_of_ble_eq_true rfl
theorem ssub (h : Hdr) (d : BitVec 6) (a : BitVec 6) (b : BitVec 6) : Statement (.ssub h d a b) := Nat.le_of_ble_eq_true rfl
theorem smul (h : Hdr) (d : BitVec 6) (a : BitVec 6) (b : BitVec 6) : Statement (.smul h d a b) := Nat.le_of_ble_eq_true rfl
theorem smulh (h : Hdr) (d : BitVec 6) (a : BitVec 6) (b : BitVec 6) : Statement (.smulh h d a b) := Nat.le_of_ble_eq_true rfl
theorem sand (h : Hdr) (d : BitVec 6) (a : BitVec 6) (b : BitVec 6) : Statement (.sand h d a b) := Nat.le_of_ble_eq_true rfl
theorem sor (h : Hdr) (d : BitVec 6) (a : BitVec 6) (b : BitVec 6) : Statement (.sor h d a b) := Nat.le_of_ble_eq_true rfl
theorem sxor (h : Hdr) (d : BitVec 6) (a : BitVec 6) (b : BitVec 6) : Statement (.sxor h d a b) := Nat.le_of_ble_eq_true rfl
theorem sshl (h : Hdr) (d : BitVec 6) (a : BitVec 6) (b : BitVec 6) : Statement (.sshl h d a b) := Nat.le_of_ble_eq_true rfl
theorem sshr (h : Hdr) (d : BitVec 6) (a : BitVec 6) (b : BitVec 6) : Statement (.sshr h d a b) := Nat.le_of_ble_eq_true rfl
theorem ssar (h : Hdr) (d : BitVec 6) (a : BitVec 6) (b : BitVec 6) : Statement (.ssar h d a b) := Nat.le_of_ble_eq_true rfl
theorem smin (h : Hdr) (d : BitVec 6) (a : BitVec 6) (b : BitVec 6) : Statement (.smin h d a b) := Nat.le_of_ble_eq_true rfl
theorem smax (h : Hdr) (d : BitVec 6) (a : BitVec 6) (b : BitVec 6) : Statement (.smax h d a b) := Nat.le_of_ble_eq_true rfl
theorem ssetq (h : Hdr) (cc : BitVec 3) (q : BitVec 3) (a : BitVec 6) (b : BitVec 6) : Statement (.ssetq h cc q a b) := Nat.le_of_ble_eq_true rfl
theorem smov (h : Hdr) (d : BitVec 6) (a : BitVec 6) : Statement (.smov h d a) := Nat.le_of_ble_eq_true rfl
theorem smovi (h : Hdr) (d : BitVec 6) (k : BitVec 32) : Statement (.smovi h d k) := Nat.le_of_ble_eq_true rfl
theorem smovh (h : Hdr) (d : BitVec 6) (k : BitVec 32) : Statement (.smovh h d k) := Nat.le_of_ble_eq_true rfl
theorem saddi (h : Hdr) (d : BitVec 6) (a : BitVec 6) (k : BitVec 32) : Statement (.saddi h d a k) := Nat.le_of_ble_eq_true rfl
theorem ssel (h : Hdr) (d : BitVec 6) (a : BitVec 6) (b : BitVec 6) : Statement (.ssel h d a b) := Nat.le_of_ble_eq_true rfl
theorem bcast (h : Hdr) (d : BitVec 6) (a : BitVec 6) : Statement (.bcast h d a) := Nat.le_of_ble_eq_true rfl
theorem lread (h : Hdr) (d : BitVec 6) (a : BitVec 6) (b : BitVec 6) : Statement (.lread h d a b) := Nat.le_of_ble_eq_true rfl
theorem srd (h : Hdr) (d : BitVec 6) (idx : BitVec 6) : Statement (.srd h d idx) := Nat.le_of_ble_eq_true rfl
theorem swr (h : Hdr) (a : BitVec 6) (idx : BitVec 6) : Statement (.swr h a idx) := Nat.le_of_ble_eq_true rfl
theorem sld (h : Hdr) (d : BitVec 6) (a : BitVec 6) (k : BitVec 32) : Statement (.sld h d a k) := Nat.le_of_ble_eq_true rfl
theorem sst (h : Hdr) (a : BitVec 6) (b : BitVec 6) (k : BitVec 32) : Statement (.sst h a b k) := Nat.le_of_ble_eq_true rfl
theorem taSet (h : Hdr) (ta : BitVec 4) (a : BitVec 6) (b : BitVec 6) : Statement (.taSet h ta a b) := Nat.le_of_ble_eq_true rfl
theorem taInv (h : Hdr) (ta : BitVec 4) : Statement (.taInv h ta) := Nat.le_of_ble_eq_true rfl
theorem taQry (h : Hdr) (d : BitVec 6) (ta : BitVec 4) : Statement (.taQry h d ta) := Nat.le_of_ble_eq_true rfl
theorem xbSetImm (h : Hdr) (imm : BitVec 12) : Statement (.xbSetImm h imm) := Nat.le_of_ble_eq_true rfl
theorem xbSetReg (h : Hdr) (a : BitVec 6) : Statement (.xbSetReg h a) := Nat.le_of_ble_eq_true rfl
theorem xbAddImm (h : Hdr) (imm : BitVec 12) : Statement (.xbAddImm h imm) := Nat.le_of_ble_eq_true rfl
theorem xbAddReg (h : Hdr) (a : BitVec 6) : Statement (.xbAddReg h a) := Nat.le_of_ble_eq_true rfl
theorem bra (h : Hdr) (off : BitVec 18) : Statement (.bra h off) := Nat.le_of_ble_eq_true rfl
theorem call (h : Hdr) (off : BitVec 18) : Statement (.call h off) := Nat.le_of_ble_eq_true rfl
theorem ret (h : Hdr) (a : BitVec 6) : Statement (.ret h a) := Nat.le_of_ble_eq_true rfl
theorem jmp (h : Hdr) (a : BitVec 6) : Statement (.jmp h a) := Nat.le_of_ble_eq_true rfl
theorem loop (h : Hdr) (a : BitVec 6) (k : BitVec 32) : Statement (.loop h a k) := Nat.le_of_ble_eq_true rfl
theorem exit (h : Hdr) : Statement (.exit h) := Nat.le_of_ble_eq_true rfl
theorem trap (h : Hdr) (code : BitVec 12) : Statement (.trap h code) := Nat.le_of_ble_eq_true rfl
theorem syncs (h : Hdr) : Statement (.syncs h) := Nat.le_of_ble_eq_true rfl
theorem yieldR (h : Hdr) : Statement (.yieldR h) := Nat.le_of_ble_eq_true rfl
theorem brk (h : Hdr) (code : BitVec 12) : Statement (.brk h code) := Nat.le_of_ble_eq_true rfl
theorem launch (h : Hdr) (d : BitVec 6) (a : BitVec 6) : Statement (.launch h d a) := Nat.le_of_ble_eq_true rfl
theorem launchTry (h : Hdr) (d : BitVec 6) (a : BitVec 6) : Statement (.launchTry h d a) := Nat.le_of_ble_eq_true rfl
theorem qpost (h : Hdr) (d : BitVec 6) (a : BitVec 6) (b : BitVec 6) : Statement (.qpost h d a b) := Nat.le_of_ble_eq_true rfl
theorem qprio (h : Hdr) (d : BitVec 6) (a : BitVec 6) (b : BitVec 6) : Statement (.qprio h d a b) := Nat.le_of_ble_eq_true rfl
theorem ctrAdd (h : Hdr) (a : BitVec 6) (b : BitVec 6) (mode : BitVec 4) (sc : BitVec 2) (kind : BitVec 4) (imm : BitVec 16) : Statement (.ctrAdd h a b mode sc kind imm) := Nat.le_of_ble_eq_true rfl
theorem ctrWait (h : Hdr) (d : BitVec 6) (a : BitVec 6) (b : BitVec 6) (mode : BitVec 4) (sc : BitVec 2) (kind : BitVec 4) (imm : BitVec 16) : Statement (.ctrWait h d a b mode sc kind imm) := Nat.le_of_ble_eq_true rfl
theorem ctrWaitt (h : Hdr) (d : BitVec 6) (a : BitVec 6) (b : BitVec 6) (c : BitVec 6) (mode : BitVec 4) (sc : BitVec 2) (q : BitVec 3) : Statement (.ctrWaitt h d a b c mode sc q) := Nat.le_of_ble_eq_true rfl
theorem ctrRd (h : Hdr) (d : BitVec 6) (a : BitVec 6) : Statement (.ctrRd h d a) := Nat.le_of_ble_eq_true rfl
theorem ctrRdSt (h : Hdr) (d : BitVec 6) (a : BitVec 6) : Statement (.ctrRdSt h d a) := Nat.le_of_ble_eq_true rfl
theorem barArv (h : Hdr) (d : BitVec 6) (a : BitVec 6) (b : BitVec 6) (mode : BitVec 4) (sc : BitVec 2) (kind : BitVec 4) (imm : BitVec 16) : Statement (.barArv h d a b mode sc kind imm) := Nat.le_of_ble_eq_true rfl
theorem barWait (h : Hdr) (d : BitVec 6) (a : BitVec 6) (b : BitVec 6) (mode : BitVec 4) (sc : BitVec 2) : Statement (.barWait h d a b mode sc) := Nat.le_of_ble_eq_true rfl
theorem fence (h : Hdr) (sc : BitVec 2) (kind : BitVec 4) : Statement (.fence h sc kind) := Nat.le_of_ble_eq_true rfl
theorem acqRem (h : Hdr) (d : BitVec 6) (a : BitVec 6) : Statement (.acqRem h d a) := Nat.le_of_ble_eq_true rfl
theorem batchClose (h : Hdr) (d : BitVec 6) : Statement (.batchClose h d) := Nat.le_of_ble_eq_true rfl
theorem batchWait (h : Hdr) (a : BitVec 6) (kind : BitVec 4) (imm : BitVec 16) : Statement (.batchWait h a kind imm) := Nat.le_of_ble_eq_true rfl
theorem quiet (h : Hdr) (sc : BitVec 2) (t : BitVec 1) : Statement (.quiet h sc t) := Nat.le_of_ble_eq_true rfl
theorem phase (h : Hdr) (t : BitVec 1) : Statement (.phase h t) := Nat.le_of_ble_eq_true rfl
theorem cpIn (h : Hdr) (d : BitVec 6) (a : BitVec 6) (b : BitVec 6) (comp : BitVec 2) (sp : BitVec 2) (sc : BitVec 2) (imm : BitVec 16) : Statement (.cpIn h d a b comp sp sc imm) := Nat.le_of_ble_eq_true rfl
theorem cpOut (h : Hdr) (d : BitVec 6) (a : BitVec 6) (b : BitVec 6) (comp : BitVec 2) (sp : BitVec 2) (sc : BitVec 2) (imm : BitVec 16) : Statement (.cpOut h d a b comp sp sc imm) := Nat.le_of_ble_eq_true rfl
theorem cpGath (h : Hdr) (d : BitVec 6) (a : BitVec 6) (b : BitVec 6) (c : BitVec 6) (comp : BitVec 2) (sp : BitVec 2) (sc : BitVec 2) (imm : BitVec 16) : Statement (.cpGath h d a b c comp sp sc imm) := Nat.le_of_ble_eq_true rfl
theorem cpBulk (h : Hdr) (d : BitVec 6) (a : BitVec 6) (b : BitVec 6) (comp : BitVec 2) (sp : BitVec 2) (sc : BitVec 2) (imm : BitVec 16) : Statement (.cpBulk h d a b comp sp sc imm) := Nat.le_of_ble_eq_true rfl
theorem cpBulkFill (h : Hdr) (d : BitVec 6) (a : BitVec 6) (b : BitVec 6) (comp : BitVec 2) (sp : BitVec 2) (sc : BitVec 2) (imm : BitVec 16) : Statement (.cpBulkFill h d a b comp sp sc imm) := Nat.le_of_ble_eq_true rfl
theorem collAllred (h : Hdr) (d : BitVec 6) (a : BitVec 6) (b : BitVec 6) (comp : BitVec 2) (sp : BitVec 2) (sc : BitVec 2) (imm : BitVec 16) : Statement (.collAllred h d a b comp sp sc imm) := Nat.le_of_ble_eq_true rfl
theorem collRedscat (h : Hdr) (d : BitVec 6) (a : BitVec 6) (b : BitVec 6) (comp : BitVec 2) (sp : BitVec 2) (sc : BitVec 2) (imm : BitVec 16) : Statement (.collRedscat h d a b comp sp sc imm) := Nat.le_of_ble_eq_true rfl
theorem collAllgath (h : Hdr) (d : BitVec 6) (a : BitVec 6) (b : BitVec 6) (comp : BitVec 2) (sp : BitVec 2) (sc : BitVec 2) (imm : BitVec 16) : Statement (.collAllgath h d a b comp sp sc imm) := Nat.le_of_ble_eq_true rfl
theorem collBcast (h : Hdr) (d : BitVec 6) (a : BitVec 6) (b : BitVec 6) (comp : BitVec 2) (sp : BitVec 2) (sc : BitVec 2) (imm : BitVec 16) : Statement (.collBcast h d a b comp sp sc imm) := Nat.le_of_ble_eq_true rfl
theorem cpStat (h : Hdr) (d : BitVec 6) (which : BitVec 2) : Statement (.cpStat h d which) := Nat.le_of_ble_eq_true rfl
theorem lkDef (h : Hdr) (d : BitVec 6) (a : BitVec 6) (b : BitVec 6) : Statement (.lkDef h d a b) := Nat.le_of_ble_eq_true rfl
theorem lkBegin (h : Hdr) (d : BitVec 6) : Statement (.lkBegin h d) := Nat.le_of_ble_eq_true rfl
theorem lkAcq (h : Hdr) (a : BitVec 6) (mode : BitVec 3) (sc : BitVec 2) : Statement (.lkAcq h a mode sc) := Nat.le_of_ble_eq_true rfl
theorem lkTry (h : Hdr) (d : BitVec 6) (a : BitVec 6) (mode : BitVec 3) (sc : BitVec 2) : Statement (.lkTry h d a mode sc) := Nat.le_of_ble_eq_true rfl
theorem lkUpg (h : Hdr) (a : BitVec 6) (mode : BitVec 3) (sc : BitVec 2) : Statement (.lkUpg h a mode sc) := Nat.le_of_ble_eq_true rfl
theorem lkRel (h : Hdr) (a : BitVec 6) : Statement (.lkRel h a) := Nat.le_of_ble_eq_true rfl
theorem lkEnd (h : Hdr) : Statement (.lkEnd h) := Nat.le_of_ble_eq_true rfl
theorem lkQry (h : Hdr) (d : BitVec 6) (a : BitVec 6) : Statement (.lkQry h d a) := Nat.le_of_ble_eq_true rfl
theorem gearN (h : Hdr) : Statement (.gearN h) := Nat.le_of_ble_eq_true rfl
theorem gearF (h : Hdr) : Statement (.gearF h) := Nat.le_of_ble_eq_true rfl
theorem gearW (h : Hdr) : Statement (.gearW h) := Nat.le_of_ble_eq_true rfl
theorem hintCompute (h : Hdr) : Statement (.hintCompute h) := Nat.le_of_ble_eq_true rfl
theorem hintMemory (h : Hdr) : Statement (.hintMemory h) := Nat.le_of_ble_eq_true rfl
theorem hintWait (h : Hdr) : Statement (.hintWait h) := Nat.le_of_ble_eq_true rfl
theorem hintEndphase (h : Hdr) : Statement (.hintEndphase h) := Nat.le_of_ble_eq_true rfl
theorem clk (h : Hdr) (d : BitVec 6) : Statement (.clk h d) := Nat.le_of_ble_eq_true rfl
theorem seg (h : Hdr) : Statement (.seg h) := Nat.le_of_ble_eq_true rfl
theorem segSync (h : Hdr) : Statement (.segSync h) := Nat.le_of_ble_eq_true rfl
theorem rte (h : Hdr) : Statement (.rte h) := Nat.le_of_ble_eq_true rfl
theorem ologRetry (h : Hdr) (a : BitVec 6) : Statement (.ologRetry h a) := Nat.le_of_ble_eq_true rfl
theorem ologDrop (h : Hdr) (a : BitVec 6) : Statement (.ologDrop h a) := Nat.le_of_ble_eq_true rfl
theorem ologStat (h : Hdr) (d : BitVec 6) : Statement (.ologStat h d) := Nat.le_of_ble_eq_true rfl
theorem ctxFlV (h : Hdr) : Statement (.ctxFlV h) := Nat.le_of_ble_eq_true rfl
theorem ctxFlA (h : Hdr) : Statement (.ctxFlA h) := Nat.le_of_ble_eq_true rfl
theorem ctxFlAll (h : Hdr) : Statement (.ctxFlAll h) := Nat.le_of_ble_eq_true rfl
theorem ctxLdV (h : Hdr) (a : BitVec 6) (b : BitVec 6) : Statement (.ctxLdV h a b) := Nat.le_of_ble_eq_true rfl
theorem ctxLdA (h : Hdr) (a : BitVec 6) : Statement (.ctxLdA h a) := Nat.le_of_ble_eq_true rfl
theorem stashMap (h : Hdr) (d : BitVec 6) (a : BitVec 6) (b : BitVec 6) : Statement (.stashMap h d a b) := Nat.le_of_ble_eq_true rfl
theorem stashWb (h : Hdr) (a : BitVec 6) (b : BitVec 6) : Statement (.stashWb h a b) := Nat.le_of_ble_eq_true rfl
theorem cinvL1 (h : Hdr) (a : BitVec 6) (b : BitVec 6) : Statement (.cinvL1 h a b) := Nat.le_of_ble_eq_true rfl
theorem cinvWb (h : Hdr) (a : BitVec 6) (b : BitVec 6) : Statement (.cinvWb h a b) := Nat.le_of_ble_eq_true rfl
theorem cinvWbi (h : Hdr) (a : BitVec 6) (b : BitVec 6) : Statement (.cinvWbi h a b) := Nat.le_of_ble_eq_true rfl
theorem tlbiRange (h : Hdr) (a : BitVec 6) (b : BitVec 6) : Statement (.tlbiRange h a b) := Nat.le_of_ble_eq_true rfl
theorem tlbiCtx (h : Hdr) (b : BitVec 6) : Statement (.tlbiCtx h b) := Nat.le_of_ble_eq_true rfl
theorem tlbiGlobal (h : Hdr) : Statement (.tlbiGlobal h) := Nat.le_of_ble_eq_true rfl
theorem tlbiAll (h : Hdr) : Statement (.tlbiAll h) := Nat.le_of_ble_eq_true rfl
theorem lkmat (h : Hdr) (d : BitVec 6) (a : BitVec 6) (b : BitVec 6) : Statement (.lkmat h d a b) := Nat.le_of_ble_eq_true rfl
theorem finj (h : Hdr) (d : BitVec 6) (a : BitVec 6) (b : BitVec 6) : Statement (.finj h d a b) := Nat.le_of_ble_eq_true rfl
theorem preempt (h : Hdr) (d : BitVec 6) (a : BitVec 6) (b : BitVec 6) : Statement (.preempt h d a b) := Nat.le_of_ble_eq_true rfl
theorem finjApply (gid : Nat) : Statement (.finjApply gid) := Nat.le_of_ble_eq_true rfl
theorem splitSelect (tile : Nat) (quad : Nat) : Statement (.splitSelect tile quad) := Nat.le_of_ble_eq_true rfl
theorem trapEntry (gid : Nat) : Statement (.trapEntry gid) := Nat.le_of_ble_eq_true rfl
theorem resultReturn (gid : Nat) (seq : Nat) (lanes : BitVec 32) : Statement (.resultReturn gid seq lanes) := Nat.le_of_ble_eq_true rfl
theorem memoryReply (gid : Nat) (e : Nat) (lanes : BitVec 32) : Statement (.memoryReply gid e lanes) := Nat.le_of_ble_eq_true rfl
theorem homeRequest (gid : Nat) (e : Nat) (lanes : BitVec 32) : Statement (.homeRequest gid e lanes) := Nat.le_of_ble_eq_true rfl
theorem invalidationReceive (tile : Nat) (sector : Nat) : Statement (.invalidationReceive tile sector) := Nat.le_of_ble_eq_true rfl
theorem invalidationAck (gid : Nat) : Statement (.invalidationAck gid) := Nat.le_of_ble_eq_true rfl
theorem pageWalkDone (gid : Nat) (e : Nat) (lanes : BitVec 32) : Statement (.pageWalkDone gid e lanes) := Nat.le_of_ble_eq_true rfl
theorem apertureTranslateDone (gid : Nat) (ta : BitVec 4) : Statement (.apertureTranslateDone gid ta) := Nat.le_of_ble_eq_true rfl
theorem unitMoveComplete (unit : Nat) : Statement (.unitMoveComplete unit) := Nat.le_of_ble_eq_true rfl
theorem settleHoldEnd (unit : Nat) : Statement (.settleHoldEnd unit) := Nat.le_of_ble_eq_true rfl
theorem accumulatorStart (tile : Nat) : Statement (.accumulatorStart tile) := Nat.le_of_ble_eq_true rfl
theorem accumulatorComplete (x : EngineEnd) : Statement (.accumulatorComplete x) := Nat.le_of_ble_eq_true rfl
theorem registerLineFill (gid : Nat) (line : Nat) : Statement (.registerLineFill gid line) := Nat.le_of_ble_eq_true rfl
theorem engineCommandStart (cmd : Nat) : Statement (.engineCommandStart cmd) := Nat.le_of_ble_eq_true rfl
theorem engineTransferStep (cmd : Nat) : Statement (.engineTransferStep cmd) := Nat.le_of_ble_eq_true rfl
theorem engineCommandComplete (cmd : Nat) : Statement (.engineCommandComplete cmd) := Nat.le_of_ble_eq_true rfl
theorem collPeerMessage (member : CollMember) (call : CollCall) (code : BitVec 7) (data : List (BitVec 8)) :
    Statement (.collPeerMessage member call code data) := Nat.le_of_ble_eq_true rfl
theorem waitSatisfied (gid : Nat) (slot : Nat) : Statement (.waitSatisfied gid slot) := Nat.le_of_ble_eq_true rfl
theorem ctrWaittDeadline (gid : Nat) (slot : Nat) : Statement (.ctrWaittDeadline gid slot) := Nat.le_of_ble_eq_true rfl
theorem quietDrained (gid : Nat) (slot : Nat) : Statement (.quietDrained gid slot) := Nat.le_of_ble_eq_true rfl
theorem lockRequestArrive (gid : Nat) : Statement (.lockRequestArrive gid) := Nat.le_of_ble_eq_true rfl
theorem lockReleaseArrive (gid : Nat) : Statement (.lockReleaseArrive gid) := Nat.le_of_ble_eq_true rfl
theorem lockGrantArrive (gid : Nat) : Statement (.lockGrantArrive gid) := Nat.le_of_ble_eq_true rfl
theorem woundArrive (gid : Nat) : Statement (.woundArrive gid) := Nat.le_of_ble_eq_true rfl
theorem queueDoorbell (n : Nat) (tail : BitVec 32) : Statement (.queueDoorbell n tail) := Nat.le_of_ble_eq_true rfl
theorem qctlWrite (n : Nat) (v : BitVec 64) : Statement (.qctlWrite n v) := Nat.le_of_ble_eq_true rfl
theorem queueEntryRead (n : Nat) : Statement (.queueEntryRead n) := Nat.le_of_ble_eq_true rfl
theorem gridAccept : Statement (.gridAccept) := Nat.le_of_ble_eq_true rfl
theorem teamDistribute (serial : BitVec 32) (tile : Nat) (trailerTile : Nat) : Statement (.teamDistribute serial tile trailerTile) := Nat.le_of_ble_eq_true rfl
theorem teamRetire (tid : Nat) : Statement (.teamRetire tid) := Nat.le_of_ble_eq_true rfl
theorem gridRetire (serial : BitVec 32) : Statement (.gridRetire serial) := Nat.le_of_ble_eq_true rfl
theorem groupResume (tid : Nat) (tile : Nat) : Statement (.groupResume tid tile) := Nat.le_of_ble_eq_true rfl
theorem partitionSwapDone (die : Nat) : Statement (.partitionSwapDone die) := Nat.le_of_ble_eq_true rfl
theorem trailerSegmentStart (tid : Nat) : Statement (.trailerSegmentStart tid) := Nat.le_of_ble_eq_true rfl
theorem segmentCompare (tid : Nat) : Statement (.segmentCompare tid) := Nat.le_of_ble_eq_true rfl
theorem thirdRunPlace (tid : Nat) (tile : Nat) : Statement (.thirdRunPlace tid tile) := Nat.le_of_ble_eq_true rfl
theorem vote (tid : Nat) : Statement (.vote tid) := Nat.le_of_ble_eq_true rfl
theorem prismHoldLimit (ctx : Nat) : Statement (.prismHoldLimit ctx) := Nat.le_of_ble_eq_true rfl
theorem dieFatalError (die : Nat) : Statement (.dieFatalError die) := Nat.le_of_ble_eq_true rfl
theorem correctedMemoryError (kind : Nat) (place : ErrorPlace) : Statement (.correctedMemoryError kind place) := Nat.le_of_ble_eq_true rfl
theorem bucketLeak (kind : Nat) (unit : Nat) : Statement (.bucketLeak kind unit) := Nat.le_of_ble_eq_true rfl
theorem gearTransitionStart (tile : Nat) : Statement (.gearTransitionStart tile) := Nat.le_of_ble_eq_true rfl
theorem gearTransitionEnd (tile : Nat) : Statement (.gearTransitionEnd tile) := Nat.le_of_ble_eq_true rfl
theorem pairBalanceMeasure (pair : Nat) (upper : Nat) (lower : Nat) (predUpper : Nat) (predLower : Nat) : Statement (.pairBalanceMeasure pair upper lower predUpper predLower) := Nat.le_of_ble_eq_true rfl
theorem balanceWaitExpiry (tile : Nat) : Statement (.balanceWaitExpiry tile) := Nat.le_of_ble_eq_true rfl
theorem droopStretch (cluster : Nat) : Statement (.droopStretch cluster) := Nat.le_of_ble_eq_true rfl
theorem governorAdjust (cluster : Nat) (fmhz : BitVec 12) (nmhz : BitVec 12) (power : Nat) : Statement (.governorAdjust cluster fmhz nmhz power) := Nat.le_of_ble_eq_true rfl
theorem capLeaseExpiry : Statement (.capLeaseExpiry) := Nat.le_of_ble_eq_true rfl
theorem hostCxlMemAccess (pa op n : Nat) (data : List (BitVec 8)) : Statement (.hostCxlMemAccess pa op n data) := Nat.le_of_ble_eq_true rfl
theorem gflFlitReceive (port : Nat) (head : FlitHead) (pa : Nat) (wr retried : Bool) (data : List (BitVec 8)) :
    Statement (.gflFlitReceive port head pa wr retried data) := Nat.le_of_ble_eq_true rfl
theorem gflPortUp (port : Nat) (peer : BitVec 12) : Statement (.gflPortUp port peer) := Nat.le_of_ble_eq_true rfl
theorem gflPortDown (port : Nat) : Statement (.gflPortDown port) := Nat.le_of_ble_eq_true rfl
theorem routeEntryWrite (chip : BitVec 12) (v : BitVec 64) : Statement (.routeEntryWrite chip v) := Nat.le_of_ble_eq_true rfl
theorem routeApply (chip : BitVec 12) : Statement (.routeApply chip) := Nat.le_of_ble_eq_true rfl
theorem timeMessage (root : BitVec 64) : Statement (.timeMessage root) := Nat.le_of_ble_eq_true rfl
theorem timeSyncTimeout : Statement (.timeSyncTimeout) := Nat.le_of_ble_eq_true rfl
theorem partcfgWrite (v : BitVec 64) : Statement (.partcfgWrite v) := Nat.le_of_ble_eq_true rfl
theorem biasFlipToHost (die : Nat) (page : Nat) : Statement (.biasFlipToHost die page) := Nat.le_of_ble_eq_true rfl
theorem biasFlipToDevice (die : Nat) (page : Nat) : Statement (.biasFlipToDevice die page) := Nat.le_of_ble_eq_true rfl
theorem biasFlipDone (die : Nat) : Statement (.biasFlipDone die) := Nat.le_of_ble_eq_true rfl
theorem snapshotNow : Statement (.snapshotNow) := Nat.le_of_ble_eq_true rfl
theorem snapshotInterval : Statement (.snapshotInterval) := Nat.le_of_ble_eq_true rfl
theorem snapshotStreamDone (failed : Bool) : Statement (.snapshotStreamDone failed) := Nat.le_of_ble_eq_true rfl
theorem frzctlFreezeWrite (v : BitVec 64) : Statement (.frzctlFreezeWrite v) := Nat.le_of_ble_eq_true rfl
theorem freezePin : Statement (.freezePin) := Nat.le_of_ble_eq_true rfl
theorem registerWrite (off : Nat) (v : BitVec 64) : Statement (.registerWrite off v) := Nat.le_of_ble_eq_true rfl
theorem getZhr : Statement (.getZhr) := Nat.le_of_ble_eq_true rfl
theorem getCert (piece : Nat) : Statement (.getCert piece) := Nat.le_of_ble_eq_true rfl
theorem setCap (seq : BitVec 64) (cap : BitVec 16) (lease : BitVec 16) (rest : BitVec 32) : Statement (.setCap seq cap lease rest) := Nat.le_of_ble_eq_true rfl
theorem freeze : Statement (.freeze) := Nat.le_of_ble_eq_true rfl
theorem clrFence (index : Nat) : Statement (.clrFence index) := Nat.le_of_ble_eq_true rfl
theorem regRd (off : Nat) : Statement (.regRd off) := Nat.le_of_ble_eq_true rfl
theorem regWr (off : Nat) (v : BitVec 64) : Statement (.regWr off v) := Nat.le_of_ble_eq_true rfl
theorem reset : Statement (.reset) := Nat.le_of_ble_eq_true rfl
theorem scanRd (chain : Nat) (off : Nat) : Statement (.scanRd chain off) := Nat.le_of_ble_eq_true rfl
theorem functionReady (bit : Nat) : Statement (.functionReady bit) := Nat.le_of_ble_eq_true rfl
theorem cxlLinkUp : Statement (.cxlLinkUp) := Nat.le_of_ble_eq_true rfl
theorem cxlHostSnoop (line : Nat) : Statement (.cxlHostSnoop line) := Nat.le_of_ble_eq_true rfl
theorem droopRecovery (cluster : Nat) : Statement (.droopRecovery cluster) := Nat.le_of_ble_eq_true rfl
theorem snapshotStopEnd (die : Nat) : Statement (.snapshotStopEnd die) := Nat.le_of_ble_eq_true rfl
theorem timeSyncReached : Statement (.timeSyncReached) := Nat.le_of_ble_eq_true rfl

end Sys2Proof.Laws.Codec
end

