-- ==== Sys2Proof/Laws/Words.lean ====
section
/-! SUPPORT. Word 0 and its fields as numbers, so that a proof about decoding and encoding is linear arithmetic: rewrite with these two and
close by omega. -/

namespace Sys2Proof

/-- Word 0 as a number (02 R23). -/
theorem word0_eq (set op : Nat) (h : Hdr) (f : Nat) :
    (word0 set op h f).toNat =
      (set * 2147483648 + h.e.toNat * 1073741824 + h.w.toNat * 536870912 + op * 4194304 + f + h.g.toNat) % 4294967296 := by
  unfold word0
  rw [BitVec.toNat_ofNat]

/-- A field of a word as a number. -/
theorem ext_eq (x : BitVec 32) (lo n : Nat) : (x.extractLsb' lo n).toNat = x.toNat / 2 ^ lo % 2 ^ n := by
  rw [BitVec.extractLsb'_toNat, Nat.shiftRight_eq_div_pow]

end Sys2Proof
end

