-- ==== Sys2Proof/Tests/Slice0.lean ====
section
/-! SUPPORT. Tests: words of the spec decode to their instructions, each well-formedness check refuses a term, a few steps with results
worked out by hand from the spec, and for each statement with hypotheses a state and operands that meet them. -/

namespace Sys2Proof.Tests
open Sys2Proof.Machine

/-- The words decode to the instruction. -/
def reads (w k : BitVec 32) (i : Instr) : Bool :=
  match decode w k with
  | .ok j => decide (j = i)
  | .error _ => false

/-- The words are refused for the reason. -/
def refuses (w k : BitVec 32) (r : Reject) : Bool :=
  match decode w k with
  | .ok _ => false
  | .error e => decide (e = r)

/-! ## Decoding: words written out bit by bit from the spec's encodings -/

/-- 04 R98, 02 R33, R35: `(!p2) IADDI v8, v9, #-3 :wait`, opcode 0x1D, W 1, g 0b1010. -/
theorem test_decode_iaddi : reads 0x2748240A 0xFFFFFFFD (.iaddi ⟨false, true, 0xA⟩ 8 9 0xFFFFFFFD) := by decide

/-- 04 R102's worked example: `ICMP.LTU p2, v4, v5`. -/
theorem test_decode_icmp : reads 0x06621057 0 (.icmp ⟨false, false, 7⟩ 4 2 4 5) := by decide

/-- 05 R131: `FFMA.RZ v8, v9, v10, v11`. -/
theorem test_decode_ffma : reads 0x08C824A7 0x2C100100 (.ffma ⟨false, false, 7⟩ 8 9 10 11 1 0 0 1) := by decide

/-- 06 R157: `MMA.DXB8.Z.RNE acc0, v0, v16, s8`. -/
theorem test_decode_mma : reads 0x10000107 0x20200100 (.mma ⟨false, false, 7⟩ 0 0 16 8 0 1 0 1) := by decide

/-- 07 R177: `LD.W v12, [ta3 + v5]`. -/
theorem test_decode_ldw : reads 0x128C3147 0 (.ldW ⟨false, false, 7⟩ 12 3 5 0) := by decide

/-- 07 R178: `LDX.I16 v4, [ta2 + v6], #3`. -/
theorem test_decode_ldx : reads 0x16842187 0x00C00300 (.ldx ⟨false, false, 7⟩ 4 2 6 0 3 0 3) := by decide

/-- 08 R215: `ATOM.ADD.N32.DEVICE.REL v4, [ta2 + v6], v7`. -/
theorem test_decode_atom : reads 0x18042187 0x1C200200 (.atom ⟨false, false, 7⟩ 4 2 6 7 0 2 0 2) := by decide

/-- 08 R223: `CELL.2D` of v1, v4, v5 with s16 to s19. -/
theorem test_decode_cell : reads 0x19871050 0x00400A00 (.cell ⟨false, false, 0⟩ 7 4 5 0 1 10) := by decide

/-- 04 R107: `LCOMB.ADD v9, v8`. -/
theorem test_decode_lcomb : reads 0x1BC92007 0 (.lcomb ⟨false, false, 7⟩ 9 8 0 0) := by decide

/-- 04 R104: `PMOV P, v4`. -/
theorem test_decode_pmov : reads 0x1CC01017 0 (.pmovToP ⟨false, false, 7⟩ 4) := by decide

/-- 03 R69: `(!p1) BRL`, four words on. -/
theorem test_decode_brl : reads 0x1A000009 4 (.brl ⟨false, false, 9⟩ 4) := by decide

/-- 03 R67: `(q1) BRA :end`, 32 words back. -/
theorem test_decode_bra : reads 0xC83FFE01 0 (.bra ⟨true, false, 1⟩ 0x3FFE0) := by decide

/-- 04 R112: `SWR TRESUME, s57`. -/
theorem test_decode_swr : reads 0x8540E567 0 (.swr ⟨false, false, 7⟩ 57 0x16) := by decide

/-- 07 R175: `TA.SET ta5, s10, s11` and `TA.QRY s57, ta1`. -/
theorem test_decode_ta : reads 0x860528B7 0 (.taSet ⟨false, false, 7⟩ 5 10 11) ∧
    reads 0x86B90407 0 (.taQry ⟨false, false, 7⟩ 57 1) := by decide

/-- 12 R328, R323: `TRAP #0x2A` and `RTE`. -/
theorem test_decode_trap : reads 0x898002A7 0 (.trap ⟨false, false, 7⟩ 0x2A) ∧ reads 0x97000007 0 (.rte ⟨false, false, 7⟩) := by
  decide

/-- 09 R232, R234: `CTR.ADD.DEVICE [s13], #1` and `CTR.WAITT.DEVICE q2, s4, [s6], s7, s8`. -/
theorem test_decode_ctr : reads 0x8E003407 0x00210001 (.ctrAdd ⟨false, false, 7⟩ 13 0 0 2 1 1) ∧
    reads 0x8E841877 0x20220000 (.ctrWaitt ⟨false, false, 7⟩ 4 6 7 8 0 2 2) := by decide

/-- 11 R299: `CP.IN.BAR.SP.TEAM s2, s8, s12`. -/
theorem test_decode_cp : reads 0x920220C7 0x02400000 (.cpIn ⟨false, false, 7⟩ 2 8 12 2 1 0 0) := by decide

/-- 10 R282: `LK.ACQ.X.DEVICE s5`. -/
theorem test_decode_lk : reads 0x94801407 0x01600000 (.lkAcq ⟨false, false, 7⟩ 5 5 2) := by decide

/-- 14 R383, R385; 13 R362: `GEAR.F`, `CLK s8`, `SEG`, `SEG.SYNC`. -/
theorem test_decode_gear : reads 0x96010007 0 (.gearF ⟨false, false, 7⟩) ∧ reads 0x96880007 0 (.clk ⟨false, false, 7⟩ 8) ∧
    reads 0x96C00007 0 (.seg ⟨false, false, 7⟩) ∧ reads 0x96C10007 0 (.segSync ⟨false, false, 7⟩) := by decide

/-- 13 R363, 12 R338: `FINJ s2, s4, s5` and `PREEMPT s2, s4, s5`. -/
theorem test_decode_system : reads 0x99421057 0 (.finj ⟨false, false, 7⟩ 2 4 5) ∧
    reads 0x99821057 0 (.preempt ⟨false, false, 7⟩ 2 4 5) := by decide

/-- 02 R30: an unallotted opcode, an unallotted code, a must-be-zero bit. -/
theorem test_decode_refuses : refuses 0x0FC00007 0 .unallottedOpcode ∧ refuses 0x1BC92007 0x02000000 .unallottedCode ∧
    refuses 0x06C0001F 0 .mustBeZero := by decide

/-! ## Well-formedness: a term that each check refuses (02 R30, R43, R45; 05 R137; 08 R211; 11 R293; 03 R70) -/

/-- Codes of bit fields, floating point and CVT. -/
theorem test_ill_formed_values :
    let h : Hdr := ⟨false, false, 7⟩
    [Instr.bfx h 1 2 0 2 0 8, .bfx h 1 2 0 0 2 8, .bfx h 1 2 0 0 0 33, .bfx h 1 2 32 0 0 8, .bfi h 1 2 0 3 2 8, .bfi h 1 2 0 3 0 33,
      .bfi h 1 2 32 3 0 8, .ffma h 1 2 3 4 1 0 0 0, .fclass h 1 2 1 0, .dfma h 2 4 6 8 1 0 0 0, .hadd2 h 1 2 3 2 0 0, .hmul2 h 1 2 3 0 1 0,
      .hfma2 h 1 2 3 4 2 0 0 0 0, .cvt h 1 2 0 0 12 0 0 0 0, .cvt h 1 2 6 0 7 0 0 0 0, .cvt h 1 2 6 0 0 0 0 1 0, .cvt h 1 2 12 0 0 0 0 0 1,
      .cvt h 1 2 0 0 1 2 0 0 0, .cvt h 1 2 1 0 0 0 2 0 0, .cvt h 1 2 0 1 1 0 0 0 0, .frnd h 1 2 2 0 0 0, .frnd h 1 2 0 0 2 0,
      .frnd h 1 2 0 1 0 0, .nanorg h 1 2 1 1, .dxbPack h 1 2 3 4 0 0, .dxbPack h 1 2 3 2 0 1, .dxbPack h 1 2 3 0 1 0, .dxbUnpk h 1 2 3 2,
      .lxShift h 1 2 32, .lcomb h 1 2 2 0, .lcomb h 1 2 0 8, .pset h 5 1 2 3].all (fun i => !i.wf) = true := by decide

/-- Codes of the matrix unit, memory and atomics. -/
theorem test_ill_formed_memory :
    let h : Hdr := ⟨false, false, 7⟩
    [Instr.mma h 0 0 16 8 6 0 0 0, .mma h 0 0 16 9 0 0 0 0, .mma h 0 0 16 8 2 0 0 0, .mma h 0 0 16 8 0 0 1 0, .accRd h 0 0 4 0 0 0 0,
      .accRd h 0 0 0 0 15 17 0, .accRd h 0 0 1 0 0 0 1, .accRd h 0 0 0 1 0 0 0, .accWr h 0 0 6 0 0 0 0, .accWr h 0 0 0 0 15 17 0,
      .accWr h 0 0 0 0 0 0 1, .accWr h 0 0 1 1 0 0 0, .accWr h 0 0 4 0 1 1 0, .accWr h 0 0 4 0 0 0 0, .accCvt h 0 0 0 6 0 0 0,
      .accCvt h 0 0 1 0 0 0 0, .accCvt h 0 0 1 4 0 1 0, .accCvt h 0 0 0 8 0 0 1, .accCvt h 0 0 0 0 1 0 0, .ldx h 1 0 2 0 7 0 0,
      .ldx h 1 0 2 0 0 3 0, .ldx h 1 1 2 0 0 2 0, .stx h 1 0 2 0 7 0 0, .stx h 1 0 2 0 1 0 0, .stx h 1 0 2 0 3 0 0, .stx h 1 0 2 0 0 3 0,
      .stx h 1 1 2 0 0 2 0, .atom h 1 0 2 3 7 0 0 0, .atom h 1 0 2 3 0 0 8 0, .atom h 1 0 2 3 4 0 3 0, .red h 1 0 2 0 0 6 0,
      .red h 1 0 2 0 0 8 0, .red h 1 0 2 0 0 0 1, .cas h 1 0 2 3 4 0 0, .atoms h 1 2 3 1 0 0 0 0, .reds h 1 2 0 0 6 0, .atomc h 1 2 3 1 0 0 0 0,
      .cell h 1 2 0 0 3 0, .cell h 1 2 1 0 0 0, .cell h 1 2 3 1 1 0, .cell h 1 2 0 0 0 61].all (fun i => !i.wf) = true := by decide

/-- Codes of control, synchronization, engines and special registers. -/
theorem test_ill_formed_control :
    let h : Hdr := ⟨false, false, 7⟩
    [Instr.join ⟨false, false, 3⟩, .srd h 1 0x0A, .swr h 1 0x0A, .swr h 1 0x00, .ctrAdd h 1 0 3 0 1 0, .ctrAdd h 1 0 0 0 2 0,
      .ctrAdd h 1 0 0 0 0 1, .ctrAdd h 1 1 0 0 1 0, .ctrWait h 1 2 0 3 0 1 0, .ctrWait h 1 2 0 0 0 2 0, .ctrWait h 1 2 0 0 0 0 1,
      .ctrWait h 1 2 1 0 0 1 0, .ctrWaitt h 1 2 3 4 3 0 0, .barArv h 1 2 0 3 0 1 0, .barArv h 1 2 0 0 0 2 0, .barArv h 1 2 0 0 0 0 1,
      .barArv h 1 2 1 0 0 1 0, .barWait h 1 2 3 3 0, .fence h 0 3, .batchWait h 0 2 0, .batchWait h 0 0 1, .batchWait h 1 1 0,
      .cpIn h 1 61 0 0 0 0 0, .cpOut h 1 61 0 0 0 0 0, .cpGath h 1 61 0 2 0 0 0 0, .cpBulk h 1 62 0 0 0 0 0, .cpBulkFill h 1 62 0 0 0 0 0,
      .cpIn h 1 2 0 3 0 0 0, .cpIn h 1 2 1 1 3 0 0, .cpIn h 1 2 1 0 0 0 0, .cpIn h 1 2 1 2 0 0 1, .collAllred h 1 2 0 3 0 0 0,
      .collRedscat h 1 2 0 3 0 0 0, .collAllgath h 1 2 0 3 0 0 0, .collBcast h 1 2 0 3 0 0 0, .cpStat h 1 3, .lkAcq h 1 6 2, .lkTry h 1 2 6 2,
      .lkUpg h 1 3 2].all (fun i => !i.wf) = true := by decide


/-! ## Witnesses: for each statement with hypotheses, a state and operands that meet them, its clauses apart.  The states come from the group
that `withFetchWord` places after reset; register operands are at the end of the register file where a statement has them. -/

/-- A group running after reset, with nothing else in the machine. -/
def ready : State := { State.reset with g := placedGroup }

/-- The same with registers. -/
def withS (rs : Sparse W64) : State := { ready with g := { placedGroup with s := rs } }

/-- The running split of that group. -/
def sp0 : Split := Split.fresh 0 placedPc 0xFFFFFFFF 0

/-- A header whose guard is always true. -/
def h0 : Hdr := ⟨false, false, 7⟩

/-- What `State.canIssue` asks, for the split that runs. -/
def can (s : State) (i : Instr) (u : Uses) : Bool :=
  match s.g.running with
  | none => false
  | some sp => (s.preCheck i u sp).isNone && !s.g.missing u && s.mayRun s.g && (!u.store || !s.storeStop s.g) &&
      !s.roomless u && (!s.g.role.follows || (s.instrTrap s.g).isNone) && (!(u.logged || u.cmp) || decide (s.g.role = .plain))

/-- `can` says that the instruction can issue. -/
theorem can_issue (s : State) (i : Instr) (u : Uses) (h : can s i u = true) : ∃ sp, s.canIssue i u sp := by
  unfold can at h
  split at h
  · cases h
  · rename_i sp hr
    simp only [Bool.and_eq_true, Bool.or_eq_true, Bool.not_eq_true', decide_eq_true_eq, Option.isNone_iff_eq_none] at h
    obtain ⟨⟨⟨⟨⟨⟨h1, h2⟩, h3⟩, h4⟩, h5⟩, h6⟩, h7⟩ := h
    refine ⟨sp, hr, h1, h2, h3, fun hs => ?_, h5, fun hf => ?_, fun hl => ?_⟩
    · rcases h4 with h4 | h4
      · exact absurd (hs.symm.trans h4) (by decide)
      · exact h4
    · rcases h6 with h6 | h6
      · exact absurd (hf.symm.trans h6) (by decide)
      · exact h6
    · rcases h7 with h7 | h7
      · simp only [Bool.or_eq_false_iff] at h7; simp [h7.1, h7.2] at hl
      · exact h7

/-- Every instruction of the list can issue with its operands, and its guard is true. -/
def canAll (s : State) (l : List (Instr × Uses)) : Bool :=
  l.all (fun x => can s x.1 x.2) && someLane h0 s && guardOn h0 s && decide (s.g.newSplits = []) && decide (s.g.splits = [sp0])

theorem witness_TwoRegisters :
    let u : Uses := { vr := [v1 63, v1 63], vw := [v1 63] }
    canAll ready [(.iadd h0 63 63 63, u), (.isub h0 63 63 63, u), (.imul h0 63 63 63, u), (.imulh h0 63 63 63, u), (.imulhu h0 63 63 63, u),
      (.imin h0 63 63 63, u), (.imax h0 63 63 63, u), (.iminu h0 63 63 63, u), (.imaxu h0 63 63 63, u), (.andv h0 63 63 63, u),
      (.orv h0 63 63 63, u), (.xorv h0 63 63 63, u), (.andn h0 63 63 63, u), (.shl h0 63 63 63, u), (.shr h0 63 63 63, u),
      (.sar h0 63 63 63, u), (.rotl h0 63 63 63, u)] = true := by decide

theorem witness_OneRegister :
    let u : Uses := { vr := [v1 63], vw := [v1 63] }
    canAll ready [(.iabs h0 63 63, u), (.ineg h0 63 63, u), (.popc h0 63 63, u), (.clz h0 63 63, u), (.brev h0 63 63, u), (.mov h0 63 63, u),
      (.lidx h0 63, { vw := [v1 63] })] = true ∧
    (∀ n : Fin 32, ∃ x : W32, x.getLsbD (31 - n) = true ∧ ∀ i : Fin 32, i < n → x.getLsbD (31 - i) = false) :=
  ⟨by decide, fun n => ⟨BitVec.ofNat 32 (2 ^ (31 - n.val)), by revert n; decide⟩⟩

theorem witness_WideAndSecondWord :
    canAll ready [(.iadd64 h0 62 62 62, { vr := [v2 62, v2 62], vw := [v2 62] }), (.movi h0 63 0xFFFFFFFF, { vw := [v1 63] }),
      (.iaddi h0 63 63 0xFFFFFFFF, { vr := [v1 63], vw := [v1 63] }),
      (.imad h0 63 63 63 63, { vr := [v1 63, v1 63, v1 63], vw := [v1 63] }), (.sel h0 63 63 63 1 7, { vr := [v1 63, v1 63], vw := [v1 63] }),
      (.bfx h0 63 63 31 1 0 32, { vr := [v1 63], vw := [v1 63] }), (.bfx h0 63 63 63 1 1 32, { vr := [v1 63, v1 63], vw := [v1 63] }),
      (.bfi h0 63 63 31 63 0 32, { vr := [v1 63, v1 63], vw := [v1 63] }),
      (.bfi h0 63 63 63 63 1 32, { vr := [v1 63, v1 63, v1 63], vw := [v1 63] })] = true := by decide

theorem witness_Predicates :
    canAll ready [(.icmp h0 7 6 63 63, { vr := [v1 63, v1 63] }), (.icmp h0 0 7 63 63, { vr := [v1 63, v1 63] }), (.pset h0 4 7 7 7, {}),
      (.pmovFromP h0 63, { vw := [v1 63] }), (.pmovToP h0 63, { vr := [v1 63] })] = true := by decide

theorem witness_LaneExchanges :
    canAll ready [(.lxPick h0 63 63 63, { vr := [v1 63, v1 63], vw := [v1 63] }), (.lxFlip h0 63 63 31, { vr := [v1 63], vw := [v1 63] }),
      (.lxRot h0 63 63 31, { vr := [v1 63], vw := [v1 63] }), (.lxShift h0 63 63 31, { vr := [v1 63], vw := [v1 63] })] = true := by decide

theorem witness_ViewsAndCombinations :
    canAll ready [(.pviewMask h0 63 1 7, { vw := [v1 63] }), (.pviewAny h0 7 1 7, {}), (.pviewAll h0 7 1 7, {}),
      (.pviewCount h0 63 1 7, { vw := [v1 63] }), (.lcomb h0 63 63 0 7, { vr := [v1 63], vw := [v1 63] }),
      (.lcomb h0 62 62 1 7, { vr := [v2 62], vw := [v2 62] })] = true ∧ [(1 : W32), 2].Perm [2, 1] := by decide

theorem witness_UniformArithmetic :
    let u : Uses := { sr := [63, 63], sw := [63] }
    canAll ready [(.sadd h0 63 63 63, u), (.ssub h0 63 63 63, u), (.smul h0 63 63 63, u), (.smulh h0 63 63 63, u), (.sand h0 63 63 63, u),
      (.sor h0 63 63 63, u), (.sxor h0 63 63 63, u), (.sshl h0 63 63 63, u), (.sshr h0 63 63 63, u), (.ssar h0 63 63 63, u),
      (.smin h0 63 63 63, u), (.smax h0 63 63 63, u), (.ssel h0 63 63 63, { sr := [63, 63, 63], sw := [63] }),
      (.smov h0 63 63, { sr := [63], sw := [63] }), (.smovi h0 63 0xFFFFFFFF, { sw := [63] }),
      (.smovh h0 63 0xFFFFFFFF, { sr := [63], sw := [63] }), (.saddi h0 63 63 0xFFFFFFFF, { sr := [63], sw := [63] })] = true := by decide

theorem witness_UniformAndLanes :
    canAll ready [(.ssetq h0 7 6 63 63, { sr := [63, 63] }), (.ssetq h0 0 7 63 63, { sr := [63, 63] }),
      (.bcast h0 63 63, { vw := [v1 63], sr := [63] }), (.lread h0 63 63 63, { vr := [v1 63], sr := [63], sw := [63] })] = true := by decide

theorem witness_PcAdvances :
    canAll ready [(.iadd h0 63 63 63, { vr := [v1 63, v1 63], vw := [v1 63] }), (.movi h0 63 0xFFFFFFFF, { vw := [v1 63] }),
      (.sadd h0 63 63 63, { sr := [63, 63], sw := [63] }), (.nop h0, {})] = true := by decide

theorem witness_FloatArithmetic :
    let u : Uses := { vr := [v1 63, v1 63], vw := [v1 63] }
    let u2 : Uses := { vr := [v2 62, v2 62], vw := [v2 62] }
    canAll ready [(.fadd h0 63 63 63, u), (.fsub h0 63 63 63, u), (.fmul h0 63 63 63, u), (.dadd h0 62 62 62, u2), (.dmul h0 62 62 62, u2),
      (.fmin h0 63 63 63, u), (.fmax h0 63 63 63, u), (.dmin h0 62 62 62, u2), (.dmax h0 62 62 62, u2),
      (.fabs h0 63 63, { vr := [v1 63], vw := [v1 63] }), (.fneg h0 63 63, { vr := [v1 63], vw := [v1 63] }),
      (.ffma h0 63 63 63 63 3 1 1 1, { vr := [v1 63, v1 63, v1 63], vw := [v1 63] }),
      (.dfma h0 62 62 62 62 0 1 1 0, { vr := [v2 62, v2 62, v2 62], vw := [v2 62] })] = true := by decide

theorem witness_RoundingRule : (2 ^ 32 - 1 : Nat) < 2 ^ 32 ∧
    2 * ((roundShift .rne false 3 1 false).1 * 2 ^ 1) = 2 * 3 + 2 ^ 1 := by decide

theorem witness_RoundKeepsValues : fmtF32 ∈ [fmtF64, fmtF32, fmtF16, fmtBF16, fmtE5M2, fmtE4M3] ∧
    (0x7F7FFFFF : Nat) < 2 ^ fmtF32.width ∧ (∃ s m e, fmtF32.decode 0x7F7FFFFF = .num s m e) ∧
    fmtE4M3 ∈ [fmtF64, fmtF32, fmtF16, fmtBF16, fmtE5M2, fmtE4M3] ∧ (0xFE : Nat) < 2 ^ fmtE4M3.width ∧
    (∃ s m e, fmtE4M3.decode 0xFE = .num s m e) :=
  ⟨by decide, by decide, ⟨_, _, _, rfl⟩, by decide, by decide, ⟨_, _, _, rfl⟩⟩

theorem witness_NanRules :
    fmtF16 ∈ [fmtF64, fmtF32, fmtF16, fmtBF16] ∧ 1023 < 2 ^ fmtF16.fbits ∧ (FVal.num false 1 0).isNan = false ∧
    ((FVal.num false 1 0).isNan || (FVal.inf true).isNan || (FVal.nan false 1).isNan) = true ∧
    ((FVal.nan false 1).isNan || (FVal.inf true).isNan) = true ∧ (false : Bool) ≠ true ∧ ((FVal.inf true).isInf || (FVal.num false 1 0).isInf) = true ∧
    (FVal.inf true).isZero = false ∧ (FVal.num false 1 0).isZero = false ∧
    ((FVal.inf true).sign ^^ (FVal.num false 1 0).sign ^^ false) ≠ (false ^^ false) := by decide

theorem witness_FloatCompares :
    canAll ready [(.fcmp h0 7 6 63 63, { vr := [v1 63, v1 63] }), (.fcmp h0 0 7 63 63, { vr := [v1 63, v1 63] }),
      (.dcmp h0 7 6 62 62, { vr := [v2 62, v2 62] }), (.fclass h0 63 62 0 1, { vr := [v2 62], vw := [v1 63] }),
      (.fclass h0 63 63 1 3, { vr := [v1 63], vw := [v1 63] }), (.nanorg h0 63 62 0 1, { vr := [v2 62], vw := [v1 63] }),
      (.nanorg h0 63 63 0 0, { vr := [v1 63], vw := [v1 63] })] = true ∧
    ((fmtF32.decode 0x7F800001).isNan || (fmtF32.decode 0).isNan) = true := by decide

theorem witness_PackedHalves :
    let u : Uses := { vr := [v1 63, v1 63], vw := [v1 63] }
    canAll ready [(.hadd2 h0 63 63 63 0 3 1, u), (.hmul2 h0 63 63 63 1 0 0, u),
      (.hfma2 h0 63 63 63 63 1 3 1 1 1, { vr := [v1 63, v1 63, v1 63], vw := [v1 63] })] = true := by decide

theorem witness_Conversions :
    canAll ready [(.frnd h0 63 63 0 3 1 1, { vr := [v1 63], vw := [v1 63] }), (.frnd h0 62 62 1 0 0 0, { vr := [v2 62], vw := [v2 62] }),
      (.cvt h0 62 63 3 0 0 0 0 0 0, { vr := [v1 63], vw := [v2 62] }), (.cvt h0 63 62 0 0 3 0 0 0 0, { vr := [v2 62], vw := [v1 63] }),
      (.cvt h0 63 63 2 0 0 0 1 0 0, { vr := [v1 63, v1 63], vw := [v1 63] }),
      (.cvt h0 63 63 12 0 0 0 1 0 0, { vr := [v1 63, v1 63], vw := [v1 63] })] = true ∧
    cvtWidth 3 = 64 ∧ cvtWidth 0 ≠ 64 ∧ cvtWidth 2 < 32 ∧ cvtWidth 12 < 32 := by decide

theorem witness_BlockFormats :
    canAll ready [(.dxbPack h0 61 63 62 0 0 0, { vr := [v1 63], vw := [v1 61, v1 62] }),
      (.dxbPack h0 61 63 62 3 0 0, { vr := [v1 63], vw := [v1 61, v1 62] }),
      (.dxbUnpk h0 61 63 62 0, { vr := [v1 63, v1 62], vw := [v1 61] }), (.dxbUnpk h0 61 63 62 1, { vr := [v1 63, v1 62], vw := [v1 61] })] =
      true := by decide

theorem witness_SpecialFunctions :
    let u : Uses := { vr := [v1 63], vw := [v1 63], late := true }
    canAll ready [(.frcp h0 63 63, u), (.frsq h0 63 63, u), (.fsqrt h0 63 63, u), (.fex2 h0 63 63, u), (.flg2 h0 63 63, u), (.fsin h0 63 63, u),
      (.fcos h0 63 63, u)] = true := by decide

/-- A team of one group with a page of scratchpad. -/
def team0 : Team where
  tid := 1
  serial := 0
  idx := 0
  ctx := 0
  tile := 0
  role := .plain
  groups := 1
  scratch := 4096
  stashBytes := 0
  scr := []
  scrPoison := []
  stash := []
  ended := false
  away := false
  chord := none
  folds := []
  closes := []
  replay := none
  compared := 0
  base := 0
  saved := false
  badWords := []
  sectors := []

theorem witness_AccumulatorIssue :
    let s : State := { withS [(62, 0x0F802000), (63, 0x0F80)] with teams := [team0] }
    canAll s [(.mma h0 6 48 48 0 5 1 0 0, { vr := [vN 48 16 2, vN 48 16 2], accs := [(6, 2)], late := true }),
      (.mma h0 7 48 48 0 4 1 3 1, { vr := [vN 48 16 1, vN 48 16 1], accs := [(7, 1)], late := true }),
      (.mma h0 7 48 48 62 0 1 3 1, { vr := [vN 48 16 1, vN 48 16 1], accs := [(7, 1)], sr := [62, 63], illegal := badBlock 0 (s.g.rs 62) (s.g.rs 63), late := true }),
      (.accRd h0 48 6 2 0 7 0 0, { vw := [vN 48 16 2], accs := [(6, 2)], late := true }),
      (.accRd h0 48 7 0 0 15 16 0, { vw := [vN 48 16 1], accs := [(7, 1)], late := true }),
      (.accWr h0 6 48 2 0 7 0 0, { vr := [vN 48 16 2], accs := [(6, 2)], late := true }),
      (.accZero h0 7, { accs := [(7, 1)], late := true }),
      (.accCvt h0 48 7 0 1 0 0 0, { vw := [vN 48 16 1], accs := [(7, 1)], late := true }),
      (.accCvt h0 48 7 63 12 0 0 0, { vw := [vN 48 (cvtRegs 12).1 1, v1 63], accs := [(7, 1)], late := true })] = true ∧
    (s.jobs.filter (fun j => decide (j.tile = s.g.tile))).length < 8 ∧
    field (s.g.rs 62) 16 32 + scaleBytes 0 = s.scratchOf s.g ∧ field (s.g.rs 63) 0 32 + scaleBytes 0 = s.scratchOf s.g := by decide
theorem witness_LoadsAreHeld :
    let u := fun (n al : Nat) => ({ vr := [v1 63], vw := [vN 60 n al], late := true, logged := true } : Uses)
    let w := fun (n : Nat) => ({ vr := [v1 63], vw := [vN 60 n n], late := true } : Uses)
    canAll ready [(.ldB h0 60 15 63 3, u 1 1), (.ldH h0 60 15 63 3, u 1 1), (.ldW h0 60 15 63 3, u 1 1), (.ldD h0 60 15 63 3, u 2 2),
      (.ldQ h0 60 15 63 3, u 4 4), (.ldsW h0 60 63, w 1), (.ldsD h0 60 63, w 2), (.ldsQ h0 60 63, w 4),
      (.ldcW h0 63 63, { vr := [v1 63], vw := [v1 63], late := true, logged := true }), (.ldx h0 60 15 63 3 6 0 0x80, u 4 4),
      (.ldx h0 60 15 63 0 0 1 0xFF, u 1 1), (.ldx h0 60 0 62 0 5 2 0x7F, { u 2 2 with vr := [v2 62] }),
      (.sld h0 63 63 0xFFFFFFFF, { sr := [63], sw := [63], late := true, logged := true })] = true ∧ ready.entryFree = true := by decide

theorem witness_StoresAreHeld :
    let u := fun (n : Nat) => ({ vr := [v1 63, vN 60 n n], late := true, store := true } : Uses)
    canAll ready [(.stB h0 60 15 63 3, u 1), (.stH h0 60 15 63 3, u 1), (.stW h0 60 15 63 3, u 1), (.stD h0 60 15 63 3, u 2),
      (.stQ h0 60 15 63 3, u 4), (.stsW h0 60 63, u 1), (.stsD h0 60 63, u 2), (.stsQ h0 60 63, u 4), (.stx h0 60 15 63 3 6 0 0x80, u 4),
      (.stx h0 60 0 62 0 5 2 0x7F, { u 2 with vr := [v2 62, vN 60 2 2] }),
      (.stcW h0 63 63, { vr := [v1 63, v1 63], late := true, cmp := ready.namesOther 0xFFFFFFFF 63, store := !ready.namesOther 0xFFFFFFFF 63 }),
      (.sst h0 63 63 0xFFFFFFFF, { sr := [63, 63], late := true, store := true })] = true ∧ ready.g.role ≠ .trailer ∧
      ready.g.role.follows = false ∧ ready.entryFree = true := by decide

theorem witness_AtomicsAreHeld :
    let u := fun (vr vw : List (Nat × Nat × Nat)) => ({ vr := vr, vw := vw, late := true, logged := true, cmp := true } : Uses)
    let s := withS [(63, 0x0000000100010001)]
    canAll ready [(.atom h0 62 15 63 60 1 2 7 3, u [v1 63, v2 60] [v2 62]), (.atom h0 63 15 63 63 0 1 0 0, u [v1 63, v1 63] [v1 63]),
      (.red h0 62 15 63 1 2 0 0, u [v1 63, v2 62] []), (.cas h0 62 15 63 60 1 2 3, u [v1 63, v2 60, v2 62] [v2 62]),
      (.atoms h0 62 63 60 58 1 0 8 0, u [v1 63, v2 60, v2 58] [v2 62]), (.atoms h0 63 63 63 0 0 0 0 0, u [v1 63, v1 63] [v1 63]),
      (.atomc h0 62 63 60 58 1 1 8 0, u [v1 63, v2 60, v2 58] [v2 62]), (.atomc h0 63 63 63 0 0 1 0 0, u [v1 63, v1 63] [v1 63]),
      (.reds h0 63 62 1 0 0 0, u [v1 63, v2 62] []), (.binr h0 63 63 63, u [v1 63, v1 63] [v1 63])] = true ∧
    canAll s [(.cell h0 63 62 61 60 2 60, { vr := [v1 62, v1 61, v1 60], vw := [v1 63], sr := [60, 61, 62, 63] }),
      (.cell h0 63 62 0 0 0 60, { vr := [v1 62], vw := [v1 63], sr := [60, 61, 62, 63] })] = true ∧
    field (s.g.rs 63) 0 16 = 1 ∧ field (s.g.rs 63) 16 16 = 1 ∧ field (s.g.rs 63) 32 16 = 1 ∧ field (s.g.rs 63) 48 16 = 0 ∧
    cellIndex (asF32 0) (fmtF32.decode 0) (fmtF32.decode 0) = some 0 := by decide

theorem witness_Branches :
    let s := withS [(62, 1), (63, 0xFFFFFFFFFFFFFFFC)]
    canAll ready [(.bra h0 0x20000, {}), (.call h0 0x1FFFF, { sw := [63] })] = true ∧
    canAll s [(.ret h0 63, { sr := [63] }), (.jmp h0 63, { sr := [63] }), (.loop h0 63 0xFFFFFFFF, { sr := [63], sw := [63] }),
      (.loop h0 62 0xFFFFFFFF, { sr := [62], sw := [62] }), (.ret h0 62, { sr := [62] }), (.jmp h0 62, { sr := [62] })] = true ∧
    (s.g.rs 63).extractLsb' 0 2 = 0 ∧ s.g.rs 63 ≠ 1 ∧ s.g.rs 62 = 1 ∧ (s.g.rs 62).extractLsb' 0 2 ≠ 0 ∧ s.g.role = .plain := by decide

/-- BRL with no lane, every lane and one lane of 32 taking it; the last to the target before the instruction. -/
theorem witness_BranchLanes :
    let s : State := { ready with g := { placedGroup with p := [(0, 0x80000000), (1, 0)] } }
    canAll s [(.brl ⟨false, false, 1⟩ 0xFFFFFFFF, {}), (.brl ⟨false, false, 7⟩ 0xFFFFFFFF, {}), (.brl ⟨false, false, 0⟩ 0xFFFFFFFF, {})] = true ∧
    s.g.stack = [] ∧ activeMask ⟨false, false, 1⟩ s = 0 ∧ sp0.mask &&& ~~~(activeMask ⟨false, false, 7⟩ s) = 0 ∧
    activeMask ⟨false, false, 0⟩ s = 0x80000000 ∧ sp0.pc + BitVec.ofInt 57 (4 * (0xFFFFFFFF : W32).toInt) ≠ sp0.pc + 8 := by decide

theorem witness_ParksAndEnds :
    canAll ready [(.join h0, {}), (.syncs h0, {}), (.exit h0, { cmp := ready.teamEnds 0xFFFFFFFF }),
      (.exitL h0, { cmp := ready.teamEnds (activeMask h0 ready) }), (.nop h0, {}), (.yieldR h0, {})] = true ∧
    (∀ x ∈ ready.g.splits, x.slot = sp0.slot ∨ x.park ≠ .syncs ∨ x.pc ≠ sp0.pc) := by decide

/-- A split that waits at the SYNCS, after the running one and before it, and a YIELD that waits for its group. -/
theorem witness_ParksAndEnds_more :
    let w : Split := { sp0 with slot := 1, park := .syncs, mask := 0x80000000 }
    let a : State := { ready with g := { placedGroup with splits := [sp0, w] } }
    let b : State := { ready with g := { placedGroup with cur := 1, splits := [{ w with slot := 0 }, { sp0 with slot := 1 }] } }
    can a (.syncs h0) {} = true ∧ can b (.syncs h0) {} = true ∧ guardOn h0 a = true ∧ guardOn h0 b = true ∧ a.g.stack = [] ∧ b.g.newSplits = [] ∧
    b.g.running = some { sp0 with slot := 1 } ∧ w.pc = sp0.pc ∧ canAll ready [(.yieldR { h0 with w := true }, {})] = true ∧
    guardOn { h0 with g := 0xF } ready = false := by decide

theorem witness_CountersAndBarriers :
    let u := fun (rs : List Nat) => ({ sr := rs, late := true, logged := true, cmp := true } : Uses)
    let w := fun (rs : List Nat) => ({ sr := rs, sw := [63], late := true, logged := true, cmp := true, parks := true } : Uses)
    canAll ready [(.ctrAdd h0 63 63 0 2 0 0, u [63, 63]), (.ctrAdd h0 63 0 2 1 1 0xFFFF, u [63]),
      (.barArv h0 63 63 63 0 2 0 0, { u [63, 63] with sw := [63] }), (.barArv h0 63 63 0 1 0 1 0xFFFF, { u [63] with sw := [63] }),
      (.ctrRd h0 63 63, { sr := [63], sw := [63], late := true, logged := true }),
      (.ctrRdSt h0 63 63, { sr := [63], sw := [63], late := true, logged := true }), (.ctrWait h0 63 63 63 0 2 0 0, w [63, 63]),
      (.ctrWait h0 63 63 0 2 1 1 0xFFFF, w [63]), (.ctrWaitt h0 63 63 63 63 1 0 7, w [63, 63, 63]), (.barWait h0 63 63 63 2 1, w [63, 63])] =
      true ∧ ready.entryFree = true := by decide

theorem witness_BatchesAndFences :
    let s : State := { ready with g := { placedGroup with batchSeq := 17, batchDone := 0 } }
    let r : State := { ready with g := { placedGroup with batchSeq := 16, batchDone := 0 } }
    canAll s [(.batchClose h0 63, { sw := [63] })] = true ∧ canAll r [(.batchClose h0 63, { sw := [63] })] = true ∧
    s.g.batchSeq - 1 - s.g.batchDone = 16 ∧ r.g.batchSeq - 1 - r.g.batchDone ≠ 16 ∧
    canAll s [(.batchWait h0 63 0 0, { sr := [63], late := true, logged := true, parks := true }),
      (.batchWait h0 0 1 0xFFFF, { late := true, logged := true, parks := true }), (.phase h0 1, {}),
      (.quiet h0 2 1, { late := true, logged := true, parks := true, cmp := true }),
      (.quiet h0 0 0, { late := true, logged := true, parks := true }), (.fence h0 2 2, { late := true, logged := true, cmp := true }),
      (.fence h0 0 0, { late := true, logged := true }), (.acqRem h0 63 62, { sr := [62], sw := [63], late := true })] = true ∧
    s.g.role.follows = false ∧ ready.g.role.follows = false := by decide

/-- CELL of lanes outside the grid in each dimension that counts. -/
theorem witness_AtomicsAreHeld_outside :
    let s := withS [(60, 0), (63, 0x0000000100010001)]
    let one := fmtF32.decode 0x3F800000
    cellIndex (asF32 0xBF800000) (fmtF32.decode 0) one = some (-1) ∧ cellIndex (asF32 0x3F800000) (fmtF32.decode 0) one = some 1 ∧
    field (s.g.rs 63) 0 16 = 1 ∧ can s (.cell h0 63 62 61 60 2 60) { vr := [v1 62, v1 61, v1 60], vw := [v1 63], sr := [60, 61, 62, 63] } = true := by decide

/-- A handler, in privileged mode. -/
def inTrap (rs : Sparse W64) : State := { ready with g := { placedGroup with s := rs, inh := true } }

theorem witness_SpecialRegisters :
    let s := inTrap []
    ([0x00, 0x01, 0x05, 0x0C, 0x0D, 0x12, 0x13, 0x14, 0x1B, 0x20, 0x25, 0x2E, 0x30, 0x39, 0x3E] : List (BitVec 6)).all (fun n =>
      canAll s [(.srd h0 63 n, { sw := [63], priv := decide (0x20 ≤ n.toNat), logged := srLogged n.toNat })]) = true ∧
    ([0x00, 0x0C, 0x0D, 0x14, 0x15, 0x16, 0x17, 0x18, 0x1A, 0x1B, 0x26, 0x2C, 0x30, 0x32, 0x38, 0x39, 0x3C, 0x3E] : List (BitVec 6)).all (fun n =>
      canAll s [(.swr h0 63 n, { sr := [63], priv := decide (0x20 ≤ n.toNat) || (decide (0x14 ≤ n.toNat) && decide (n.toNat ≤ 0x1B)) })]) = true ∧
    s.flagsOut = false ∧ s.g.role.follows = false := by decide

/-- Bases at both ends of the allotment and past them. -/
theorem witness_WindowBase :
    let s := withS [(62, 0), (63, 256)]
    canAll s [(.xbSetImm h0 255, {}), (.xbSetImm h0 256, {}), (.xbSetReg h0 62, { sr := [62] }), (.xbSetReg h0 63, { sr := [63] }),
      (.xbAddImm h0 0, {}), (.xbAddImm h0 0xFFF, {}), (.xbAddReg h0 62, { sr := [62] }), (.xbAddReg h0 63, { sr := [63] })] = true ∧
    s.g.allot = 256 ∧ (s.g.xb.toNat : Int) + (0xFFF : BitVec 12).toInt = -1 ∧ ((s.g.rs 63).toNat : Int) = 256 ∧ s.g.role = .plain := by decide

theorem witness_Apertures :
    canAll ready [(.taSet h0 15 63 63, { sr := [63, 63], late := true }), (.taInv h0 15, {}), (.taQry h0 63 15, { sw := [63], logged := true })] =
      true ∧ ready.g.wantsAperture 15 = false ∧ (ready.g.rta 15).pending = false := by decide

/-- The package after `withFetchWord`: a page at 0x1000 translated, its memory ready. -/
def paged : State := State.reset.withFetchWord 32 0x1C400007

/-- The same with registers and a team. -/
def pagedS (rs : Sparse W64) : State := { paged with g := { paged.g with s := rs }, teams := [team0] }

theorem witness_EngineCommands :
    let s := withS [(56, 0x1000), (57, 0xFFFFFFFFFFFFFFFC), (58, 0x400000001), (59, 0)]
    let t := pagedS [(61, 0x1000)]
    let u := fun (n : Nat) => ({ sr := upFrom 56 n, sw := [63], cmp := true } : Uses)
    canAll s [(.cpIn h0 63 56 0 0 0 0 0, u 4), (.cpOut h0 63 56 0 0 0 0 0, u 4), (.cpBulk h0 63 56 0 0 0 0 0, u 3),
      (.cpBulkFill h0 63 56 0 0 0 0 0, u 3), (.cpStat h0 63 2, { sw := [63], logged := true })] = true ∧
    canAll { t with teams := [] } [(.collAllred h0 63 61 0 0 0 0 0, { sr := [61], sw := [63], cmp := true })] = true ∧
    (let w := { pagedS [(56, 0x1000), (57, 0xFFFFFFFFFFFFFFFC), (58, 0x400000001), (59, 0), (60, 0)] with
       g := { (pagedS [(56, 0x1000), (57, 0xFFFFFFFFFFFFFFFC), (58, 0x400000001), (59, 0), (60, 0)]).g with scratch := 4096 } }
     canAll w [(.cpGath h0 63 56 0 60 0 0 0 0, { sr := upFrom 56 4 ++ [60], sw := [63], cmp := true }),
        (.cpIn h0 63 56 60 2 1 0 0, { sr := upFrom 56 4 ++ [60], sw := [63], cmp := true })] = true ∧
      (w.capture 0 0 (upFrom 56 4) 60 2 1 0 0).check w.g 1 none w = none ∧ (w.capture 1 0 (upFrom 56 4) 0 0 0 0 0).check w.g 0 none w = none ∧
      (w.capture 2 0 (upFrom 56 4) 0 0 0 0 0).check w.g 0 (some 0) w = none ∧
      t.ownHeld (t.req t.g) (t.g.rs 61).toNat = false ∧ (w.readList (w.capture 2 0 (upFrom 56 4) 0 0 0 0 0) (some 0)).isSome = true ∧ w.tceUsed 0 < 8 ∧
      (w.capture 3 1 [60, 59, 60] 0 0 0 0 0).check w.g 0 none w = none ∧ (w.capture 3 0 [56, 59, 60] 0 0 0 0 0).check w.g 0 none w = none ∧
      (w.capture 4 0 [56] 0 0 0 0 0).check w.g 0 none w = none) := by decide

/-- A domain of one line. -/
def dom0 : Domain := ⟨0, 0, 0, 128, 1, 1, 128, 1, 1, 1, 0⟩

/-- A group of an age in a context with that domain, holding what is given. -/
def locking (rs : Sparse W64) (held : List LockHold) : State :=
  { withS rs with domains := [dom0], g := { placedGroup with s := rs, agev := true, lset := held } }

theorem witness_LockInstructions :
    let s := locking [] []
    let u := locking [] [⟨0, 1, none⟩]
    let ui : Uses := { sr := [63], late := true, logged := true, parks := true, cmp := true }
    canAll s [(.lkBegin h0 63, { sw := [63], logged := true, parks := true }), (.lkAcq h0 63 5 2, ui), (.lkTry h0 62 63 0 1, { ui with sw := [62] }),
      (.lkQry h0 62 63, { ui with sw := [62] }), (.lkEnd h0, { ui with sr := [] }),
      (.lkDef h0 62 63 61, { ui with sr := [63, 61], sw := [62] })] = true ∧
    canAll u [(.lkUpg h0 63 2 1, ui), (.lkRel h0 63, ui), (.lkEnd h0, { ui with sr := [] })] = true ∧
    s.g.lockBusy = false ∧ u.g.lockBusy = false ∧ s.g.stopped = false ∧ s.breaks s.g 0 5 false = false ∧ u.breaks u.g 0 2 true = false ∧
    s.g.lset.length < 64 ∧ (s.open_.lockDie s.open_.g 0).2.poolHas (s.open_.lockDie s.open_.g 0).1 = true ∧ s.validLock s.g.ctx 0 = true ∧
    (u.g.holds 0).isSome = true ∧ (∀ x ∈ u.g.lset, (u.ancestors u.g.ctx x.name).contains 0 = false) ∧
    (let d := locking [(63, 0x1000), (61, 4095)] []
     canAll d [(.lkDef h0 62 63 61, { ui with sr := [63, 61], sw := [62] })] = true ∧ (d.g.rs 61).toNat ≤ 4095 ∧ d.g.rs 63 ≠ 0 ∧
       d.entryFree = true) := by decide

/-- LK.ACQ of a CTA or system scope, without an age, and with a full lock set. -/
theorem witness_LockInstructions_traps :
    let ui : Uses := { sr := [63], late := true, logged := true, parks := true, cmp := true }
    canAll ready [(.lkAcq h0 63 0 0, ui), (.lkAcq h0 63 0 3, ui), (.lkAcq h0 63 5 1, ui)] = true ∧ ready.breaks ready.g (ready.g.rs 63) 5 false = true ∧
    ready.g.lockBusy = false ∧
    (let f := locking [(63, 0)] ((upFrom 1 64).map (fun n => ⟨lockName 1 0 n, 0, none⟩))
     can f (.lkAcq h0 63 0 2) ui = true ∧ guardOn h0 f = true ∧ f.breaks f.g 0 0 false = false ∧ f.g.stopped = false ∧ f.g.lset.length = 64 ∧
       f.g.lockBusy = false ∧ f.g.newSplits = []) ∧
    ∀ s : State, lockLevel 0 = 0 → (s.open_.lockDie s.open_.g 0).2 = s.open_ := by
  refine ⟨by decide, by decide, by decide, by decide, fun s _ => ?_⟩
  unfold State.lockDie
  split
  · rfl
  · rw [if_neg (by decide)]

/-- LK.TRY with a full lock set, LK.DEF of a number past 4,095, of address 0 for a free domain and for a busy one, and locks the protocol forbids. -/
theorem witness_LockInstructions_more :
    let u : Uses := { sr := [63], late := true, logged := true, parks := true, cmp := true }
    let ud : Uses := { u with sw := [62] }
    let f := locking [(63, 0)] ((upFrom 1 64).map (fun n => ⟨lockName 1 0 n, 0, none⟩))
    let d := locking [(61, 4096)] []
    let z := locking [] []
    let y : State := { z with locks := [⟨0, 0, 9, true, 5, none, 0⟩] }
    let i := { u with sr := [63, 61], sw := [62] }
    can f (.lkTry h0 62 63 0 2) ud = true ∧ f.g.lset.length = 64 ∧ can d (.lkDef h0 62 63 61) i = true ∧ 4095 < (d.g.rs 61).toNat ∧
    can z (.lkDef h0 62 63 61) i = true ∧ z.g.rs 63 = 0 ∧ z.defHeld (z.req z.g) 0 none = false ∧ z.domainBusy 0 0 = false ∧ y.domainBusy 0 0 = true ∧
    y.defHeld (y.req y.g) 0 none = false ∧ can y (.lkDef h0 62 63 61) i = true ∧
    can ready (.lkRel h0 63) u = true ∧ ready.validLock 0 0 = false ∧ can ready (.lkQry h0 62 63) ud = true ∧ can ready (.lkTry h0 62 63 0 3) ud = true ∧
    can ready (.lkUpg h0 63 0 0) u = true ∧ can ready (.lkUpg h0 63 0 1) u = true ∧ ready.breaks ready.g 0 0 true = true ∧
    ready.breaks ready.g 0 0 false = true ∧ z.g.holds 0 = none ∧ f.g.newSplits = [] := by decide

/-- A descriptor that can be read, with no completion counter. -/
def launchable (s : State) (va : W64) : Bool :=
  match s.open_.readDesc sp0 va with
  | (.ok bs, t) => !badCompletion (Desc.ofBytes bs).completion && (t.freeQueueEntry t.g).isSome
  | (.error _, _) => false

/-- A grid of context 0 that waits for a place. -/
def grid0 : Grid :=
  { serial := 7, desc := Desc.ofBytes ((upFrom 0 64).map (fun i => if i = 0x10 || i = 0x14 || i = 0x18 || i = 0x1C then 1 else 0)), ctx := 0,
    queue := 0, child := true, parent := none, die := 0, reserved := false, accepted := true, key := 7, prio := 0, nextTeam := 0, retired := 0,
    err := none, done := false, rel := none, chseed := 0, prhold := 0, recbase := 0, chctl := 0, cross := false, recStop := false }

theorem witness_Launches :
    let s := { pagedS [(62, 0x1FC0), (63, 7)] with grids := [grid0] }
    let u : Uses := { sr := [62], sw := [61], late := true, logged := true, cmp := true }
    canAll s [(.launch h0 61 62, { u with parks := true }), (.launchTry h0 61 62, u), (.qpost h0 61 62 63, { u with sr := [62, 63] }),
      (.qprio h0 61 63 62, { u with sr := [63, 62] })] = true ∧ s.g.depth ≠ 9 ∧ launchable s (s.g.rs 62) = true ∧
    s.open_.descHeld (s.g.rs 62) = false ∧ s.grid ((s.g.rs 63).extractLsb' 0 32) = some grid0 ∧ grid0.ctx = s.g.ctx := by decide

theorem witness_GearAndSegments :
    let s := inTrap [(60, 0), (61, 0x7E7E), (62, 64), (63, 1)]
    canAll s [(.gearN h0, {}), (.gearF h0, {}), (.gearW h0, {}), (.hintCompute h0, {}), (.hintMemory h0, {}), (.hintWait h0, {}),
      (.hintEndphase h0, {}), (.segSync h0, { cmp := true }), (.seg h0, {}),
      (.clk h0 63, { sw := [63], late := true, logged := true, parks := true }),
      (.finj h0 63 62 61, { sr := [62, 61], sw := [63], priv := true, late := true, logged := true })] = true ∧
    s.g.role ≠ .leader ∧ badFlip 0x10000 0 = true ∧ badFlip 64 (0x7E7F : W64) = true ∧ badFlip 64 0x7C000 = false ∧ s.groupAt 0 1 = none ∧
    badFlip 0 0x7DFE = false ∧ s.groupAt 0 0 = some s.g ∧ (s.partDies s.g).contains (dieOf s.g.tile) = true ∧ field (0x7DFE : W64) 1 8 < s.g.allot :=
  by decide

/-- The group's context with a handler. -/
def handled : State := { ready with ctxs := [{ Context.fresh 0 with tvec := 0x2000 }] }

theorem witness_TrapAndReturn :
    canAll handled [(.trap h0 0xFFF, {}), (.brk h0 0xFFF, {}), (.rte h0, {})] = true ∧ handled.g.role = .plain ∧ handled.g.inh = false ∧
    canAll (inTrap []) [(.rte h0, {})] = true ∧ (inTrap []).g.inh = true := by decide

theorem witness_TrapEntryRecord :
    handled.g.live = true ∧ handled.g.split sp0.slot = some sp0 ∧ handled.g.inh = false ∧ (handled.ctx handled.g.ctx).tvec ≠ 0 ∧
    (ready.ctx ready.g.ctx).tvec = 0 ∧ (inTrap []).g.inh = true ∧ (inTrap []).g.split sp0.slot = some sp0 ∧
    (let q := ready.winSet 0x060000 0x401
     ready.pushes = [] ∧ ready.queueDrops 0 = true ∧ ready.lineHeld (ready.queueSlot 0) = false ∧ q.pushes = [] ∧ q.queueDrops 0 = false ∧
       q.lineHeld (q.queueSlot 0) = false ∧ (∃ y ∈ ({ q with pushes := [⟨0, 1, 0, 0, 0, 0⟩] } : State).pushes, y.queue = 0)) := by
  refine ⟨by decide, by decide, by decide, by decide, by decide, by decide, by decide, by decide, by decide, by decide, by decide, by decide,
    by decide, ⟨⟨0, 1, 0, 0, 0, 0⟩, by decide, rfl⟩⟩

theorem witness_IssueChecks :
    let s : State := { ready with g := { placedGroup with allot := 8 } }
    let u : Uses := { vr := [v1 8, v1 7], vw := [v1 7] }
    (∃ lanes on body, exec (.iadd h0 7 8 7) s = issue (.iadd h0 7 8 7) h0 u lanes on body s) ∧ s.g.running = some sp0 ∧ s.g.role = .plain ∧
    s.g.newSplits = [] ∧ (s.preCheck (.iadd h0 7 8 7) u sp0).map (fun t => t.cause) = some 0x03 ∧ s.g.boundsBreak u ≠ none ∧
    s.g.boundsBreak { vr := [v1 7], vw := [vN 0 8 4] } = none ∧ s.g.haz = false ∧ (∀ r ∈ s.g.covers [v1 7], s.g.regPoison.contains r = false) :=
  ⟨by
    show ∃ lanes on body, execIadd h0 7 8 7 _ = _
    unfold execIadd laneBin issueLane
    exact ⟨_, _, _, rfl⟩, by decide, by decide, by decide, by decide, by decide, by decide, by decide, by decide⟩

theorem witness_OperandLog :
    let s := inTrap [(63, 0xFFFFFFFF0000001F)]
    canAll s [(.ologRetry h0 63, { sr := [63], handler := true, illegal := badSelector (s.g.rs 63) }),
      (.ologDrop h0 63, { sr := [63], handler := true, illegal := badSelector (s.g.rs 63) }), (.ologStat h0 63, { sw := [63], logged := true })] =
      true ∧ s.g.role = .plain ∧ (∀ r ∈ s.g.results, r.await ≠ .log true) := by decide

theorem witness_ContextInstructions :
    let s : State := { inTrap [(58, 5), (59, 0xFFFF), (60, 6), (61, 0), (62, 1), (63, 1)] with ctxs := [Context.fresh 0, Context.fresh 1] }
    let up := fun (a b : Nat) => ({ sr := [a, b], sw := [57], priv := true, late := true, logged := true, cmp := true } : Uses)
    canAll s [(.ctxFlV h0, { late := true }), (.ctxFlA h0, { late := true }), (.ctxFlAll h0, { late := true }),
      (.ctxLdV h0 61 63, { sr := [61, 63] }), (.ctxLdA h0 63, { sr := [63] }), (.preempt h0 57 61 60, up 61 60), (.preempt h0 57 61 61, up 61 61),
      (.preempt h0 57 59 62, up 59 62), (.preempt h0 57 63 62, up 63 62), (.preempt h0 57 63 61, up 63 61), (.lkmat h0 57 63 59, up 63 59),
      (.lkmat h0 57 63 62, up 63 62)] = true ∧
    6 ≤ field (s.g.rs 60) 0 3 ∧ field (s.g.rs 61) 0 3 = 0 ∧ field (s.g.rs 61) 0 16 = s.g.ctx ∧ field (s.g.rs 62) 0 3 = 1 ∧
    s.hasCtx (field (s.g.rs 59) 0 16) = false ∧ s.hasCtx (field (s.g.rs 63) 0 16) = true ∧ field (s.g.rs 63) 0 16 ≠ s.g.ctx ∧
    (s.g.rs 63).toNat < 2 ^ 36 ∧ s.hasCtx 1 = true ∧ s.locks = [] ∧ s.groups.all (fun g => g.lreq.isNone) = true := by decide

/-- The other operations of PREEMPT: ended, counted, and partitions of one die each. -/
theorem witness_ContextInstructions_ops :
    let s : State := { inTrap [(58, 5), (59, 2), (60, 3), (61, 4), (62, 0xFFFF), (63, 1)] with ctxs := [Context.fresh 0, Context.fresh 1] }
    let p := s.winSet 0x38 2
    let up := fun (a b : Nat) => ({ sr := [a, b], sw := [57], priv := true, late := true, logged := true, cmp := true } : Uses)
    canAll p [(.preempt h0 57 63 59, up 63 59), (.preempt h0 57 62 59, up 62 59), (.preempt h0 57 63 58, up 63 58), (.preempt h0 57 63 60, up 63 60),
      (.preempt h0 57 63 61, up 63 61), (.preempt h0 57 59 60, up 59 60)] = true ∧
    field (s.g.rs 58) 0 3 = 5 ∧ field (s.g.rs 58) 3 61 = 0 ∧ field (s.g.rs 59) 0 3 = 2 ∧ field (s.g.rs 60) 0 3 = 3 ∧ field (s.g.rs 61) 0 3 = 4 ∧
    field (s.g.rs 63) 0 16 ≠ s.g.ctx ∧ s.hasCtx (field (s.g.rs 63) 0 16) = true ∧ s.hasCtx (field (s.g.rs 62) 0 16) = false ∧
    s.partitionAt 1 = false ∧ p.partitionAt 1 = true ∧ (p.partDies p.g).contains 1 = false ∧ p.swap.isSome = false ∧
    p.swapped.contains 1 = false ∧ (p.swapped.contains 1 = decide ((4 : Nat) = 3)) := by decide

theorem witness_PrefetchAndMaintenance :
    let s := inTrap [(62, 0x1FFFFFFFFFFFF80), (63, 128)]
    canAll s [(.prefL1 h0 15 63 3, { vr := [v1 63], late := true }), (.prefL2 h0 15 63 3, { vr := [v1 63], late := true }),
      (.stashMap h0 61 62 63, { sr := [62, 63], sw := [61], late := true, logged := true, cmp := true }),
      (.stashWb h0 62 63, { sr := [62, 63], late := true }), (.cinvL1 h0 62 63, { sr := [62, 63], late := true }),
      (.cinvWb h0 62 63, { sr := [62, 63], late := true }), (.cinvWbi h0 62 63, { sr := [62, 63], late := true }),
      (.tlbiAll h0, { priv := true, late := true }), (.tlbiGlobal h0, { priv := true, late := true }),
      (.tlbiCtx h0 63, { sr := [63], priv := true, late := true }), (.tlbiRange h0 62 63, { sr := [62, 63], priv := true, late := true })] = true ∧
    (s.g.rs 62).toNat % 128 = 0 ∧ (s.g.rs 62).toNat < 2 ^ 57 ∧ field (s.g.rs 63) 32 32 % 128 = 0 ∧ field (s.g.rs 63) 0 32 % 128 = 0 ∧
    (s.g.rs 63).toNat % 128 = 0 ∧ s.g.role.follows = false ∧ (s.open_.finishAperture 1 15).g.role.follows = false ∧
    (let x := s.open_.finishAperture s.g.gid 15
     (x.g.rta 15).unsettled = false ∧ (lanesOf (activeMask h0 s)).all (fun l =>
       !x.lookHeld x.g (x.prefEntry x.g 15) (laneAt 0 (x.g.viaTa 15 ((s.g.op 63 l).toNat : Int)).1 (x.g.viaTa 15 ((s.g.op 63 l).toNat : Int)).2)) = true) ∧
    (State.rangeLines (s.req s.g) 3 s.open_ 0x1FFFFFFFFFFFF80 0x200000000000000).1.isSome = true := by decide

/-! ## Witnesses of steps and events -/

theorem witness_StepRunsDecoded :
    let s := paged
    let r := s.tick.fetchInstr s.tick.g sp0
    s.frozen = false ∧ s.inputs = [] ∧ s.clock % 2 = 0 ∧ s.issuing = some sp0 ∧ s.g.role = .plain ∧
    (match r.1 with
      | .instr i => decide (i = .nop ⟨false, false, 7⟩)
      | _ => false) = true ∧ r.2.g = s.tick.g ∧
    (match (s.fetchWord s.g 0x1000).1 with
      | .ok w => decide (w = 0x1C400007) && decide (wordsOf w = 1) && reads w 0 (.nop ⟨false, false, 7⟩)
      | .error _ => false) = true ∧
    (let t := State.reset.withFetchWord 64 0xFFFFFFFD0748240A
     let a := t.fetchWord t.g 0x1000
     (match a.1, (a.2.fetchWord t.g 0x1004).1 with
      | .ok w, .ok k => decide (wordsOf w = 2) && reads w k (.iaddi ⟨false, false, 0xA⟩ 8 9 0xFFFFFFFD)
      | _, _ => false) = true) := by decide

theorem witness_StepTakesInput :
    let s : State := { State.reset with inputs := [.trapEntry 1] }
    let f : State := { State.reset with inputs := [.getZhr], frozen := true }
    s.inputs = .trapEntry 1 :: [] ∧ s.frozen = false ∧ isEvent (.trapEntry 1) = true ∧ f.frozen = true ∧ isManagement .getZhr = true ∧
    isManagement (.trapEntry 1) = false ∧ ({ s with frozen := true } : State).inputs = .trapEntry 1 :: [] ∧
    (match step f with
      | .next t => t.frozen
      | _ => false) = true := by decide

theorem witness_DecodeOfEncode :
    (Instr.iaddi h0 63 63 0xFFFFFFFF).wf = true ∧ encode (.iaddi h0 63 63 0xFFFFFFFF) = [0x077FFC07, 0xFFFFFFFF] ∧
    (Instr.rte h0).wf = true ∧ encode (.rte h0) = [0x97000007] := by decide

theorem witness_DecodeSound : reads 0x97000007 0 (.rte h0) = true ∧ refuses 0x0FC00007 0 .unallottedOpcode = true := by decide

theorem witness_RunsBegin :
    let s : State := { ready with g := { placedGroup with run := false } }
    (s.tile 0).trans = none ∧ s.snapDue.contains (dieOf 0) = false ∧ s.others = [] ∧ s.settleStops = s ∧ s.wakeGroup s.g.gid = s ∧
    s.closeStanding s.g = s ∧ s.groupRuns s.g = true ∧ s.g.tile = 0 ∧ s.g.place / 16 = 0 ∧ s.g.splits = [sp0] ∧ s.eligible s.g sp0 = true ∧
    (bestRun [(s.g, sp0)]).isSome = true ∧ (s.readyQuad 0 0).slotHolder 0 0 = none ∧ (bestRun ((s.readyQuad 0 0).candidates 0 0)).isSome = true ∧
    ((ready.readyQuad 0 0).slotHolder 0 0).isSome = true ∧ (s.readyQuad 0 3).slotHolder 0 3 = none ∧ (s.readyQuad 0 3).candidates 0 3 = [] := by decide

/-- A result that waits for nothing more. -/
def res0 : Result := ⟨4, 0, 0, [(63 * 32 + 31, 5)], [(63, 9)], 0, .nothing⟩

theorem witness_ResultsAndTrapsCome :
    let s : State := { ready with g := { placedGroup with run := false, engErr := 0x80, engDue := some (0, 0x1000), atEnd := some 0 } }
    let r : State := { ready with g := { placedGroup with results := [res0] } }
    let f : State := { paged with
      tlb := paged.tlb.map (fun e => { e with va := 0, size := 65536, pa := 0 }), g := { paged.g with absent := [255], ctxBase := 0 } }
    s.g.live = true ∧ s.g.role = .plain ∧ s.g.wounds = [] ∧ (s.dueOf s.g).isSome = true ∧
    ((s.dueOf s.g).map (fun d => d.slot)) = some 0 ∧ s.g.split 0 = some sp0 ∧ sp0.park = .ready ∧
    r.g.away = false ∧ (r.tile r.g.tile).trans = none ∧ r.g.fences = [] ∧ r.g.results.find? (fun x => decide (x.seq = res0.seq)) = some res0 ∧
    r.awaited r.g res0 = true ∧ r.lateHeld r.g (res0.keys 0x80000000) = false ∧ r.g.lateLines (res0.keys 0x80000000) = [] ∧ s.g.lkStop = false ∧
    f.imageLineHeld f.g 255 = false ∧ f.g.absent.contains 255 = true ∧ f.g.halted = false ∧ (f.tile f.g.tile).trans = none ∧ f.cacheUsed f.g.tile false + 1 ≤ 2048 ∧
    State.cacheRoom f.g.tile f.g.gid 1 false 4096 f = f ∧
    (match f.imagePlace f.g (imageLine f.g 255) with
     | (some pa, s1) => decide (s1.g = f.g) && s1.cleanRange pa 128
     | _ => false) = true := by decide

/-- A line of a poisoned image, and one of an image that is not mapped. -/
theorem witness_ResultsAndTrapsCome_lines :
    let f : State := { paged with
      tlb := paged.tlb.map (fun e => { e with va := 0, size := 65536, pa := 0 }), g := { paged.g with absent := [255], ctxBase := 0 } }
    let p : State := { f with poison := [1020] }
    let n : State := { f with tlb := [] }
    (match p.imagePlace p.g (imageLine p.g 255) with
     | (some pa, s1) => !s1.cleanRange pa 128
     | _ => false) = true ∧ (n.imagePlace n.g (imageLine n.g 255)).1 = none := by decide

theorem witness_MatrixSteps :
    let j : AccJob := ⟨0, 1, 4, 0, 0x1000, 0x80000000, 0, .zero 7, [], [], 0, 0, [], [], false⟩
    let m : AccJob := { j with op := .mma 0 false 6 }
    let s : State := { ready with jobs := [j] }
    let t : State := { ready with jobs := [{ j with started := true }] }
    let b : State := { ready with jobs := [m], teams := [{ team0 with scrPoison := [0] }] }
    let p : State := { ready with g := { placedGroup with accPoison := [accLine 6 31 0] }, jobs := [{ m with started := true }] }
    s.headJob 0 = some j ∧ s.g.live = true ∧ s.group j.gid = some s.g ∧ (s.tile 0).trans = none ∧ j.present s.g = true ∧
    s.g.scratchBefore j 2048 = false ∧ s.badScales j s.g = [] ∧ t.headJob 0 = some { j with started := true } ∧ b.badScales m b.g ≠ [] ∧
    m.linesRead.filter (fun b => p.g.accPoison.contains (accLine b.1 b.2.1 b.2.2)) ≠ [] ∧ (lanesOf m.mask).filter (fun r => [31].contains r) ≠ [] ∧
    j.linesRead = [] ∧ j.scales = 0 ∧ s.g.gid = j.gid ∧
    m.linesRead.filter (fun b => s.g.accPoison.contains (accLine b.1 b.2.1 b.2.2) || [accLine 6 31 0].contains (accLine b.1 b.2.1 b.2.2)) ≠ [] := by decide

/-- A group with one entry of the operand log. -/
def holding (k : AccKind) (sp : Space) (l : OlLane) : State :=
  { ready with
    g := { placedGroup with
      scratch := 4096
      olog := [ready.entryOf (.ldsW h0 63 63) sp0 31 0xFFFFFFFF { kind := k, space := sp, size := 4, dst := 63 } [l]] }
    teams := [team0] }

/-- Its entry. -/
def entry0 (k : AccKind) (sp : Space) (l : OlLane) : OlEntry :=
  ready.entryOf (.ldsW h0 63 63) sp0 31 0xFFFFFFFF { kind := k, space := sp, size := 4, dst := 63 } [l]

theorem witness_AccessSteps :
    let p : OlLane := ⟨31, 4092, none, 5, 0, .pending⟩
    let l : OlLane := { p with st := .located (.scr 1 4092) 0 }
    let d : OlLane := { p with st := .performed 5 }
    let s := holding (.load false) .scr p
    let st := holding .store .scr l
    let ld := holding (.load false) .scr l
    let rp := holding (.load false) .scr d
    s.g.entry 31 = some (entry0 (.load false) .scr p) ∧ (∀ y ∈ s.g.olog, y.idx = 31 → y = entry0 (.load false) .scr p) ∧
    (s.locate s.g (entry0 (.load false) .scr p) p).2.g = s.g ∧
    st.g.entry 31 = some (entry0 .store .scr l) ∧ st.mayPerform st.g (entry0 .store .scr l) = true ∧ st.placeHeld (.scr st.g.tid 4092) = false ∧
    st.team st.g.tid = some team0 ∧ team0.ended = false ∧ l.st = .located (.scr 1 4092) 0 ∧
    st.modGroup 1 (fun g => g.settleReleases) = st ∧ s.settleEntry 1 31 = s ∧
    ld.mayPerform ld.g (entry0 (.load false) .scr l) = true ∧ ld.placeClean (.scr ld.g.tid 4092) 4 = true ∧
    s.entryHeld s.g 31 = false ∧ s.lookHeld s.g (entry0 (.load false) .scr p) p = false ∧ s.g.absent.contains (logLine 31) = false ∧
    rp.lateHeld rp.g ((entry0 (.load false) .scr d).replyKeys 0xFFFFFFFF) = false ∧ rp.g.absent.contains 63 = false ∧
    rp.g.away = false ∧ (rp.tile rp.g.tile).trans = none ∧ rp.g.entry 31 = some (entry0 (.load false) .scr d) := by decide

/-- A store to device memory, the last word of the package's first page. -/
theorem witness_AccessSteps_store :
    let l : OlLane := ⟨31, 0x1FFC, none, 5, 0, .located (.glob 0x1FFC) 0⟩
    let x := entry0 .store .glob l
    let s : State := { paged with g := { paged.g with olog := [x] } }
    s.g.entry 31 = some x ∧ s.placeHeld (.glob 0x1FFC) = false ∧ s.awaitsEngine s.g x [31] = false ∧
    (∀ i : Fin 4, s.physKind (0x1FFC + i.val) = .dev 0) ∧ s.delivers (dieOf s.g.tile) 0x1FFC 0 = true := by decide

theorem witness_AccessSteps_others :
    let i : State := { ready with invals := [⟨0, 5, 1, false⟩, ⟨0, 6, 1, true⟩] }
    let a : State := { paged with g := { paged.g with ta := [(15, { Aperture.invalid with v := true, pending := true, base := 0x1000, cap := 16 })] } }
    let m : MigUnit := ⟨3, 0, 0, 9, 0, some ⟨5, 1, 0⟩, [], none⟩
    let u : State := { ready with clock := 512, units := [m, { m with unit := 4, moving := none, settled := some 0 }] }
    i.invals.any (fun x => decide (x.tile = 0) && decide (x.sector = 5) && !x.received) = true ∧ i.g.gid ≠ 0 ∧
    i.invals.any (fun x => decide (x.gid = i.g.gid) && x.received) = true ∧ (a.g.rta 15).v = true ∧ (a.g.rta 15).pending = true ∧
    a.transHeld (a.req a.g) (a.g.rta 15).base.toNat .read = false ∧ chipOf (65536 * m.unit) = u.chip.toNat ∧
    (a.setAperture (a.req a.g) (a.g.rta 15) 0x1000 16).2.g = a.g ∧ u.units.find? (fun x => decide (x.unit = 3)) = some m ∧
    512 ≤ u.clock - 0 ∧ u.units.find? (fun x => decide (x.unit = 4)) = some { m with unit := 4, moving := none, settled := some 0 } ∧
    u.ahead 0 = false := by decide

/-- A command of a group that is gone. -/
def cmd0 : Cmd := { ready.capture 0 0 [] 0 0 0 0 0 with id := 5, gid := 9, blk := [0x1000, 0, 0x400000001, 0] }

/-- A collective of two chips, this one rank 0: their table in memory. -/
def chips : State := { ready with mem := [(0, 2), (8, 0x20), (0x22, 1)] }

theorem witness_EngineAndWaitSteps :
    let c1 : Cmd := { cmd0 with started := true }
    let c2 : Cmd := { c1 with pos := 4, landed := 4 }
    let a : State := { ready with cmds := [cmd0], teams := [team0] }
    let b : State := { ready with cmds := [c1], teams := [team0] }
    let d : State := { ready with cmds := [c2], teams := [team0] }
    a.cmd 5 = some cmd0 ∧ cmd0.kind = 0 ∧ cmd0.started = false ∧ cmd0.error = none ∧ a.startHeld cmd0 = false ∧ a.cmdBound cmd0 = false ∧
    a.unreachable cmd0 = false ∧ cmd0.dest = [] ∧ a.postFits a = true ∧ a.cmdSwapped cmd0 = false ∧
    (b.tile c1.tile).trans = none ∧ b.cmd 5 = some c1 ∧ c1.comp = 0 ∧ c1.pos < b.cmdTotal c1 ∧ b.cmdBound c1 = false ∧ d.cmd 5 = some c2 ∧ d.cmdTotal c2 ≤ c2.landed ∧
    d.cmdSettled c2 = true ∧ d.tiles.any (fun x => x.landing.any (fun y => decide (y.cmd = 5))) = false ∧ d.cmdOver c2 = true := by decide

theorem witness_EngineSteps :
    let c1 : Cmd := { cmd0 with started := true }
    let g : State := { ready with cmds := [cmd0] }
    let k : Cmd := { cmd0 with kind := 4, nth := 0, blk := [0, 0, 0, 2, 0, 0, 0, 0, 0] }
    let e : State := { chips with cmds := [k], ctxs := [{ Context.fresh 0 with colls := [(0, 1)] }] }
    let m : PeerMsg := ⟨0, 0, 0, 1, 0, 2, 0, 0, 0, 0, List.replicate 8 0⟩
    let sub : Cmd := { c1 with comp := 2, landed := 4 }
    let done : Cmd := { c1 with comp := 1, compPlace := some (.scr 1 0) }
    let t : State := { ready with teams := [team0] }
    g.cmd 5 = some cmd0 ∧ g.startHeld cmd0 = false ∧ g.cmdBound cmd0 = true ∧ e.unreachable k = true ∧ e.cmdBound k = false ∧ e.startHeld k = false ∧
    (sub.subDue 4).isSome = true ∧ t.cmdTotal sub = 4 ∧ t.cmdSettled sub = true ∧ c1.subDue (t.cmdTotal c1) = none ∧
    t.objectWaits done = false ∧ (t.tile c1.tile).trans = none ∧ ({ c1 with asked := 4 } : Cmd).pos < ({ c1 with asked := 4 } : Cmd).asked ∧
    (t.objectOf done).1 = some (.scr 1 0) ∧ (t.objectOf done).2.objectHeld (.scr 1 0) = false ∧ t.team 1 = some team0 ∧ team0.saved = false ∧
    e.peerMsgs = [] ∧ m.nth < mapGet (fun _ => 0) (e.ctx m.ctx).colls m.group ∧
    e.cmds.find? (fun c => !c.done && c.error.isNone && c.matchedBy m) = some k ∧
    (match e.collOf k with
     | some x => decide (m.op = k.op) && decide (m.n = x.n) && decide (m.typ = x.typ) && decide (m.red = x.red) && decide (m.root = x.root) &&
         decide (m.rank < x.members.length) && decide (m.rank ≠ x.rank) && decide (m.data.length = x.share k.op m.rank) &&
         decide ((k.from_ x.rank).length < (x.own k.op).2) && { k with peers := [(0, List.replicate 8 0), (1, List.replicate 8 0)] }.gathered x &&
         decide (0 < e.cmdTotal k)
     | none => false) = true ∧ k.peers.any (fun p => decide (p.1 = m.rank)) = false := by decide

theorem witness_EngineAndWaitSteps_waits :
    let l : OlLane := ⟨0, 4080, none, 0, 0, .located (.scr 1 4080) 0⟩
    let w : Wait := ⟨false, 31, 0, 0, 63, none, some 0, none⟩
    let s1 := holding (.wait false) .scr l
    let sp (w : Wait) : Split := { sp0 with park := .ctr w }
    let q : Split := { sp0 with park := .quiet 0 1 0 }
    let go (w : Wait) : State := { s1 with g := { s1.g with splits := [sp w], run := false } }
    let qs : State := { ready with g := { placedGroup with splits := [q], run := false } }
    (go w).g.away = false ∧ ((go w).tile (go w).g.tile).trans = none ∧ (go w).goneScratch (.scr 1 4080) = false ∧ (go w).g.split 0 = some (sp w) ∧ (go w).waitReads (go w).g w = some (.scr 1 4080, 0, 0, 0) ∧
    (go w).atomPoison (go w).g (.scr 1 4080) 16 0 = false ∧ w.target.toNat ≤ (0 : W64).toNat ∧
    (go { w with target := 1 }).waitReads (go { w with target := 1 }).g { w with target := 1 } = some (.scr 1 4080, 0, 0, 0) ∧
    (0 : Nat) ≤ (go w).dt ∧ ((go w).g.entry w.entry).isSome = true ∧ qs.g.split 0 = some q ∧ (qs.tile qs.g.tile).trans = none ∧ qs.drained qs.g 0 1 0 = true := by decide

theorem witness_LockSteps :
    let r : LockReq := ⟨0, 5, false, none, 2, 0, 4, false, false⟩
    let s : State := { locking [] [] with g := { (locking [] []).g with lreq := some r } }
    let o : LockRec := ⟨0, 0, 9, true, 5, none, 0⟩
    let g : State := { locking [] [] with g := { (locking [] []).g with lreq := some { r with granted := true, arrived := true } } }
    let f : State := { locking [] [⟨0, 5, none⟩] with g := { (locking [] [⟨0, 5, none⟩]).g with lrel := [0] } }
    let m : State := { ready with woundMsgs := [⟨1, 0, 7⟩] }
    let e : State := { m with g := { placedGroup with run := false, splits := [{ sp0 with park := .exitDrain 0xFFFFFFFF }] } }
    s.requestHeld s.g r = false ∧ (m.tile m.g.tile).trans = none ∧
    (let k : State := { f with locks := [⟨0, 0, 1, true, 5, none, 0⟩] }
     k.locks.all (fun x => k.lockReaches k.g x.die) = true ∧ k.releases k.g = true) ∧
    s.g.live = true ∧ s.g.lreq = some r ∧ s.lockDie s.g r.name = (0, s) ∧ s.admits s.g.ctx r.name s.g.gid r.mode (s.waiters s.g.ctx r.name) = true ∧
    ({ s with locks := [o] } : State).admits 0 0 1 5 (({ s with locks := [o] } : State).waiters 0 0) = false ∧
    g.g.split 0 = some sp0 ∧ (g.tile g.g.tile).trans = none ∧ f.g.lrel = [0] ∧ f.g.lend = false ∧
    f.g.storesBefore (f.g.lockSeq.getD f.g.seq) = false ∧ f.g.acks = 0 ∧ f.anyGroup 1 = some f.g ∧ f.releases f.g = true ∧
    m.g.ending = false ∧ m.g.lreq = none ∧ m.g.role = .plain ∧ m.woundMsgs = [⟨1, 0, 7⟩] ∧ e.g.ending = true ∧ e.group 1 = some e.g := by decide

/-- A package whose first page tables map the VAs from 0 to their own bytes, with a hardware queue of one entry. -/
def queued : State :=
  let s : State := { paged with
    ctxs := [{ Context.fresh 0 with ptroot := 0x2000 }]
    mem := [(0x2000, 1), (0x2001, 0x30), (0x3000, 1), (0x3001, 0x40), (0x4000, 0x3B), (0x4001, 0x03)] }
  (s.winSet (queueBase 16383) 0x401).winSet (queueBase 16383 + 16) 1

theorem witness_GridSteps :
    let s := queued
    let r := s.deviceTranslate 0 (s.ringVa 16383 (s.qHead 16383)) .read
    s.deviceHeld 0 (s.ringVa 16383 (s.qHead 16383)) .read = false ∧ s.headReady 16383 = true ∧ s.queueCtx 16383 = 0 ∧ s.hasCtx 0 = true ∧ ({ s with ctxs := [] } : State).hasCtx 0 = false ∧
    (match r.1 with
     | .ok pa => r.2.cleanRange pa 64 && !badCompletion (Desc.ofBytes ((upFrom pa 64).map r.2.physByte)).completion
     | .error _ => false) = true ∧
    (let x : Grid := { grid0 with accepted := false }
     let a : State := { ready with grids := [x] }
     a.keyHeld x = false ∧ a.nextEntry = some 0 ∧ a.grids[0]? = some x ∧ x.err = none ∧ x.child = true ∧ x.desc.flags.getLsbD 3 = false ∧ x.desc.flags.getLsbD 4 = false) ∧
    (let d : State := (({ paged with grids := [grid0] } : State).setReady (clusterBit 0) true)
     d.grid 7 = some grid0 ∧ grid0.waiting = true ∧ (d.ctx grid0.ctx).away = false ∧ d.swapped.contains (dieOf 0) = false ∧ d.thirdWants grid0 = false ∧
       d.grids.any (d.goesFirst grid0) = false ∧ d.areaHeld [0, 0] = false ∧ grid0.desc.flags.getLsbD 1 = false ∧ (d.placeSet 7 0 0).isSome = true) := by decide

theorem witness_GridSteps_ends :
    let t : Team := { team0 with ended := true }
    let s : State := { State.reset with teams := [t] }
    let x : Grid := { grid0 with done := true }
    let y : State := { State.reset with grids := [x] }
    let z : Team := { team0 with away := true }
    let g1 : Group := { placedGroup with away := true, run := false }
    let r : State := (({ paged with g := g1, teams := [z], grids := [grid0] } : State).setReady (clusterBit 0) true)
    let p : State := { State.reset with swap := some ⟨0, true, 9, 0⟩ }
    t.own = true ∧ (s.grid t.serial).any (fun x => s.recordHeld x t) = false ∧ y.completeHeld x = false ∧
    s.team 1 = some t ∧ t.role = .plain ∧ t.chord = none ∧ s.teamDone t = true ∧ s.grid t.serial = none ∧
    y.grid 7 = some x ∧ y.teams.any (fun t => decide (t.serial = 7)) = false ∧
    r.team 1 = some z ∧ r.resumable z = true ∧
    r.teams.any (fun x => r.resumable x && decide (x.tile = z.tile) && decide (r.resumePrio z < r.resumePrio x)) = false ∧
    (State.resumeAll 0 (r.setOf 1) r).isSome = true ∧
    p.swapBusy ⟨0, true, 9, 0⟩ = false ∧ p.group 9 = none := by decide

/-- The checking state of a team whose trailer is team 2. -/
def chord0 : Chord where
  level := 2
  open_ := 0
  openDt := 0
  stores := 0
  segs := []
  vers := []
  thirdVers := []
  log := []
  kept := []
  runs := []
  traps := []
  checks := []
  trailer := 2
  trailerSeg := 0
  third := none
  thirdWait := false
  mism := 0
  late := 0
  released := false
  owed := []
  slice := 0
  sliceDie := 0
  forced := none

/-- A leader with its trailer on another pair, and perhaps a third run. -/
def checked (c : Chord) (lead trail : List Fold) (third : List Team) : State :=
  let cl : List Close := [⟨0, 0, 1, 1⟩]
  { State.reset with
    teams := [{ team0 with role := .leader, serial := 7, chord := some c, folds := lead, closes := cl },
      { team0 with tid := 2, serial := 7, tile := 8, role := .trailer, folds := trail, closes := cl }] ++ third
    grids := [grid0]
    nextId := 4
    dt := 2000 }

/-- A leader before a compare point and at the slack limit, and flips past the allotment, of a running group and of one that stands. -/
theorem witness_GearAndSegments_more :
    let lead (n : Nat) : State := { ready with
      g := { placedGroup with role := .leader }
      teams := [{ team0 with role := .leader, chord := some { chord0 with segs := (upFrom 0 n).map (fun k => ⟨k, .closed, false, 0, 0⟩), open_ := n } },
        { team0 with tid := 2, tile := 8, role := .trailer }] }
    let s := inTrap [(61, 0x7E00), (62, 0)]
    let u : Uses := { sr := [62, 61], sw := [63], priv := true, late := true, logged := true }
    let f (x y : W64) : State :=
      { s with g := { s.g with s := [(61, y), (62, x)], allot := 8 }, others := [{ s.g with gid := 9, tile := 1, run := false }] }
    let at_ (x y : W64) (gid : Nat) (run past : Bool) : Bool :=
      can (f x y) (.finj h0 63 62 61) u && !badFlip x y && (match (f x y).groupAt (field x 0 10) (field x 10 6) with
        | some t => decide (t.gid = gid) && (t.run == run) && ((f x y).partDies (f x y).g).contains (dieOf t.tile) &&
            ((!y.getLsbD 0 && decide (t.allot ≤ field y 1 8)) == past)
        | none => false)
    can (lead 0) (.seg h0) {} = true ∧ (lead 0).slackFull (lead 0).g = false ∧ (lead 0).g.role = .leader ∧ ((lead 0).team 1).isSome = true ∧
    can (lead 8) (.seg h0) {} = true ∧ (lead 8).slackFull (lead 8).g = true ∧ ((lead 8).chordOf (lead 8).g).any (fun c => decide (c.level ≠ 0)) = true ∧
    (lead 8).g.newSplits = [] ∧ at_ 0 0x10 1 true true = true ∧ at_ 0 0x0E 1 true false = true ∧ at_ 1 0x7DFE 9 false false = true := by decide

/-- A follower whose log has a trap where it stands. -/
theorem witness_ResultsAndTrapsCome_follower :
    let l : TrapLog := ⟨0, 0, 0, 0x2012, placedPc, placedPc, 0xFFFFFFFF, 0, 0, 0, 0⟩
    let c : Chord := { chord0 with traps := [l], trailer := 1 }
    let s : State := { ready with
      g := { placedGroup with run := false, role := .trailer }
      teams := [{ team0 with role := .trailer }, { team0 with tid := 2, tile := 8, role := .leader, chord := some c }] }
    s.group 1 = some s.g ∧ s.dueOf s.g = none ∧ s.trappable s.g = true ∧ s.g.role.follows = true ∧ s.followTrap s.g = some l := by decide

theorem witness_CheckSteps :
    let f : Flip := ⟨true, 63, 0, 63, 9, 4, 0⟩
    let s : State := { ready with g := { placedGroup with run := false, flip := [f] } }
    let o := checked chord0 [] [] []
    s.g.live = true ∧ s.g.away = false ∧ s.g.run = false ∧ s.g.flip = [f] ∧ f.sreg = true ∧ f.reg < 64 ∧ f.bit < 64 ∧ s.group f.issuer = none ∧
    ((o.team 1).bind (fun t => t.chord)) = some chord0 ∧ chord0.level ≠ 0 ∧ chord0.segs = [] ∧ chord0.trailerSeg ≤ chord0.open_ ∧
    2000 ≤ o.elapsed chord0.trailerDt ∧ State.reset.dieOn 3 = true ∧ State.reset.zhr.diesFenced.getLsbD 3 = false ∧
    ((State.reset.winSet 0x40 2).winGet 0x40).getLsbD 1 = true ∧ ((State.reset.winSet 0x40 0).winGet 0x40).getLsbD 1 = false ∧
    (State.reset.winSet 0x40 2).dieOn 3 = true ∧ correctable 2 (576 * 36 - 1) = true ∧ correctable 3 (12 * 1536 - 1) = true ∧ correctable 4 (576 * 128 - 1) = true ∧
    (let b : State := { State.reset with buckets := [⟨0, 0, 1, 0⟩], dt := bucketPeriod 0 }
     (b.bucket 0 0).level ≠ 0 ∧ bucketPeriod 0 ≤ b.elapsed (b.bucket 0 0).since) ∧ s.anyGroup 1 = some s.g ∧
    (({ ready with teams := [team0] } : State).team 1) = some team0 ∧ team0.saved = false := by decide

/-- Whether a compare of the oldest segment finds every contribution known, and whether the signatures agree. -/
def compares_ (s : State) (third : Option Nat) : Bool × Bool :=
  match s.team 1, s.team 2 with
  | some t, some u =>
    let owed := s.owedNow 1 ++ s.heldNow 2 ++ (match third with
      | some k => s.heldNow k
      | none => [])
    (s.runClosed t owed 0 && s.followClosed t.closes u owed 0 && (match third.bind s.team with
      | some w => s.followClosed t.closes w owed 0 && decide (w.sigs [] owed 0 = t.sigs [] owed 0)
      | none => third.isNone), decide (t.sigs [] owed 0 = u.sigs [] owed 0))
  | _, _ => (false, false)

theorem witness_CheckSteps_compare :
    let x : Seg := ⟨0, .closed, false, 0, 0⟩
    let c : Chord := { chord0 with segs := [x], open_ := 1 }
    let v : Chord := { c with segs := [{ x with st := .voting }], third := some 3 }
    let fold : Fold := ⟨0, 0, true, 1, 0⟩
    let good := checked c [fold] [fold] []
    let bad := checked c [fold] [] []
    let vote := checked v [fold] [] [{ team0 with tid := 3, role := .third, tile := 16, folds := [fold], closes := [⟨0, 0, 1, 1⟩] }]
    let k : Check := ⟨0, [], [], [], [], [], 0⟩
    let w : Chord := { c with segs := [{ x with st := .voting }], checks := [k], thirdWait := true }
    let p := (({ checked w [] [] [] with win := paged.win } : State).setReady (clusterBit 16) true).winSet 0x030018 1
    good.commitHeld c.vers 0 = false ∧ vote.commitHeld v.thirdVers 0 = false ∧
    (p.team 1).any (fun t => !p.betterThird t w 16) = true ∧
    (good.closeRun 2 = good ∧ compares_ good none = (true, true)) ∧ (bad.closeRun 2 = bad ∧ compares_ bad none = (true, false)) ∧
    ((vote.closeRun 3).closeRun 2 = vote ∧ compares_ vote (some 3) = (true, false)) ∧
    ((match p.team 1 with
      | some t => p.thirdFits t w 16
      | none => false) = true ∧ w.oldestCheck = some k ∧ w.checkKnown k = true ∧ (p.takeBanks 16 4096).2 = p ∧
      (p.team 1).any (fun t => !p.sliceBad t w) = true ∧ ∀ y ∈ p.teams, y.tid < p.nextId) ∧
    (let l := { checked c [] [] [] with grids := [{ grid0 with prhold := 0x100000000 }] }
     (l.bytesOver 0 || l.timeOver 0) = true ∧ l.oldestClosed 0 = some (0, 1, 0) ∧
       (l.team 1).any (fun t => t.chord.any (fun c => l.commitHeld c.vers 0)) = false) ∧
    (let l := { checked { chord0 with vers := [⟨0, 0, 1⟩] } [] [] [{ team0 with tid := 3, serial := 8, role := .leader, chord := some c }] with
       grids := [grid0, { grid0 with serial := 8, prhold := 0x100000000, chctl := 16 }] }
     (l.bytesOver 0 || l.timeOver 0) = true ∧ l.oldestClosed 0 = none ∧ l.closedLeft 0 = false ∧ l.oldestOpen 0 = some (0, 1)) := by decide

theorem witness_GearSteps :
    let g1 : Group := { placedGroup with gearReq := true, s := [], inh := false }
    let n : State := { ready with g := g1, dt := 20000 }
    let tr : State := { ready with tiles := [{ Tile.fresh 0 with trans := some true, since := 0 }], dt := 600 }
    let tn : State := { ready with tiles := [{ Tile.fresh 0 with trans := some false, fgear := true, since := 1 }], dt := 300 }
    let q : State := { State.reset with clus := [{ State.reset.clu 0 with stretched := true }] }
    isTile 0 = true ∧ ((n.cancelLapsed 0).recount (pairOf 0)).starts 0 = true ∧ ((ready.cancelLapsed 0).recount (pairOf 0)).starts 0 = false ∧
    (tr.tile 0).trans = some true ∧ (tr.tile 0).landing = [] ∧ 600 ≤ tr.elapsed (tr.tile 0).since ∧
    tr.groups.any (fun g => g.live && g.stop && !g.away) = false ∧ (ready.pair 0).burn = false ∧
    (({ ready with pairs := [{ Pair.fresh 0 with burn := true }] } : State).pair 0).burn = true ∧
    (tn.tile 0).trans = some false ∧ (tn.tile 0).landing = [] ∧ tn.elapsed (tn.tile 0).since < 300 ∧
    (let s0 := (((pairTiles 0).foldl (fun s t => s.cancelLapsed t) n).recount 0)
     let s1 := s0.measured 0 1000 1000
     s1.candidate 0 = some 0 ∧ s1.grants 1000 1000 1000 1000 = true ∧ s1.grants 1000 1000 1000 0 = false ∧ (s1.tile 0).deferred = none) ∧
    (((pairTiles 209).foldl (fun s t => s.cancelLapsed t) State.reset).recount 209).candidate 209 = none ∧ 209 < 256 ∧ 209 % 64 < 18 ∧
    (let d : State := { n with tiles := [{ Tile.fresh 0 with deferred := some 0 }], dt := 10000000 }
     let s1 := (d.cancelLapsed 0).recount (pairOf 0)
     (s1.tile 0).deferred = some 0 ∧ s1.balWait ≤ s1.elapsed 0 ∧ s1.wantsChange 0 = true ∧ s1.candidate (pairOf 0) = some 0) ∧
    227 < 256 ∧ 227 % 64 < 36 ∧ (q.clu 0).stretched = true ∧ (State.reset.winSet 0x010010 2800).capBinds = false ∧
    (State.reset.winSet 0x010010 2800).clocksOk (State.reset.clu 227) 2100 550 3000 = true ∧
    (let c : State := { State.reset with capEnd := some 0 }
     c.capEnd = some 0 ∧ c.ahead 0 = false) := by decide

/-- A package whose host port is up. -/
def up : State := paged.setReady 12 true

theorem witness_PackageSteps :
    let port : State := paged.winSet (portCtl 47 + 8) 1
    up.physKind 0x1FFF = .dev 0 ∧ up.portUp = true ∧ up.lineBusy 0x1FFF = false ∧ up.waitsBehind 0x1FFF = false ∧ inLine 0x1FFF 1 = true ∧
    ((up.homeRead none 0 0x1FFF 0).physRead 0x1FFF 1).isSome = true ∧ (up.hostTake 0x1FFF).hostLines.contains (0x1FFF / 64) = true ∧ (port.winGet (portCtl 47 + 8)).getLsbD 0 = true ∧ chipOf 0x1FFF = port.chip.toNat ∧
    port.lineHeld 0x1FFF = false ∧ (paged.winGet (portCtl 47)).getLsbD 0 = true ∧ (paged.setReady 399 true).ready (352 + 47) = true ∧
    ((paged.setReady 399 true).winGet (portCtl 47)).getLsbD 0 = true ∧ port.routedBy 47 = [] ∧
    ({ paged with routePend := [(0xFFF, 1)] } : State).routePend = [((0xFFF : BitVec 12).toNat, 1)] ∧
    up.lineBusy (up.hostLine 0x1FFFFFFFFFF) = false ∧ up.waitsBehind (up.hostLine 0x1FFFFFFFFFF) = false ∧
    State.reset.dieOn 0 = true ∧ State.reset.zhr.diesFenced.getLsbD 0 = false ∧ 64 * 0x1FFFFFFFFFF < 0x800000000000 ∧
    (State.reset.winGet 0x48).getLsbD 0 = false ∧
    (let y : State := { State.reset.winSet 0x48 2 with dt := 10000000 }
     (y.winGet 0x48).getLsbD 0 = false ∧ (y.winGet 0x48).getLsbD 1 = true ∧ 10000000 ≤ y.elapsed y.lastMessage ∧ 1000 ≤ y.elapsed y.slewAt ∧
       y.dt < (BitVec.ofNat 64 10000020).toNat ∧ (BitVec.ofNat 64 10000020).toNat ≤ y.dt + 20 ∧ y.dt + 20 < (BitVec.ofNat 64 10000021).toNat ∧
       (BitVec.ofNat 64 9999979).toNat + 20 < y.dt) ∧
    ({ State.reset with half := true } : State).half = true ∧ State.reset.dieOn 3 = true ∧
    (let b : State := { State.reset with flips := [⟨3, 7, false, 0⟩] }
     b.flips.find? (fun x => decide (x.die = 3)) = some ⟨3, 7, false, 0⟩ ∧ b.hostLines = [] ∧ b.owners = [] ∧ (b.biasPlace 7).2 < 8) ∧
    (let i : State := { State.reset.winSet 0x020000 1 with dt := 1000000000 }
     (i.winGet 0x020000).getLsbD 0 = true ∧ max 1 (field (i.winGet 0x020000) 32 32) * 1000000000 ≤ i.elapsed i.snapSince) ∧
    (let d : State := { State.reset with snapDue := [3] }
     (d.partOf 3).filter (fun k => d.snapDue.contains k) ≠ [] ∧
       d.groups.any (fun g => g.live && g.run && !g.halted && !g.away && (d.partOf 3).contains (dieOf g.tile)) = false) ∧
    ({ State.reset with streaming := true } : State).streaming = true ∧ 0xFFFFF8 % 8 = 0 ∧ 0xFFFFF8 < 0x1000000 ∧
    State.reset.canReady 12 = true ∧ State.reset.canReady 399 = true ∧ State.reset.biasBase (11 / 3) = 0 ∧
    (let b : State := { State.reset.winSet (dieBlock 3) 0x100000 with mem := [(0x6FFFFF, 7), (0x700000, 8)] }
     b.canReady 11 = true ∧ b.biasBase (11 / 3) = 0x100000 ∧ (upFrom 0 12).all (fun n => !b.ready n) = true ∧ (b.setReady 10 true).ready 10 = true ∧
       b.physKind (b.chip.toNat * 2 ^ 48 + b.biasBase (11 / 3)) = .dev 0 ∧ b.memOk = true ∧
       (match exec (.functionReady 11) b with
         | .next t => decide (t.mem = [(0x700000, 8)])
         | _ => false) = true) := by decide

/-- Accesses that wait, a flit for another chip, a route lost, times of a root on either side, and a stream. -/
theorem witness_PackageSteps_more :
    let port : State := paged.winSet (portCtl 47 + 8) 1
    (let w : State := { up with waiting := [.snoop 0, .host 0x1FFF 0 1 []] }
     w.waitsBehind 0x1FFF = true ∧ w.waitsBehind (w.hostLine 0) = true ∧ w.portUp = true) ∧ port.waitsBehind 0x1FFF = false ∧
    chipOf (2 ^ 48) ≠ port.chip.toNat ∧ port.servingChip (2 ^ 48) ≠ port.chip ∧
    (let r : State := { port.winSet 0x080008 0x8000800000000000 with routePend := [(1, 0x8000000000000000)] }
     let x := { r.winSet 0x080008 0x8000000000000000 with routePend := [] }
     (1 : BitVec 12) ≠ r.chip ∧ r.routeUp 1 = true ∧ (0x8000000000000000 : W64).getLsbD 63 = true ∧ x.routeUp 1 = false) := by
  refine ⟨?_, ?_, ?_, ?_, ?_⟩ <;> decide

theorem witness_PackageSteps_time :
    ({ State.reset with half := true } : State).dt ≤ ({ State.reset with half := true } : State).rootNow + 20 ∧
    ({ State.reset with half := true, dt := 21 } : State).rootNow + 20 < ({ State.reset with half := true, dt := 21 } : State).dt ∧
    (let y : State := { State.reset.winSet 0x48 0 with dt := 100 }
     (y.winGet 0x48).getLsbD 1 = false ∧ y.dt < (120 : W64).toNat ∧ (120 : W64).toNat ≤ y.dt + 20 ∧ (80 : W64).toNat ≤ y.dt ∧
       y.dt ≤ (80 : W64).toNat + 20) ∧
    (let t : State := { (State.reset.winSet 0 0xFFFFFFFFFFFFFFFF).winSet 8 0xFFFFFFFFFFFFFFFF with streaming := true, form := 2 }
     let u : State := t.winSet 0x020010 0xC001000000
     t.streaming = true ∧ t.streamHeld = false ∧ t.stream.2 = false ∧ u.streaming = true ∧ u.streamHeld = false ∧ u.stream.2 = true) := by decide

theorem witness_ManagementCommands :
    let f : State := { up with tiles := [{ Tile.fresh 0 with fencedField := true }] }
    up.portUp = true ∧ (up.winGet 0x010018) = 0 ∧ ((up.winGet 0x010018).toNat < (1 : W64).toNat) ∧
    (let c := up.winSet 0x010018 5
     c.portUp = true ∧ (4 : W64).toNat < (c.winGet 0x010018).toNat) ∧ (1 : BitVec 32) ≠ 0 ∧
    f.portUp = true ∧ (f.tile (tileOfIndex 0)).fencedField = true ∧ (f.tile (tileOfIndex 575)).fencedField = false ∧ 575 < 576 ∧
    up.frozen = false ∧ ({ up with frozen := true } : State).portUp = true ∧ 0xFFFFF8 % 8 = 0 ∧ 0xFFFFF8 < 0x1000000 := by decide

theorem witness_MemoryReadsBack :
    paged.physKind 0x1000 = .dev 0 ∧ paged.physKind 0x1001 = .dev 0 ∧ paged.memOk = true ∧ 0x1001 < 2 ^ 60 := by decide

theorem witness_StepKeepsMemory : paged.memOk = true ∧ (match step paged with
    | .next t => t.memOk
    | _ => false) = true := by decide

/-! ## Results worked out by hand from the spec -/

/-- The state after an instruction of the running group; the group's own state where it does not go on. -/
def after (s : State) (i : Instr) : State :=
  match exec i s with
  | .next t => t
  | _ => s

/-- A register of a lane after an instruction. -/
def lane (s : State) (i : Instr) (r l : Nat) : W32 := (after s i).g.rv r l

/-- A group with the same values in lane 31 of v1 and v2. -/
def vs (x y : W32) : State := { ready with g := { placedGroup with v := [(63, x), (95, y)] } }

/-- 04 R95: sums wrap, the high product is signed, shifts take their count modulo 32. -/
theorem test_integer : lane (vs 0xFFFFFFFF 2) (.iadd h0 3 1 2) 3 31 = 1 ∧ lane (vs 0xFFFFFFFF 2) (.imulh h0 3 1 2) 3 31 = 0xFFFFFFFF ∧
    lane (vs 0xFFFFFFFF 2) (.imulhu h0 3 1 2) 3 31 = 1 ∧ lane (vs 0x80000000 33) (.sar h0 3 1 2) 3 31 = 0xC0000000 ∧
    lane (vs 0x80000001 33) (.rotl h0 3 1 2) 3 31 = 3 := by decide

/-- 04 R100's worked examples. -/
theorem test_bfx : lane (vs 0xF30 0) (.bfx h0 3 1 4 1 0 8) 3 31 = 0xFFFFFFF3 ∧ lane (vs 0xF30 0) (.bfx h0 3 1 28 1 0 8) 3 31 = 0 := by decide

/-- 05 R118, R123, R129: 1 + 2^-24 is inexact and rounds to even; 3 * 2 is 6 without a flag. -/
theorem test_float : lane (vs 0x3F800000 0x33800000) (.fadd h0 3 1 2) 3 31 = 0x3F800000 ∧
    (after (vs 0x3F800000 0x33800000) (.fadd h0 3 1 2)).g.fpstat = 0x10 ∧ lane (vs 0x40400000 0x40000000) (.fmul h0 3 1 2) 3 31 = 0x40C00000 ∧
    (after (vs 0x40400000 0x40000000) (.fmul h0 3 1 2)).g.fpstat = 0 := by decide

/-- 03 R67: CALL leaves its return address in s63 and jumps from its own PC. -/
theorem test_call : (after ready (.call h0 2)).g.rs 63 = 0x1004 ∧ (after ready (.call h0 2)).g.splits.map (fun x => x.pc) = [0x1008] := by decide

/-- 12 R318, R328: TRAP saves its own PC and the next, its code in TADDR, and goes to the handler with INH set; without a handler it halts. -/
theorem test_trap : (let t := after handled (.trap h0 0x2A)
    t.g.tpc = 0x1000 ∧ t.g.tresume = 0x1004 ∧ t.g.taddr = 0x2A ∧ t.g.tcause = 0x0B ∧ t.g.inh = true ∧ t.g.splits.map (fun x => x.pc) = [0x2000]) ∧
    (after ready (.trap h0 0x2A)).g.halted = true := by decide

/-- 02 R36, R40: a register past the allotment is a Register Bounds trap. -/
theorem test_bounds : (after { handled with g := { placedGroup with allot := 8 } } (.iadd h0 8 0 0)).g.tcause = 0x03 := by decide

/-- A step fetches the word placed and runs it: SMOVI s9, #-1. -/
theorem test_step : (match step (State.reset.withFetchWord 64 0xFFFFFFFF83890007) with
    | .next t => decide (t.g.rs 9 = 0xFFFFFFFFFFFFFFFF)
    | _ => false) = true := by decide

end Sys2Proof.Tests
end

section
/-! The value and the flag of rounding to an integer (00 R8; 05 R122), mode by mode. -/

namespace Sys2Proof.Machine

@[simp] theorem bitOf_false : bitOf false = 0 := rfl

@[simp] theorem bitOf_true : bitOf true = 1 := rfl

/-- A division rounded up adds one to the quotient exactly where something is left over. -/
theorem div_add_bitOf_mod_ne_zero (m : Nat) {d : Nat} (hd : 0 < d) :
    m / d + bitOf (decide (m % d ≠ 0)) = (m + d - 1) / d := by
  have hdm : d * (m / d) + m % d = m := Nat.div_add_mod m d
  have hlt : m % d < d := Nat.mod_lt m hd
  have hsplit : m + d - 1 = (m % d + d - 1) + d * (m / d) := by omega
  rw [hsplit, Nat.add_mul_div_left _ _ hd, Nat.add_comm (m / d)]
  congr 1
  by_cases hrem : m % d = 0
  · simp [hrem, Nat.div_eq_of_lt (Nat.sub_lt hd Nat.one_pos)]
  · have hone : (m % d + d - 1) / d = 1 := Nat.div_eq_of_lt_le (by omega) (by omega)
    simp [hrem, hone]

/-- Where no bit is dropped the remainder is never half a unit, so the guard of a tie, `k ≠ 0`, adds nothing. -/
theorem shift_ne_zero_of_half {m k : Nat} (h : 2 * (m % 2 ^ k) = 2 ^ k) : k ≠ 0 := by
  rintro rfl
  omega

section
variable (s : Bool) (m k : Nat)

@[simp] theorem roundShift_inexact (md : RMode) (sticky : Bool) :
    (roundShift md s m k sticky).2 = (decide (m % 2 ^ k ≠ 0) || sticky) := rfl

@[simp] theorem roundShift_rz (sticky : Bool) : (roundShift .rz s m k sticky).1 = m / 2 ^ k := rfl

theorem roundShift_ru (sticky : Bool) :
    (roundShift .ru s m k sticky).1 = m / 2 ^ k + bitOf ((decide (m % 2 ^ k ≠ 0) || sticky) && !s) := rfl

theorem roundShift_rd (sticky : Bool) :
    (roundShift .rd s m k sticky).1 = m / 2 ^ k + bitOf ((decide (m % 2 ^ k ≠ 0) || sticky) && s) := rfl

theorem roundShift_sr (rb : Nat) (sticky : Bool) : (roundShift (.sr rb) s m k sticky).1 =
    if 2 ^ 32 ≤ m % 2 ^ k * 2 ^ 32 / 2 ^ k + rb then m / 2 ^ k + 1 else m / 2 ^ k := by
  simp only [roundShift, bitOf, decide_eq_true_eq]
  split <;> rfl

/-- Toward +∞ a positive value is rounded up and a negative magnitude truncated. -/
theorem roundShift_ru_exact : (roundShift .ru s m k false).1 = if s = true then m / 2 ^ k else (m + 2 ^ k - 1) / 2 ^ k := by
  rw [roundShift_ru, ← div_add_bitOf_mod_ne_zero m (Nat.two_pow_pos k)]
  cases s <;> simp

/-- Toward −∞ a negative magnitude is rounded up and a positive value truncated. -/
theorem roundShift_rd_exact : (roundShift .rd s m k false).1 = if s = true then (m + 2 ^ k - 1) / 2 ^ k else m / 2 ^ k := by
  rw [roundShift_rd, ← div_add_bitOf_mod_ne_zero m (Nat.two_pow_pos k)]
  cases s <;> simp

/-- To nearest, an exact value rounds away where the remainder is above half, or at half with an odd quotient. -/
theorem roundShift_rne_exact : (roundShift .rne s m k false).1 =
    if 2 ^ k < 2 * (m % 2 ^ k) ∨ (2 * (m % 2 ^ k) = 2 ^ k ∧ m / 2 ^ k % 2 = 1) then m / 2 ^ k + 1 else m / 2 ^ k := by
  have hguard : (2 * (m % 2 ^ k) = 2 ^ k ∧ k ≠ 0 ∧ m / 2 ^ k % 2 = 1) ↔ (2 * (m % 2 ^ k) = 2 ^ k ∧ m / 2 ^ k % 2 = 1) :=
    ⟨fun ⟨ht, _, ho⟩ => ⟨ht, ho⟩, fun ⟨ht, ho⟩ => ⟨ht, shift_ne_zero_of_half ht, ho⟩⟩
  simp only [roundShift, bitOf, Bool.false_or, Bool.or_eq_true, Bool.and_eq_true, decide_eq_true_eq, and_assoc, hguard]
  split <;> rfl

/-- What rounding an exact value to nearest keeps: the floor where the remainder is at most half, the next integer where it is at least half,
the even one of the two at half. -/
theorem roundShift_rne_cases :
    let r := (roundShift .rne s m k false).1
    (r = m / 2 ^ k ∧ 2 * (m % 2 ^ k) ≤ 2 ^ k ∨ r = m / 2 ^ k + 1 ∧ 2 ^ k ≤ 2 * (m % 2 ^ k)) ∧ (2 * (m % 2 ^ k) = 2 ^ k → r % 2 = 0) := by
  rw [roundShift_rne_exact]
  split
  next haway => exact ⟨.inr ⟨rfl, by omega⟩, by omega⟩
  next hkept => exact ⟨.inl ⟨rfl, by omega⟩, by omega⟩

/-- Rounding to nearest stays within half a unit, and a value half a unit away is even. -/
theorem roundShift_rne_nearest_even :
    let r := (roundShift .rne s m k false).1
    2 * (r * 2 ^ k) ≤ 2 * m + 2 ^ k ∧ 2 * m ≤ 2 * (r * 2 ^ k) + 2 ^ k ∧
    (2 * (r * 2 ^ k) = 2 * m + 2 ^ k ∨ 2 * m = 2 * (r * 2 ^ k) + 2 ^ k → r % 2 = 0) := by
  intro r
  have hdm : m / 2 ^ k * 2 ^ k + m % 2 ^ k = m := Nat.div_add_mod' m (2 ^ k)
  have hlt : m % 2 ^ k < 2 ^ k := Nat.mod_lt m (Nat.two_pow_pos k)
  obtain ⟨⟨hr, hhalf⟩ | ⟨hr, hhalf⟩, htie⟩ := roundShift_rne_cases s m k
  · have hprod : r * 2 ^ k = m / 2 ^ k * 2 ^ k := congrArg (· * 2 ^ k) hr
    exact ⟨by omega, by omega, fun h => htie (by omega)⟩
  · have hprod : r * 2 ^ k = m / 2 ^ k * 2 ^ k + 2 ^ k := (congrArg (· * 2 ^ k) hr).trans (Nat.succ_mul _ _)
    exact ⟨by omega, by omega, fun h => htie (by omega)⟩

end

/-- Settles O16: the modes one by one, on the exact value m / 2 ^ k. -/
theorem roundingRule : Obligations.RoundingRule := by
  intro s m k r
  obtain ⟨habove, hbelow, htie⟩ := roundShift_rne_nearest_even s m k
  exact ⟨fun md => by rw [roundShift_inexact, Bool.or_false], habove, hbelow, htie, roundShift_rz s m k false,
    roundShift_ru_exact s m k, roundShift_rd_exact s m k, fun rb _ => roundShift_sr s m k rb false⟩

end Sys2Proof.Machine
end

section
/-! The machine right after reset, and a byte of device memory read after a byte written (01 R16, R20; 07 R170). -/

namespace Sys2Proof.Machine

/-- Settles O58: every field after reset is the one that `State.reset` lists, so a context or a cluster never touched is fresh. -/
theorem afterReset : Obligations.AfterReset :=
  ⟨rfl, rfl, rfl, rfl, rfl, rfl, rfl, rfl, rfl, rfl, rfl, rfl, State.reset_memOk, rfl, fun _ => rfl, fun _ _ => ⟨rfl, rfl, rfl⟩⟩

/-- Device memory is that of the package's own chip (15 R391). -/
theorem State.chipOf_of_physKind_dev {s : State} {pa die : Nat} (h : s.physKind pa = .dev die) : chipOf pa = s.chip.toNat := by
  unfold State.physKind at h
  dsimp only at h
  split at h
  · cases h
  · next hchip => exact not_not.mp hchip

/-- A physical address is its chip and its local address. -/
theorem eq_of_chipOf_localOf {pa qa : Nat} (hc : chipOf pa = chipOf qa) (hl : localOf pa = localOf qa) (hp : pa < 2 ^ 60) (hq : qa < 2 ^ 60) :
    pa = qa := by
  unfold chipOf at hc
  unfold localOf at hl
  omega

/-- A byte of device memory written is listed, and is no longer part of a coded range. -/
theorem State.physSet_of_dev {s : State} {pa die : Nat} (h : s.physKind pa = .dev die) (b : Byte) :
    s.physSet pa b = { s with mem := memSet s.mem (localOf pa) b, coded := uncode s.coded pa } := by
  unfold State.physSet
  rw [h]

/-- What a byte of device memory reads as: the free value of a coded range, else what memory lists. -/
theorem State.physByte_of_dev {s : State} {qa die : Nat} (h : s.physKind qa = .dev die) :
    s.physByte qa = (codedAt s.coded qa).getD (memGet s.mem (localOf qa)) := by
  unfold State.physByte
  rw [h]
  cases codedAt s.coded qa <;> rfl

/-- A byte of device memory after a byte of device memory written. -/
theorem State.physByte_physSet {s : State} {pa qa die die' : Nat} (b : Byte) (hp : pa < 2 ^ 60) (hq : qa < 2 ^ 60)
    (hpk : s.physKind pa = .dev die) (hqk : s.physKind qa = .dev die') :
    (s.physSet pa b).physByte qa = if qa = pa then b else s.physByte qa := by
  have hqk' : (s.physSet pa b).physKind qa = .dev die' := by rw [State.physSet_of_dev hpk]; exact hqk
  have hchip : chipOf qa = chipOf pa := (State.chipOf_of_physKind_dev hqk).trans (State.chipOf_of_physKind_dev hpk).symm
  rw [State.physByte_of_dev hqk', State.physByte_of_dev hqk, State.physSet_of_dev hpk]
  simp only [codedAt_uncode, memGet_memSet]
  by_cases heq : qa = pa
  · simp [heq]
  · have hlocal : localOf qa ≠ localOf pa := fun hl => heq (eq_of_chipOf_localOf hchip hl hq hp)
    simp [heq, hlocal]

/-- Settles O59: a read after a write of the sparse array and of the coded ranges, and the canonical form by `memOk_physSet`. -/
theorem memoryReadsBack : Obligations.MemoryReadsBack :=
  fun s pa _ _ _ b hp hq hpk hqk => ⟨State.physByte_physSet b hp hq hpk hqk, memOk_physSet s pa b⟩

end Sys2Proof.Machine
end

section
/-! The canonical form of memory as a proposition about states and outcomes, and how the ways in which the model composes its operations
keep it.  The sections that follow hold one lemma for each operation of the model that gives a state, in the order of the model's files, each
named after its operation: the lemmas compose as the operations do. -/

namespace Sys2Proof.Machine

/-- The device, host and remote memories of the state. -/
abbrev State.memories (s : State) : Sparse Byte × Sparse Byte × Sparse Byte := (s.mem, s.hostMem, s.remote)

/-- Every memory of the state is in its canonical form. -/
def State.Canonical (s : State) : Prop := s.memOk = true

/-- The state that a step goes on to, where there is one, has its memories in canonical form. -/
def Out.Canonical (o : Out) : Prop := ∀ t, o = .next t → t.Canonical

/-- The state that an optional operation gives, where it gives one, has its memories in canonical form. -/
def State.CanonicalIn (o : Option State) : Prop := ∀ t, o = some t → t.Canonical

namespace State.Canonical

variable {α : Type} {s t : State}

/-- What changes no memory keeps the form.  Where an update is written out, the equation is `rfl` without unfolding an operation. -/
protected theorem same (h : s.Canonical) (ht : t.memories = s.memories) : t.Canonical := by
  obtain ⟨hmem, hhost, hremote⟩ : t.mem = s.mem ∧ t.hostMem = s.hostMem ∧ t.remote = s.remote := by simpa using ht
  exact memOk_same hmem hhost hremote h

/-- Memory is no part of a group. -/
protected theorem setG {g : Group} (h : s.Canonical) : State.Canonical { s with g := g } := h.same rfl

protected theorem next (h : s.Canonical) : Out.Canonical (.next s) := by
  rintro t ⟨⟩
  exact h

protected theorem some (h : s.Canonical) : State.CanonicalIn (some s) := by
  rintro t ⟨⟩
  exact h

protected theorem none : State.CanonicalIn none := by
  rintro t ⟨⟩

protected theorem fault {f : Fault} : Out.Canonical (.fault f) := by
  rintro t ⟨⟩

protected theorem map {o : Option State} {f : State → State} (ho : State.CanonicalIn o)
    (hf : ∀ ⦃s⦄, s.Canonical → (f s).Canonical) : State.CanonicalIn (o.map f) := by
  rintro t ht
  obtain ⟨s, hs, rfl⟩ := Option.map_eq_some_iff.mp ht
  exact hf (ho s hs)

/-- A byte set in device memory keeps the form. -/
protected theorem memSet {a : Nat} {b : Byte} (h : s.Canonical)
    (ht : t.memories = (Sys2Proof.Machine.memSet s.mem a b, s.hostMem, s.remote)) : t.Canonical := by
  obtain ⟨hm, hh, hr⟩ : t.mem = Sys2Proof.Machine.memSet s.mem a b ∧ t.hostMem = s.hostMem ∧ t.remote = s.remote := by simpa using ht
  simp only [State.Canonical, State.memOk, Bool.and_eq_true] at h
  obtain ⟨⟨hmem, hhost⟩, hremote⟩ := h
  simp only [State.Canonical, State.memOk, hm, hh, hr, Bool.and_eq_true]
  exact ⟨⟨memSet_wf _ _ _ hmem, hhost⟩, hremote⟩

protected theorem getD {o : Option State} (h : s.Canonical) (ho : State.CanonicalIn o) : (o.getD s).Canonical := by
  cases o with
  | none => exact h
  | some t => exact ho t rfl

protected theorem ite {c : Prop} [Decidable c] (hs : s.Canonical) (ht : t.Canonical) : (if c then s else t).Canonical := by
  split
  · exact hs
  · exact ht

protected theorem of_fst {p : State × α} {a : α} (h : p.1.Canonical) (he : p = (s, a)) : s.Canonical := by
  subst he
  exact h

protected theorem of_snd {p : α × State} {a : α} (h : p.2.Canonical) (he : p = (a, s)) : s.Canonical := by
  subst he
  exact h

protected theorem foldl {f : State → α → State} {l : List α} (h : s.Canonical)
    (hf : ∀ ⦃s a⦄, s.Canonical → (f s a).Canonical) : (l.foldl f s).Canonical := by
  induction l generalizing s with
  | nil => exact h
  | cons a rest ih => exact ih (hf h)

protected theorem foldr {f : α → State → State} {l : List α} (h : s.Canonical)
    (hf : ∀ ⦃s a⦄, s.Canonical → (f a s).Canonical) : (l.foldr f s).Canonical := by
  induction l with
  | nil => exact h
  | cons a rest ih => exact hf ih

end State.Canonical

end Sys2Proof.Machine
end

section
/-! The state's own updates and physical memory keep the canonical form (01 R16). -/

namespace Sys2Proof.Machine

variable {s : State} {pa n id : Nat}

protected theorem State.Canonical.modGroup {gid : Nat} {f : Group → Group} (h : s.Canonical) : (s.modGroup gid f).Canonical := by
  unfold State.modGroup
  exact .ite h.setG (h.same (by with_reducible rfl))

protected theorem State.Canonical.mapGroups {f : Group → Group} (h : s.Canonical) : (s.mapGroups f).Canonical := by
  unfold State.mapGroups
  exact h.same (by with_reducible rfl)

protected theorem State.Canonical.modCtx {f : Context → Context} (h : s.Canonical) : (s.modCtx n f).Canonical := by
  unfold State.modCtx
  exact .ite (h.same (by with_reducible rfl)) (h.same (by with_reducible rfl))

protected theorem State.Canonical.modTeam {tid : Nat} {f : Team → Team} (h : s.Canonical) : (s.modTeam tid f).Canonical := by
  unfold State.modTeam
  exact h.same (by with_reducible rfl)

protected theorem State.Canonical.modTile {f : Tile → Tile} (h : s.Canonical) : (s.modTile id f).Canonical := by
  unfold State.modTile
  exact .ite (h.same (by with_reducible rfl)) (h.same (by with_reducible rfl))

protected theorem State.Canonical.modClu {f : Clu → Clu} (h : s.Canonical) : (s.modClu id f).Canonical := by
  unfold State.modClu
  exact .ite (h.same (by with_reducible rfl)) (h.same (by with_reducible rfl))

protected theorem State.Canonical.modPair {f : Pair → Pair} (h : s.Canonical) : (s.modPair id f).Canonical := by
  unfold State.modPair
  exact .ite (h.same (by with_reducible rfl)) (h.same (by with_reducible rfl))

protected theorem State.Canonical.modGrid {serial : BitVec 32} {f : Grid → Grid} (h : s.Canonical) : (s.modGrid serial f).Canonical := by
  unfold State.modGrid
  exact h.same (by with_reducible rfl)

protected theorem State.Canonical.account {ctx sel : Nat} (h : s.Canonical) : (s.account ctx sel).Canonical := h.modCtx

protected theorem State.Canonical.fresh (h : s.Canonical) : s.fresh.2.Canonical := by
  unfold State.fresh
  exact h.same (by with_reducible rfl)

protected theorem State.Canonical.winSet {off : Nat} {x : W64} (h : s.Canonical) : (s.winSet off x).Canonical := by
  unfold State.winSet
  exact h.same (by with_reducible rfl)

protected theorem State.Canonical.setReady {b : Bool} (h : s.Canonical) : (s.setReady n b).Canonical := h.winSet

protected theorem State.Canonical.code (h : s.Canonical) : (s.code pa n).Canonical := by
  unfold State.code
  exact h.same (by with_reducible rfl)

/-- One byte written, wherever its address lies. -/
protected theorem State.Canonical.physSet {b : Byte} (h : s.Canonical) : (s.physSet pa b).Canonical := memOk_physSet s pa b h

protected theorem State.Canonical.physSetList {bs : List Byte} (h : s.Canonical) : (s.physSetList pa bs).Canonical :=
  memOk_physSetList bs s pa h

protected theorem State.Canonical.physWrite {bs : List Byte} (h : s.Canonical) : (s.physWrite pa bs).Canonical := by
  unfold State.physWrite
  exact .ite (h.physSetList.same (by with_reducible rfl)) h

end Sys2Proof.Machine
end

section
/-! Migration, caches and the coherence directory keep the canonical form of memory. -/

namespace Sys2Proof.Machine

variable {s : State} {pa tile tid die n : Nat} {ctx : Option Nat} {hit : Team → StashLine → Bool} {bs : List Byte}

protected theorem State.Canonical.setUnit {u : MigUnit} (h : s.Canonical) : (s.setUnit u).Canonical := by
  unfold State.setUnit
  exact h.same (by with_reducible rfl)

protected theorem State.Canonical.poolFree {chip : BitVec 12} (h : s.Canonical) : (s.poolFree chip die).2.Canonical := by
  unfold State.poolFree
  dsimp only
  split
  · exact h
  · exact h.fresh

protected theorem State.Canonical.countMovable {from_ : BitVec 12} (h : s.Canonical) : (s.countMovable pa from_ die).Canonical := by
  unfold State.countMovable
  dsimp only
  exact .ite h (.ite (.ite h h.setUnit) (.ite (.ite h h.setUnit) (.ite h.poolFree.setUnit h.setUnit)))

protected theorem State.Canonical.l1Drop {sector : Nat} (h : s.Canonical) : (s.l1Drop tile sector).Canonical := by
  unfold State.l1Drop
  exact h.same (by with_reducible rfl)

protected theorem State.Canonical.l1Flush (h : s.Canonical) : (s.l1Flush tile).Canonical := by
  unfold State.l1Flush
  exact h.same (by with_reducible rfl)

protected theorem State.Canonical.l1Put {sector : Nat} {hint : BitVec 2} (h : s.Canonical) : (s.l1Put tile sector hint bs).Canonical := by
  unfold State.l1Put
  dsimp only
  split
  · exact h.same (by with_reducible rfl)
  · exact h.same (by with_reducible rfl)

protected theorem State.Canonical.accountN {ctx sel : Nat} (h : s.Canonical) : (s.accountN ctx sel n).Canonical :=
  memOk_accountN ctx sel n s h

protected theorem State.Canonical.l2Evict {x : L2Line} (h : s.Canonical) : (s.l2Evict x).Canonical := by
  unfold State.l2Evict
  dsimp only
  split
  · exact .ite (h.same (by with_reducible rfl)).account (h.same (by with_reducible rfl))
  · exact h.same (by with_reducible rfl)

protected theorem State.Canonical.l2Make (h : s.Canonical) : (s.l2Make die).Canonical := by
  unfold State.l2Make
  dsimp only
  split
  · exact h
  · split
    · exact h.l2Evict
    · exact h

protected theorem State.Canonical.l2Use {wr : Bool} (h : s.Canonical) : (s.l2Use pa ctx wr).Canonical := by
  unfold State.l2Use
  dsimp only
  split
  · exact h
  · split
    · split
      · exact (h.same (by with_reducible rfl)).account
      · exact h.same (by with_reducible rfl)
    · split
      · exact (h.l2Make.same (by with_reducible rfl)).account
      · exact h.l2Make.same (by with_reducible rfl)

protected theorem State.Canonical.l2Clean {line : Nat} (h : s.Canonical) : (s.l2Clean line).Canonical := by
  unfold State.l2Clean
  exact h.same (by with_reducible rfl)

protected theorem State.Canonical.countHome {kind : Nat} {wr : Bool} (h : s.Canonical) : (s.countHome ctx pa kind wr).Canonical := by
  unfold State.countHome
  split
  · split
    · exact h.account
    · exact h
  · exact .ite h.l2Use h.l2Clean

protected theorem State.Canonical.sendInvals {l : List Inval} (h : s.Canonical) : (s.sendInvals l).Canonical := by
  unfold State.sendInvals
  exact h.same (by with_reducible rfl)

protected theorem State.Canonical.dropShared (h : s.Canonical) : (s.dropShared pa n).Canonical := h.sendInvals

protected theorem State.Canonical.homeCode (h : s.Canonical) : (s.homeCode pa n).Canonical := h.dropShared.code

protected theorem State.Canonical.sweepStash {f : StashLine → Option StashLine} (h : s.Canonical) : (s.sweepStash hit f).Canonical := by
  unfold State.sweepStash
  exact (h.same (by with_reducible rfl)).foldl fun _ _ h1 => h1.accountN

protected theorem State.Canonical.recallStash (h : s.Canonical) : (s.recallStash hit).Canonical := h.sweepStash

protected theorem State.Canonical.cleanStash (h : s.Canonical) : (s.cleanStash hit).Canonical := h.sweepStash

protected theorem State.Canonical.shareLines (h : s.Canonical) : (s.shareLines hit).Canonical := h.sweepStash

protected theorem State.Canonical.takeStash (h : s.Canonical) : (s.takeStash tid pa).Canonical := h.recallStash

protected theorem State.Canonical.shareStash (h : s.Canonical) : (s.shareStash tid pa).Canonical := h.shareLines

protected theorem State.Canonical.loseStore (h : s.Canonical) : s.loseStore.Canonical := by
  unfold State.loseStore
  exact h.same (by with_reducible rfl)

protected theorem State.Canonical.homeRead {kind : Nat} (h : s.Canonical) : (s.homeRead ctx tid pa kind).Canonical := h.countHome.shareStash

protected theorem State.Canonical.homeWrite {gid : Nat} (h : s.Canonical) : (s.homeWrite tile gid tid pa bs).Canonical := by
  unfold State.homeWrite
  exact .ite (.ite (h.physWrite.takeStash.same (by with_reducible rfl)).sendInvals (h.physWrite.takeStash.same (by with_reducible
      rfl)).sendInvals.modGroup) h.loseStore

protected theorem State.Canonical.deviceStore (h : s.Canonical) : (s.deviceStore ctx pa bs).Canonical := h.countHome.homeWrite

end Sys2Proof.Machine
end

section
/-! Event messages, traps and address translation keep the canonical form of memory. -/

namespace Sys2Proof.Machine

variable {s : State} {q : Req} {va gid : Nat} {n : Need}

protected theorem State.Canonical.writeEvent {x : Push} (h : s.Canonical) : (s.writeEvent x).Canonical := by
  unfold State.writeEvent
  exact .ite h.winSet (h.deviceStore.winSet.same (by with_reducible rfl))

protected theorem State.Canonical.pushEvent {x : Push} (h : s.Canonical) : (s.pushEvent x).Canonical := by
  unfold State.pushEvent
  exact .ite (h.same (by with_reducible rfl)) h.writeEvent

protected theorem State.Canonical.pushFault {q typ ctx : Nat} {data0 data1 : W64} (h : s.Canonical) :
    (s.pushFault q typ ctx data0 data1).Canonical :=
  h.pushEvent

protected theorem State.Canonical.retryPushes (h : s.Canonical) : s.retryPushes.Canonical := by
  unfold State.retryPushes
  exact (h.same (by with_reducible rfl)).foldl fun _ _ h1 => h1.pushEvent

protected theorem State.Canonical.takeTrap {slot : Nat} {t : Trap} (h : s.Canonical) : (s.takeTrap gid slot t).Canonical := by
  unfold State.takeTrap
  dsimp only
  split
  · exact h
  · exact .ite h.modGroup.pushFault h.modGroup

protected theorem State.Canonical.keepWalk {seen : WalkSeen} (h : s.Canonical) : (s.keepWalk q va seen).Canonical := by
  unfold State.keepWalk
  dsimp only
  refine .same ?_ (by with_reducible rfl)
  exact h.foldr fun _ _ h1 => h1.homeRead

protected theorem State.Canonical.orPte {ptePa : Nat} {bits : W64} (h : s.Canonical) : (s.orPte q ptePa bits).Canonical := by
  unfold State.orPte
  split
  · exact h
  · exact .ite h h.deviceStore

protected theorem State.Canonical.fillTlb {e : TlbEntry} (h : s.Canonical) : (s.fillTlb e).Canonical := by
  unfold State.fillTlb
  exact h.same (by with_reducible rfl)

protected theorem State.Canonical.loadTlb {e : TlbEntry} (h : s.Canonical) : (s.loadTlb q e).Canonical := h.fillTlb.fillTlb

protected theorem State.Canonical.walkFor (h : s.Canonical) : (s.walkFor q va n).2.Canonical := by
  unfold State.walkFor
  dsimp only
  split
  · exact h.keepWalk.account
  · split
    · exact h.keepWalk.account.orPte.loadTlb
    · exact h.keepWalk.account

protected theorem State.Canonical.translate (h : s.Canonical) : (s.translate q va n).2.Canonical := by
  unfold State.translate
  dsimp only
  split
  · exact h
  · split
    · exact h.walkFor
    · split
      · split
        · exact h.walkFor
        · exact h.fillTlb
      · exact h

protected theorem State.Canonical.deviceTranslate {ctx : Nat} (h : s.Canonical) : (s.deviceTranslate ctx va n).2.Canonical := by
  unfold State.deviceTranslate
  dsimp only
  split
  · exact h
  · split
    · exact h.keepWalk.account
    · split
      · exact h.keepWalk.account.orPte
      · exact h.keepWalk.account

/-- A run of pages, extended one page after another. -/
protected theorem State.Canonical.extendRun {bits : W64} {n : Nat} {pa : Nat} {gl lo : Bool} (h : s.Canonical) :
    (State.extendRun q bits n s va pa gl lo).2.2.2.Canonical := by
  induction n generalizing s va pa gl lo with
  | zero => exact h
  | succ n ih =>
    unfold State.extendRun
    split
    · dsimp only
      split
      · exact ih h.orPte
      · exact h
    · exact h

protected theorem State.Canonical.setAperture {old : Aperture} {base : W64} {cap : Nat} (h : s.Canonical) :
    (s.setAperture q old base cap).2.Canonical := by
  unfold State.setAperture
  dsimp only
  split
  · exact h
  · split
    next e => exact h.translate.of_snd e
    next e =>
      have hs1 := h.translate.of_snd e
      split
      · exact hs1
      · exact hs1.extendRun

protected theorem State.Canonical.finishAperture {n : Nat} (h : s.Canonical) : (s.finishAperture gid n).Canonical := by
  unfold State.finishAperture
  dsimp only
  split
  · exact h
  · exact .ite h.setAperture.modGroup h

protected theorem State.Canonical.settleAperture {n : Nat} (h : s.Canonical) : (s.settleAperture gid n).Canonical := by
  unfold State.settleAperture
  split
  · exact h
  · exact .ite h.finishAperture h

protected theorem State.Canonical.fetchWord {g : Group} (h : s.Canonical) : (s.fetchWord g va).2.Canonical := by
  unfold State.fetchWord
  dsimp only
  split
  · exact h
  · split
    next e2 => exact h.translate.of_snd e2
    next e2 =>
      have hs2 := h.translate.of_snd e2
      split <;> exact .ite hs2 (.ite (hs2.homeRead.same (by with_reducible rfl)).countMovable (hs2.homeRead.same (by with_reducible rfl)))

end Sys2Proof.Machine
end

section
/-! The records of redundant execution keep the canonical form of memory. -/

namespace Sys2Proof.Machine

variable {s : State} {g : Group} {tid seq cnt : Nat}

protected theorem State.Canonical.landOne {c : Cmd} (h : s.Canonical) : (s.landOne g c).Canonical := by
  unfold State.landOne
  exact h.same (by with_reducible rfl)

protected theorem State.Canonical.landLogged (h : s.Canonical) : (s.landLogged g).Canonical := .ite (h.foldl fun _ _ h1 => h1.landOne) h

protected theorem State.Canonical.modChord {f : Chord → Chord} (h : s.Canonical) : (s.modChord tid f).Canonical := h.modTeam

protected theorem State.Canonical.addFolds {ss : Bool} {l : List (W32 × W32)} (h : s.Canonical) : (s.addFolds g seq ss l).Canonical :=
  .ite h h.modTeam

protected theorem State.Canonical.logVals {l : List (Nat × W64)} (h : s.Canonical) : (s.logVals g cnt l).Canonical := .ite h.modChord h

protected theorem State.Canonical.takeChecks (h : s.Canonical) : (s.takeChecks tid).Canonical := by
  unfold State.takeChecks
  dsimp only
  split
  · exact h
  · split
    · exact h
    · exact .ite h h.modChord.mapGroups

protected theorem State.Canonical.checkWrite {seg off : Nat} {bs : List Byte} (h : s.Canonical) : (s.checkWrite tid seg off bs).Canonical :=
  h.modChord

protected theorem State.Canonical.closeGroup {seg : Nat} (h : s.Canonical) : (s.closeGroup g seg cnt seq).Canonical := h.modTeam

protected theorem State.Canonical.closeBehind (h : s.Canonical) : (s.closeBehind g).Canonical := by
  unfold State.closeBehind
  split
  · split
    · exact h
    · exact h.foldl fun _ _ h3 => h3.closeGroup
  · exact h

protected theorem State.Canonical.openNext (h : s.Canonical) : (s.openNext tid).Canonical := by
  unfold State.openNext
  split
  · exact h
  · exact h.modChord.modTeam

protected theorem State.Canonical.closeStill {but : Nat} (h : s.Canonical) : (s.closeStill tid but).Canonical :=
  h.foldl fun _ _ h1 => h1.closeBehind

protected theorem State.Canonical.closeSegment (h : s.Canonical) : (s.closeSegment g cnt seq).Canonical := by
  unfold State.closeSegment
  split
  · exact h
  · exact h.closeBehind.openNext.closeGroup.closeStill

protected theorem State.Canonical.closeFollower (h : s.Canonical) : (s.closeFollower g).Canonical :=
  .ite (h.foldl fun _ _ h1 => h1.closeGroup) h

protected theorem State.Canonical.closeStanding (h : s.Canonical) : (s.closeStanding g).Canonical :=
  .ite (h.foldl fun _ _ h1 => h1.closeGroup) h

protected theorem State.Canonical.countStore (h : s.Canonical) : (s.countStore g).1.Canonical := by
  unfold State.countStore
  split
  · exact h
  · split
    · exact h.modChord
    · exact h

protected theorem State.Canonical.logRun {slot : Nat} (h : s.Canonical) : (s.logRun g slot).Canonical := .ite h.modChord h

protected theorem State.Canonical.logTrap {slot : Nat} (h : s.Canonical) : (s.logTrap g slot).Canonical := .ite h.modGroup.modChord h

end Sys2Proof.Machine
end

section
/-! Faults, power and the register window keep the canonical form of memory. -/

namespace Sys2Proof.Machine

variable {s : State} {v : W64} {n die : Nat}

protected theorem State.Canonical.setBucket {b : Bucket} (h : s.Canonical) : (s.setBucket b).Canonical := by
  unfold State.setBucket
  exact h.same (by with_reducible rfl)

protected theorem State.Canonical.setSuspect {x : Suspect} (h : s.Canonical) : (s.setSuspect x).Canonical := by
  unfold State.setSuspect
  exact h.same (by with_reducible rfl)

protected theorem State.Canonical.newRecord (h : s.Canonical) : s.newRecord.Canonical := by
  unfold State.newRecord
  exact h.same (by with_reducible rfl)

protected theorem State.Canonical.stopGroup {gid : Nat} (h : s.Canonical) : (s.stopGroup gid).Canonical := by
  unfold State.stopGroup
  split
  · exact h
  · exact .ite h.modGroup h.modGroup

protected theorem State.Canonical.stopAll (h : s.Canonical) : s.stopAll.Canonical := h.foldl fun _ _ h1 => h1.stopGroup

protected theorem State.Canonical.dropStash {tid : Nat} (h : s.Canonical) : (s.dropStash tid).Canonical := h.recallStash

protected theorem State.Canonical.dropStopped (h : s.Canonical) : s.dropStopped.Canonical := h.recallStash

protected theorem State.Canonical.settleStops (h : s.Canonical) : s.settleStops.Canonical := .ite h.stopAll.dropStopped h

protected theorem State.Canonical.preemptTeam {tid : Nat} (h : s.Canonical) : (s.preemptTeam tid).Canonical :=
  (h.foldl fun _ _ h1 => h1.stopGroup).modTeam.dropStopped

protected theorem State.Canonical.fenceTile {tile : Nat} (h : s.Canonical) : (s.fenceTile tile).Canonical :=
  (State.Canonical.ite h.modTile.setSuspect h.modTile.setSuspect.setReady).pushFault.foldl fun _ _ h1 => h1.foldl fun _ _ h2 =>
      h2.preemptTeam

protected theorem State.Canonical.raiseBucket {kind unit : Nat} (h : s.Canonical) : (s.raiseBucket kind unit).Canonical :=
  .ite h (.ite (.ite h.setBucket.fenceTile h.setBucket) (.ite h.setBucket.setSuspect.pushFault h.setBucket))

protected theorem State.Canonical.addBuckets {l : List (Nat × Nat)} (h : s.Canonical) : (s.addBuckets l).Canonical :=
  .ite (h.foldl fun _ _ h1 => h1.raiseBucket) ((h.foldl fun _ _ h1 => h1.raiseBucket).newRecord)

protected theorem State.Canonical.addBucket {kind unit : Nat} (h : s.Canonical) : (s.addBucket kind unit).Canonical := h.addBuckets

protected theorem State.Canonical.queueErr {code : Nat} (h : s.Canonical) : (s.queueErr n code).Canonical := h.winSet

protected theorem State.Canonical.doorbell {tail : Nat} (h : s.Canonical) : (s.doorbell n tail).Canonical := .ite h.queueErr h.winSet

protected theorem State.Canonical.writeQctl (h : s.Canonical) : (s.writeQctl n v).Canonical := .ite h.winSet.queueErr h.winSet

protected theorem State.Canonical.writePartcfg (h : s.Canonical) : (s.writePartcfg v).Canonical := .ite h.winSet (.ite h.winSet h.winSet)

protected theorem State.Canonical.freezeNow (h : s.Canonical) : s.freezeNow.Canonical := by
  unfold State.freezeNow
  refine State.Canonical.same (s := List.foldl _ s _) ?_ (by with_reducible rfl)
  exact h.foldl fun _ _ h1 => h1.winSet

protected theorem State.Canonical.writeFrzctl (h : s.Canonical) : (s.writeFrzctl v).Canonical := .ite h.winSet.freezeNow h.winSet

protected theorem State.Canonical.biasGo (h : s.Canonical) : (s.biasGo die v).Canonical := by
  unfold State.biasGo
  exact .ite (.ite h.winSet (h.winSet.same (by with_reducible rfl))) h

protected theorem State.Canonical.writeRoute {chip : Nat} (h : s.Canonical) : (s.writeRoute chip v).Canonical := by
  unfold State.writeRoute
  exact h.same (by with_reducible rfl)

protected theorem State.Canonical.snapshotDue (h : s.Canonical) : s.snapshotDue.Canonical := by
  unfold State.snapshotDue
  exact .ite h.winSet (h.same (by with_reducible rfl))

protected theorem State.Canonical.writeSnapctl (h : s.Canonical) : (s.writeSnapctl v).Canonical := .ite h.winSet.snapshotDue h.winSet

protected theorem State.Canonical.blank {pa : Nat} (h : s.Canonical) : (s.blank pa n).Canonical := memOk_blank s pa n h

protected theorem State.Canonical.clearBias (h : s.Canonical) : (s.clearBias die).Canonical := .ite h h.blank

protected theorem State.Canonical.writeBiasBase (h : s.Canonical) : (s.writeBiasBase die v).Canonical := .ite h.winSet.clearBias h.winSet

protected theorem State.Canonical.winWrite {off : Nat} (h : s.Canonical) : (s.winWrite off v).Canonical :=
  .ite h (.ite h.writePartcfg (.ite h.writeFrzctl (.ite h.writeSnapctl (.ite h.writeBiasBase (.ite h.biasGo (.ite h.writeRoute (.ite
      h.writeQctl (.ite h.doorbell h.winSet))))))))

end Sys2Proof.Machine
end

section
/-! Issuing an instruction keeps the canonical form of memory wherever its body does; so do results that are written later. -/

namespace Sys2Proof.Machine

variable {s : State} {h : Hdr} {i : Instr} {sp : Split} {u : Uses} {d a : BitVec 6} {lanes m : W32} {slot : Nat}
  {body : State → State × Fate} {sw : List (Nat × W64)} {vw : List (Nat × W32)}

protected theorem State.Canonical.boundary (h : s.Canonical) : (s.boundary slot).Canonical :=
  .ite h ((State.Canonical.ite h h.logRun).closeBehind.setG)

protected theorem State.Canonical.countDataError {t : Trap} (h : s.Canonical) : (s.countDataError t).Canonical := .ite h.addBuckets h

protected theorem State.Canonical.trapHere {t : Trap} (h : s.Canonical) : (s.trapHere slot t).Canonical := by
  unfold State.trapHere
  dsimp only
  split
  · exact h.countDataError.takeTrap.setG
  · exact h.countDataError.takeTrap.logTrap

protected theorem State.Canonical.advance {pc : BitVec 57} {ends : Bool} {hold : Nat} (hs : s.Canonical) :
    (s.advance h sp pc ends hold).Canonical :=
  hs.setG

protected theorem State.Canonical.counted (h : s.Canonical) : s.counted.Canonical := h.setG

protected theorem State.Canonical.followEnd (h : s.Canonical) : (s.followEnd slot).Canonical := .ite h.setG h

protected theorem State.Canonical.finish {f : Fate} (hs : s.Canonical) : (s.finish i h sp f).Canonical := by
  unfold State.finish
  split
  · exact hs.advance.counted.followEnd.boundary
  · exact hs.advance.counted.boundary
  · exact hs.advance.counted.boundary
  · exact hs.setG.counted.boundary
  · exact hs.setG.counted.boundary
  · exact hs.counted.boundary
  · exact hs
  · exact hs.trapHere.counted.boundary

protected theorem State.Canonical.foldWrites (h : s.Canonical) : (s.foldWrites u lanes).Canonical := .ite h h.addFolds

protected theorem State.Canonical.putLogged {l : List (Nat × W64)} (h : s.Canonical) : (s.putLogged l).Canonical :=
  h.foldl fun _ _ h1 => State.Canonical.ite h1.setG (State.Canonical.ite h1.setG (.ite h1.setG (.ite h1 h1.modTeam)))

protected theorem State.Canonical.logNow (h : s.Canonical) : (s.logNow u lanes).Canonical := .ite h.logVals (.ite h.logVals h)

protected theorem State.Canonical.countIf (h : s.Canonical) : (s.countIf u).Canonical := by
  unfold State.countIf
  split
  · split
    next e2 =>
      have hs2 := h.countStore.of_fst e2
      exact .ite hs2.closeSegment hs2
  · exact h

protected theorem State.Canonical.performHeld {fs : List (W32 × W32)} (hs : s.Canonical) : (s.performHeld i h sp fs).Canonical :=
  hs.landLogged.putLogged.setG.addFolds.finish.closeFollower

/-- An instruction that keeps the form of every state its body starts from keeps it when it is performed. -/
protected theorem State.Canonical.perform {fs : List (W32 × W32)} (hs : s.Canonical) (hb : ∀ ⦃s⦄, s.Canonical → (body s).1.Canonical) :
    State.CanonicalIn (s.perform i h u fs lanes sp body) := by
  have hbody := hb (s := { s with g := { s.g with cleared := none } }) (hs.same (by with_reducible rfl))
  unfold State.perform
  split
  · exact hs.finish.some
  · dsimp only
    split
    · split
      · split
        · exact (State.Canonical.finish (hs.same (by with_reducible rfl))).some
        · split
          · exact (State.Canonical.addFolds (hs.same (by with_reducible rfl))).finish.closeFollower.some
          · split
            · exact hs.performHeld.some
            · exact State.Canonical.none
      · split
        · exact hs.performHeld.some
        · exact (State.Canonical.addFolds (hs.landLogged.putLogged.same (by with_reducible rfl))).addFolds.finish.closeFollower.some
    · split
      next => exact State.Canonical.none
      next e => exact (State.Canonical.finish ((hbody.of_fst e).same (by with_reducible rfl))).some
      next e =>
        have hs1 := hbody.of_fst e
        refine State.Canonical.some (State.Canonical.closeFollower (State.Canonical.finish (State.Canonical.countIf ?_)))
        split
        · exact (State.Canonical.addFolds (hs1.same (by with_reducible rfl))).foldWrites.logNow
        · exact (State.Canonical.addFolds (hs1.same (by with_reducible rfl))).foldWrites.logNow
        · exact (State.Canonical.addFolds (hs1.same (by with_reducible rfl))).foldWrites.logNow
        · exact State.Canonical.addFolds (hs1.same (by with_reducible rfl))

protected theorem State.Canonical.slackPark {full : Bool} (hs : s.Canonical) : (s.slackPark i h sp full).Canonical := by
  unfold State.slackPark
  refine .boundary ?_
  refine .same ?_ (by with_reducible rfl)
  exact .ite hs.closeSegment hs

protected theorem State.Canonical.leaderPoint (hs : s.Canonical) (hb : ∀ ⦃s⦄, s.Canonical → (body s).1.Canonical) :
    State.CanonicalIn (s.leaderPoint i h u lanes sp body) := by
  unfold State.leaderPoint
  split
  · exact hs.perform hb
  · exact State.Canonical.perform (hs.addFolds.closeSegment.same (by with_reducible rfl)) hb
  · split
    · exact hs.slackPark.some
    · exact (State.Canonical.boundary (hs.addFolds.logVals.closeSegment.same (by with_reducible rfl))).some

protected theorem State.Canonical.followerPoint (hs : s.Canonical) (hb : ∀ ⦃s⦄, s.Canonical → (body s).1.Canonical) :
    State.CanonicalIn (s.followerPoint i h u lanes sp body) := by
  unfold State.followerPoint
  split
  · exact hs.perform hb
  · dsimp only
    split
    · exact (State.Canonical.getD (hs.addFolds.closeGroup.same (by with_reducible rfl)) (State.Canonical.perform
        (hs.addFolds.closeGroup.same (by with_reducible rfl)) hb)).some
    · exact (State.Canonical.boundary (hs.addFolds.closeGroup.same (by with_reducible rfl))).some

protected theorem State.Canonical.heldUp (h : s.Canonical) : (s.heldUp slot).Canonical := .ite h.setG.boundary h

protected theorem State.Canonical.checkedBy {t : State} (h : t.Canonical) : (s.checkedBy t).Canonical := by
  unfold State.checkedBy
  exact .ite h.takeChecks h

/-- Issuing keeps the form where the instruction's body does. -/
protected theorem State.Canonical.issue {lanes : State → W32} {on : State → Bool} (hs : s.Canonical)
    (hb : ∀ ⦃s⦄, s.Canonical → (body s).1.Canonical) : Out.Canonical (issue i h u lanes on body s) := by
  unfold issue
  split
  · exact hs.next
  next sp _ =>
    have hout : State.CanonicalIn (if s.roomless u then some (s.slackPark i h sp true)
        else if s.g.cleared = some sp.slot then s.perform i h u [] (lanes s) sp body
        else if !u.cmp then s.perform i h u u.folds (lanes s) sp body
        else match s.g.role with
          | .plain => s.perform i h u [] (lanes s) sp body
          | .leader => s.leaderPoint i h u (lanes s) sp body
          | _ => s.followerPoint i h u (lanes s) sp body) := by
      split
      · exact hs.slackPark.some
      · split
        · exact hs.perform hb
        · split
          · exact hs.perform hb
          · split
            · exact hs.perform hb
            · exact hs.leaderPoint hb
            · exact hs.followerPoint hb
    split
    · exact hs.finish.checkedBy.next
    · split
      · exact (State.Canonical.ite hs.heldUp.checkedBy hs).next
      · split
        · exact hs.slackPark.checkedBy.next
        · split
          · exact hs.countIf.finish.closeFollower.checkedBy.next
          · dsimp only
            split
            next => exact (State.Canonical.ite hs hs.heldUp.checkedBy).next
            next e => exact (hout _ e).checkedBy.next

/-- A lane instruction keeps the form where its body does. -/
protected theorem State.Canonical.issueLane {body : W32 → Split → State → State × Fate} (hs : s.Canonical)
    (hb : ∀ ⦃m sp s⦄, s.Canonical → (body m sp s).1.Canonical) : Out.Canonical (issueLane i h u body s) := by
  unfold issueLane
  refine hs.issue fun s h1 => ?_
  split
  · exact h1
  · exact hb h1

protected theorem State.Canonical.issueLaneAll {body : W32 → Split → State → State × Fate} (hs : s.Canonical)
    (hb : ∀ ⦃m sp s⦄, s.Canonical → (body m sp s).1.Canonical) : Out.Canonical (issueLaneAll i h u body s) := by
  unfold issueLaneAll
  refine hs.issue fun s h1 => ?_
  split
  · exact h1
  · exact hb h1

/-- A uniform instruction keeps the form where its body does. -/
protected theorem State.Canonical.issueUni {body : Split → State → State × Fate} (hs : s.Canonical)
    (hb : ∀ ⦃sp s⦄, s.Canonical → (body sp s).1.Canonical) : Out.Canonical (issueUni i h u body s) := by
  unfold issueUni
  refine hs.issue fun s h1 => ?_
  split
  · exact h1
  · exact hb h1

protected theorem State.Canonical.setLanes {f : Group → Nat → W32} {sp : Split} (h : s.Canonical) : (setLanes d f m sp s).1.Canonical :=
  h.setG

protected theorem State.Canonical.setLanes64 {f : Group → Nat → W64} {sp : Split} (h : s.Canonical) : (setLanes64 d f m sp s).1.Canonical :=
  h.setG

protected theorem State.Canonical.laneUn {f : W32 → W32} (hs : s.Canonical) : Out.Canonical (laneUn i h d a f s) :=
  hs.issueLane fun _ _ _ h1 => h1.setLanes

protected theorem State.Canonical.laneBin {b : BitVec 6} {f : W32 → W32 → W32} (hs : s.Canonical) : Out.Canonical (laneBin i h d a b f s) :=
  hs.issueLane fun _ _ _ h1 => h1.setLanes

protected theorem State.Canonical.laneTri {b c : BitVec 6} {f : W32 → W32 → W32 → W32} (hs : s.Canonical) :
    Out.Canonical (laneTri i h d a b c f s) :=
  hs.issueLane fun _ _ _ h1 => h1.setLanes

protected theorem State.Canonical.uniSet {rd : List (BitVec 6)} {f : Group → W64} (hs : s.Canonical) :
    Out.Canonical (uniSet i h d rd f s) :=
  hs.issueUni fun _ _ h1 => h1.setG

protected theorem State.Canonical.later {flags : BitVec 5} (h : s.Canonical) : (s.later sp vw sw flags).Canonical := h.setG.addFolds

protected theorem State.Canonical.laterLogged (h : s.Canonical) : (s.laterLogged sp vw sw).Canonical := h.later.logVals

protected theorem State.Canonical.pendingResult {vw sw : List Nat} (h : s.Canonical) : (s.pendingResult sp vw sw).Canonical := h.setG

protected theorem State.Canonical.awaiting {w : Await} (h : s.Canonical) : (s.awaiting sp sw w).Canonical := h.setG.addFolds

protected theorem State.Canonical.resolve {gid seq : Nat} {flags : BitVec 5} {logIt : Bool} (h : s.Canonical) :
    (s.resolve gid seq vw sw flags logIt).Canonical := by
  unfold State.resolve
  dsimp only
  split
  · exact h
  · split
    · exact h
    · exact .ite h.modGroup.addFolds.logVals h.modGroup.addFolds

protected theorem State.Canonical.unresolve {gid seq : Nat} (h : s.Canonical) : (s.unresolve gid seq).Canonical := h.modGroup

protected theorem State.Canonical.setLanesF {f : Group → Nat → W32 × BitVec 5} {sp : Split} (h : s.Canonical) :
    (setLanesF d f m sp s).1.Canonical :=
  h.setG

protected theorem State.Canonical.setLanesF64 {f : Group → Nat → W64 × BitVec 5} {sp : Split} (h : s.Canonical) :
    (setLanesF64 d f m sp s).1.Canonical :=
  h.setG

end Sys2Proof.Machine
end

section
/-! Lock domains and the lanes of loads and stores keep the canonical form of memory. -/

namespace Sys2Proof.Machine

variable {s : State} {p : Place} {g : Group} {kind gid num idx n va pa : Nat} {e : OlEntry} {ls : List Nat} {q : Req} {bs : List Byte}

/-- A lock table's write is a store of the device. -/
protected theorem State.Canonical.tableWrite {b : List Byte} (h : s.Canonical) : (s.tableWrite q num b).Canonical := by
  unfold State.tableWrite
  dsimp only
  split
  next e =>
    have hs1 := h.translate.of_snd e
    exact .ite hs1.deviceStore hs1.loseStore
  next e => exact h.translate.of_snd e

protected theorem State.Canonical.freeBytes (h : s.Canonical) : (s.freeBytes n).2.Canonical := by
  induction n generalizing s with
  | zero => exact h
  | succ n ih => exact ih h.fresh

protected theorem State.Canonical.undefine (h : s.Canonical) : (s.undefine q num).2.Canonical := by
  unfold State.undefine
  obtain ⟨write, hwrite, hkeep⟩ : ∃ f, State.tableWrite = f ∧ ∀ {s q num b}, s.Canonical → (f s q num b).Canonical :=
    ⟨_, rfl, State.Canonical.tableWrite⟩
  rw [hwrite]
  split
  · exact h
  · exact State.Canonical.same (hkeep h.freeBytes) (by with_reducible rfl)

protected theorem State.Canonical.define {b : List Byte} (h : s.Canonical) : (s.define q num b).2.Canonical := by
  unfold State.define
  obtain ⟨write, hwrite, hkeep⟩ : ∃ f, State.tableWrite = f ∧ ∀ {s q num b}, s.Canonical → (f s q num b).Canonical :=
    ⟨_, rfl, State.Canonical.tableWrite⟩
  rw [hwrite]
  split
  · exact h
  · split
    · exact h
    · split
      next e => exact h.translate.of_snd e
      next e =>
        have hs1 := h.translate.of_snd e
        split
        · exact State.Canonical.same (hkeep hs1) (by with_reducible rfl)
        · exact hs1

protected theorem State.Canonical.setLane {st : OlLane → LaneState} (h : s.Canonical) : (s.setLane gid idx ls st).Canonical := h.modGroup

protected theorem State.Canonical.faultLane {cause : BitVec 8} {walk : Option W64} (h : s.Canonical) :
    (s.faultLane gid idx ls cause walk).Canonical :=
  h.setLane

protected theorem State.Canonical.countAccess (h : s.Canonical) : (s.countAccess g p kind).Canonical := by
  unfold State.countAccess
  split
  · exact .ite h.countMovable h
  · exact h

protected theorem State.Canonical.touchStash {wr : Bool} (h : s.Canonical) : (s.touchStash g va pa kind wr).Canonical := by
  unfold State.touchStash
  dsimp only
  split
  · exact h
  · exact (State.Canonical.ite h (h.countHome.takeStash.countAccess.same (by with_reducible rfl))).modTeam

protected theorem State.Canonical.placeWrite (h : s.Canonical) : (s.placeWrite g p kind bs).Canonical := by
  unfold State.placeWrite
  split
  · exact .ite h.countHome.homeWrite.countAccess h.loseStore
  · exact h.modTeam

protected theorem State.Canonical.versionWrite {seq : Nat} (h : s.Canonical) : (s.versionWrite g seq pa bs).Canonical := by
  unfold State.versionWrite
  dsimp only
  split
  · exact h
  · exact .ite h.modChord h.modChord

protected theorem State.Canonical.setWord {tile tid : Nat} {off : Nat} {x : W64} (h : s.Canonical) :
    (s.setWord tile gid tid p off x).Canonical := by
  unfold State.setWord
  split
  · exact h.homeWrite
  · exact h.modTeam

protected theorem State.Canonical.recordError {code : Nat} (h : s.Canonical) : (s.recordError p code).Canonical := .ite h h.setWord

protected theorem State.Canonical.locate {l : OlLane} (h : s.Canonical) : (s.locate g e l).2.Canonical := by
  unfold State.locate
  dsimp only
  split
  · exact h
  · split
    · exact h
    · split
      · split <;> exact h
      · split
        · split <;> exact h
        · exact h
      · split
        · exact h
        · split
          · exact h
          · exact h
          · split
            next e6 => exact h.translate.of_snd e6
            next e6 => exact h.translate.of_snd e6

protected theorem State.Canonical.decideWaits {dt : Nat} (h : s.Canonical) : (s.decideWaits p dt).Canonical := h.mapGroups

protected theorem State.Canonical.counterAdd {v : W64} (h : s.Canonical) : (s.counterAdd p v).Canonical := h.decideWaits.setWord.decideWaits

protected theorem State.Canonical.addBytes {x : ℤ} (h : s.Canonical) : (s.addBytes p x).Canonical :=
  (State.Canonical.ite h.recordError h).setWord

protected theorem State.Canonical.completePhase (h : s.Canonical) : (s.completePhase p).Canonical := .ite h.setWord.setWord.decideWaits h

protected theorem State.Canonical.barArrive {bytes : ℤ} (h : s.Canonical) : (s.barArrive p bytes).2.Canonical := by
  unfold State.barArrive
  dsimp only
  split
  · exact h.recordError
  · split
    · exact h.recordError
    · exact h.setWord.addBytes.completePhase

protected theorem State.Canonical.barLand (h : s.Canonical) : (s.barLand p n).Canonical :=
  .ite h.addBytes.recordError h.addBytes.completePhase

protected theorem State.Canonical.fetchBytes (h : s.Canonical) : (s.fetchBytes g e p kind va).2.Canonical := by
  unfold State.fetchBytes
  dsimp only
  split
  · split <;> exact h
  · split
    · split <;> split <;> exact h
    · split
      · exact h.touchStash
      · split
        · exact h.account
        · split
          · split
            · split
              · exact h.homeRead.countAccess.l1Put.account
              · exact .ite h.homeRead.countAccess h.homeRead.countAccess.l1Drop
            · split
              · exact h.homeRead.countAccess.l1Put.account
              · exact .ite h.homeRead.countAccess h.homeRead.countAccess.l1Drop
            · split
              · exact h.homeRead.countAccess.l1Put.account
              · exact .ite h.homeRead.countAccess h.homeRead.countAccess.l1Drop
          · exact h.homeRead.countAccess

protected theorem State.Canonical.readOwn (h : s.Canonical) : (s.readOwn q va).2.Canonical := by
  unfold State.readOwn
  dsimp only
  split
  next e1 => exact h.translate.of_snd e1
  next e1 =>
    have hs1 := h.translate.of_snd e1
    split
    · exact .ite hs1.homeRead.countMovable hs1.homeRead
    · exact hs1.homeRead

protected theorem State.Canonical.performLoad (h : s.Canonical) : (s.performLoad g e p kind ls).Canonical := by
  unfold State.performLoad
  dsimp only
  split
  · split
    · split
      · split
        · exact h
        · split
          · exact h.setLane
          · split
            · exact h.fetchBytes.faultLane
            · exact h.fetchBytes.setLane
      · split
        · exact h
        · split
          · exact h.setLane
          · split
            · exact h.fetchBytes.faultLane
            · exact h.fetchBytes.setLane
    · split
      · split
        · exact h
        · split
          · exact h.setLane
          · split
            · exact h.fetchBytes.faultLane
            · exact h.fetchBytes.setLane
      · split
        · exact h
        · split
          · exact h.setLane
          · split
            · exact h.fetchBytes.faultLane
            · exact h.fetchBytes.setLane
  · split
    · split
      · exact h
      · split
        · exact h.setLane
        · split
          · exact h.fetchBytes.faultLane
          · exact h.fetchBytes.setLane
    · split
      · exact h
      · split
        · exact h.setLane
        · split
          · exact h.fetchBytes.faultLane
          · exact h.fetchBytes.setLane

protected theorem State.Canonical.clearPoison (h : s.Canonical) : (s.clearPoison p).Canonical := by
  unfold State.clearPoison
  split
  · exact h.same (by with_reducible rfl)
  · exact h.modTeam

protected theorem State.Canonical.performWindow {off : Nat} (h : s.Canonical) : (s.performWindow g e pa off kind bs).Canonical :=
  .ite h.loseStore (.ite h.versionWrite h.winWrite)

protected theorem State.Canonical.performStore (h : s.Canonical) : (s.performStore g e p kind ls).Canonical := by
  unfold State.performStore
  dsimp only
  split
  · exact (State.Canonical.ite ((State.Canonical.ite h.placeWrite.clearPoison h.placeWrite).checkWrite) (.ite h.placeWrite.clearPoison
      h.placeWrite)).setLane
  · split
    · exact h.performWindow.setLane
    · exact .ite (.ite h h.versionWrite.setLane) (.ite h.loseStore.setLane (.ite ((State.Canonical.ite h.touchStash.physWrite.clearPoison
        h.touchStash.physWrite).setLane) ((State.Canonical.ite h.placeWrite.clearPoison h.placeWrite).setLane)))

protected theorem State.Canonical.logWords (h : s.Canonical) : (s.logWords g e p n).Canonical := by
  unfold State.logWords
  split
  · exact .ite h.logVals h
  · exact h

protected theorem State.Canonical.atomWrite (h : s.Canonical) : (s.atomWrite g p kind bs).Canonical := by
  unfold State.atomWrite
  dsimp only
  split
  · exact h.placeWrite.l1Drop
  · exact h.placeWrite

protected theorem State.Canonical.recallOwn (h : s.Canonical) : (s.recallOwn p).Canonical := by
  unfold State.recallOwn
  split
  · exact h.recallStash
  · exact h

protected theorem State.Canonical.acquired {acq : Bool} {scope : Nat} (h : s.Canonical) : (s.acquired g acq scope).Canonical :=
  .ite h.l1Flush h

protected theorem State.Canonical.performAtom (h : s.Canonical) : (s.performAtom g e p kind ls).Canonical := by
  unfold State.performAtom
  dsimp only
  exact .ite h.faultLane (.ite h (.ite h.recallOwn.setLane h.recallOwn.atomWrite.logWords.acquired.setLane))

protected theorem State.Canonical.performHalf {m : W64} (h : s.Canonical) : (s.performHalf g e p kind m ls).Canonical := by
  unfold State.performHalf
  dsimp only
  exact .ite h h.atomWrite.acquired.setLane

protected theorem State.Canonical.ownInvals {before : Nat} (h : s.Canonical) : (s.ownInvals g before).Canonical := by
  unfold State.ownInvals
  exact (h.same (by with_reducible rfl)).modGroup

protected theorem State.Canonical.performObject (h : s.Canonical) : (s.performObject g e p kind ls).Canonical := by
  unfold State.performObject
  dsimp only
  split
  · exact h.faultLane
  · split
    · refine .setLane ?_
      refine .logWords ?_
      refine .ownInvals ?_
      split
      · exact h.recallOwn.countHome.countAccess.barArrive
      · exact h.barArrive
    · refine .setLane ?_
      refine .logWords ?_
      refine .ownInvals ?_
      refine .counterAdd ?_
      split
      · exact h.recallOwn.countHome.countAccess
      · exact h

protected theorem State.Canonical.performDef (h : s.Canonical) : (s.performDef g e p kind num ls).Canonical := by
  unfold State.performDef
  dsimp only
  exact .ite h (.ite (.ite h h.define.setLane) h.faultLane)

protected theorem State.Canonical.performAt (h : s.Canonical) : (s.performAt gid idx p kind ls).Canonical := by
  unfold State.performAt
  split
  · exact h
  · split
    · exact h
    · split
      · split
        · exact h
        · split
          · exact h.faultLane
          · split
            · exact h.performLoad
            · exact h.performLoad
            · exact h.performLoad
            · exact h.performDef
            · exact h.performStore
            · exact h.performStore
            · exact h.performAtom
            · exact h.performAtom
            · exact h.performObject
            · exact h.performObject
            · exact .ite h (.ite h.faultLane h.setLane)
      · split
        · exact h
        · split
          · exact h.faultLane
          · split
            · exact h.performLoad
            · exact h.performLoad
            · exact h.performLoad
            · exact h.performDef
            · exact h.performStore
            · exact h.performStore
            · exact h.performAtom
            · exact h.performAtom
            · exact h.performObject
            · exact h.performObject
            · exact .ite h (.ite h.faultLane h.setLane)

protected theorem State.Canonical.freeDone (h : s.Canonical) : (s.freeDone gid).Canonical := by
  unfold State.freeDone
  dsimp only
  split
  · exact h
  · exact h.foldl fun _ _ h2 => State.Canonical.ite h2.modGroup.addFolds.logVals h2.modGroup.addFolds

protected theorem State.Canonical.returnLanes {mask : W32} (h : s.Canonical) : (s.returnLanes gid idx mask).Canonical := by
  unfold State.returnLanes
  dsimp only
  split
  · exact h
  · split
    · exact h
    · exact h.modGroup.freeDone

end Sys2Proof.Machine
end

section
/-! The outside cache and the memory instructions keep the canonical form of memory (chapter 07). -/

namespace Sys2Proof.Machine

variable {s : State} {h : Hdr} {d a o b : BitVec 6} {ta : BitVec 4} {ht hint : BitVec 2} {gid tile size e unit va : Nat} {i : Instr}
  {g : Group} {x : OlEntry} {lanes : BitVec 32}

protected theorem State.Canonical.imageFault {cause : BitVec 8} {walk : Option W64} {addr : Nat} (h : s.Canonical) :
    (s.imageFault g cause walk addr).Canonical :=
  h.modGroup.pushFault

protected theorem State.Canonical.imagePlace (h : s.Canonical) : (s.imagePlace g va).2.Canonical := by
  unfold State.imagePlace
  split
  next e1 => exact (h.translate.of_snd e1).imageFault
  next e1 =>
    have hs1 := h.translate.of_snd e1
    split
    · exact hs1
    · exact hs1.imageFault

protected theorem State.Canonical.writeLine {line : Nat} (h : s.Canonical) : (s.writeLine gid line).Canonical := by
  unfold State.writeLine
  dsimp only
  split
  · exact h
  · split
    · exact h
    · split
      next e3 => exact h.imagePlace.of_snd e3
      next e3 =>
        have hs3 := h.imagePlace.of_snd e3
        refine .modGroup ?_
        split
        · refine .same ?_ (by with_reducible rfl)
          exact .ite hs3.countHome.homeCode hs3.deviceStore
        · exact .ite hs3.countHome.homeCode hs3.deviceStore

protected theorem State.Canonical.flushGroup {what : Nat} (h : s.Canonical) : (s.flushGroup gid what).Canonical := by
  unfold State.flushGroup
  split
  · exact h
  · exact h.foldl fun _ _ h2 => h2.writeLine

protected theorem State.Canonical.evict {line : Nat} (h : s.Canonical) : (s.evict gid line).Canonical := by
  unfold State.evict
  dsimp only
  split
  · exact h
  · split
    · exact .ite h.writeLine h
    · exact .ite (.ite h.writeLine h) ((State.Canonical.ite h.writeLine h).modGroup)

protected theorem State.Canonical.cacheRoom {keep need : Nat} {acc : Bool} {n : Nat} (h : s.Canonical) :
    (State.cacheRoom tile keep need acc n s).Canonical := by
  induction n generalizing s with
  | zero => exact h
  | succ n ih =>
    unfold State.cacheRoom
    split
    · exact h
    · split
      · exact h
      · exact ih h.evict

protected theorem State.Canonical.cacheSettle (h : s.Canonical) : (s.cacheSettle gid tile).Canonical := h.cacheRoom.cacheRoom

protected theorem State.Canonical.writeLate {keys : List Nat} (h : s.Canonical) : (s.writeLate gid keys).Canonical := by
  unfold State.writeLate
  dsimp only
  split
  · exact h
  · refine h.foldl fun _ _ h2 => ?_
    split
    next e3 => exact h2.imagePlace.of_snd e3
    next e3 => exact ((h2.imagePlace.of_snd e3).foldl fun _ _ h4 => h4.deviceStore).modGroup

protected theorem State.Canonical.noteEntry {idx : Nat} (h : s.Canonical) : (s.noteEntry gid idx).Canonical := by
  unfold State.noteEntry
  split
  · exact h
  · exact .ite h.writeLine h

protected theorem State.Canonical.hold {sp : Split} {m : W32} {x : Held} {lanes : List OlLane} (h : s.Canonical) :
    (s.hold i sp m x lanes).1.Canonical := by
  unfold State.hold
  dsimp only
  split
  · exact h
  · split
    · exact h.cacheRoom
    · exact .ite h.cacheRoom.setG h.cacheRoom.setG.logVals

protected theorem State.Canonical.globLoad {reads : List (Nat × Nat × Nat)} {sx : Bool} {ta : Option Nat}
    {addr : Group → Nat → W64 × Option Nat} (hs : s.Canonical) : Out.Canonical (globLoad i h d reads size sx ta hint addr s) := by
  unfold globLoad
  exact hs.issueLane fun _ _ _ h1 => h1.hold

protected theorem State.Canonical.globStore {reads : List (Nat × Nat × Nat)} {ta : Option Nat} {addr : Group → Nat → W64 × Option Nat}
    (hs : s.Canonical) : Out.Canonical (globStore i h d reads size ta hint addr s) := by
  unfold globStore
  refine hs.issueLane fun _ _ _ h1 => ?_
  dsimp only
  split
  · exact h1
  · exact h1.hold

protected theorem State.Canonical.execLdB (hs : s.Canonical) : Out.Canonical (execLdB h d ta o ht s) := hs.globLoad

protected theorem State.Canonical.execLdH (hs : s.Canonical) : Out.Canonical (execLdH h d ta o ht s) := hs.globLoad

protected theorem State.Canonical.execLdW (hs : s.Canonical) : Out.Canonical (execLdW h d ta o ht s) := hs.globLoad

protected theorem State.Canonical.execLdD (hs : s.Canonical) : Out.Canonical (execLdD h d ta o ht s) := hs.globLoad

protected theorem State.Canonical.execLdQ (hs : s.Canonical) : Out.Canonical (execLdQ h d ta o ht s) := hs.globLoad

protected theorem State.Canonical.execStB (hs : s.Canonical) : Out.Canonical (execStB h d ta o ht s) := hs.globStore

protected theorem State.Canonical.execStH (hs : s.Canonical) : Out.Canonical (execStH h d ta o ht s) := hs.globStore

protected theorem State.Canonical.execStW (hs : s.Canonical) : Out.Canonical (execStW h d ta o ht s) := hs.globStore

protected theorem State.Canonical.execStD (hs : s.Canonical) : Out.Canonical (execStD h d ta o ht s) := hs.globStore

protected theorem State.Canonical.execStQ (hs : s.Canonical) : Out.Canonical (execStQ h d ta o ht s) := hs.globStore

protected theorem State.Canonical.execLdx {t mode : BitVec 4} {disp : BitVec 8} (hs : s.Canonical) :
    Out.Canonical (execLdx h d ta o ht t mode disp s) := by
  unfold execLdx
  split
  · exact hs.globLoad

protected theorem State.Canonical.execStx {t mode : BitVec 4} {disp : BitVec 8} (hs : s.Canonical) :
    Out.Canonical (execStx h d ta o ht t mode disp s) :=
  hs.globStore

protected theorem State.Canonical.prefetchLine {x : Pref} (h : s.Canonical) : (s.prefetchLine g x).Canonical :=
  .ite h.account (.ite (.ite (h.homeRead.countAccess.foldl fun _ _ h1 => State.Canonical.ite h1.l1Put.account h1) h.homeRead.countAccess) h)

protected theorem State.Canonical.tryPref {x : Pref} (h : s.Canonical) : (s.tryPref x).Canonical := by
  unfold State.tryPref
  split
  · exact h
  · exact .ite (h.same (by with_reducible rfl)) h.prefetchLine

protected theorem State.Canonical.retryPrefs (h : s.Canonical) : s.retryPrefs.Canonical := by
  unfold State.retryPrefs
  exact (h.same (by with_reducible rfl)).foldl fun _ _ h1 => h1.tryPref

protected theorem State.Canonical.prefetch {l1 : Bool} {ta : Nat} {addr : W64 × Option Nat} (h : s.Canonical) :
    (s.prefetch g l1 ta hint addr).Canonical := by
  unfold State.prefetch
  split
  next e1 =>
    have hs1 := h.locate.of_snd e1
    exact .ite hs1 (.ite (.ite hs1 hs1.touchStash) hs1.tryPref)
  next e1 => exact h.locate.of_snd e1

protected theorem State.Canonical.prefLanes {l1 : Bool} (hs : s.Canonical) : Out.Canonical (prefLanes i h l1 ta o ht s) := by
  unfold prefLanes
  refine hs.issueLane fun _ _ _ h1 => ?_
  dsimp only
  split
  · exact h1
  · split
    · exact h1
    · exact h1.finishAperture.foldl fun _ _ h4 => h4.prefetch

protected theorem State.Canonical.execPrefL1 (hs : s.Canonical) : Out.Canonical (execPrefL1 h ta o ht s) := hs.prefLanes

protected theorem State.Canonical.execPrefL2 (hs : s.Canonical) : Out.Canonical (execPrefL2 h ta o ht s) := hs.prefLanes

protected theorem State.Canonical.scrLoad (hs : s.Canonical) : Out.Canonical (scrLoad i h d a size s) := by
  unfold scrLoad
  exact hs.issueLane fun _ _ _ h1 => h1.hold

protected theorem State.Canonical.scrStore (hs : s.Canonical) : Out.Canonical (scrStore i h d a size s) := by
  unfold scrStore
  exact hs.issueLane fun _ _ _ h1 => h1.hold

protected theorem State.Canonical.execLdsW (hs : s.Canonical) : Out.Canonical (execLdsW h d a s) := hs.scrLoad

protected theorem State.Canonical.execLdsD (hs : s.Canonical) : Out.Canonical (execLdsD h d a s) := hs.scrLoad

protected theorem State.Canonical.execLdsQ (hs : s.Canonical) : Out.Canonical (execLdsQ h d a s) := hs.scrLoad

protected theorem State.Canonical.execStsW (hs : s.Canonical) : Out.Canonical (execStsW h d a s) := hs.scrStore

protected theorem State.Canonical.execStsD (hs : s.Canonical) : Out.Canonical (execStsD h d a s) := hs.scrStore

protected theorem State.Canonical.execStsQ (hs : s.Canonical) : Out.Canonical (execStsQ h d a s) := hs.scrStore

protected theorem State.Canonical.execLdcW (hs : s.Canonical) : Out.Canonical (execLdcW h d a s) := by
  unfold execLdcW
  exact hs.issueLane fun _ _ _ h1 => h1.hold

protected theorem State.Canonical.execStcW (hs : s.Canonical) : Out.Canonical (execStcW h d a s) := by
  unfold execStcW
  refine hs.issueLane fun _ _ _ h1 => ?_
  dsimp only
  split
  · split
    · exact h1
    · exact h1.hold
  · split
    · exact h1
    · exact h1.hold

protected theorem State.Canonical.execSld {k : BitVec 32} (hs : s.Canonical) : Out.Canonical (execSld h d a k s) :=
  hs.issueUni fun _ _ h1 => h1.hold

protected theorem State.Canonical.execSst {k : BitVec 32} (hs : s.Canonical) : Out.Canonical (execSst h a b k s) := by
  unfold execSst
  refine hs.issueUni fun _ _ h1 => ?_
  dsimp only
  split
  · exact h1
  · exact h1.hold

protected theorem State.Canonical.execTaSet (hs : s.Canonical) : Out.Canonical (execTaSet h ta a b s) := by
  unfold execTaSet
  refine hs.issueUni fun _ _ h1 => ?_
  dsimp only
  split
  · exact h1
  · exact h1.settleAperture.setG

protected theorem State.Canonical.execTaInv (hs : s.Canonical) : Out.Canonical (execTaInv h ta s) := by
  unfold execTaInv
  refine hs.issueUni fun _ _ h1 => ?_
  dsimp only
  split
  · exact h1
  · exact h1.settleAperture.setG

protected theorem State.Canonical.execTaQry (hs : s.Canonical) : Out.Canonical (execTaQry h d ta s) := by
  unfold execTaQry
  refine hs.issueUni fun _ _ h1 => ?_
  dsimp only
  split
  · split
    · exact h1
    · exact h1.finishAperture.setG
  · exact h1.setG

protected theorem State.Canonical.mapStash {tid len off : Nat} (h : s.Canonical) : (s.mapStash tid va len off).2.Canonical := by
  unfold State.mapStash
  dsimp only
  split
  · exact h
  · split
    · exact h
    · split
      · split
        · exact h
        · exact h.recallStash.modTeam
      · split
        · exact h
        · split
          · exact h
          · exact h.modTeam

protected theorem State.Canonical.execStashMap (hs : s.Canonical) : Out.Canonical (execStashMap h d a b s) := by
  unfold execStashMap
  refine hs.issueUni fun _ _ h1 => ?_
  dsimp only
  split
  · exact h1
  · exact h1.mapStash.laterLogged

protected theorem State.Canonical.execStashWb (hs : s.Canonical) : Out.Canonical (execStashWb h a b s) := by
  unfold execStashWb
  refine hs.issueUni fun _ _ h1 => ?_
  split
  · exact h1
  · exact h1.awaiting

protected theorem State.Canonical.stashBack {tid lo hi : Nat} (h : s.Canonical) : (s.stashBack tid lo hi).Canonical := h.cleanStash

protected theorem State.Canonical.rangeLines {q : Req} {n : Nat} {stop : Nat} (h : s.Canonical) :
    (State.rangeLines q n s va stop).2.Canonical := by
  induction n generalizing s va with
  | zero => exact h
  | succ n ih =>
    unfold State.rangeLines
    split
    · exact h
    · split
      · exact h
      · split
        next e => exact ih (h.translate.of_snd e)
        next e => exact ih (h.translate.of_snd e)

protected theorem State.Canonical.cinvLines {kind : Nat} {lines : List Nat} (h : s.Canonical) :
    (s.cinvLines kind tile lines).Canonical := by
  unfold State.cinvLines
  dsimp only
  split
  · refine .same ?_ (by with_reducible rfl)
    exact .ite h.recallStash h.shareLines
  · refine .same ?_ (by with_reducible rfl)
    exact .ite h.recallStash h.shareLines
  · refine .same ?_ (by with_reducible rfl)
    exact .ite h.recallStash h.shareLines

protected theorem State.Canonical.cinv {op : Nat} (hs : s.Canonical) : Out.Canonical (cinv i h a b op s) := by
  unfold cinv
  refine hs.issueUni fun _ _ h1 => ?_
  dsimp only
  split
  · exact h1
  · split
    · exact h1
    next e3 => exact (h1.rangeLines.of_snd e3).awaiting

protected theorem State.Canonical.execCinvL1 (hs : s.Canonical) : Out.Canonical (execCinvL1 h a b s) := hs.cinv

protected theorem State.Canonical.execCinvWb (hs : s.Canonical) : Out.Canonical (execCinvWb h a b s) := hs.cinv

protected theorem State.Canonical.execCinvWbi (hs : s.Canonical) : Out.Canonical (execCinvWbi h a b s) := hs.cinv

protected theorem State.Canonical.shootDown {drop : TlbEntry → Bool} {walk : WalkEntry → Bool} {ctxHit : Nat → Bool}
    {apt : Nat → Aperture → Bool} {line : Nat → StashLine → Bool} (h : s.Canonical) :
    (s.shootDown drop walk ctxHit apt line).Canonical := by
  unfold State.shootDown
  exact (h.same (by with_reducible rfl)).mapGroups.recallStash

protected theorem State.Canonical.tlbi {rs : List (BitVec 6)} {f : State → State} (hs : s.Canonical)
    (hf : ∀ ⦃s⦄, s.Canonical → (f s).Canonical) : Out.Canonical (tlbi i h rs f s) := by
  unfold tlbi
  exact hs.issueUni fun _ _ h1 => (State.Canonical.ite h1 (hf h1)).awaiting

protected theorem State.Canonical.execTlbiRange (hs : s.Canonical) : Out.Canonical (execTlbiRange h a b s) := by
  unfold execTlbiRange
  exact hs.tlbi fun _ h1 => h1.shootDown

protected theorem State.Canonical.execTlbiCtx (hs : s.Canonical) : Out.Canonical (execTlbiCtx h b s) := by
  unfold execTlbiCtx
  exact hs.tlbi fun _ h1 => h1.shootDown

protected theorem State.Canonical.execTlbiGlobal (hs : s.Canonical) : Out.Canonical (execTlbiGlobal h s) := by
  unfold execTlbiGlobal
  exact hs.tlbi fun _ h1 => h1.shootDown

protected theorem State.Canonical.execTlbiAll (hs : s.Canonical) : Out.Canonical (execTlbiAll h s) := by
  unfold execTlbiAll
  exact hs.tlbi fun _ h1 => h1.shootDown

protected theorem State.Canonical.settleEntry (h : s.Canonical) : (s.settleEntry gid e).Canonical := by
  unfold State.settleEntry
  split
  · split
    · exact .ite h.finishAperture h
    · exact h
  · exact h

protected theorem State.Canonical.walkEntry {s0 : State} {lanes : W32} (h : s0.Canonical) : (s0.walkEntry g x lanes).Canonical := by
  unfold State.walkEntry
  dsimp only
  split
  · exact h
  · split
    · exact h.setAperture.modGroup.foldl fun _ _ h3 => State.Canonical.ite h3 h3.locate.setLane
    · exact h.modGroup.foldl fun _ _ h3 => State.Canonical.ite h3 h3.locate.setLane

protected theorem State.Canonical.execPageWalkDone (h : s.Canonical) : Out.Canonical (execPageWalkDone gid e lanes s) := by
  unfold execPageWalkDone
  dsimp only
  split
  · exact h.settleEntry.next
  · split
    · exact h.settleEntry.next
    · exact (State.Canonical.ite h.settleEntry h.settleEntry.walkEntry.noteEntry).next

protected theorem State.Canonical.performEntry {lanes : W32} (h : s.Canonical) : (s.performEntry gid x lanes).Canonical := by
  unfold State.performEntry
  refine .foldl (h.foldl fun s t h1 => ?_) fun _ _ h1 => h1.performAt
  split
  · exact h1.performHalf
  · exact h1

protected theorem State.Canonical.execHomeRequest (h : s.Canonical) : Out.Canonical (execHomeRequest gid e lanes s) := by
  unfold execHomeRequest
  dsimp only
  split
  · exact h.modGroup.next
  · split
    · exact h.modGroup.next
    · exact (State.Canonical.ite h.modGroup.performEntry.noteEntry h.modGroup).next

protected theorem State.Canonical.replyEntry {mask : W32} (h : s.Canonical) : (s.replyEntry gid x mask).Canonical :=
  h.returnLanes.writeLate.noteEntry

protected theorem State.Canonical.execMemoryReply (h : s.Canonical) : Out.Canonical (execMemoryReply gid e lanes s) := by
  unfold execMemoryReply
  split
  · exact h.next
  · split
    · exact h.next
    · split
      · exact h.next
      · exact (State.Canonical.ite h h.replyEntry).next

protected theorem State.Canonical.execInvalidationReceive {sector : Nat} (h : s.Canonical) :
    Out.Canonical (execInvalidationReceive tile sector s) := by
  unfold execInvalidationReceive
  split
  · exact h.next
  · exact (h.same (by with_reducible rfl)).l1Drop.next

protected theorem State.Canonical.execInvalidationAck (h : s.Canonical) : Out.Canonical (execInvalidationAck gid s) := by
  unfold execInvalidationAck
  dsimp only
  split
  · exact h.next
  · exact (State.Canonical.ite (h.same (by with_reducible rfl)) (h.same (by with_reducible rfl)).modGroup).next

protected theorem State.Canonical.execApertureTranslateDone (h : s.Canonical) : Out.Canonical (execApertureTranslateDone gid ta s) :=
  h.settleAperture.next

protected theorem State.Canonical.unitGone (h : s.Canonical) : (s.unitGone unit).Canonical := by
  unfold State.unitGone
  exact h.same (by with_reducible rfl)

protected theorem State.Canonical.foreignMove (h : s.Canonical) : (s.foreignMove unit).Canonical :=
  .ite h.setUnit.unitGone (.ite h.setUnit h)

protected theorem State.Canonical.execUnitMoveComplete (h : s.Canonical) : Out.Canonical (execUnitMoveComplete unit s) := by
  unfold execUnitMoveComplete
  dsimp only
  split
  · exact (State.Canonical.ite h.foreignMove h).next
  · split
    · exact h.next
    · split
      · exact h.next
      · split
        · exact h.next
        · split
          · exact (State.Canonical.ite (h.setUnit.winSet.same (by with_reducible rfl)) (h.setUnit.winSet.same (by with_reducible
              rfl)).unitGone).newRecord.next
          · exact (State.Canonical.ite h.setUnit h.setUnit.unitGone).next

protected theorem State.Canonical.execSettleHoldEnd (h : s.Canonical) : Out.Canonical (execSettleHoldEnd unit s) := by
  unfold execSettleHoldEnd
  split
  · exact h.next
  · split
    · exact h.next
    · exact (State.Canonical.ite h.setUnit h).next

end Sys2Proof.Machine
end

section
/-! Atomic operations and binning keep the canonical form of memory (chapter 08). -/

namespace Sys2Proof.Machine

variable {h : Hdr} {s : State} {d c a b o : BitVec 6} {t op ta : BitVec 4} {sc ord : BitVec 2}

protected theorem State.Canonical.atomIssue {i : Instr} {vr vw : List (Nat × Nat × Nat)} {k : Held} {t : Nat}
    {addr : Group → Nat → W64 × Option Nat} {x : Group → Nat → BitVec 128} {c : Option (Group → Nat → BitVec 128)} (hs : s.Canonical) :
    Out.Canonical (atomIssue i h vr vw k t addr x c s) := by
  unfold atomIssue
  exact hs.issueLane fun _ _ _ h1 => h1.hold

protected theorem State.Canonical.execAtom (hs : s.Canonical) : Out.Canonical (execAtom h d ta o c t sc op ord s) := by
  unfold execAtom
  exact hs.atomIssue

protected theorem State.Canonical.execRed (hs : s.Canonical) : Out.Canonical (execRed h d ta o t sc op ord s) := by
  unfold execRed
  exact hs.atomIssue

protected theorem State.Canonical.execCas (hs : s.Canonical) : Out.Canonical (execCas h d ta o c t sc ord s) := by
  unfold execCas
  exact hs.atomIssue

protected theorem State.Canonical.atomLocal {i : Instr} {sp : Space} (hs : s.Canonical) :
    Out.Canonical (atomLocal i h sp d a b c t sc op ord s) := by
  unfold atomLocal
  exact hs.atomIssue

protected theorem State.Canonical.execAtoms (hs : s.Canonical) : Out.Canonical (execAtoms h d a b c t sc op ord s) := hs.atomLocal

protected theorem State.Canonical.execAtomc (hs : s.Canonical) : Out.Canonical (execAtomc h d a b c t sc op ord s) := hs.atomLocal

protected theorem State.Canonical.execReds (hs : s.Canonical) : Out.Canonical (execReds h a b t sc op ord s) := by
  unfold execReds
  exact hs.atomIssue

protected theorem State.Canonical.execBinr (hs : s.Canonical) : Out.Canonical (execBinr h d a b s) := by
  unfold execBinr
  exact hs.issueLane fun _ _ _ h1 => h1.hold

protected theorem State.Canonical.execCell {dim : BitVec 4} {n : BitVec 6} (hs : s.Canonical) :
    Out.Canonical (execCell h d a b c dim n s) :=
  hs.issueLane fun _ _ _ h1 => h1.setLanes

end Sys2Proof.Machine
end

section
/-! Special registers and control flow keep the canonical form of memory (chapters 02 and 03). -/

namespace Sys2Proof.Machine

variable {s : State} {h : Hdr} {a : BitVec 6} {sp : Split}

protected theorem State.Canonical.setCtx {f : Context → Context} (h : s.Canonical) : (s.setCtx f).Canonical := .ite h h.modCtx

protected theorem State.Canonical.writeSpecial {idx : Nat} {v : W64} (h : s.Canonical) : (s.writeSpecial sp idx v).Canonical := by
  unfold State.writeSpecial
  dsimp only
  split
  · exact h.setG
  · exact h.setG
  · exact h.setG
  · exact h.setG
  · exact h.setG
  · exact h.setG
  · exact h.setG
  · exact h.setG
  · exact h.setG
  · exact h.setG
  · exact h.setG
  · exact h.setG
  · exact h.setG
  · exact h.setG
  · exact h.setG
  · exact h.setCtx
  · exact h.setG
  · exact h.setG
  · exact h.setG
  · exact h.setG
  · exact h.setCtx
  · exact h.setCtx
  · exact h.setCtx
  · exact h.setCtx
  · exact h.setCtx
  · exact h

protected theorem State.Canonical.execSrd {d idx : BitVec 6} (hs : s.Canonical) : Out.Canonical (execSrd h d idx s) := by
  unfold execSrd
  refine hs.issueUni fun _ _ h1 => ?_
  split
  · exact h1
  · exact h1.setG

protected theorem State.Canonical.execSwr {idx : BitVec 6} (hs : s.Canonical) : Out.Canonical (execSwr h a idx s) := by
  unfold execSwr
  refine hs.issueUni fun _ _ h1 => ?_
  split
  · exact h1
  · exact h1.writeSpecial

protected theorem State.Canonical.moveWindow {base : ℤ} (h : s.Canonical) : (moveWindow sp base s).1.Canonical := by
  unfold moveWindow
  dsimp only
  split
  · exact h
  · exact h.setG

protected theorem State.Canonical.execXbSetImm {imm : BitVec 12} (hs : s.Canonical) : Out.Canonical (execXbSetImm h imm s) :=
  hs.issueUni fun _ _ h1 => h1.moveWindow

protected theorem State.Canonical.execXbSetReg (hs : s.Canonical) : Out.Canonical (execXbSetReg h a s) :=
  hs.issueUni fun _ _ h1 => h1.moveWindow

protected theorem State.Canonical.execXbAddImm {imm : BitVec 12} (hs : s.Canonical) : Out.Canonical (execXbAddImm h imm s) :=
  hs.issueUni fun _ _ h1 => h1.moveWindow

protected theorem State.Canonical.execXbAddReg (hs : s.Canonical) : Out.Canonical (execXbAddReg h a s) :=
  hs.issueUni fun _ _ h1 => h1.moveWindow

protected theorem State.Canonical.execBra {off : BitVec 18} (hs : s.Canonical) : Out.Canonical (execBra h off s) :=
  hs.issueUni fun _ _ h1 => h1

protected theorem State.Canonical.execCall {off : BitVec 18} (hs : s.Canonical) : Out.Canonical (execCall h off s) :=
  hs.issueUni fun _ _ h1 => h1.setG

protected theorem State.Canonical.jumpTo {t : W64} (h : s.Canonical) : (jumpTo t sp s).1.Canonical := by
  unfold jumpTo
  split <;> exact h

protected theorem State.Canonical.execRet (hs : s.Canonical) : Out.Canonical (execRet h a s) := hs.issueUni fun _ _ h1 => h1.jumpTo

protected theorem State.Canonical.execJmp (hs : s.Canonical) : Out.Canonical (execJmp h a s) := hs.issueUni fun _ _ h1 => h1.jumpTo

protected theorem State.Canonical.execLoop {k : BitVec 32} (hs : s.Canonical) : Out.Canonical (execLoop h a k s) :=
  hs.issueUni fun _ _ h1 => h1.setG

protected theorem State.Canonical.execBrl {k : BitVec 32} (hs : s.Canonical) : Out.Canonical (execBrl h k s) := by
  unfold execBrl
  refine hs.issueLaneAll fun _ _ _ h1 => ?_
  dsimp only
  split
  · exact h1
  · split
    · exact h1
    · split
      · exact h1
      · exact h1.setG.advance

protected theorem State.Canonical.execJoin (hs : s.Canonical) : Out.Canonical (execJoin h s) := hs.issueLaneAll fun _ _ _ h1 => h1

protected theorem State.Canonical.execNop (hs : s.Canonical) : Out.Canonical (execNop h s) := hs.issueLaneAll fun _ _ _ h1 => h1

protected theorem State.Canonical.execYieldR (hs : s.Canonical) : Out.Canonical (execYieldR h s) := hs.issueUni fun _ _ h1 => h1

protected theorem State.Canonical.execSyncs (hs : s.Canonical) : Out.Canonical (execSyncs h s) := by
  unfold execSyncs
  refine hs.issueUni fun _ _ h1 => ?_
  dsimp only
  split
  · exact h1
  · split
    · exact h1
    · exact h1.setG

protected theorem State.Canonical.execExit (hs : s.Canonical) : Out.Canonical (execExit h s) := hs.issueUni fun _ _ h1 => h1

protected theorem State.Canonical.execExitL (hs : s.Canonical) : Out.Canonical (execExitL h s) := hs.issueLaneAll fun _ _ _ h1 => h1

end Sys2Proof.Machine
end

section
/-! The context image keeps the canonical form of memory (12 R320). -/

namespace Sys2Proof.Machine

variable {s : State} {tid off : Nat}

protected theorem State.Canonical.execRegisterLineFill {gid line : Nat} (h : s.Canonical) :
    Out.Canonical (execRegisterLineFill gid line s) := by
  unfold execRegisterLineFill
  dsimp only
  split
  · exact h.next
  · split
    · exact h.next
    · split
      · exact h.cacheRoom.next
      · split
        · exact h.cacheRoom.next
        · split
          next e5 => exact (h.cacheRoom.imagePlace.of_snd e5).next
          next e5 =>
            have hs5 := h.cacheRoom.imagePlace.of_snd e5
            split
            · exact hs5.imageFault.next
            · exact hs5.modGroup.next

/-- Where the image lies is kept abstract: its address is a large number that no case of the proof depends on. -/
protected theorem State.Canonical.saveBytes {bs : List Byte} (h : s.Canonical) : (s.saveBytes tid off bs).Canonical := by
  unfold State.saveBytes
  obtain ⟨place, hplace⟩ : ∃ f, saveVa = f := ⟨_, rfl⟩
  rw [hplace]
  split
  · exact h
  · split
    next e => exact h.imagePlace.of_snd e
    next e => exact (h.imagePlace.of_snd e).deviceStore

protected theorem State.Canonical.savedByte (h : s.Canonical) : (s.savedByte tid off).2.Canonical := by
  unfold State.savedByte
  obtain ⟨place, hplace⟩ : ∃ f, saveVa = f := ⟨_, rfl⟩
  rw [hplace]
  split
  · exact h
  · split
    next e => exact h.imagePlace.of_snd e
    next e => exact h.imagePlace.of_snd e

protected theorem State.Canonical.savedBytes {n : Nat} (h : s.Canonical) : (s.savedBytes tid off n).2.Canonical := by
  unfold State.savedBytes
  refine List.foldlRecOn (motive := fun (x : Option (List Byte) × State) => x.2.Canonical) _ _ h fun x h1 _ _ => ?_
  split
  · exact h1
  · exact h1.savedByte

protected theorem State.Canonical.savePoison {sector : Nat} (h : s.Canonical) : (s.savePoison tid sector).Canonical := by
  unfold State.savePoison
  obtain ⟨place, hplace⟩ : ∃ f, saveVa = f := ⟨_, rfl⟩
  rw [hplace]
  split
  · exact h
  · split
    next e => exact h.imagePlace.of_snd e
    next e => exact (h.imagePlace.of_snd e).same (by with_reducible rfl)

protected theorem State.Canonical.saveScratch (h : s.Canonical) : (s.saveScratch tid).Canonical := by
  unfold State.saveScratch
  dsimp only
  split
  · exact h
  · exact .ite h (.ite ((h.foldl fun _ _ h2 => h2.saveBytes).foldl fun _ _ h2 => h2.savePoison) (((h.foldl fun _ _ h2 => h2.saveBytes).foldl
      fun _ _ h2 => h2.savePoison).modTeam))

protected theorem State.Canonical.loadSector {k : Nat} (h : s.Canonical) : (s.loadSector tid k).Canonical := by
  unfold State.loadSector
  obtain ⟨place, hplace⟩ : ∃ f, saveVa = f := ⟨_, rfl⟩
  rw [hplace]
  split
  · exact h
  · split
    next e => exact h.imagePlace.of_snd e
    next e => exact (h.imagePlace.of_snd e).modTeam

protected theorem State.Canonical.loadScratch (h : s.Canonical) : (s.loadScratch tid).Canonical := by
  unfold State.loadScratch
  dsimp only
  split
  · exact h
  · exact .ite h (.ite ((h.foldl fun _ _ h2 => h2.loadSector).modTeam) ((h.foldl fun _ _ h2 => h2.loadSector).modTeam))

end Sys2Proof.Machine
end

section
/-! Synchronization keeps the canonical form of memory (chapter 09). -/

namespace Sys2Proof.Machine

variable {s : State} {h : Hdr} {a d b : BitVec 6} {sc : BitVec 2} {mode kind : BitVec 4} {gid slot : Nat} {imm : BitVec 16}

protected theorem State.Canonical.execCtrAdd (hs : s.Canonical) : Out.Canonical (execCtrAdd h a b mode sc kind imm s) :=
  hs.issueUni fun _ _ h1 => h1.hold

protected theorem State.Canonical.execBarArv (hs : s.Canonical) : Out.Canonical (execBarArv h d a b mode sc kind imm s) :=
  hs.issueUni fun _ _ h1 => h1.hold

protected theorem State.Canonical.ctrRead {i : Instr} {w : Nat} (hs : s.Canonical) : Out.Canonical (ctrRead i h d a w s) :=
  hs.issueUni fun _ _ h1 => h1.hold

protected theorem State.Canonical.execCtrRd (hs : s.Canonical) : Out.Canonical (execCtrRd h d a s) := hs.ctrRead

protected theorem State.Canonical.execCtrRdSt (hs : s.Canonical) : Out.Canonical (execCtrRdSt h d a s) := hs.ctrRead

protected theorem State.Canonical.waitOn {i : Instr} {bar : Bool} {regs : List Nat} {imm : Option (BitVec 16)} {target : Group → W64}
    {q : Option Nat} {deadline : Group → Option W64} (hs : s.Canonical) :
    Out.Canonical (waitOn i h bar d a regs imm mode sc target q deadline s) := by
  unfold waitOn
  refine hs.issueUni fun _ _ h1 => ?_
  dsimp only
  split
  · exact h1
  · exact h1.hold

protected theorem State.Canonical.execCtrWait (hs : s.Canonical) : Out.Canonical (execCtrWait h d a b mode sc kind imm s) := hs.waitOn

protected theorem State.Canonical.execCtrWaitt {c : BitVec 6} {q : BitVec 3} (hs : s.Canonical) :
    Out.Canonical (execCtrWaitt h d a b c mode sc q s) :=
  hs.waitOn

protected theorem State.Canonical.execBarWait (hs : s.Canonical) : Out.Canonical (execBarWait h d a b mode sc s) := hs.waitOn

protected theorem State.Canonical.parkResult {seq cnt : Nat} {sw : List (Nat × W64)} {q : Option (Nat × Bool)} (h : s.Canonical) :
    (s.parkResult gid seq cnt sw q).Canonical := by
  unfold State.parkResult
  dsimp only
  split
  · exact h
  · exact h.modGroup.addFolds.logVals

protected theorem State.Canonical.endWait {g : Group} {w : Wait} {reached : Bool} {status count : W64} (h : s.Canonical) :
    (s.endWait g slot w reached status count).Canonical := by
  unfold State.endWait
  dsimp only
  split
  · exact h
  · refine .acquired ?_
    refine h.modGroup.logVals.parkResult.foldl fun _ _ h2 => ?_
    split
    · exact h2.l1Drop
    · exact h2

protected theorem State.Canonical.evalWait {late : Bool} (h : s.Canonical) : (s.evalWait gid slot late).Canonical := by
  unfold State.evalWait
  split
  · exact h
  · split
    · exact h
    · split
      · split
        · exact h
        · split
          · exact h.endWait
          · split
            · exact h
            · exact .ite h.faultLane (.ite h.faultLane (.ite h.endWait (.ite h.endWait h)))
      · exact h

protected theorem State.Canonical.execWaitSatisfied (h : s.Canonical) : Out.Canonical (execWaitSatisfied gid slot s) := h.evalWait.next

protected theorem State.Canonical.execCtrWaittDeadline (h : s.Canonical) : Out.Canonical (execCtrWaittDeadline gid slot s) :=
  h.evalWait.next

protected theorem State.Canonical.advanceBatches (h : s.Canonical) : (s.advanceBatches gid).Canonical := h.modGroup

protected theorem State.Canonical.execBatchClose (hs : s.Canonical) : Out.Canonical (execBatchClose h d s) := by
  unfold execBatchClose
  refine hs.issueUni fun _ _ h1 => ?_
  dsimp only
  split
  · exact h1
  · exact h1.setG.advanceBatches

protected theorem State.Canonical.execBatchWait (hs : s.Canonical) : Out.Canonical (execBatchWait h a kind imm s) :=
  hs.issueUni fun _ _ h1 => h1

protected theorem State.Canonical.execPhase {t : BitVec 1} (hs : s.Canonical) : Out.Canonical (execPhase h t s) :=
  hs.issueUni fun _ _ h1 => h1.setG

protected theorem State.Canonical.execQuiet {t : BitVec 1} (hs : s.Canonical) : Out.Canonical (execQuiet h sc t s) :=
  hs.issueUni fun _ _ h1 => h1

protected theorem State.Canonical.execQuietDrained (h : s.Canonical) : Out.Canonical (execQuietDrained gid slot s) := by
  unfold execQuietDrained
  dsimp only
  split
  · exact h.next
  · split
    · exact h.next
    · split
      · split
        · exact h.next
        · exact h.modGroup.logVals.acquired.next
      · exact h.next

protected theorem State.Canonical.addFence {sc kind : Nat} (h : s.Canonical) : (s.addFence sc kind).Canonical := h.setG

protected theorem State.Canonical.addRelease (h : s.Canonical) : s.addRelease.Canonical := h.addFence

protected theorem State.Canonical.execFence (hs : s.Canonical) : Out.Canonical (execFence h sc kind s) :=
  hs.issueUni fun _ _ h1 => h1.addFence.awaiting

protected theorem State.Canonical.execAcqRem (hs : s.Canonical) : Out.Canonical (execAcqRem h d a s) := by
  unfold execAcqRem
  refine hs.issueUni fun _ _ h1 => ?_
  dsimp only
  split
  · exact h1.awaiting
  · split <;> exact h1.addFence.awaiting

end Sys2Proof.Machine
end

section
/-! Locks keep the canonical form of memory (chapter 10). -/

namespace Sys2Proof.Machine

variable {s : State} {h : Hdr} {g : Group} {n : W64} {gid ctx mode : Nat} {a d : BitVec 6} {r : LockReq} {sp : Split} {sc : BitVec 2}

protected theorem State.Canonical.lockDie (h : s.Canonical) : (s.lockDie g n).2.Canonical := by
  unfold State.lockDie
  split
  · exact h
  · split
    · split
      next e3 => exact h.translate.of_snd e3
      next e3 => split <;> exact h.translate.of_snd e3
    · exact h

protected theorem State.Canonical.grantRec (h : s.Canonical) : (s.grantRec ctx n gid mode).Canonical := by
  unfold State.grantRec
  exact (h.same (by with_reducible rfl)).modGroup

protected theorem State.Canonical.scanList {ws left : List (Nat × Nat)} (h : s.Canonical) : (State.scanList ctx n ws s left).Canonical := by
  induction ws generalizing s left with
  | nil => exact h
  | cons w rest ih => exact .ite (ih h.grantRec) (ih h)

protected theorem State.Canonical.scanLock (h : s.Canonical) : (s.scanLock ctx n).Canonical := h.scanList

protected theorem State.Canonical.freeRec (h : s.Canonical) : (s.freeRec ctx gid n).Canonical := by
  unfold State.freeRec
  exact (h.same (by with_reducible rfl)).scanLock

protected theorem State.Canonical.withdraw (h : s.Canonical) : (s.withdraw gid).Canonical := by
  unfold State.withdraw
  dsimp only
  split
  · exact h
  · split
    · exact h
    · exact .ite h (.ite h.modGroup (.ite (h.modGroup.same (by with_reducible rfl)).scanLock h.modGroup.freeRec))

protected theorem State.Canonical.withdrawOn (h : s.Canonical) : (s.withdrawOn gid).Canonical := by
  unfold State.withdrawOn
  dsimp only
  split
  · exact h
  · split
    · exact h
    · exact .ite h h.withdraw.modGroup.logVals

protected theorem State.Canonical.lockIssue {i : Instr} {u : Uses} {body : Split → State → State × Fate} (hs : s.Canonical)
    (hb : ∀ ⦃sp s⦄, s.Canonical → (body sp s).1.Canonical) : Out.Canonical (lockIssue i h u body s) := by
  unfold lockIssue
  refine hs.issueUni fun _ s h1 => ?_
  split
  · exact h1
  · exact hb h1

protected theorem State.Canonical.markLock (h : s.Canonical) : s.markLock.Canonical := h.setG

protected theorem State.Canonical.lockStatus {d : Nat} {v : W64} (h : s.Canonical) : (lockStatus sp d v s).1.Canonical :=
  h.markLock.laterLogged

protected theorem State.Canonical.execLkDef {b : BitVec 6} (hs : s.Canonical) : Out.Canonical (execLkDef h d a b s) := by
  unfold execLkDef
  refine hs.lockIssue fun _ _ h1 => ?_
  dsimp only
  split
  · exact h1.lockStatus
  · split
    · split
      · exact h1
      · exact h1.undefine.lockStatus
    · exact h1.markLock.hold

protected theorem State.Canonical.execLkBegin (hs : s.Canonical) : Out.Canonical (execLkBegin h d s) := hs.lockIssue fun _ _ h1 => h1.setG

protected theorem State.Canonical.protocolTrap (h : s.Canonical) : (protocolTrap s sp n).1.Canonical := h

protected theorem State.Canonical.sendRequest {upg : Bool} {try_ : Option Nat} {sc : Nat} (h : s.Canonical) :
    (s.sendRequest sp n mode upg try_ sc).Canonical :=
  h.setG

protected theorem State.Canonical.execLkAcq {mode : BitVec 3} (hs : s.Canonical) : Out.Canonical (execLkAcq h a mode sc s) := by
  unfold execLkAcq
  refine hs.lockIssue fun _ _ h1 => ?_
  dsimp only
  split
  · exact h1
  · split
    · exact h1.protocolTrap
    · split
      · exact h1.logVals
      · split
        · exact h1.lockDie
        · exact h1.lockDie.sendRequest

protected theorem State.Canonical.execLkUpg {mode : BitVec 3} (hs : s.Canonical) : Out.Canonical (execLkUpg h a mode sc s) := by
  unfold execLkUpg
  refine hs.lockIssue fun _ _ h1 => ?_
  dsimp only
  split
  · exact h1
  · split
    · exact h1.protocolTrap
    · split
      · exact h1.logVals
      · exact h1.sendRequest

protected theorem State.Canonical.execLkTry {mode : BitVec 3} (hs : s.Canonical) : Out.Canonical (execLkTry h d a mode sc s) := by
  unfold execLkTry
  refine hs.lockIssue fun _ _ h1 => ?_
  dsimp only
  split
  · exact h1
  · split
    · exact h1.protocolTrap
    · split
      · exact h1.lockStatus
      · split
        · exact h1.lockDie.lockStatus
        · exact h1.lockDie.sendRequest.addFence.pendingResult

protected theorem State.Canonical.execLkRel (hs : s.Canonical) : Out.Canonical (execLkRel h a s) := by
  unfold execLkRel
  refine hs.lockIssue fun _ _ h1 => ?_
  dsimp only
  split
  · exact h1.protocolTrap
  · exact h1.addRelease.markLock.pendingResult.setG

protected theorem State.Canonical.execLkEnd (hs : s.Canonical) : Out.Canonical (execLkEnd h s) :=
  hs.lockIssue fun _ _ h1 => h1.addRelease.markLock.pendingResult.setG

protected theorem State.Canonical.execLkQry (hs : s.Canonical) : Out.Canonical (execLkQry h d a s) := by
  unfold execLkQry
  refine hs.lockIssue fun _ _ h1 => ?_
  dsimp only
  split
  · exact h1.protocolTrap
  · exact h1.lockStatus

protected theorem State.Canonical.execLkmat {b : BitVec 6} (hs : s.Canonical) : Out.Canonical (execLkmat h d a b s) := by
  unfold execLkmat
  refine hs.issueUni fun _ _ h1 => ?_
  dsimp only
  split
  · exact h1.laterLogged
  · split
    · exact h1.fresh.laterLogged
    · split
      · exact h1.laterLogged
      · exact h1.modCtx.laterLogged

protected theorem State.Canonical.sendWounds (h : s.Canonical) : (s.sendWounds g n mode).Canonical := by
  unfold State.sendWounds
  exact h.same (by with_reducible rfl)

protected theorem State.Canonical.grantRequest {die : Nat} (h : s.Canonical) : (s.grantRequest g r die).Canonical := by
  unfold State.grantRequest
  exact (State.Canonical.ite h.grantRec (h.same (by with_reducible rfl))).modGroup

protected theorem State.Canonical.queueRequest {die : Nat} (h : s.Canonical) : (s.queueRequest g r die).Canonical := by
  unfold State.queueRequest
  exact (State.Canonical.ite (h.same (by with_reducible rfl)) (h.same (by with_reducible rfl))).modGroup.sendWounds

protected theorem State.Canonical.turnAway {d : Nat} (h : s.Canonical) : (s.turnAway g r d).Canonical := h.modGroup.resolve

protected theorem State.Canonical.execLockRequestArrive (h : s.Canonical) : Out.Canonical (execLockRequestArrive gid s) := by
  unfold execLockRequestArrive
  split
  · exact h.next
  · split
    · exact h.next
    · split
      · exact h.next
      · split
        next e4 =>
          have hs4 := h.lockDie.of_snd e4
          split
          · exact hs4.grantRequest.next
          · split
            · exact hs4.turnAway.next
            · exact hs4.queueRequest.next

protected theorem State.Canonical.takeGrant (h : s.Canonical) : (s.takeGrant g r).Canonical := by
  unfold State.takeGrant
  dsimp only
  split
  · exact h.modGroup.l1Flush.resolve
  · exact h.modGroup.l1Flush.modGroup.logVals

protected theorem State.Canonical.execLockGrantArrive (h : s.Canonical) : Out.Canonical (execLockGrantArrive gid s) := by
  unfold execLockGrantArrive
  split
  · exact h.next
  · split
    · exact h.next
    · exact (State.Canonical.ite h h.takeGrant).next

protected theorem State.Canonical.releaseLocks (h : s.Canonical) : (s.releaseLocks g).Canonical :=
  (h.foldl fun _ _ h1 => h1.freeRec).modGroup.resolve

protected theorem State.Canonical.execLockReleaseArrive (h : s.Canonical) : Out.Canonical (execLockReleaseArrive gid s) := by
  unfold execLockReleaseArrive
  split
  · exact h.next
  · exact (State.Canonical.ite h.releaseLocks h).next

protected theorem State.Canonical.takeWound {m : WoundMsg} (h : s.Canonical) : (s.takeWound g m).Canonical :=
  .ite ((State.Canonical.ite h.modGroup.withdrawOn h.modGroup.withdraw).modChord) (.ite h.modGroup.withdrawOn h.modGroup.withdraw)

protected theorem State.Canonical.execWoundArrive (h : s.Canonical) : Out.Canonical (execWoundArrive gid s) := by
  unfold execWoundArrive
  dsimp only
  split
  · exact h.next
  · split
    · exact (State.Canonical.ite (h.same (by with_reducible rfl)) (.ite h (h.same (by with_reducible rfl)).takeWound)).next
    · exact (h.same (by with_reducible rfl)).next

end Sys2Proof.Machine
end

section
/-! Launches, grids and teams keep the canonical form of memory (chapter 03). -/

namespace Sys2Proof.Machine

variable {s : State} {x : Grid} {tile n gid tid idx trailerTile : Nat} {serial : BitVec 32} {h : Hdr} {d a : BitVec 6} {g : Group}

protected theorem State.Canonical.enqueueChild {seq : Nat} {reserved : Bool} {d : Desc} (h : s.Canonical) :
    (s.enqueueChild g seq reserved d).Canonical := by
  unfold State.enqueueChild
  exact h.same (by with_reducible rfl)

protected theorem State.Canonical.readDesc {sp : Split} {va : W64} (h : s.Canonical) : (s.readDesc sp va).2.Canonical := by
  unfold State.readDesc
  dsimp only
  split
  · exact h
  · split
    next e2 => exact h.readOwn.of_snd e2
    next e2 => exact h.readOwn.of_snd e2

protected theorem State.Canonical.launchWith {i : Instr} {try_ : Bool} (hs : s.Canonical) : Out.Canonical (launchWith i h try_ d a s) := by
  unfold launchWith
  refine hs.issueUni fun _ _ h1 => ?_
  dsimp only
  split
  · exact h1
  · split
    · exact h1
    · split
      next e4 => exact h1.readDesc.of_snd e4
      next e4 =>
        have hs4 := h1.readDesc.of_snd e4
        split
        · exact hs4.laterLogged
        · split
          · exact hs4.addRelease.enqueueChild.laterLogged
          · split
            · exact hs4.laterLogged
            · exact hs4.addRelease

protected theorem State.Canonical.execLaunch (hs : s.Canonical) : Out.Canonical (execLaunch h d a s) := hs.launchWith

protected theorem State.Canonical.execLaunchTry (hs : s.Canonical) : Out.Canonical (execLaunchTry h d a s) := hs.launchWith

protected theorem State.Canonical.retryLaunch {slot cnt d seq : Nat} {x : Desc} (h : s.Canonical) :
    (s.retryLaunch g slot cnt d seq x).Canonical := by
  unfold State.retryLaunch
  split
  · exact h
  · exact h.enqueueChild.modGroup.parkResult

protected theorem State.Canonical.execQpost {b : BitVec 6} (hs : s.Canonical) : Out.Canonical (execQpost h d a b s) := by
  unfold execQpost
  refine hs.issueUni fun _ _ h1 => ?_
  dsimp only
  split
  · exact h1
  · split
    next e3 => exact h1.readDesc.of_snd e3
    next e3 =>
      have hs3 := h1.readDesc.of_snd e3
      split
      · exact hs3.laterLogged
      · exact hs3.addRelease.setG

protected theorem State.Canonical.performPost {q : Nat} {desc : List Byte} (h : s.Canonical) : (s.performPost g q desc).2.Canonical := by
  unfold State.performPost
  dsimp only
  split
  · exact h
  · split
    · exact h
    · split
      next e3 => exact (h.deviceTranslate.of_snd e3).deviceStore.winSet
      next e3 => exact (h.deviceTranslate.of_snd e3).winSet

protected theorem State.Canonical.execQprio {b : BitVec 6} (hs : s.Canonical) : Out.Canonical (execQprio h d a b s) := by
  unfold execQprio
  refine hs.issueUni fun _ _ h1 => ?_
  dsimp only
  split
  · split
    · exact h1.modGrid.laterLogged
    · exact h1.laterLogged
  · exact h1.laterLogged

protected theorem State.Canonical.execQueueDoorbell {tail : BitVec 32} (h : s.Canonical) : Out.Canonical (execQueueDoorbell n tail s) :=
  (State.Canonical.ite h.doorbell h).next

protected theorem State.Canonical.execQctlWrite {v : BitVec 64} (h : s.Canonical) : Out.Canonical (execQctlWrite n v s) :=
  (State.Canonical.ite h.writeQctl h).next

protected theorem State.Canonical.execQueueEntryRead (h : s.Canonical) : Out.Canonical (execQueueEntryRead n s) := by
  unfold execQueueEntryRead
  dsimp only
  split
  · exact h.next
  · split
    · exact h.queueErr.next
    · split
      · exact h.next
      · split
        next e4 => exact (h.deviceTranslate.of_snd e4).queueErr.next
        next e4 =>
          have hs4 := h.deviceTranslate.of_snd e4
          split
          · split
            · exact hs4.queueErr.next
            · exact (hs4.same (by with_reducible rfl)).next
          · exact hs4.queueErr.next

protected theorem State.Canonical.gridKey (h : s.Canonical) : (s.gridKey x serial).2.Canonical := by
  unfold State.gridKey
  split
  · split
    next e2 => exact (h.deviceTranslate.of_snd e2).homeRead
    next e2 => exact h.deviceTranslate.of_snd e2
  · exact h

protected theorem State.Canonical.writeKey {key : BitVec 32} (h : s.Canonical) : (s.writeKey x key).Canonical := by
  unfold State.writeKey
  split
  · split
    next e2 => exact (h.deviceTranslate.of_snd e2).deviceStore
    next e2 => exact h.deviceTranslate.of_snd e2
  · exact h

protected theorem State.Canonical.acceptEntry {i : Nat} (h : s.Canonical) : (s.acceptEntry i x).Canonical := by
  unfold State.acceptEntry
  dsimp only
  exact .ite (.ite (h.gridKey.same (by with_reducible rfl)) (h.gridKey.same (by with_reducible rfl)).winSet) ((State.Canonical.ite
      (h.gridKey.same (by with_reducible rfl)) (h.gridKey.same (by with_reducible rfl)).winSet).writeKey)

protected theorem State.Canonical.execGridAccept (h : s.Canonical) : Out.Canonical (execGridAccept s) := by
  unfold execGridAccept
  split
  · exact h.next
  · split
    · exact h.next
    · exact (State.Canonical.ite h h.acceptEntry).next

protected theorem State.Canonical.addGroups {quad : Nat} {role : Role} {l : List Nat} (h : s.Canonical) :
    (State.addGroups x tid idx tile quad role l s).Canonical := by
  induction l generalizing s with
  | nil => exact h
  | cons i rest ih =>
    unfold State.addGroups
    exact ih (State.Canonical.modCtx (h.same (by with_reducible rfl))).cacheSettle

protected theorem State.Canonical.takeBanks (h : s.Canonical) : (s.takeBanks tile n).2.Canonical := h.foldl fun _ _ h1 => h1.saveScratch

protected theorem State.Canonical.addTeam {role : Role} {replay : Option Nat} (h : s.Canonical) :
    (s.addTeam x idx tile role replay).Canonical := by
  unfold State.addTeam
  dsimp only
  exact (h.takeBanks.same (by with_reducible rfl)).addGroups.l1Flush

protected theorem State.Canonical.startTeam (h : s.Canonical) : (s.startTeam x idx tile trailerTile).Canonical :=
  .ite h.addTeam (.ite h.homeCode.addTeam.addTeam.modTeam (.ite h.addTeam.modTeam h.addTeam))

protected theorem State.Canonical.startSet {site other : Nat} (h : s.Canonical) : (s.startSet x n site other).Canonical :=
  h.foldl fun _ _ h1 => h1.startTeam

protected theorem State.Canonical.placeSet (h : s.Canonical) : State.CanonicalIn (s.placeSet serial tile trailerTile) := by
  unfold State.placeSet
  dsimp only
  split
  · exact State.Canonical.none
  · split
    · exact h.startSet.modGrid.some
    · exact State.Canonical.none

protected theorem State.Canonical.placeEach {rank : Bool} {sites l : List Nat} (h : s.Canonical) :
    State.CanonicalIn (State.placeEach x rank sites l s) := by
  induction l generalizing s with
  | nil => exact h.some
  | cons n rest ih =>
    unfold State.placeEach
    dsimp only
    split
    · split
      · exact State.Canonical.none
      · split
        · exact State.Canonical.none
        · exact ih h.startSet
    · split
      · exact ih h.startSet
      · exact State.Canonical.none

protected theorem State.Canonical.placeAll (h : s.Canonical) : State.CanonicalIn (s.placeAll serial tile) := by
  unfold State.placeAll
  split
  · exact State.Canonical.none
  · dsimp only
    refine .map ?_ fun _ h1 => h1.modGrid
    split
    next e => exact (h.placeEach _ e).some
    next => exact h.placeEach

protected theorem State.Canonical.execTeamDistribute (h : s.Canonical) : Out.Canonical (execTeamDistribute serial tile trailerTile s) := by
  unfold execTeamDistribute
  split
  · exact h.next
  · split
    · exact h.next
    · split
      · exact (h.getD h.placeAll).next
      · exact (h.getD h.placeSet).next

protected theorem State.Canonical.endGroup (h : s.Canonical) : (s.endGroup gid).Canonical := by
  unfold State.endGroup
  dsimp only
  split
  · exact h
  · split
    · exact .ite ((State.Canonical.ite h.closeGroup h.closeFollower).modGroup) ((State.Canonical.ite h.closeGroup
        h.closeFollower).modGroup.dropStash.modTeam)
    · exact .ite h.closeFollower.modGroup h.closeFollower.modGroup.dropStash.modTeam

protected theorem State.Canonical.dropLocks (h : s.Canonical) : (s.dropLocks gid).Canonical := by
  unfold State.dropLocks
  dsimp only
  split
  · exact h
  · refine .same ?_ (by with_reducible rfl)
    exact h.foldl fun _ _ h2 => h2.freeRec

protected theorem State.Canonical.failFlips (h : s.Canonical) : (s.failFlips gid).Canonical := by
  unfold State.failFlips
  split
  · exact h
  · exact h.modGroup.foldl fun _ _ h2 => h2.resolve

protected theorem State.Canonical.removeGroup {s0 : State} (h : s0.Canonical) : (s0.removeGroup gid).Canonical := by
  unfold State.removeGroup
  exact h.failFlips.same (by with_reducible rfl)

protected theorem State.Canonical.removeTeam (h : s.Canonical) : (s.removeTeam tid).Canonical := by
  unfold State.removeTeam
  dsimp only
  refine .same ?_ (by with_reducible rfl)
  exact h.foldl fun _ _ h1 => h1.removeGroup

/-- The pages of a record, translated one after another. -/
protected theorem State.Canonical.pagesOf {ctx va k : Nat} (h : s.Canonical) :
    ∀ x, State.pagesOf ctx n va k s = some x → x.2.Canonical := by
  induction n generalizing va k s with
  | zero =>
    intro x hx
    unfold State.pagesOf at hx
    split at hx
    · cases hx
      exact h
    · cases hx
  | succ n ih =>
    intro x hx
    unfold State.pagesOf at hx
    split at hx
    · cases hx
      exact h
    · dsimp only at hx
      split at hx
      · cases hx
      next e =>
        obtain ⟨y, hy, rfl⟩ := Option.map_eq_some_iff.mp hx
        exact ih (h.deviceTranslate.of_snd e) y hy

protected theorem State.Canonical.appendRecord {t : Team} (h : s.Canonical) : (s.appendRecord x t).Canonical := by
  unfold State.appendRecord
  split
  · exact h
  · dsimp only
    split
    · exact h
    · split
      · exact h.modGrid
      next e =>
        have hpa := h.deviceTranslate.of_snd e
        split
        · exact h.modGrid
        · split
          · exact h.modGrid
          · split
            · exact h.modGrid
            next e2 =>
              refine State.Canonical.same (State.Canonical.deviceStore (State.Canonical.foldl (hpa.homeRead.pagesOf _ e2) fun _ _ h1 => ?_))
                  (by with_reducible rfl)
              exact h1.countHome.homeCode

protected theorem State.Canonical.retire {t : Team} (h : s.Canonical) : (s.retire t).Canonical := by
  unfold State.retire
  refine .modGrid ?_
  refine .same ?_ (by with_reducible rfl)
  split
  · exact h.appendRecord.foldl fun _ _ h2 => h2.removeTeam
  · exact h.foldl fun _ _ h2 => h2.removeTeam

protected theorem State.Canonical.execTeamRetire (h : s.Canonical) : Out.Canonical (execTeamRetire tid s) := by
  unfold execTeamRetire
  split
  · exact h.next
  · exact (State.Canonical.ite h.retire h).next

protected theorem State.Canonical.complete (h : s.Canonical) : (s.complete x).Canonical := by
  unfold State.complete
  dsimp only
  split
  · exact h
  · split
    next e2 => exact (h.deviceTranslate.of_snd e2).pushFault
    next e2 =>
      have hs2 := h.deviceTranslate.of_snd e2
      split
      · refine .counterAdd ?_
        split
        · exact hs2.countHome.recordError
        · exact hs2.countHome
      · exact hs2.pushFault

protected theorem State.Canonical.execGridRetire (h : s.Canonical) : Out.Canonical (execGridRetire serial s) := by
  unfold execGridRetire
  dsimp only
  split
  · exact h.next
  · split
    · exact (h.complete.same (by with_reducible rfl)).next
    · exact h.next

protected theorem State.Canonical.endGrid {code : BitVec 7} (h : s.Canonical) : (s.endGrid serial code).Canonical := by
  unfold State.endGrid
  refine .modGrid ?_
  refine .same ?_ (by with_reducible rfl)
  exact (h.foldl fun _ _ h1 => h1.dropLocks).foldl fun _ _ h1 => h1.removeGroup

end Sys2Proof.Machine
end

section
/-! Traps, preemption and the swap of a partition keep the canonical form of memory (chapter 12). -/

namespace Sys2Proof.Machine

variable {s : State} {h : Hdr} {gid ctx die tile : Nat} {g : Group} {a : BitVec 6} {r : Result}

protected theorem State.Canonical.leavePark {slot : Nat} (h : s.Canonical) : (s.leavePark gid slot).Canonical := by
  unfold State.leavePark
  split
  · exact h
  · split
    · exact h
    · split
      · exact h.modGroup
      · split
        · exact .ite h.withdraw h
        · exact h
      · exact h

protected theorem State.Canonical.markHeld (h : s.Canonical) : (s.markHeld g).Canonical :=
  h.foldl fun _ _ h1 => State.Canonical.ite h1 h1.logVals

protected theorem State.Canonical.takeDue {sp : Split} {d : Due} (h : s.Canonical) : (s.takeDue g sp d).Canonical := by
  unfold State.takeDue
  dsimp only
  split
  · split
    · exact .ite h.markHeld.leavePark.modGroup.takeTrap.logTrap.withdrawOn h.markHeld.leavePark.modGroup.takeTrap.logTrap
    · exact .ite h.leavePark.modGroup.takeTrap.logTrap.withdrawOn h.leavePark.modGroup.takeTrap.logTrap
  · split
    · exact .ite h.markHeld.leavePark.modGroup.takeTrap.withdrawOn h.markHeld.leavePark.modGroup.takeTrap
    · exact .ite h.leavePark.modGroup.takeTrap.withdrawOn h.leavePark.modGroup.takeTrap

protected theorem State.Canonical.takeLogged {l : TrapLog} (h : s.Canonical) : (s.takeLogged g l).Canonical := h.leavePark.takeTrap.modGroup

protected theorem State.Canonical.execTrapEntry (h : s.Canonical) : Out.Canonical (execTrapEntry gid s) := by
  unfold execTrapEntry
  split
  · exact h.next
  · split
    · split
      · exact h.next
      · exact h.takeDue.next
    · split
      · split
        · exact h.takeLogged.next
        · exact h.next
      · exact h.next

protected theorem State.Canonical.execTrap {code : BitVec 12} (hs : s.Canonical) : Out.Canonical (execTrap h code s) :=
  hs.issueUni fun _ _ h1 => h1

protected theorem State.Canonical.execBrk {code : BitVec 12} (hs : s.Canonical) : Out.Canonical (execBrk h code s) :=
  hs.issueUni fun _ _ h1 => h1

protected theorem State.Canonical.execRte (hs : s.Canonical) : Out.Canonical (execRte h s) := by
  unfold execRte
  refine hs.issueUni fun _ _ h1 => ?_
  dsimp only
  split
  · exact h1
  · exact h1.setG

protected theorem State.Canonical.execOlogRetry (hs : s.Canonical) : Out.Canonical (execOlogRetry h a s) :=
  hs.issueUni fun _ _ h1 => h1.setG

protected theorem State.Canonical.execOlogDrop (hs : s.Canonical) : Out.Canonical (execOlogDrop h a s) :=
  hs.issueUni fun _ _ h1 => h1.setG.freeDone

protected theorem State.Canonical.execOlogStat {d : BitVec 6} (hs : s.Canonical) : Out.Canonical (execOlogStat h d s) :=
  hs.issueUni fun _ _ h1 => h1.setG

protected theorem State.Canonical.ctxFlush {i : Instr} {what : Nat} (hs : s.Canonical) : Out.Canonical (ctxFlush i h what s) :=
  hs.issueUni fun _ _ h1 => h1.awaiting

protected theorem State.Canonical.execCtxFlV (hs : s.Canonical) : Out.Canonical (execCtxFlV h s) := hs.ctxFlush

protected theorem State.Canonical.execCtxFlA (hs : s.Canonical) : Out.Canonical (execCtxFlA h s) := hs.ctxFlush

protected theorem State.Canonical.execCtxFlAll (hs : s.Canonical) : Out.Canonical (execCtxFlAll h s) := hs.ctxFlush

protected theorem State.Canonical.fillLines {lines : List Nat} (h : s.Canonical) : (s.fillLines gid lines).Canonical := by
  unfold State.fillLines
  refine h.foldl fun _ _ h1 => ?_
  split
  next e2 => exact h1.execRegisterLineFill _ e2
  · exact h1

protected theorem State.Canonical.execCtxLdV {b : BitVec 6} (hs : s.Canonical) : Out.Canonical (execCtxLdV h a b s) :=
  hs.issueUni fun _ _ h1 => h1.fillLines

protected theorem State.Canonical.execCtxLdA (hs : s.Canonical) : Out.Canonical (execCtxLdA h a s) := hs.issueUni fun _ _ h1 => h1.fillLines

protected theorem State.Canonical.preemptCtx {dies : List Nat} (h : s.Canonical) : (s.preemptCtx ctx dies).Canonical :=
  (h.foldl fun _ _ h1 => h1.preemptTeam).modCtx

protected theorem State.Canonical.beginSwap {out : Bool} {seq : Nat} (h : s.Canonical) : (s.beginSwap die out gid seq).Canonical := by
  unfold State.beginSwap
  dsimp only
  refine .same ?_ (by with_reducible rfl)
  exact h.foldl fun _ _ h1 => (h1.foldl fun _ _ h2 => h2.stopGroup).modTeam

protected theorem State.Canonical.restart (h : s.Canonical) : (s.restart ctx).Canonical :=
  h.modCtx.mapGroups.foldl fun _ _ h1 => h1.loadScratch

protected theorem State.Canonical.execPreempt {d b : BitVec 6} (hs : s.Canonical) : Out.Canonical (execPreempt h d a b s) := by
  unfold execPreempt
  refine hs.issueUni fun _ _ h1 => ?_
  dsimp only
  split
  · exact h1.laterLogged
  · split
    · split
      · exact h1.laterLogged
      · split
        · exact h1.laterLogged
        · exact h1.pendingResult.beginSwap
    · split
      · exact h1.laterLogged
      · split
        · exact h1.laterLogged
        · split
          · exact h1.laterLogged
          · split
            · exact h1.restart.laterLogged
            · exact h1.setG.preemptCtx

protected theorem State.Canonical.endContext (h : s.Canonical) : (s.endContext ctx).Canonical := by
  unfold State.endContext
  dsimp only
  refine .same ?_ (by with_reducible rfl)
  exact h.foldl fun _ _ h1 => h1.endGrid

protected theorem State.Canonical.resumeGroup {quad : Option Nat} (h : s.Canonical) : (s.resumeGroup gid tile quad).Canonical := by
  unfold State.resumeGroup
  dsimp only
  split
  · exact h
  · split
    · exact (State.Canonical.ite h h.flushGroup).modGroup
    · exact ((State.Canonical.ite h h.flushGroup).modGroup.foldl fun _ _ h3 => h3.replyEntry).cacheRoom.cacheRoom

protected theorem State.Canonical.resumeTeam {tid : Nat} (h : s.Canonical) : (s.resumeTeam tid tile).Canonical := by
  unfold State.resumeTeam
  dsimp only
  split
  · exact h
  · split
    · exact (State.Canonical.ite h h.saveScratch).takeBanks.modTeam.loadScratch.foldl fun _ _ h3 => h3.resumeGroup
    · exact (State.Canonical.ite h h.saveScratch).modTeam.loadScratch.foldl fun _ _ h3 => h3.resumeGroup

protected theorem State.Canonical.resumeAll {hint : Nat} {l : List Nat} (h : s.Canonical) :
    State.CanonicalIn (State.resumeAll hint l s) := by
  induction l generalizing s with
  | nil => exact h.some
  | cons i rest ih =>
    unfold State.resumeAll
    split
    · exact State.Canonical.none
    · split
      · exact State.Canonical.none
      · dsimp only
        split
        · exact State.Canonical.none
        · exact ih h.resumeTeam

protected theorem State.Canonical.execGroupResume {tid : Nat} (h : s.Canonical) : Out.Canonical (execGroupResume tid tile s) := by
  unfold execGroupResume
  split
  · exact h.next
  · split
    · exact h.next
    · exact (h.getD h.resumeAll).next

protected theorem State.Canonical.codeShadow (h : s.Canonical) : (s.codeShadow die).Canonical := .ite h.homeCode h

protected theorem State.Canonical.swapOut {w : Swap} (h : s.Canonical) : (s.swapOut w).Canonical := by
  unfold State.swapOut
  exact ((h.same (by with_reducible rfl)).dropStopped.foldl fun _ _ h1 => h1.codeShadow).resolve

protected theorem State.Canonical.swapIn {w : Swap} (h : s.Canonical) : (s.swapIn w).Canonical := by
  unfold State.swapIn
  refine .resolve ?_
  refine (h.same (by with_reducible rfl)).foldl fun _ _ h1 => ?_
  split
  · exact h1.resumeTeam
  · exact h1

protected theorem State.Canonical.execPartitionSwapDone (h : s.Canonical) : Out.Canonical (execPartitionSwapDone die s) := by
  unfold execPartitionSwapDone
  split
  · exact h.next
  · split
    · exact h.next
    · split
      · exact (State.Canonical.ite h h.swapOut).next
      · exact h.swapIn.next

protected theorem State.Canonical.landHeld (h : s.Canonical) : (s.landHeld g r).Canonical := h.modGroup.modTeam.addFolds.modGroup

protected theorem State.Canonical.land {lanes : W32} (h : s.Canonical) : (s.land g r lanes).Canonical := h.modGroup.writeLate

protected theorem State.Canonical.returnResult {lanes : W32} (h : s.Canonical) : (s.returnResult g r lanes).Canonical := by
  unfold State.returnResult
  dsimp only
  split
  · exact h.performPost.resolve.land
  · split
    · exact .ite h.flushGroup h.flushGroup.land
    · exact h.flushGroup
  · exact h.landHeld
  · exact h.stashBack.land
  · exact h.cinvLines.land
  · exact h.resolve.land
  · exact h.endContext.resolve.land
  · split
    · refine .l1Flush ?_
      split
      · refine .l1Flush ?_
        refine .land ?_
        split
        · exact h.logVals
        · exact h
      · refine .land ?_
        split
        · exact h.logVals
        · exact h
    · split
      · refine .l1Flush ?_
        refine .land ?_
        split
        · exact h.logVals
        · exact h
      · refine .land ?_
        split
        · exact h.logVals
        · exact h

protected theorem State.Canonical.execResultReturn {seq : Nat} {lanes : BitVec 32} (h : s.Canonical) :
    Out.Canonical (execResultReturn gid seq lanes s) := by
  unfold execResultReturn
  split
  · exact h.next
  · split
    · exact h.next
    · exact (State.Canonical.ite h h.returnResult).next

end Sys2Proof.Machine
end

section
/-! Engine commands keep the canonical form of memory (chapter 11). -/

namespace Sys2Proof.Machine

variable {s : State} {c : Cmd} {h : Hdr} {d b a : BitVec 6} {comp sc sp : BitVec 2} {imm : BitVec 16} {id n total pa : Nat}
  {code : BitVec 7} {segs : List (Nat × List Byte)} {x : Coll} {dst : ℤ}

protected theorem State.Canonical.engineError {addr : W64} (h : s.Canonical) : (s.engineError c code addr).Canonical := h.modGroup

protected theorem State.Canonical.numberColl (h : s.Canonical) : (s.numberColl c).2.Canonical := h.modCtx

protected theorem State.Canonical.acceptColl (h : s.Canonical) : (s.acceptColl c).1.Canonical := by
  unfold State.acceptColl
  dsimp only
  split
  next e1 => exact (h.readOwn.of_snd e1).engineError
  next e1 =>
    have hs1 := h.readOwn.of_snd e1
    split
    · exact hs1.numberColl.engineError
    · exact hs1.numberColl

protected theorem State.Canonical.modCmd {f : Cmd → Cmd} (h : s.Canonical) : (s.modCmd id f).Canonical := by
  unfold State.modCmd
  exact h.same (by with_reducible rfl)

protected theorem State.Canonical.failCmd {addr : W64} (h : s.Canonical) : (s.failCmd c code addr).Canonical := by
  unfold State.failCmd
  exact h.engineError.modCmd.same (by with_reducible rfl)

protected theorem State.Canonical.takePeer {m : PeerMsg} (h : s.Canonical) : (s.takePeer c m).Canonical := by
  unfold State.takePeer
  split
  · exact h
  · exact .ite h.failCmd (.ite h.failCmd (.ite h.modCmd h))

protected theorem State.Canonical.matchPeers (h : s.Canonical) : s.matchPeers.Canonical := by
  unfold State.matchPeers
  refine (h.same (by with_reducible rfl)).foldl fun _ _ h1 => ?_
  split
  · exact h1.takePeer
  · exact h1

protected theorem State.Canonical.poisonScr {sector : Nat} (h : s.Canonical) : (s.poisonScr c sector).Canonical := by
  unfold State.poisonScr
  dsimp only
  split
  · exact (State.Canonical.ite h.savePoison h.modTeam).logVals
  · exact .ite h.savePoison h.modTeam

protected theorem State.Canonical.refuseList {list : Option W64} {r : Nat} (h : s.Canonical) : (s.refuseList c list r).1.Canonical :=
  h.poisonScr.engineError

protected theorem State.Canonical.engineCmd {i : Instr} {kind op : Nat} {regs : List Nat} {list : Option (BitVec 6)} {space : BitVec 2}
    (hs : s.Canonical) : Out.Canonical (engineCmd i h kind op d regs b list comp space sc imm s) := by
  unfold engineCmd
  refine hs.issueUni fun _ _ h1 => ?_
  dsimp only
  split
  · exact h1.same (by with_reducible rfl)
  · split
    · exact h1
    · split
      · exact h1
      · split
        · split
          · exact h1.same (by with_reducible rfl)
          · exact h1.setG
        · split
          · split
            · exact h1
            · exact (h1.acceptColl.same (by with_reducible rfl)).matchPeers
          · split
            · exact h1.refuseList.same (by with_reducible rfl)
            · exact h1.same (by with_reducible rfl)

protected theorem State.Canonical.execCpIn (hs : s.Canonical) : Out.Canonical (execCpIn h d a b comp sp sc imm s) := hs.engineCmd

protected theorem State.Canonical.execCpOut (hs : s.Canonical) : Out.Canonical (execCpOut h d a b comp sp sc imm s) := hs.engineCmd

protected theorem State.Canonical.execCpGath {c : BitVec 6} (hs : s.Canonical) : Out.Canonical (execCpGath h d a b c comp sp sc imm s) :=
  hs.engineCmd

protected theorem State.Canonical.execCpBulk (hs : s.Canonical) : Out.Canonical (execCpBulk h d a b comp sp sc imm s) := hs.engineCmd

protected theorem State.Canonical.execCpBulkFill (hs : s.Canonical) : Out.Canonical (execCpBulkFill h d a b comp sp sc imm s) :=
  hs.engineCmd

protected theorem State.Canonical.execCollAllred (hs : s.Canonical) : Out.Canonical (execCollAllred h d a b comp sp sc imm s) :=
  hs.engineCmd

protected theorem State.Canonical.execCollRedscat (hs : s.Canonical) : Out.Canonical (execCollRedscat h d a b comp sp sc imm s) :=
  hs.engineCmd

protected theorem State.Canonical.execCollAllgath (hs : s.Canonical) : Out.Canonical (execCollAllgath h d a b comp sp sc imm s) :=
  hs.engineCmd

protected theorem State.Canonical.execCollBcast (hs : s.Canonical) : Out.Canonical (execCollBcast h d a b comp sp sc imm s) := hs.engineCmd

protected theorem State.Canonical.execCpStat {which : BitVec 2} (hs : s.Canonical) : Out.Canonical (execCpStat h d which s) :=
  hs.issueUni fun _ _ h1 => h1.setG

protected theorem State.Canonical.postOne (h : s.Canonical) : (s.postOne id pa n).Canonical := by
  unfold State.postOne
  split
  · exact .ite (h.same (by with_reducible rfl)) (h.same (by with_reducible rfl))
  · exact h.same (by with_reducible rfl)

protected theorem State.Canonical.postRange {q : Req} {va stop : Nat} (h : s.Canonical) : (State.postRange q id n s va stop).Canonical := by
  induction n generalizing s va with
  | zero => exact h
  | succ n ih =>
    unfold State.postRange
    split
    · exact h
    · dsimp only
      split
      next e => exact ih (h.translate.of_snd e).postOne
      next e => exact ih (h.translate.of_snd e)

protected theorem State.Canonical.postAll (h : s.Canonical) : (s.postAll c).Canonical := h.foldl fun _ _ h1 => h1.postRange

protected theorem State.Canonical.takeLines (h : s.Canonical) : (s.takeLines id).Canonical := by
  unfold State.takeLines
  exact h.recallStash.same (by with_reducible rfl)

protected theorem State.Canonical.abandonCmd (h : s.Canonical) : (s.abandonCmd c).Canonical := h.failCmd

protected theorem State.Canonical.startCmd (h : s.Canonical) : (s.startCmd c).Canonical := .ite h.postAll.takeLines.modCmd h

protected theorem State.Canonical.execEngineCommandStart (h : s.Canonical) : Out.Canonical (execEngineCommandStart id s) := by
  unfold execEngineCommandStart
  split
  · exact h.next
  · split
    · exact h.next
    · split
      · exact h.abandonCmd.next
      · split
        · exact h.engineError.modCmd.next
        · exact h.startCmd.next

protected theorem State.Canonical.disown (h : s.Canonical) : (s.disown id pa n).Canonical := by
  unfold State.disown
  exact h.same (by with_reducible rfl)

protected theorem State.Canonical.engineAt {va : ℤ} {n : Need} (h : s.Canonical) : (s.engineAt c va n).2.Canonical := by
  unfold State.engineAt
  split
  · exact h
  · split
    next e2 => exact h.translate.of_snd e2
    next e2 => exact h.translate.of_snd e2

protected theorem State.Canonical.engineCount {kind : Nat} {wr : Bool} (h : s.Canonical) : (s.engineCount c pa kind wr).Canonical :=
  .ite h.countHome.countMovable h.countHome

protected theorem State.Canonical.sourceGlob {va : ℤ} (h : s.Canonical) : (s.sourceGlob c va n).2.Canonical := by
  unfold State.sourceGlob
  dsimp only
  split
  · exact h
  · split
    next e2 => exact h.engineAt.of_snd e2
    next e2 =>
      have hs2 := h.engineAt.of_snd e2
      split
      · exact hs2
      · split
        · exact hs2.takeStash.engineCount
        · exact hs2

protected theorem State.Canonical.sourceScr {off : Nat} (h : s.Canonical) : (s.sourceScr c off n).2.Canonical := by
  unfold State.sourceScr
  dsimp only
  split
  · exact h
  · split
    · split
      · exact h
      · split
        next e4 => exact h.savedBytes.of_snd e4
        next e4 => exact h.savedBytes.of_snd e4
    · split
      · exact h
      · split <;> exact h

protected theorem State.Canonical.collBytes {pos : Nat} (h : s.Canonical) : (collBytes s c x pos n).2.Canonical := by
  unfold collBytes
  dsimp only
  split
  · exact h
  · exact h
  · exact h.same (by with_reducible rfl)

protected theorem State.Canonical.cmdSource {pos : Nat} (h : s.Canonical) : (s.cmdSource c total pos).2.Canonical := by
  unfold State.cmdSource
  dsimp only
  split
  · exact h.sourceGlob
  · exact h.sourceScr
  · split
    · exact h
    · exact h.sourceGlob
  · split
    · exact h
    · exact h.sourceGlob
  · split
    · exact h.collBytes
    · exact h

protected theorem State.Canonical.logLanding (h : s.Canonical) : (s.logLanding c segs).Canonical := by
  unfold State.logLanding
  dsimp only
  split
  · exact h
  · exact h.logVals

protected theorem State.Canonical.landAt {tid : Nat} (h : s.Canonical) : (s.landAt tid segs).Canonical := by
  unfold State.landAt
  split
  · exact h
  · exact .ite (h.foldl fun _ _ h2 => h2.saveBytes) h.modTeam

protected theorem State.Canonical.landBytes {tid : Nat} (h : s.Canonical) : (s.landBytes id tid segs).Canonical := by
  unfold State.landBytes
  dsimp only
  split
  · exact h.landAt.modTeam.modCmd.logLanding
  · exact h.landAt.modTeam.modCmd

protected theorem State.Canonical.drainLanding {tile : Nat} (h : s.Canonical) : (s.drainLanding tile).Canonical :=
  h.modTile.foldl fun _ _ h1 => h1.landBytes

protected theorem State.Canonical.putScr {rest : List Byte} (h : s.Canonical) : State.CanonicalIn (s.putScr c segs rest) := by
  unfold State.putScr
  dsimp only
  split
  · exact State.Canonical.none
  · split
    · split
      · split
        · exact State.Canonical.none
        · exact h.modTile.modCmd.some
      · exact h.landBytes.modCmd.some
    · split
      · split
        · exact State.Canonical.none
        · exact h.modTile.modCmd.some
      · exact h.landBytes.modCmd.some

protected theorem State.Canonical.poisonDest (h : s.Canonical) : (s.poisonDest c dst).Canonical := by
  unfold State.poisonDest
  split
  · exact h.poisonScr
  · split
    next e2 =>
      have hs2 := h.engineAt.of_snd e2
      exact .ite (hs2.same (by with_reducible rfl)) hs2
    next e2 => exact h.engineAt.of_snd e2

protected theorem State.Canonical.putGlob {bs : List Byte} {src : List (Nat × Nat)} {rest : List Byte} (h : s.Canonical) :
    State.CanonicalIn (s.putGlob c dst bs src rest) := by
  unfold State.putGlob
  dsimp only
  split
  · exact State.Canonical.none
  · refine .some ?_
    split
    next e2 => exact (h.engineAt.of_snd e2).failCmd
    next e2 =>
      have hs2 := h.engineAt.of_snd e2
      exact .ite hs2 (.ite hs2.failCmd (.ite hs2.failCmd hs2.engineCount.homeWrite.disown.modCmd))

protected theorem State.Canonical.readAhead {want : Nat} {bs : List Byte} {pas : List (Nat × Nat)} (h : s.Canonical) :
    (State.readAhead c total want n s bs pas).2.Canonical := by
  induction n generalizing s bs pas with
  | zero => exact h
  | succ n ih =>
    unfold State.readAhead
    split
    · exact h
    · split
      next e => exact h.cmdSource.of_snd e
      next e => exact h.cmdSource.of_snd e
      next e => exact ih (h.cmdSource.of_snd e)

protected theorem State.Canonical.stopCmd {a : W64} {bad : Bool} (h : s.Canonical) : (s.stopCmd c code a bad dst).Canonical :=
  (State.Canonical.ite h.poisonDest h).failCmd

protected theorem State.Canonical.movePiece (h : s.Canonical) : (s.movePiece c total).Canonical := by
  unfold State.movePiece
  extract_lets dst scr ps
  split
  next e => exact h.readAhead.of_snd e
  next r s1 e =>
    have h1 : s1.Canonical := h.readAhead.of_snd e
    extract_lets segs rest put
    have hput : State.CanonicalIn put := by
      clear_value segs
      dsimp only [put]
      split
      · exact h1.some
      · split
        · exact h1.putScr
        · exact h1.putGlob
    split
    next => exact h1
    next e2 _ => exact hput _ e2
    next e2 _ => exact .ite (hput _ e2).stopCmd (hput _ e2)

protected theorem State.Canonical.ownPiece (h : s.Canonical) : (s.ownPiece c x).Canonical := by
  unfold State.ownPiece
  dsimp only
  split
  next e1 => exact (h.sourceGlob.of_snd e1).modCmd
  next e1 => exact h.sourceGlob.of_snd e1
  next e1 => exact (h.sourceGlob.of_snd e1).stopCmd

protected theorem State.Canonical.mirrorPiece {va : Nat} (h : s.Canonical) : (s.mirrorPiece c x va).Canonical := by
  unfold State.mirrorPiece
  dsimp only
  split
  · exact h
  · split
    next e2 => exact (h.engineAt.of_snd e2).failCmd
    next e2 =>
      have hs2 := h.engineAt.of_snd e2
      exact .ite hs2.failCmd (.ite hs2 hs2.engineCount.homeWrite.modCmd)

protected theorem State.Canonical.objectOf (h : s.Canonical) : (s.objectOf c).2.Canonical := by
  unfold State.objectOf
  dsimp only
  split
  · exact h
  · split
    next e2 => exact h.engineAt.of_snd e2
    next e2 => exact (h.engineAt.of_snd e2).engineCount

protected theorem State.Canonical.subtract (h : s.Canonical) : (s.subtract c n).Canonical := by
  unfold State.subtract
  split
  · exact h
  · split
    next e2 => exact (h.objectOf.of_snd e2).failCmd
    next e2 =>
      have hs2 := h.objectOf.of_snd e2
      exact .ite hs2 hs2.barLand.modCmd

protected theorem State.Canonical.moveCmd (h : s.Canonical) : (s.moveCmd c).Canonical := by
  unfold State.moveCmd
  dsimp only
  split
  · exact .ite h.subtract h
  · split
    · exact h
    · split
      · split
        · exact h
        · split
          · exact h.ownPiece
          · split
            · exact h
            · split
              · exact h.movePiece
              · split
                · exact .ite h.mirrorPiece h
                · exact h
      · exact .ite h.movePiece h

protected theorem State.Canonical.execEngineTransferStep (h : s.Canonical) : Out.Canonical (execEngineTransferStep id s) := by
  unfold execEngineTransferStep
  split
  · exact h.next
  · split
    · exact h.next
    · exact (State.Canonical.ite h.abandonCmd h.moveCmd).next

protected theorem State.Canonical.execCollPeerMessage {m : CollMember} {c : CollCall} {data : List (BitVec 8)} (h : s.Canonical) :
    Out.Canonical (execCollPeerMessage m c code data s) := by
  unfold execCollPeerMessage
  exact (h.same (by with_reducible rfl)).matchPeers.next

protected theorem State.Canonical.finishError {p : Place} (h : s.Canonical) : (s.finishError c p total code).Canonical :=
  .ite (.ite ((State.Canonical.ite h h.recordError).barLand) (.ite h h.recordError)) ((State.Canonical.ite h h.recordError).counterAdd)

protected theorem State.Canonical.leaveQueue (h : s.Canonical) : (s.leaveQueue c).Canonical := by
  unfold State.leaveQueue
  exact (h.same (by with_reducible rfl)).advanceBatches

protected theorem State.Canonical.completeCmd (h : s.Canonical) : (s.completeCmd c).Canonical := by
  unfold State.completeCmd
  split
  · split
    · exact h.leaveQueue
    · split
      · exact h
      · split
        next e4 => exact (h.objectOf.of_snd e4).engineError.leaveQueue
        next e4 =>
          have hs4 := h.objectOf.of_snd e4
          exact .ite hs4 hs4.finishError.leaveQueue
  · split
    · exact h.leaveQueue
    · split
      · exact h
      · split
        next e4 => exact (h.objectOf.of_snd e4).engineError.leaveQueue
        next e4 =>
          have hs4 := h.objectOf.of_snd e4
          exact .ite hs4 hs4.counterAdd.leaveQueue

protected theorem State.Canonical.execEngineCommandComplete (h : s.Canonical) : Out.Canonical (execEngineCommandComplete id s) := by
  unfold execEngineCommandComplete
  split
  · exact h.next
  · exact (State.Canonical.ite h.completeCmd h).next

end Sys2Proof.Machine
end

section
/-! Redundant execution and votes keep the canonical form of memory (chapter 13). -/

namespace Sys2Proof.Machine

variable {s : State} {tid n tile tid3 : Nat} {t : Team} {owed : List (Nat × Nat)} {h : Hdr} {x : Seg}

protected theorem State.Canonical.execSeg (hs : s.Canonical) : Out.Canonical (execSeg h s) := by
  unfold execSeg
  dsimp only
  split
  · exact hs.next
  · split
    · split
      · exact hs.slackPark.takeChecks.next
      · exact hs.issueUni fun _ _ h4 => State.Canonical.ite h4.closeSegment h4
    · split
      · exact hs.slackPark.takeChecks.next
      · exact hs.issueUni fun _ _ h4 => State.Canonical.ite h4.closeSegment h4

protected theorem State.Canonical.execSegSync (hs : s.Canonical) : Out.Canonical (execSegSync h s) := hs.issueUni fun _ _ h1 => h1

protected theorem State.Canonical.applyFlips {g : Group} (h : s.Canonical) : (s.applyFlips g).Canonical := by
  unfold State.applyFlips
  have hfill := h.foldl (l := g.flipLines) (f := fun s line => match execRegisterLineFill g.gid line s with
    | .next t => t
    | _ => s) fun s line h1 => by
      split
      next e => exact h1.execRegisterLineFill _ e
      next => exact h1
  exact .ite hfill (State.Canonical.foldl hfill.modGroup fun _ _ h1 => h1.resolve)

protected theorem State.Canonical.execFinj {d a b : BitVec 6} (hs : s.Canonical) : Out.Canonical (execFinj h d a b s) := by
  unfold execFinj
  refine hs.issueUni fun _ _ h1 => ?_
  dsimp only
  split
  · exact h1.laterLogged
  · split
    · exact h1.laterLogged
    · split
      · exact h1.laterLogged
      · split
        · exact h1.laterLogged
        · exact .ite h1.pendingResult.modGroup h1.pendingResult.modGroup.applyFlips

protected theorem State.Canonical.settleFlips (h : s.Canonical) : s.settleFlips.Canonical := h.foldl fun _ _ h1 => h1.applyFlips

protected theorem State.Canonical.execFinjApply {gid : Nat} (h : s.Canonical) : Out.Canonical (execFinjApply gid s) := by
  unfold execFinjApply
  split
  · exact h.next
  · split
    · exact h.failFlips.next
    · exact (State.Canonical.ite h h.applyFlips).next

protected theorem State.Canonical.closeRun (h : s.Canonical) : (s.closeRun tid).Canonical := h.foldl fun _ _ h1 => h1.closeStanding

protected theorem State.Canonical.laySector {l : List Version} {k : Nat} (h : s.Canonical) : (s.laySector tile tid l k).Canonical := by
  unfold State.laySector
  dsimp only
  refine .same ?_ (by with_reducible rfl)
  exact .ite h.homeWrite (h.foldl fun _ _ h1 => h1.homeWrite)

protected theorem State.Canonical.layWindow {x : Nat × Nat} (h : s.Canonical) : (s.layWindow x).Canonical := .ite h.winWrite h.loseStore

protected theorem State.Canonical.layVersions {l : List Version} (h : s.Canonical) : (s.layVersions t l).Canonical :=
  ((h.foldl fun _ _ h1 => h1.laySector).foldl fun _ _ h1 => h1.countHome).foldl fun _ _ h1 => h1.layWindow

protected theorem State.Canonical.commitVersions (h : s.Canonical) : (s.commitVersions tid n).Canonical := by
  unfold State.commitVersions
  dsimp only
  split
  · exact h
  · split
    · exact h
    · exact h.layVersions.modChord

protected theorem State.Canonical.segmentOver (h : s.Canonical) : (s.segmentOver tid n owed).Canonical := by
  unfold State.segmentOver
  dsimp only
  split
  · exact h
  · exact h.modChord

protected theorem State.Canonical.execTrailerSegmentStart (h : s.Canonical) : Out.Canonical (execTrailerSegmentStart tid s) := by
  unfold execTrailerSegmentStart
  split
  · exact h.next
  · split
    · exact h.modChord.next
    · exact h.next

protected theorem State.Canonical.replayCompare {s0 : State} {i : Nat} (h : s0.Canonical) : (s0.replayCompare tid i).Canonical := by
  unfold State.replayCompare
  dsimp only
  split
  · split
    · exact h.closeRun
    · split
      · exact h.closeRun.modTeam
      · split
        · exact h.closeRun.modTeam.modGrid
        · split
          · exact h.closeRun
          · split
            · exact h.closeRun
            · exact h.closeRun.leavePark.takeTrap.modTeam.modGrid
  · exact h.closeRun

protected theorem State.Canonical.reportLate (h : s.Canonical) : (s.reportLate tid).Canonical := by
  unfold State.reportLate
  exact (h.same (by with_reducible rfl)).newRecord.modChord

protected theorem State.Canonical.callThird (h : s.Canonical) : (s.callThird tid n).Canonical := h.modChord

protected theorem State.Canonical.passSegment (h : s.Canonical) : (s.passSegment tid x owed).Canonical :=
  (State.Canonical.ite h h.commitVersions).segmentOver

protected theorem State.Canonical.execSegmentCompare {s0 : State} (h : s0.Canonical) : Out.Canonical (execSegmentCompare tid s0) := by
  unfold execSegmentCompare
  dsimp only
  split
  · exact h.next
  · split
    · exact h.replayCompare.next
    · split
      · exact h.next
      · split
        · split
          · exact h.closeRun.next
          · split
            · exact h.closeRun.endGrid.next
            · split
              · exact (State.Canonical.ite h.closeRun h.closeRun.passSegment).next
              · exact (State.Canonical.ite h.closeRun.reportLate h.closeRun).callThird.next
        · exact h.closeRun.next

protected theorem State.Canonical.addRestored {c : Chord} {k : Check} {quad : Nat} {x : Nat × Group} (h : s.Canonical) :
    (s.addRestored t c k tid3 tile quad x).Canonical := by
  unfold State.addRestored
  dsimp only
  split
  · exact h
  · exact ((h.same (by with_reducible rfl)).foldl fun _ _ h2 => (h2.same (by with_reducible rfl))).modCtx.cacheSettle

protected theorem State.Canonical.placeThird {c : Chord} {k : Check} (h : s.Canonical) : (s.placeThird t c k tile).Canonical := by
  unfold State.placeThird
  dsimp only
  exact ((h.takeBanks.same (by with_reducible rfl)).foldl fun _ _ h1 => h1.addRestored).l1Flush.modChord

protected theorem State.Canonical.execThirdRunPlace (h : s.Canonical) : Out.Canonical (execThirdRunPlace tid tile s) := by
  unfold execThirdRunPlace
  split
  · exact h.next
  · split
    · exact h.next
    · split
      · exact h.next
      · exact (State.Canonical.ite h (.ite h.endGrid h.placeThird)).next

protected theorem State.Canonical.thirdTrails {old new : Nat} (h : s.Canonical) : (s.thirdTrails tid old new).Canonical := by
  unfold State.thirdTrails
  exact (h.removeTeam.same (by with_reducible rfl)).mapGroups.modTeam.modChord

protected theorem State.Canonical.thirdLeads {s0 : State} {trailer : Nat} {released : Bool} (h : s0.Canonical) :
    (s0.thirdLeads tid tid3 trailer n released).Canonical := by
  unfold State.thirdLeads
  extract_lets sf s
  have hs : s.Canonical := by
    refine .foldl ?_ fun _ _ h1 => h1.landLogged
    exact h.dropStash.foldl fun _ _ h1 => h1.failFlips
  clear_value s
  split
  · dsimp only
    refine State.Canonical.takeChecks (State.Canonical.l1Flush (State.Canonical.removeTeam (State.Canonical.modChord
        (State.Canonical.modTeam
      (State.Canonical.modTeam (State.Canonical.mapGroups (State.Canonical.foldl (hs.same (by with_reducible rfl)) fun _ _ h1 => ?_)))))))
    split
    · exact h1.modGroup
    · exact h1
  · exact hs

protected theorem State.Canonical.countVote {lost : Option Nat} (h : s.Canonical) : (s.countVote tid lost).Canonical := by
  unfold State.countVote
  refine .modChord ?_
  refine .newRecord ?_
  dsimp only
  split
  · exact (h.same (by with_reducible rfl)).foldl fun _ _ h2 => h2.raiseBucket
  · exact h.same (by with_reducible rfl)

protected theorem State.Canonical.voteLead {u : Team} (h : s.Canonical) : (s.voteLead tid u tid3 x owed).Canonical :=
  h.countVote.passSegment.thirdTrails

protected theorem State.Canonical.voteTrail {u : Team} (h : s.Canonical) : (s.voteTrail t u tid3 x owed).Canonical :=
  .ite h.countVote.thirdLeads.passSegment.modGrid h.countVote.thirdLeads.passSegment

protected theorem State.Canonical.voteNone (h : s.Canonical) : (s.voteNone t).Canonical := h.countVote.endGrid

protected theorem State.Canonical.execVote {s0 : State} (h : s0.Canonical) : Out.Canonical (execVote tid s0) := by
  unfold execVote
  dsimp only
  split
  · exact h.next
  · split
    · exact h.next
    · split
      · split
        · exact h.closeRun.closeRun.next
        · split
          · exact (State.Canonical.ite h.closeRun.closeRun h.closeRun.closeRun.voteLead).next
          · split
            · exact (State.Canonical.ite h.closeRun.closeRun h.closeRun.closeRun.voteTrail).next
            · exact h.closeRun.closeRun.voteNone.next
      · exact h.closeRun.closeRun.next

protected theorem State.Canonical.closeOpen (h : s.Canonical) : (s.closeOpen tid).Canonical := h.openNext.closeStill.takeChecks

protected theorem State.Canonical.releaseSegment (h : s.Canonical) : (s.releaseSegment tid n).Canonical := h.commitVersions.modChord

protected theorem State.Canonical.execPrismHoldLimit {ctx : Nat} (h : s.Canonical) : Out.Canonical (execPrismHoldLimit ctx s) := by
  unfold execPrismHoldLimit
  split
  · exact h.next
  · split
    · exact (State.Canonical.ite h h.releaseSegment).next
    · split
      · exact h.next
      · split
        · exact h.closeOpen.next
        · exact h.next

end Sys2Proof.Machine
end

section
/-! Integer instructions keep the canonical form of memory (chapter 04). -/

namespace Sys2Proof.Machine

variable {s : State} {h : Hdr} {d a b : BitVec 6} {p pd : BitVec 3} {k : BitVec 32} {neg : BitVec 1} {op : BitVec 4}

protected theorem State.Canonical.execIadd (hs : s.Canonical) : Out.Canonical (execIadd h d a b s) := hs.laneBin

protected theorem State.Canonical.execIsub (hs : s.Canonical) : Out.Canonical (execIsub h d a b s) := hs.laneBin

protected theorem State.Canonical.execImul (hs : s.Canonical) : Out.Canonical (execImul h d a b s) := hs.laneBin

protected theorem State.Canonical.execImulh (hs : s.Canonical) : Out.Canonical (execImulh h d a b s) := hs.laneBin

protected theorem State.Canonical.execImulhu (hs : s.Canonical) : Out.Canonical (execImulhu h d a b s) := hs.laneBin

protected theorem State.Canonical.execImin (hs : s.Canonical) : Out.Canonical (execImin h d a b s) := hs.laneBin

protected theorem State.Canonical.execImax (hs : s.Canonical) : Out.Canonical (execImax h d a b s) := hs.laneBin

protected theorem State.Canonical.execIminu (hs : s.Canonical) : Out.Canonical (execIminu h d a b s) := hs.laneBin

protected theorem State.Canonical.execImaxu (hs : s.Canonical) : Out.Canonical (execImaxu h d a b s) := hs.laneBin

protected theorem State.Canonical.execAndv (hs : s.Canonical) : Out.Canonical (execAndv h d a b s) := hs.laneBin

protected theorem State.Canonical.execOrv (hs : s.Canonical) : Out.Canonical (execOrv h d a b s) := hs.laneBin

protected theorem State.Canonical.execXorv (hs : s.Canonical) : Out.Canonical (execXorv h d a b s) := hs.laneBin

protected theorem State.Canonical.execAndn (hs : s.Canonical) : Out.Canonical (execAndn h d a b s) := hs.laneBin

protected theorem State.Canonical.execShl (hs : s.Canonical) : Out.Canonical (execShl h d a b s) := hs.laneBin

protected theorem State.Canonical.execShr (hs : s.Canonical) : Out.Canonical (execShr h d a b s) := hs.laneBin

protected theorem State.Canonical.execSar (hs : s.Canonical) : Out.Canonical (execSar h d a b s) := hs.laneBin

protected theorem State.Canonical.execRotl (hs : s.Canonical) : Out.Canonical (execRotl h d a b s) := hs.laneBin

protected theorem State.Canonical.execIabs (hs : s.Canonical) : Out.Canonical (execIabs h d a s) := hs.laneUn

protected theorem State.Canonical.execIneg (hs : s.Canonical) : Out.Canonical (execIneg h d a s) := hs.laneUn

protected theorem State.Canonical.execPopc (hs : s.Canonical) : Out.Canonical (execPopc h d a s) := hs.laneUn

protected theorem State.Canonical.execClz (hs : s.Canonical) : Out.Canonical (execClz h d a s) := hs.laneUn

protected theorem State.Canonical.execBrev (hs : s.Canonical) : Out.Canonical (execBrev h d a s) := hs.laneUn

protected theorem State.Canonical.execMov (hs : s.Canonical) : Out.Canonical (execMov h d a s) := hs.laneUn

protected theorem State.Canonical.execLidx (hs : s.Canonical) : Out.Canonical (execLidx h d s) := hs.issueLane fun _ _ _ h1 => h1.setLanes

protected theorem State.Canonical.execIadd64 (hs : s.Canonical) : Out.Canonical (execIadd64 h d a b s) :=
  hs.issueLane fun _ _ _ h1 => h1.setLanes64

protected theorem State.Canonical.execMovi (hs : s.Canonical) : Out.Canonical (execMovi h d k s) := hs.issueLane fun _ _ _ h1 => h1.setLanes

protected theorem State.Canonical.execIaddi (hs : s.Canonical) : Out.Canonical (execIaddi h d a k s) := hs.laneUn

protected theorem State.Canonical.execImad {c : BitVec 6} (hs : s.Canonical) : Out.Canonical (execImad h d a b c s) := hs.laneTri

protected theorem State.Canonical.execSel (hs : s.Canonical) : Out.Canonical (execSel h d a b neg p s) :=
  hs.issueLane fun _ _ _ h1 => h1.setLanes

protected theorem State.Canonical.execBfx {t : BitVec 4} {n : BitVec 8} (hs : s.Canonical) : Out.Canonical (execBfx h d a b t op n s) :=
  hs.issueLane fun _ _ _ h1 => h1.setLanes

protected theorem State.Canonical.execBfi {c : BitVec 6} {n : BitVec 8} (hs : s.Canonical) : Out.Canonical (execBfi h d a b c op n s) :=
  hs.issueLane fun _ _ _ h1 => h1.setLanes

protected theorem State.Canonical.setPred {f : Group → Nat → Bool} {m : W32} {sp : Split} (h : s.Canonical) :
    (setPred p f m sp s).1.Canonical :=
  h.setG

protected theorem State.Canonical.execIcmp {cc : BitVec 3} (hs : s.Canonical) : Out.Canonical (execIcmp h cc p a b s) :=
  hs.issueLane fun _ _ _ h1 => h1.setPred

protected theorem State.Canonical.execPset {op pa pb : BitVec 3} (hs : s.Canonical) : Out.Canonical (execPset h op pd pa pb s) :=
  hs.issueLane fun _ _ _ h1 => h1.setG

protected theorem State.Canonical.execPmovFromP (hs : s.Canonical) : Out.Canonical (execPmovFromP h d s) :=
  hs.issueLane fun _ _ _ h1 => h1.setLanes

protected theorem State.Canonical.execPmovToP (hs : s.Canonical) : Out.Canonical (execPmovToP h a s) := hs.issueLane fun _ _ _ h1 => h1.setG

protected theorem State.Canonical.exchange {src : Group → Nat → Nat} {m : W32} {sp : Split} {s : State} (h : s.Canonical) :
    (exchange d a src m sp s).1.Canonical :=
  h.setLanes

protected theorem State.Canonical.execLxPick (hs : s.Canonical) : Out.Canonical (execLxPick h d a b s) :=
  hs.issueLane fun _ _ _ h1 => h1.exchange

protected theorem State.Canonical.execLxFlip {n : BitVec 5} (hs : s.Canonical) : Out.Canonical (execLxFlip h d a n s) :=
  hs.issueLane fun _ _ _ h1 => h1.exchange

protected theorem State.Canonical.execLxRot {n : BitVec 5} (hs : s.Canonical) : Out.Canonical (execLxRot h d a n s) :=
  hs.issueLane fun _ _ _ h1 => h1.exchange

protected theorem State.Canonical.execLxShift {n : BitVec 6} (hs : s.Canonical) : Out.Canonical (execLxShift h d a n s) :=
  hs.issueLane fun _ _ _ h1 => h1.exchange

protected theorem State.Canonical.execPviewMask (hs : s.Canonical) : Out.Canonical (execPviewMask h d neg p s) :=
  hs.issueLane fun _ _ _ h1 => h1.setLanes

protected theorem State.Canonical.execPviewAny (hs : s.Canonical) : Out.Canonical (execPviewAny h pd neg p s) :=
  hs.issueLane fun _ _ _ h1 => h1.setPred

protected theorem State.Canonical.execPviewAll (hs : s.Canonical) : Out.Canonical (execPviewAll h pd neg p s) :=
  hs.issueLane fun _ _ _ h1 => h1.setPred

protected theorem State.Canonical.execPviewCount (hs : s.Canonical) : Out.Canonical (execPviewCount h d neg p s) :=
  hs.issueLane fun _ _ _ h1 => h1.setLanes

protected theorem State.Canonical.execLcomb {t : BitVec 4} (hs : s.Canonical) : Out.Canonical (execLcomb h d a t op s) := by
  unfold execLcomb
  split
  · exact hs.issueLane fun _ _ _ h2 => h2.setLanes
  · exact hs.issueLane fun _ _ _ h2 => h2.setLanes64

protected theorem State.Canonical.uniBin {i : Instr} {f : W64 → W64 → W64} (hs : s.Canonical) : Out.Canonical (uniBin i h d a b f s) :=
  hs.uniSet

protected theorem State.Canonical.execSadd (hs : s.Canonical) : Out.Canonical (execSadd h d a b s) := hs.uniBin

protected theorem State.Canonical.execSsub (hs : s.Canonical) : Out.Canonical (execSsub h d a b s) := hs.uniBin

protected theorem State.Canonical.execSmul (hs : s.Canonical) : Out.Canonical (execSmul h d a b s) := hs.uniBin

protected theorem State.Canonical.execSmulh (hs : s.Canonical) : Out.Canonical (execSmulh h d a b s) := hs.uniBin

protected theorem State.Canonical.execSand (hs : s.Canonical) : Out.Canonical (execSand h d a b s) := hs.uniBin

protected theorem State.Canonical.execSor (hs : s.Canonical) : Out.Canonical (execSor h d a b s) := hs.uniBin

protected theorem State.Canonical.execSxor (hs : s.Canonical) : Out.Canonical (execSxor h d a b s) := hs.uniBin

protected theorem State.Canonical.execSshl (hs : s.Canonical) : Out.Canonical (execSshl h d a b s) := hs.uniBin

protected theorem State.Canonical.execSshr (hs : s.Canonical) : Out.Canonical (execSshr h d a b s) := hs.uniBin

protected theorem State.Canonical.execSsar (hs : s.Canonical) : Out.Canonical (execSsar h d a b s) := hs.uniBin

protected theorem State.Canonical.execSmin (hs : s.Canonical) : Out.Canonical (execSmin h d a b s) := hs.uniBin

protected theorem State.Canonical.execSmax (hs : s.Canonical) : Out.Canonical (execSmax h d a b s) := hs.uniBin

protected theorem State.Canonical.execSsel (hs : s.Canonical) : Out.Canonical (execSsel h d a b s) := hs.uniSet

protected theorem State.Canonical.execSsetq {cc q : BitVec 3} (hs : s.Canonical) : Out.Canonical (execSsetq h cc q a b s) :=
  hs.issueUni fun _ _ h1 => h1.setG

protected theorem State.Canonical.execSmov (hs : s.Canonical) : Out.Canonical (execSmov h d a s) := hs.uniSet

protected theorem State.Canonical.execSmovi (hs : s.Canonical) : Out.Canonical (execSmovi h d k s) := hs.uniSet

protected theorem State.Canonical.execSmovh (hs : s.Canonical) : Out.Canonical (execSmovh h d k s) := hs.uniSet

protected theorem State.Canonical.execSaddi (hs : s.Canonical) : Out.Canonical (execSaddi h d a k s) := hs.uniSet

protected theorem State.Canonical.execBcast (hs : s.Canonical) : Out.Canonical (execBcast h d a s) := by
  unfold execBcast
  refine hs.issue fun s h1 => ?_
  split
  · exact h1
  · exact h1.same (by with_reducible rfl)

protected theorem State.Canonical.execLread (hs : s.Canonical) : Out.Canonical (execLread h d a b s) := hs.issueUni fun _ _ h1 => h1.setG

end Sys2Proof.Machine
end

section
/-! Floating-point instructions keep the canonical form of memory (chapter 05). -/

namespace Sys2Proof.Machine

variable {s : State} {h : Hdr} {a d b c : BitVec 6} {rm : BitVec 2} {rs negc negp : BitVec 1} {t : BitVec 4} {i : Instr} {p : BitVec 3}

protected theorem State.Canonical.f32Bin {f : RMode → Nat → FVal → FVal → Nat × BitVec 5} (hs : s.Canonical) :
    Out.Canonical (f32Bin i h d a b f s) :=
  hs.issueLane fun _ _ _ h1 => h1.setLanesF

protected theorem State.Canonical.f64Bin {f : RMode → Nat → FVal → FVal → Nat × BitVec 5} (hs : s.Canonical) :
    Out.Canonical (f64Bin i h d a b f s) :=
  hs.issueLane fun _ _ _ h1 => h1.setLanesF64

protected theorem State.Canonical.execFadd (hs : s.Canonical) : Out.Canonical (execFadd h d a b s) := hs.f32Bin

protected theorem State.Canonical.execFsub (hs : s.Canonical) : Out.Canonical (execFsub h d a b s) := hs.f32Bin

protected theorem State.Canonical.execFmul (hs : s.Canonical) : Out.Canonical (execFmul h d a b s) := hs.f32Bin

protected theorem State.Canonical.execDadd (hs : s.Canonical) : Out.Canonical (execDadd h d a b s) := hs.f64Bin

protected theorem State.Canonical.execDmul (hs : s.Canonical) : Out.Canonical (execDmul h d a b s) := hs.f64Bin

protected theorem State.Canonical.execFmin (hs : s.Canonical) : Out.Canonical (execFmin h d a b s) :=
  hs.issueLane fun _ _ _ h1 => h1.setLanesF

protected theorem State.Canonical.execFmax (hs : s.Canonical) : Out.Canonical (execFmax h d a b s) :=
  hs.issueLane fun _ _ _ h1 => h1.setLanesF

protected theorem State.Canonical.execDmin (hs : s.Canonical) : Out.Canonical (execDmin h d a b s) :=
  hs.issueLane fun _ _ _ h1 => h1.setLanesF64

protected theorem State.Canonical.execDmax (hs : s.Canonical) : Out.Canonical (execDmax h d a b s) :=
  hs.issueLane fun _ _ _ h1 => h1.setLanesF64

protected theorem State.Canonical.execFabs (hs : s.Canonical) : Out.Canonical (execFabs h d a s) := hs.laneUn

protected theorem State.Canonical.execFneg (hs : s.Canonical) : Out.Canonical (execFneg h d a s) := hs.laneUn

protected theorem State.Canonical.execFfma (hs : s.Canonical) : Out.Canonical (execFfma h d a b c rm negc negp rs s) :=
  hs.issueLane fun _ _ _ h1 => h1.setLanesF

protected theorem State.Canonical.execDfma (hs : s.Canonical) : Out.Canonical (execDfma h d a b c rm negc negp rs s) :=
  hs.issueLane fun _ _ _ h1 => h1.setLanesF64

protected theorem State.Canonical.setPredF {f : Group → Nat → Bool × BitVec 5} {m : W32} {sp : Split} (h : s.Canonical) :
    (setPredF p f m sp s).1.Canonical :=
  h.setG

protected theorem State.Canonical.execFcmp {cc : BitVec 3} (hs : s.Canonical) : Out.Canonical (execFcmp h cc p a b s) :=
  hs.issueLane fun _ _ _ h1 => h1.setPredF

protected theorem State.Canonical.execDcmp {cc : BitVec 3} (hs : s.Canonical) : Out.Canonical (execDcmp h cc p a b s) :=
  hs.issueLane fun _ _ _ h1 => h1.setPredF

protected theorem State.Canonical.execFclass {hf : BitVec 1} {t : BitVec 2} (hs : s.Canonical) : Out.Canonical (execFclass h d a hf t s) :=
  hs.issueLane fun _ _ _ h1 => h1.setLanes

protected theorem State.Canonical.execNanorg {hf : BitVec 1} {t : BitVec 2} (hs : s.Canonical) : Out.Canonical (execNanorg h d a hf t s) :=
  hs.issueLane fun _ _ _ h1 => h1.setLanes

protected theorem State.Canonical.execHadd2 (hs : s.Canonical) : Out.Canonical (execHadd2 h d a b t rm rs s) :=
  hs.issueLane fun _ _ _ h1 => h1.setLanesF

protected theorem State.Canonical.execHmul2 (hs : s.Canonical) : Out.Canonical (execHmul2 h d a b t rm rs s) :=
  hs.issueLane fun _ _ _ h1 => h1.setLanesF

protected theorem State.Canonical.execHfma2 (hs : s.Canonical) : Out.Canonical (execHfma2 h d a b c t rm negc negp rs s) :=
  hs.issueLane fun _ _ _ h1 => h1.setLanesF

protected theorem State.Canonical.special {f : RMode → Nat → FVal → Nat × BitVec 5} (hs : s.Canonical) :
    Out.Canonical (special i h d a f s) :=
  hs.issueLane fun _ _ _ h1 => h1.later

protected theorem State.Canonical.execFrcp (hs : s.Canonical) : Out.Canonical (execFrcp h d a s) := hs.special

protected theorem State.Canonical.execFrsq (hs : s.Canonical) : Out.Canonical (execFrsq h d a s) := hs.special

protected theorem State.Canonical.execFsqrt (hs : s.Canonical) : Out.Canonical (execFsqrt h d a s) := hs.special

protected theorem State.Canonical.execFex2 (hs : s.Canonical) : Out.Canonical (execFex2 h d a s) := hs.special

protected theorem State.Canonical.execFlg2 (hs : s.Canonical) : Out.Canonical (execFlg2 h d a s) := hs.special

protected theorem State.Canonical.execFsin (hs : s.Canonical) : Out.Canonical (execFsin h d a s) := hs.special

protected theorem State.Canonical.execFcos (hs : s.Canonical) : Out.Canonical (execFcos h d a s) := hs.special

protected theorem State.Canonical.execFrnd {op : BitVec 4} (hs : s.Canonical) : Out.Canonical (execFrnd h d a t rm op rs s) := by
  unfold execFrnd
  split
  · exact hs.issueLane fun _ _ _ h2 => h2.setLanesF
  · exact hs.issueLane fun _ _ _ h2 => h2.setLanesF64

protected theorem State.Canonical.execCvt {dt : BitVec 4} {st : BitVec 4} {spos dpos : BitVec 2} {sat : BitVec 1} (hs : s.Canonical) :
    Out.Canonical (execCvt h d a dt rm st spos dpos sat rs s) := by
  unfold execCvt
  refine hs.issueLane fun _ _ _ h1 => ?_
  dsimp only
  split
  · split
    · exact h1.setLanesF64.setG
    · exact h1.setLanesF.setG
  · split
    · exact h1.setLanesF64
    · exact h1.setLanesF

protected theorem State.Canonical.execDxbPack (hs : s.Canonical) : Out.Canonical (execDxbPack h d a c t rm rs s) := by
  unfold execDxbPack
  exact hs.issue fun _ h1 => (h1.same (by with_reducible rfl))

protected theorem State.Canonical.execDxbUnpk (hs : s.Canonical) : Out.Canonical (execDxbUnpk h d a c t s) :=
  hs.issueLane fun _ _ _ h1 => h1.setLanes

end Sys2Proof.Machine
end

section
/-! Gears, pair balance and power caps keep the canonical form of memory (chapter 14). -/

namespace Sys2Proof.Machine

variable {s : State} {tile cluster pair power : Nat} {h : Hdr}

protected theorem State.Canonical.execGearN (hs : s.Canonical) : Out.Canonical (execGearN h s) := hs.issueUni fun _ _ h1 => h1.setG

protected theorem State.Canonical.execGearF (hs : s.Canonical) : Out.Canonical (execGearF h s) := hs.issueUni fun _ _ h1 => h1.setG

protected theorem State.Canonical.execGearW (hs : s.Canonical) : Out.Canonical (execGearW h s) := hs.issueUni fun _ _ h1 => h1.setG

protected theorem State.Canonical.execHintCompute (hs : s.Canonical) : Out.Canonical (execHintCompute h s) := hs.issueUni fun _ _ h1 => h1

protected theorem State.Canonical.execHintMemory (hs : s.Canonical) : Out.Canonical (execHintMemory h s) := hs.issueUni fun _ _ h1 => h1

protected theorem State.Canonical.execHintWait (hs : s.Canonical) : Out.Canonical (execHintWait h s) := hs.issueUni fun _ _ h1 => h1

protected theorem State.Canonical.execHintEndphase (hs : s.Canonical) : Out.Canonical (execHintEndphase h s) := hs.issueUni fun _ _ h1 => h1

protected theorem State.Canonical.execClk {d : BitVec 6} (hs : s.Canonical) : Out.Canonical (execClk h d s) :=
  hs.issueUni fun _ _ h1 => h1.laterLogged

protected theorem State.Canonical.cancelLapsed (h : s.Canonical) : (s.cancelLapsed tile).Canonical := .ite h.modTile h

protected theorem State.Canonical.recount (h : s.Canonical) : (s.recount pair).Canonical := h.modPair

protected theorem State.Canonical.askedFor (h : s.Canonical) : (s.askedFor tile).Canonical := by
  unfold State.askedFor
  refine h.foldl fun _ _ h1 => ?_
  split
  next e2 => exact (h1.fresh.of_snd e2).modCmd

protected theorem State.Canonical.startChange (h : s.Canonical) : (s.startChange tile).Canonical := h.askedFor.modTile.recount

protected theorem State.Canonical.endChange {f : Bool} (h : s.Canonical) : (s.endChange tile f).Canonical :=
  h.modTile.drainLanding.settleStops

protected theorem State.Canonical.defer (h : s.Canonical) : (s.defer tile).Canonical := h.modTile.recount.modPair

protected theorem State.Canonical.decideGear (h : s.Canonical) : (s.decideGear tile).Canonical := by
  unfold State.decideGear
  dsimp only
  exact .ite h.fresh.modPair.startChange h.fresh.modPair.defer

protected theorem State.Canonical.execGearTransitionStart (h : s.Canonical) : Out.Canonical (execGearTransitionStart tile s) := by
  unfold execGearTransitionStart
  dsimp only
  split
  · exact (State.Canonical.ite h.cancelLapsed.recount.decideGear h.cancelLapsed.recount).next
  · exact h.next

protected theorem State.Canonical.noteTarget (h : s.Canonical) : (s.noteTarget tile).Canonical := by
  unfold State.noteTarget
  dsimp only
  split
  · exact (State.Canonical.ite h.cancelLapsed.recount h).modTile
  · exact (State.Canonical.ite h.cancelLapsed.recount h).modTile
  · exact .ite h.cancelLapsed.recount h

protected theorem State.Canonical.execGearTransitionEnd (h : s.Canonical) : Out.Canonical (execGearTransitionEnd tile s) := by
  unfold execGearTransitionEnd
  refine .next ?_
  split
  · exact h.endChange
  · exact h

protected theorem State.Canonical.measured {upper lower : Nat} (h : s.Canonical) : (s.measured pair upper lower).Canonical := by
  unfold State.measured
  split
  next e =>
    split at e
    · exact (h.fresh.of_snd e).modPair
    · cases e
      exact h.modPair

protected theorem State.Canonical.execPairBalanceMeasure {upper lower predUpper predLower : Nat} (h : s.Canonical) :
    Out.Canonical (execPairBalanceMeasure pair upper lower predUpper predLower s) := by
  unfold execPairBalanceMeasure
  dsimp only
  split
  · exact h.next
  · split
    · exact (h.foldl fun _ _ h3 => h3.cancelLapsed).recount.measured.next
    · split
      · exact (h.foldl fun _ _ h4 => h4.cancelLapsed).recount.measured.startChange.next
      · split
        · exact (h.foldl fun _ _ h5 => h5.cancelLapsed).recount.measured.next
        · exact (h.foldl fun _ _ h5 => h5.cancelLapsed).recount.measured.defer.next

protected theorem State.Canonical.grantLate (h : s.Canonical) : (s.grantLate tile).Canonical := h.startChange.modPair

protected theorem State.Canonical.execBalanceWaitExpiry {s0 : State} (h : s0.Canonical) : Out.Canonical (execBalanceWaitExpiry tile s0) :=
  (State.Canonical.ite h.cancelLapsed.recount.grantLate h.cancelLapsed.recount).next

protected theorem State.Canonical.gearDue (h : s.Canonical) : (s.gearDue tile).Canonical := by
  unfold State.gearDue
  split
  · exact h.endChange
  · exact .ite h.grantLate (.ite h.decideGear h)

protected theorem State.Canonical.execDroopStretch (h : s.Canonical) : Out.Canonical (execDroopStretch cluster s) :=
  (State.Canonical.ite h.modClu h).next

protected theorem State.Canonical.execDroopRecovery (h : s.Canonical) : Out.Canonical (execDroopRecovery cluster s) :=
  (State.Canonical.ite h.modClu h).next

protected theorem State.Canonical.setClocks {fmhz nmhz : BitVec 12} (h : s.Canonical) : (s.setClocks cluster fmhz nmhz power).Canonical :=
  .ite h.modClu h

protected theorem State.Canonical.noteUnmet (h : s.Canonical) : (s.noteUnmet cluster power).Canonical := .ite h.winSet.pushFault h.winSet

protected theorem State.Canonical.execGovernorAdjust {fmhz nmhz : BitVec 12} (h : s.Canonical) :
    Out.Canonical (execGovernorAdjust cluster fmhz nmhz power s) := by
  unfold execGovernorAdjust
  split
  · exact h.next
  · exact h.setClocks.noteUnmet.next

protected theorem State.Canonical.execCapLeaseExpiry (h : s.Canonical) : Out.Canonical (execCapLeaseExpiry s) := by
  unfold execCapLeaseExpiry
  dsimp only
  split
  · exact h.next
  · split
    · exact (h.winSet.same (by with_reducible rfl)).next
    · exact h.next

end Sys2Proof.Machine
end

section
/-! The matrix engine and the choice of the next run keep the canonical form of memory (chapter 06; 03 R62, R63). -/

namespace Sys2Proof.Machine

variable {s : State} {tile gid quad : Nat} {g : Group} {sp : Split} {h : Hdr} {acc : BitVec 3} {t : BitVec 4} {rm : BitVec 2}
  {rs : BitVec 1} {j : AccJob}

protected theorem State.Canonical.enqueue {m : W32} {mode : Nat} {op : AccOp} {fa fb : Sparse W32} {sa sb : Nat} {dest : List Nat}
    (h : s.Canonical) : (enqueue s sp m mode op fa fb sa sb dest).1.Canonical := by
  unfold enqueue
  dsimp only
  split
  · exact h
  · exact (h.same (by with_reducible rfl)).pendingResult

protected theorem State.Canonical.execMma {a b c : BitVec 6} {z : BitVec 1} (hs : s.Canonical) :
    Out.Canonical (execMma h acc a b c t z rm rs s) := by
  unfold execMma
  refine hs.issueLane fun _ _ _ h1 => ?_
  dsimp only
  split
  · exact h1
  · split
    · exact h1
    · split
      · exact h1
      · split
        · exact h1
        · exact h1.enqueue

protected theorem State.Canonical.execAccRd {d : BitVec 6} {n : BitVec 4} {j0 : BitVec 5} (hs : s.Canonical) :
    Out.Canonical (execAccRd h d acc t rm n j0 rs s) := by
  unfold execAccRd
  exact hs.issueLane fun _ _ _ h1 => h1.enqueue

protected theorem State.Canonical.execAccWr {a : BitVec 6} {n : BitVec 4} {j0 : BitVec 5} (hs : s.Canonical) :
    Out.Canonical (execAccWr h acc a t rm n j0 rs s) := by
  unfold execAccWr
  exact hs.issueLane fun _ _ _ h1 => h1.enqueue

protected theorem State.Canonical.execAccZero (hs : s.Canonical) : Out.Canonical (execAccZero h acc s) :=
  hs.issueLane fun _ _ _ h1 => h1.enqueue

protected theorem State.Canonical.execAccCvt {d : BitVec 6} {c : BitVec 6} {sat : BitVec 1} (hs : s.Canonical) :
    Out.Canonical (execAccCvt h d acc c t rm sat rs s) := by
  unfold execAccCvt
  refine hs.issueLane fun _ _ _ h1 => ?_
  dsimp only
  split
  · exact .ite h1.enqueue.setG h1.enqueue
  · exact h1.enqueue

protected theorem State.Canonical.setHeadJob {f : AccJob → AccJob} (h : s.Canonical) : (s.setHeadJob tile f).Canonical := by
  unfold State.setHeadJob
  split
  · exact h.same (by with_reducible rfl)
  · exact h

protected theorem State.Canonical.matrixError {acc : Nat} {line : Bool} {rows : List Nat} (h : s.Canonical) :
    (s.matrixError j g acc line rows).Canonical := by
  unfold State.matrixError
  exact ((h.same (by with_reducible rfl)).foldl fun _ _ h1 => h1.unresolve).addBucket.modGroup

protected theorem State.Canonical.startJob (h : s.Canonical) : (s.startJob tile j g).Canonical := h.setHeadJob

protected theorem State.Canonical.execAccumulatorStart (h : s.Canonical) : Out.Canonical (execAccumulatorStart tile s) := by
  unfold execAccumulatorStart
  dsimp only
  split
  · exact h.next
  · split
    · exact h.next
    · split
      · exact h.next
      · exact (State.Canonical.ite h.startJob h.matrixError).next

protected theorem State.Canonical.accKnown (h : s.Canonical) : (s.accKnown j).Canonical := h.modGroup

protected theorem State.Canonical.completeJob (h : s.Canonical) : (s.completeJob tile j g).Canonical := by
  unfold State.completeJob
  dsimp only
  split
  · exact (h.same (by with_reducible rfl)).modGroup.unresolve
  · exact (h.same (by with_reducible rfl)).resolve.accKnown
  · exact (h.same (by with_reducible rfl)).modGroup.unresolve
  · exact (h.same (by with_reducible rfl)).modGroup.unresolve
  · exact (h.same (by with_reducible rfl)).resolve.accKnown

protected theorem State.Canonical.execAccumulatorComplete {x : EngineEnd} (h : s.Canonical) :
    Out.Canonical (execAccumulatorComplete x s) := by
  unfold execAccumulatorComplete
  dsimp only
  split
  · exact h.next
  · split
    · exact (h.same (by with_reducible rfl)).next
    · split
      · exact h.next
      · split
        · exact (State.Canonical.ite h h.modGroup).matrixError.next
        · split
          · exact (State.Canonical.ite h h.modGroup).matrixError.next
          · exact h.completeJob.next

protected theorem State.Canonical.endLanes {lanes : W32} (h : s.Canonical) : (s.endLanes gid sp lanes).Canonical := by
  unfold State.endLanes
  dsimp only
  split
  · exact .ite h.modGroup.endGroup h.modGroup
  · exact h.modGroup

protected theorem State.Canonical.batchOver {n : W64} (h : s.Canonical) : (s.batchOver g sp n).Canonical :=
  .ite h.modGroup.logVals.modGroup h.modGroup.logVals

protected theorem State.Canonical.logOver {seq : Nat} (h : s.Canonical) : (s.logOver g sp seq).Canonical :=
  .ite h.landLogged.modGroup.modTeam.addFolds (.ite h.modGroup h)

protected theorem State.Canonical.wakeSplit {slot : Nat} (h : s.Canonical) : (s.wakeSplit gid slot).Canonical := by
  unfold State.wakeSplit
  dsimp only
  split
  · exact h
  · split
    · exact h
    · split
      · exact h
      · exact h
      · exact h
      · exact h
      · exact h
      · exact .ite h (.ite h.modGroup.logVals (.ite h.modGroup.logVals h))
      · exact .ite h h.modGroup
      · exact .ite h h.modGroup
      · exact .ite h.endLanes h
      · exact .ite h h.modGroup
      · exact .ite h.modGroup h
      · exact .ite h.modGroup h
      · exact .ite h h.retryLaunch
      · exact .ite h h.modGroup.advanceBatches.addFolds
      · exact .ite h.batchOver h
      · exact .ite h h.modGroup.logVals
      · exact h.logOver

protected theorem State.Canonical.wakeGroup (h : s.Canonical) : (s.wakeGroup gid).Canonical := by
  unfold State.wakeGroup
  dsimp only
  split
  · refine (State.Canonical.ite h.withdrawOn h).foldl fun _ _ h2 => ?_
    split
    · exact .ite h2 h2.wakeSplit
    · exact h2
  · refine h.foldl fun _ _ h2 => ?_
    split
    · exact .ite h2 h2.wakeSplit
    · exact h2

protected theorem State.Canonical.passOver (h : s.Canonical) : (s.passOver tile quad).Canonical := h.mapGroups

protected theorem State.Canonical.focus (h : s.Canonical) : (s.focus gid).Canonical := by
  unfold State.focus
  split
  · exact h
  · split
    · exact h
    · exact h.same (by with_reducible rfl)

protected theorem State.Canonical.readyQuad (h : s.Canonical) : (s.readyQuad tile quad).Canonical :=
  (h.settleStops.foldl fun _ _ h1 => h1.wakeGroup).foldl fun _ _ h1 => h1.closeStanding

protected theorem State.Canonical.beginSplit (h : s.Canonical) : (s.beginSplit tile quad g sp).Canonical := h.passOver.focus.setG

protected theorem State.Canonical.execSplitSelect (h : s.Canonical) : Out.Canonical (execSplitSelect tile quad s) := by
  unfold execSplitSelect
  dsimp only
  split
  · exact h.next
  · split
    · exact h.readyQuad.focus.next
    · split
      · exact h.readyQuad.next
      · exact h.readyQuad.beginSplit.next

end Sys2Proof.Machine
end

section
/-! The package's own events keep the canonical form of memory (chapter 15).  A bias flip is the one event that writes a byte of it
outright. -/

namespace Sys2Proof.Machine

variable {s : State} {pa die n port off page : Nat} {v : BitVec 64} {data : List (BitVec 8)}

protected theorem State.Canonical.wordErrors {t : Team} {words : List Nat} (h : s.Canonical) : (s.wordErrors t words).Canonical :=
  h.modTeam.addBuckets

protected theorem State.Canonical.execCorrectedMemoryError {kind : Nat} {x : ErrorPlace} (h : s.Canonical) :
    Out.Canonical (execCorrectedMemoryError kind x s) := by
  unfold execCorrectedMemoryError
  refine .next ?_
  split
  · exact .ite h.addBucket h
  · split
    · exact .ite h h.wordErrors
    · exact h

protected theorem State.Canonical.execBucketLeak {kind unit : Nat} (h : s.Canonical) : Out.Canonical (execBucketLeak kind unit s) :=
  (State.Canonical.ite h.setBucket h).next

protected theorem State.Canonical.killContext {ctx : Nat} (h : s.Canonical) : (s.killContext ctx).Canonical := by
  unfold State.killContext
  dsimp only
  refine .same ?_ (by with_reducible rfl)
  exact h.foldl fun _ _ h1 => h1.endGrid

protected theorem State.Canonical.portDown (h : s.Canonical) : (s.portDown port).Canonical := h.winSet.foldl fun _ _ h1 => h1.pushFault

protected theorem State.Canonical.portsDown (h : s.Canonical) : (s.portsDown die).Canonical := h.foldl fun _ _ h1 => h1.portDown

protected theorem State.Canonical.fenceDie (h : s.Canonical) : (s.fenceDie die).Canonical := by
  unfold State.fenceDie
  refine .pushFault ?_
  refine .newRecord ?_
  refine .portsDown ?_
  dsimp only
  refine .same ?_ (by with_reducible rfl)
  exact ((h.foldl fun _ _ h1 => h1.setReady).foldl fun _ _ h1 => h1.killContext).foldl fun _ _ h1 => h1.code

protected theorem State.Canonical.execDieFatalError (h : s.Canonical) : Out.Canonical (execDieFatalError die s) := by
  unfold execDieFatalError
  split
  · exact h.next
  · split
    · exact h.freezeNow.next
    · exact h.fenceDie.next

protected theorem State.Canonical.outsideRead (h : s.Canonical) : (s.outsideRead pa n).Canonical := by
  unfold State.outsideRead
  dsimp only
  split <;> exact h.homeRead.same (by with_reducible rfl)

protected theorem State.Canonical.outsideWrite {bs : List Byte} (h : s.Canonical) : (s.outsideWrite pa bs).Canonical :=
  h.countHome.homeWrite

protected theorem State.Canonical.hostTake (h : s.Canonical) : (s.hostTake pa).Canonical := by
  unfold State.hostTake
  exact h.countHome.takeStash.dropShared.same (by with_reducible rfl)

protected theorem State.Canonical.hostGive {data : List Byte} (h : s.Canonical) : (s.hostGive pa data).Canonical := by
  unfold State.hostGive
  exact .ite (h.same (by with_reducible rfl)) (h.same (by with_reducible rfl)).outsideWrite

protected theorem State.Canonical.hostSnoop (h : s.Canonical) : (s.hostSnoop pa).Canonical := by
  unfold State.hostSnoop
  dsimp only
  split
  · exact h.takeStash.dropShared.l2Evict
  · exact h.takeStash.dropShared

protected theorem State.Canonical.waitOutside {i : Outside} (h : s.Canonical) : (s.waitOutside i).Canonical := by
  unfold State.waitOutside
  exact h.same (by with_reducible rfl)

protected theorem State.Canonical.hostAccess {op : Nat} (h : s.Canonical) : (s.hostAccess pa op n data).Canonical :=
  .ite h.waitOutside (.ite h.hostTake (.ite h.outsideWrite h.outsideRead))

protected theorem State.Canonical.execHostCxlMemAccess {op : Nat} (h : s.Canonical) :
    Out.Canonical (execHostCxlMemAccess pa op n data s) := by
  unfold execHostCxlMemAccess
  dsimp only
  split
  · exact (State.Canonical.ite h (.ite (.ite h.hostGive h) (.ite h.hostAccess h))).next
  · exact h.next

protected theorem State.Canonical.shareChip {chip : Nat} (h : s.Canonical) : (s.shareChip chip pa n).Canonical := by
  unfold State.shareChip
  exact .ite h (h.same (by with_reducible rfl))

protected theorem State.Canonical.flitAccess {h : FlitHead} {wr : Bool} (hs : s.Canonical) : (s.flitAccess h pa wr data).Canonical := by
  unfold State.flitAccess
  exact .ite (hs.same (by with_reducible rfl)) (.ite hs.waitOutside (.ite ((State.Canonical.ite hs.countMovable hs).outsideWrite)
      ((State.Canonical.ite hs.countMovable hs).outsideRead.shareChip)))

protected theorem State.Canonical.execGflFlitReceive {h : FlitHead} {wr retried : Bool} (hs : s.Canonical) :
    Out.Canonical (execGflFlitReceive port h pa wr retried data s) := by
  unfold execGflFlitReceive
  dsimp only
  split
  · exact hs.next
  · split
    · exact hs.winSet.addBucket.next
    · split
      · exact (hs.same (by with_reducible rfl)).next
      · exact (State.Canonical.ite hs.flitAccess hs).next

protected theorem State.Canonical.snoopAccess {line : Nat} (h : s.Canonical) : (s.snoopAccess line).Canonical :=
  .ite h.waitOutside h.hostSnoop

protected theorem State.Canonical.retryOne {x : Outside} (h : s.Canonical) : (s.retryOne x).Canonical := by
  unfold State.retryOne
  split
  · exact h.hostAccess
  · exact h.flitAccess
  · exact h.snoopAccess

protected theorem State.Canonical.retryOutside (h : s.Canonical) : s.retryOutside.Canonical := by
  unfold State.retryOutside
  exact (h.same (by with_reducible rfl)).foldl fun _ _ h1 => h1.retryOne

protected theorem State.Canonical.execGflPortUp {peer : BitVec 12} (h : s.Canonical) : Out.Canonical (execGflPortUp port peer s) := by
  unfold execGflPortUp
  dsimp only
  split
  · exact h.next
  · exact h.winSet.next

protected theorem State.Canonical.execGflPortDown (h : s.Canonical) : Out.Canonical (execGflPortDown port s) :=
  (State.Canonical.ite h h.portDown).next

protected theorem State.Canonical.execRouteEntryWrite {chip : BitVec 12} (h : s.Canonical) : Out.Canonical (execRouteEntryWrite chip v s) :=
  (State.Canonical.ite h.writeRoute h).next

protected theorem State.Canonical.execRouteApply {chip : BitVec 12} (h : s.Canonical) : Out.Canonical (execRouteApply chip s) := by
  unfold execRouteApply
  dsimp only
  split
  · exact h.next
  · exact (State.Canonical.ite (h.winSet.same (by with_reducible rfl)).pushFault (h.winSet.same (by with_reducible rfl))).next

protected theorem State.Canonical.execCxlLinkUp (h : s.Canonical) : Out.Canonical (execCxlLinkUp s) :=
  (State.Canonical.ite h.setReady h).next

protected theorem State.Canonical.execCxlHostSnoop {line : Nat} (h : s.Canonical) : Out.Canonical (execCxlHostSnoop line s) :=
  (State.Canonical.ite h.snoopAccess h).next

protected theorem State.Canonical.setSync {sync : Bool} {corr : Option ℤ} (h : s.Canonical) : (s.setSync sync corr).Canonical := h.winSet

protected theorem State.Canonical.settleTime (h : s.Canonical) : s.settleTime.Canonical := by
  unfold State.settleTime
  exact .ite (h.same (by with_reducible rfl)).setSync h

protected theorem State.Canonical.execTimeMessage {root : BitVec 64} {s0 : State} (h : s0.Canonical) :
    Out.Canonical (execTimeMessage root s0) := by
  unfold execTimeMessage
  dsimp only
  split
  · exact h.next
  · split
    · split
      · exact (h.same (by with_reducible rfl)).next
      · split <;> exact (h.same (by with_reducible rfl)).setSync.next
    · split
      · exact (h.same (by with_reducible rfl)).setSync.next
      · split <;> exact (h.same (by with_reducible rfl)).setSync.next

protected theorem State.Canonical.execTimeSyncTimeout (h : s.Canonical) : Out.Canonical (execTimeSyncTimeout s) :=
  (State.Canonical.ite h.winSet h).next

protected theorem State.Canonical.execTimeSyncReached (h : s.Canonical) : Out.Canonical (execTimeSyncReached s) := h.settleTime.next

protected theorem State.Canonical.execRegisterWrite (h : s.Canonical) : Out.Canonical (execRegisterWrite off v s) :=
  (State.Canonical.ite h.winWrite h).next

protected theorem State.Canonical.execPartcfgWrite (h : s.Canonical) : Out.Canonical (execPartcfgWrite v s) :=
  (State.Canonical.ite h.writePartcfg h).next

protected theorem State.Canonical.execFrzctlFreezeWrite (h : s.Canonical) : Out.Canonical (execFrzctlFreezeWrite v s) :=
  (State.Canonical.ite h.writeFrzctl h).next

protected theorem State.Canonical.execFreezePin (h : s.Canonical) : Out.Canonical (execFreezePin s) := h.freezeNow.next

protected theorem State.Canonical.execBiasFlipToHost (h : s.Canonical) : Out.Canonical (execBiasFlipToHost die page s) :=
  (State.Canonical.ite h.biasGo h).next

protected theorem State.Canonical.execBiasFlipToDevice (h : s.Canonical) : Out.Canonical (execBiasFlipToDevice die page s) :=
  (State.Canonical.ite h.biasGo h).next

protected theorem State.Canonical.dropPage (h : s.Canonical) : (s.dropPage page).Canonical := by
  unfold State.dropPage
  dsimp only
  refine .same ?_ (by with_reducible rfl)
  exact h.recallStash.foldl fun _ _ h1 => h1.l2Evict

/-- The one event that sets a byte of memory without `State.physSet`. -/
protected theorem State.Canonical.execBiasFlipDone (h : s.Canonical) : Out.Canonical (execBiasFlipDone die s) := by
  unfold execBiasFlipDone
  split
  · exact h.next
  · dsimp only
    split
    · split
      · exact h.next
      · exact (State.Canonical.winSet (h.dropPage.memSet (by with_reducible rfl))).next
    · split
      · exact h.next
      · exact (State.Canonical.winSet (h.memSet (by with_reducible rfl))).next

protected theorem State.Canonical.execSnapshotNow (h : s.Canonical) : Out.Canonical (execSnapshotNow s) :=
  (State.Canonical.ite h.snapshotDue h).next

protected theorem State.Canonical.execSnapshotInterval (h : s.Canonical) : Out.Canonical (execSnapshotInterval s) := by
  unfold execSnapshotInterval
  exact (State.Canonical.ite (h.same (by with_reducible rfl)).snapshotDue h).next

protected theorem State.Canonical.execSnapshotStopEnd (h : s.Canonical) : Out.Canonical (execSnapshotStopEnd die s) := by
  unfold execSnapshotStopEnd
  dsimp only
  split
  · exact h.next
  · exact ((h.foldl fun _ _ h2 => h2.codeShadow).winSet.same (by with_reducible rfl)).next

protected theorem State.Canonical.copyRange {src dst : Nat} (h : s.Canonical) : State.CanonicalIn (s.copyRange src n dst) := by
  unfold State.copyRange
  dsimp only
  split
  · refine .some ?_
    refine .same ?_ (by with_reducible rfl)
    exact h.recallStash.dropShared.blank.foldl fun _ _ h2 => h2.physSet
  · exact State.Canonical.none

protected theorem State.Canonical.copyAll {dst : Nat} {l : List (Nat × Nat)} (h : s.Canonical) : (s.copyAll dst l).1.Canonical := by
  induction l generalizing s dst with
  | nil => exact h
  | cons x rest ih =>
    unfold State.copyAll
    split
    · exact h
    next e => exact ih (h.copyRange _ e)

protected theorem State.Canonical.stream (h : s.Canonical) : s.stream.1.Canonical := by
  unfold State.stream
  dsimp only
  split
  · exact h
  · exact h.copyAll

protected theorem State.Canonical.execSnapshotStreamDone {failed : Bool} (h : s.Canonical) :
    Out.Canonical (execSnapshotStreamDone failed s) := by
  unfold execSnapshotStreamDone
  dsimp only
  split
  · refine .next ?_
    split
    · exact .ite (h.winSet.same (by with_reducible rfl)).pushFault (h.winSet.same (by with_reducible rfl))
    · exact .ite (h.stream.winSet.same (by with_reducible rfl)).pushFault (h.stream.winSet.same (by with_reducible rfl))
  · exact h.next

protected theorem State.Canonical.execFunctionReady {bit : Nat} (h : s.Canonical) : Out.Canonical (execFunctionReady bit s) :=
  (State.Canonical.ite h ((State.Canonical.ite h.clearBias h).setReady)).next

protected theorem State.Canonical.answer {status : Nat} {bs : List Byte} (h : s.Canonical) : (s.answer status bs).Canonical := by
  unfold State.answer
  exact h.same (by with_reducible rfl)

protected theorem State.Canonical.execGetZhr (h : s.Canonical) : Out.Canonical (execGetZhr s) :=
  (State.Canonical.ite h.newRecord.answer h).next

protected theorem State.Canonical.execGetCert {piece : Nat} (h : s.Canonical) : Out.Canonical (execGetCert piece s) :=
  (State.Canonical.ite h.answer h).next

protected theorem State.Canonical.execSetCap {seq : BitVec 64} {cap lease : BitVec 16} {rest : BitVec 32} (h : s.Canonical) :
    Out.Canonical (execSetCap seq cap lease rest s) := by
  unfold execSetCap
  dsimp only
  split
  · exact h.next
  · split
    · exact h.answer.next
    · split
      · exact h.answer.next
      · split
        · exact h.answer.next
        · exact (h.winSet.winSet.same (by with_reducible rfl)).answer.next

protected theorem State.Canonical.execFreeze (h : s.Canonical) : Out.Canonical (execFreeze s) := (State.Canonical.ite h.freezeNow h).next

protected theorem State.Canonical.execClrFence {index : Nat} (h : s.Canonical) : Out.Canonical (execClrFence index s) := by
  unfold execClrFence
  dsimp only
  split
  · exact h.next
  · split
    · exact (State.Canonical.ite (h.modTile.setBucket.same (by with_reducible rfl)).setReady (h.modTile.setBucket.same (by with_reducible
        rfl))).newRecord.answer.next
    · exact h.answer.next

protected theorem State.Canonical.execRegRd (h : s.Canonical) : Out.Canonical (execRegRd off s) :=
  (State.Canonical.ite h (.ite h.answer h.answer)).next

protected theorem State.Canonical.execRegWr (h : s.Canonical) : Out.Canonical (execRegWr off v s) :=
  (State.Canonical.ite h (.ite h.answer ((State.Canonical.ite h.winWrite h).answer))).next

protected theorem State.Canonical.loseCaches (h : s.Canonical) : s.loseCaches.Canonical := h.foldl fun _ _ h1 => h1.code

protected theorem State.Canonical.afterReset (h : s.Canonical) : s.afterReset.Canonical := by
  unfold State.afterReset
  exact h.same (by with_reducible rfl)

protected theorem State.Canonical.execReset (h : s.Canonical) : Out.Canonical (execReset s) :=
  (State.Canonical.ite h.loseCaches.afterReset h).next

protected theorem State.Canonical.execScanRd {chain off : Nat} (h : s.Canonical) : Out.Canonical (execScanRd chain off s) := by
  unfold execScanRd
  exact (State.Canonical.ite h (.ite (h.same (by with_reducible rfl)).answer h.answer)).next

end Sys2Proof.Machine
end

section
/-! A step of the machine keeps the canonical form of memory: it is the dispatch of one instruction or one event. -/

namespace Sys2Proof.Machine

variable {s : State} {sp : Split}

/-- The dispatch: each instruction and each event by the lemma of its meaning. -/
protected theorem State.Canonical.exec {i : Instr} (h : s.Canonical) : Out.Canonical (exec i s) := by
  unfold exec
  split
  · exact h.execIadd
  · exact h.execIsub
  · exact h.execImul
  · exact h.execImulh
  · exact h.execImulhu
  · exact h.execImad
  · exact h.execImin
  · exact h.execImax
  · exact h.execIminu
  · exact h.execImaxu
  · exact h.execIabs
  · exact h.execIneg
  · exact h.execAndv
  · exact h.execOrv
  · exact h.execXorv
  · exact h.execAndn
  · exact h.execShl
  · exact h.execShr
  · exact h.execSar
  · exact h.execRotl
  · exact h.execBfx
  · exact h.execBfi
  · exact h.execPopc
  · exact h.execClz
  · exact h.execBrev
  · exact h.execIcmp
  · exact h.execSel
  · exact h.execMov
  · exact h.execMovi
  · exact h.execIaddi
  · exact h.execIadd64
  · exact h.execLidx
  · exact h.execFadd
  · exact h.execFsub
  · exact h.execFmul
  · exact h.execFfma
  · exact h.execFmin
  · exact h.execFmax
  · exact h.execFcmp
  · exact h.execFclass
  · exact h.execDadd
  · exact h.execDmul
  · exact h.execDfma
  · exact h.execDcmp
  · exact h.execHadd2
  · exact h.execHmul2
  · exact h.execHfma2
  · exact h.execFrcp
  · exact h.execFrsq
  · exact h.execFsqrt
  · exact h.execFex2
  · exact h.execFlg2
  · exact h.execFsin
  · exact h.execFcos
  · exact h.execCvt
  · exact h.execFrnd
  · exact h.execNanorg
  · exact h.execDxbPack
  · exact h.execDxbUnpk
  · exact h.execFabs
  · exact h.execFneg
  · exact h.execDmin
  · exact h.execDmax
  · exact h.execMma
  · exact h.execAccRd
  · exact h.execAccWr
  · exact h.execAccZero
  · exact h.execAccCvt
  · exact h.execLdB
  · exact h.execLdH
  · exact h.execLdW
  · exact h.execLdD
  · exact h.execLdQ
  · exact h.execStB
  · exact h.execStH
  · exact h.execStW
  · exact h.execStD
  · exact h.execStQ
  · exact h.execLdsW
  · exact h.execLdsD
  · exact h.execLdsQ
  · exact h.execStsW
  · exact h.execStsD
  · exact h.execStsQ
  · exact h.execLdcW
  · exact h.execStcW
  · exact h.execLdx
  · exact h.execStx
  · exact h.execPrefL1
  · exact h.execPrefL2
  · exact h.execAtom
  · exact h.execRed
  · exact h.execCas
  · exact h.execAtoms
  · exact h.execReds
  · exact h.execBinr
  · exact h.execCell
  · exact h.execAtomc
  · exact h.execBrl
  · exact h.execJoin
  · exact h.execLxPick
  · exact h.execLxFlip
  · exact h.execLxRot
  · exact h.execLxShift
  · exact h.execPviewMask
  · exact h.execPviewAny
  · exact h.execPviewAll
  · exact h.execPviewCount
  · exact h.execLcomb
  · exact h.execExitL
  · exact h.execNop
  · exact h.execPset
  · exact h.execPmovFromP
  · exact h.execPmovToP
  · exact h.execSadd
  · exact h.execSsub
  · exact h.execSmul
  · exact h.execSmulh
  · exact h.execSand
  · exact h.execSor
  · exact h.execSxor
  · exact h.execSshl
  · exact h.execSshr
  · exact h.execSsar
  · exact h.execSmin
  · exact h.execSmax
  · exact h.execSsetq
  · exact h.execSmov
  · exact h.execSmovi
  · exact h.execSmovh
  · exact h.execSaddi
  · exact h.execSsel
  · exact h.execBcast
  · exact h.execLread
  · exact h.execSrd
  · exact h.execSwr
  · exact h.execSld
  · exact h.execSst
  · exact h.execTaSet
  · exact h.execTaInv
  · exact h.execTaQry
  · exact h.execXbSetImm
  · exact h.execXbSetReg
  · exact h.execXbAddImm
  · exact h.execXbAddReg
  · exact h.execBra
  · exact h.execCall
  · exact h.execRet
  · exact h.execJmp
  · exact h.execLoop
  · exact h.execExit
  · exact h.execTrap
  · exact h.execSyncs
  · exact h.execYieldR
  · exact h.execBrk
  · exact h.execLaunch
  · exact h.execLaunchTry
  · exact h.execQpost
  · exact h.execQprio
  · exact h.execCtrAdd
  · exact h.execCtrWait
  · exact h.execCtrWaitt
  · exact h.execCtrRd
  · exact h.execCtrRdSt
  · exact h.execBarArv
  · exact h.execBarWait
  · exact h.execFence
  · exact h.execAcqRem
  · exact h.execBatchClose
  · exact h.execBatchWait
  · exact h.execQuiet
  · exact h.execPhase
  · exact h.execCpIn
  · exact h.execCpOut
  · exact h.execCpGath
  · exact h.execCpBulk
  · exact h.execCpBulkFill
  · exact h.execCollAllred
  · exact h.execCollRedscat
  · exact h.execCollAllgath
  · exact h.execCollBcast
  · exact h.execCpStat
  · exact h.execLkDef
  · exact h.execLkBegin
  · exact h.execLkAcq
  · exact h.execLkTry
  · exact h.execLkUpg
  · exact h.execLkRel
  · exact h.execLkEnd
  · exact h.execLkQry
  · exact h.execGearN
  · exact h.execGearF
  · exact h.execGearW
  · exact h.execHintCompute
  · exact h.execHintMemory
  · exact h.execHintWait
  · exact h.execHintEndphase
  · exact h.execClk
  · exact h.execSeg
  · exact h.execSegSync
  · exact h.execRte
  · exact h.execOlogRetry
  · exact h.execOlogDrop
  · exact h.execOlogStat
  · exact h.execCtxFlV
  · exact h.execCtxFlA
  · exact h.execCtxFlAll
  · exact h.execCtxLdV
  · exact h.execCtxLdA
  · exact h.execStashMap
  · exact h.execStashWb
  · exact h.execCinvL1
  · exact h.execCinvWb
  · exact h.execCinvWbi
  · exact h.execTlbiRange
  · exact h.execTlbiCtx
  · exact h.execTlbiGlobal
  · exact h.execTlbiAll
  · exact h.execLkmat
  · exact h.execFinj
  · exact h.execPreempt
  · exact h.execFinjApply
  · exact h.execSplitSelect
  · exact h.execTrapEntry
  · exact h.execResultReturn
  · exact h.execMemoryReply
  · exact h.execHomeRequest
  · exact h.execInvalidationReceive
  · exact h.execInvalidationAck
  · exact h.execPageWalkDone
  · exact h.execApertureTranslateDone
  · exact h.execUnitMoveComplete
  · exact h.execSettleHoldEnd
  · exact h.execAccumulatorStart
  · exact h.execAccumulatorComplete
  · exact h.execRegisterLineFill
  · exact h.execEngineCommandStart
  · exact h.execEngineTransferStep
  · exact h.execEngineCommandComplete
  · exact h.execCollPeerMessage
  · exact h.execWaitSatisfied
  · exact h.execCtrWaittDeadline
  · exact h.execQuietDrained
  · exact h.execLockRequestArrive
  · exact h.execLockReleaseArrive
  · exact h.execLockGrantArrive
  · exact h.execWoundArrive
  · exact h.execQueueDoorbell
  · exact h.execQctlWrite
  · exact h.execQueueEntryRead
  · exact h.execGridAccept
  · exact h.execTeamDistribute
  · exact h.execTeamRetire
  · exact h.execGridRetire
  · exact h.execGroupResume
  · exact h.execPartitionSwapDone
  · exact h.execTrailerSegmentStart
  · exact h.execSegmentCompare
  · exact h.execThirdRunPlace
  · exact h.execVote
  · exact h.execPrismHoldLimit
  · exact h.execDieFatalError
  · exact h.execCorrectedMemoryError
  · exact h.execBucketLeak
  · exact h.execGearTransitionStart
  · exact h.execGearTransitionEnd
  · exact h.execPairBalanceMeasure
  · exact h.execBalanceWaitExpiry
  · exact h.execDroopStretch
  · exact h.execGovernorAdjust
  · exact h.execCapLeaseExpiry
  · exact h.execHostCxlMemAccess
  · exact h.execGflFlitReceive
  · exact h.execGflPortUp
  · exact h.execGflPortDown
  · exact h.execRouteEntryWrite
  · exact h.execRouteApply
  · exact h.execTimeMessage
  · exact h.execTimeSyncTimeout
  · exact h.execPartcfgWrite
  · exact h.execBiasFlipToHost
  · exact h.execBiasFlipToDevice
  · exact h.execBiasFlipDone
  · exact h.execSnapshotNow
  · exact h.execSnapshotInterval
  · exact h.execSnapshotStreamDone
  · exact h.execFrzctlFreezeWrite
  · exact h.execFreezePin
  · exact h.execRegisterWrite
  · exact h.execGetZhr
  · exact h.execGetCert
  · exact h.execSetCap
  · exact h.execFreeze
  · exact h.execClrFence
  · exact h.execRegRd
  · exact h.execRegWr
  · exact h.execReset
  · exact h.execScanRd
  · exact h.execFunctionReady
  · exact h.execCxlLinkUp
  · exact h.execCxlHostSnoop
  · exact h.execDroopRecovery
  · exact h.execSnapshotStopEnd
  · exact h.execTimeSyncReached

protected theorem State.Canonical.fetchInstr {g : Group} (h : s.Canonical) : (s.fetchInstr g sp).2.Canonical := by
  unfold State.fetchInstr
  split
  next e1 => exact h.fetchWord.of_snd e1
  next e1 =>
    have hs1 := h.fetchWord.of_snd e1
    split
    · split
      next e3 => exact hs1.fetchWord.of_snd e3
      next e3 => exact hs1.fetchWord.of_snd e3
    · exact hs1

protected theorem State.Canonical.fetchTrapped {t : Trap} (h : s.Canonical) : (s.fetchTrapped sp t).Canonical := h.trapHere.boundary

protected theorem State.Canonical.passTime (h : s.Canonical) : s.passTime.Canonical := by
  unfold State.passTime
  exact .ite (h.same (by with_reducible rfl)) (.ite (h.same (by with_reducible rfl)) (h.same (by with_reducible rfl)))

protected theorem State.Canonical.retryWaits (h : s.Canonical) : s.retryWaits.Canonical :=
  .ite (.ite (.ite h h.retryPrefs) ((State.Canonical.ite h h.retryPrefs).retryPushes)) ((State.Canonical.ite (.ite h h.retryPrefs)
      ((State.Canonical.ite h h.retryPrefs).retryPushes)).retryOutside)

protected theorem State.Canonical.tick (h : s.Canonical) : s.tick.Canonical :=
  ((h.foldl fun _ _ h1 => h1.noteTarget).passTime.foldl fun _ _ h1 => h1.gearDue).settleTime.settleFlips.retryWaits

protected theorem State.Canonical.ownRun {e : Own} (h : s.Canonical) : Out.Canonical (Own.run s e) := by
  unfold Own.run
  split
  · exact h.execPageWalkDone
  · exact h.execHomeRequest
  · exact h.execMemoryReply
  · exact h.execResultReturn
  · exact h.execApertureTranslateDone
  · exact h.execRegisterLineFill
  · exact h.execWaitSatisfied
  · exact h.execCtrWaittDeadline
  · exact h.execQuietDrained
  · exact h.execLockGrantArrive
  · exact h.execLockRequestArrive
  · exact h.execLockReleaseArrive
  · exact h.execFinjApply
  · exact h.execTrapEntry
  · exact h.execSegmentCompare
  · exact h.execTrailerSegmentStart
  · exact h.execThirdRunPlace
  · exact h.execVote
  · exact h.execTeamRetire
  · exact h.execGroupResume
  · exact h.execGridAccept
  · exact h.execGridRetire
  · exact h.execTeamDistribute
  · exact h.execQueueEntryRead
  · exact h.execGearTransitionEnd
  · exact h.execGearTransitionStart
  · exact h.execBalanceWaitExpiry
  · exact h.execInvalidationAck
  · exact h.execInvalidationReceive
  · exact h.execWoundArrive
  · exact h.execUnitMoveComplete
  · exact h.execSettleHoldEnd
  · exact h.execAccumulatorComplete
  · exact h.execAccumulatorStart
  · exact h.execEngineTransferStep
  · exact h.execEngineCommandComplete
  · exact h.execEngineCommandStart
  · exact h.execPartitionSwapDone
  · exact h.execBiasFlipDone
  · exact h.execRouteApply
  · exact h.execCapLeaseExpiry
  · exact h.execBucketLeak
  · exact h.execPrismHoldLimit
  · exact h.execSnapshotInterval
  · exact h.execSnapshotStopEnd
  · exact h.execSnapshotStreamDone
  · exact h.execTimeSyncTimeout
  · exact h.execSplitSelect

protected theorem State.Canonical.stepIssue (h : s.Canonical) : Out.Canonical (s.stepIssue sp) := by
  unfold State.stepIssue
  split
  next e1 =>
    have hs1 := h.fetchInstr.of_snd e1
    split
    · exact hs1.exec
    · exact hs1.fetchTrapped.next
    · exact hs1.next

protected theorem State.Canonical.stepEvent (h : s.Canonical) : Out.Canonical s.stepEvent := by
  unfold State.stepEvent
  split
  · exact h.ownRun
  · exact h.next

/-- One step of the machine. -/
protected theorem State.Canonical.step (h : s.Canonical) : Out.Canonical (step s) := by
  unfold step
  split
  · split
    · exact State.Canonical.fault
    · split
      · exact State.Canonical.exec (h.same (by with_reducible rfl))
      · exact State.Canonical.next (h.same (by with_reducible rfl))
  · split
    · split
      · exact State.Canonical.exec (h.tick.same (by with_reducible rfl))
      · exact State.Canonical.next (h.tick.same (by with_reducible rfl))
    · dsimp only
      split
      · split
        · exact h.tick.stepIssue
        · exact h.tick.stepEvent
      · exact h.tick.stepEvent

/-- Settles O60, by the lemma of each operation in turn: the case of every instruction and event ends in updates that leave the memories as
they were, in writes of physical memory (`memOk_physSet`, `memOk_blank`) or in the byte of a bias flip (`State.Canonical.memSet`). -/
theorem stepKeepsMemory : Obligations.StepKeepsMemory := fun _ _ h hstep => State.Canonical.step h _ hstep

end Sys2Proof.Machine
end

section
/-! An instruction is read back from its own words: the fields of a word 0 and of a second word, format by format (02 R23 to R28, R46, R47). -/

namespace Sys2Proof

/-- A number whose bits lie between the guard and the opcode, as the format fields of a word 0 do (02 R23). -/
abbrev FormatFields (f : Nat) : Prop := f % 16 = 0 ∧ f < 4194304

section
variable {set op f : Nat} {h : Hdr}

/-- The set bit of a word 0 (02 R23). -/
theorem word0_set (hf : FormatFields f) (hs : set < 2) (hop : op < 128) :
    ((word0 set op h f).extractLsb' 31 1).toNat = set := by
  have he := h.e.toNat_lt
  have hw := h.w.toNat_lt
  rw [ext_eq, word0_eq]
  omega

/-- The opcode of a word 0 (02 R23). -/
theorem word0_op (hf : FormatFields f) (hop : op < 128) : ((word0 set op h f).extractLsb' 22 7).toNat = op := by
  have he := h.e.toNat_lt
  have hw := h.w.toNat_lt
  rw [ext_eq, word0_eq]
  omega

theorem decide_toNat_eq_one (b : Bool) : decide (b.toNat = 1) = b := by cases b <;> rfl

/-- The header of a word 0 (02 R23). -/
theorem hdrOf_word0 (hf : FormatFields f) (hop : op < 128) : hdrOf (word0 set op h f) = h := by
  have he := h.e.toNat_lt
  have hw := h.w.toNat_lt
  have hg : (word0 set op h f).extractLsb' 0 4 = h.g := by
    apply BitVec.eq_of_toNat_eq
    rw [ext_eq, word0_eq]
    omega
  have he' : ((word0 set op h f).extractLsb' 30 1).toNat = h.e.toNat := by
    rw [ext_eq, word0_eq]
    omega
  have hw' : ((word0 set op h f).extractLsb' 29 1).toNat = h.w.toNat := by
    rw [ext_eq, word0_eq]
    omega
  unfold hdrOf
  rw [he', hw', hg, decide_toNat_eq_one, decide_toNat_eq_one]

/-- A field of a word given as a number. -/
theorem ext_ofNat {v lo n : Nat} (hn : lo + n ≤ 32) : (BitVec.ofNat 32 v).extractLsb' lo n = BitVec.ofNat n (v / 2 ^ lo) := by
  apply BitVec.eq_of_getLsbD_eq
  intro j hj
  simp only [BitVec.getLsbD_extractLsb', BitVec.getLsbD_ofNat, Nat.testBit_div_two_pow]
  simp [hj, show lo + j < 32 by omega, Nat.add_comm]

/-- Numbers that agree in bits 4 to 21 have the same fields there. -/
theorem field_congr {x y lo n : Nat} (h : x % 4194304 / 16 = y % 4194304 / 16) (hlo : 4 ≤ lo) (hn : lo + n ≤ 22) :
    BitVec.ofNat n (x / 2 ^ lo) = BitVec.ofNat n (y / 2 ^ lo) := by
  have hbit : ∀ z j, j < n → (z / 2 ^ lo).testBit j = (z % 2 ^ 22 / 2 ^ 4).testBit (lo + j - 4) := by
    intro z j hj
    rw [Nat.testBit_div_two_pow, Nat.testBit_div_two_pow, Nat.testBit_mod_two_pow, show lo + j - 4 + 4 = j + lo by omega]
    simp [show j + lo < 22 by omega]
  apply BitVec.eq_of_getLsbD_eq
  intro j hj
  rw [BitVec.getLsbD_ofNat, BitVec.getLsbD_ofNat, hbit x j hj, hbit y j hj]
  exact congrArg (fun z => decide (j < n) && z.testBit (lo + j - 4)) h

/-- A format field of a word 0. -/
theorem word0_field {lo n : Nat} (hf : FormatFields f) (hlo : 4 ≤ lo) (hn : lo + n ≤ 22) :
    (word0 set op h f).extractLsb' lo n = BitVec.ofNat n (f / 2 ^ lo) := by
  unfold word0
  rw [ext_ofNat (by omega)]
  exact field_congr (by omega) hlo hn
end

/-- The row that an opcode names in its set, as the decoder reads it (02 R46, R47). -/
def readAs (set op : Nat) (w k : BitVec 32) : Option Instr :=
  if set = 0 then
    match op / 16 with
    | 0 => laneRow0 (op % 16) w k
    | 1 => laneRow1 (op % 16) w k
    | 2 => laneRow2 (op % 16) w k
    | 3 => laneRow3 (op % 16) w k
    | 4 => laneRow4 (op % 16) w k
    | 5 => laneRow5 (op % 16) w k
    | 6 => laneRow6 (op % 16) w k
    | 7 => laneRow7 (op % 16) w k
    | _ => none
  else
    match op / 16 with
    | 0 => uniformRow0 (op % 16) w k
    | 1 => uniformRow1 (op % 16) w k
    | 2 => uniformRow2 (op % 16) w k
    | 3 => uniformRow3 (op % 16) w k
    | 4 => uniformRow4 (op % 16) w k
    | 5 => uniformRow5 (op % 16) w k
    | 6 => uniformRow6 (op % 16) w k
    | _ => none

theorem candidate_eq_readAs (w k : BitVec 32) :
    candidate w k = readAs (w.extractLsb' 31 1).toNat (w.extractLsb' 22 7).toNat w k := rfl

/-- The decoder's candidate for an instruction's own words is that instruction, whatever stands behind a one-word instruction. -/
def Reads (i : Instr) : Prop := ∀ w k, encode i = [w] ∨ encode i = [w, k] → candidate w k = some i

theorem candidate_word0 {set op f : Nat} {h : Hdr} {k : BitVec 32} (hs : set < 2) (hop : op < 128) (hf : FormatFields f) :
    candidate (word0 set op h f) k = readAs set op (word0 set op h f) k := by
  rw [candidate_eq_readAs, word0_set hf hs hop, word0_op hf hop]

theorem reads_none {i : Instr} (he : encode i = []) : Reads i := by
  rintro w k (h | h) <;> rw [he] at h <;> cases h

theorem ofNat_eq_of {n v : Nat} {x : BitVec n} (h : v % 2 ^ n = x.toNat) : BitVec.ofNat n v = x :=
  BitVec.eq_of_toNat_eq ((BitVec.toNat_ofNat v n).trans h)

section
variable {i : Instr} {set op f v : Nat} {h : Hdr}

/-- A one-word instruction is read back where its opcode's row reads each of its fields back. -/
theorem reads_one (he : encode i = [word0 set op h f])
    (hr : hdrOf (word0 set op h f) = h → FormatFields f → ∀ k, readAs set op (word0 set op h f) k = some i)
    (hs : set < 2 := by decide) (hop : op < 128 := by decide) (hf : FormatFields f := by omega) : Reads i := by
  rintro w k (hw | hw) <;> rw [he] at hw <;> cases hw
  rw [candidate_word0 hs hop hf]
  exact hr (hdrOf_word0 hf hop) hf k

/-- A two-word instruction is read back where its opcode's row reads each of its fields back. -/
theorem reads_two (he : encode i = [word0 set op h f, BitVec.ofNat 32 v])
    (hr : hdrOf (word0 set op h f) = h → FormatFields f → readAs set op (word0 set op h f) (BitVec.ofNat 32 v) = some i)
    (hs : set < 2 := by decide) (hop : op < 128 := by decide) (hf : FormatFields f := by omega) : Reads i := by
  rintro w k (hw | hw) <;> rw [he] at hw <;> cases hw
  rw [candidate_word0 hs hop hf]
  exact hr (hdrOf_word0 hf hop) hf

end

section
variable {set op : Nat} {h : Hdr} {d a b o : BitVec 6} {ta : BitVec 4} {ht : BitVec 2} {cc p : BitVec 3}

/-- Three register fields: formats LR and UR (02 R24, R26). -/
theorem reads_dab {mk : Hdr → BitVec 6 → BitVec 6 → BitVec 6 → Instr}
    (he : encode (mk h d a b) = [word0 set op h (d.toNat * 65536 + a.toNat * 1024 + b.toNat * 16)])
    (hr : ∀ w k, readAs set op w k = some (mk (hdrOf w) (w.extractLsb' 16 6) (w.extractLsb' 10 6) (w.extractLsb' 4 6)))
    (hs : set < 2 := by decide) (hop : op < 128 := by decide) : Reads (mk h d a b) := by
  refine reads_one he (fun hh hf k => (hr _ _).trans (congrArg some ?_)) hs hop
  simp only [hh, word0_field hf, Nat.reduceLeDiff, Nat.reduceAdd]
  congr 1 <;> exact ofNat_eq_of (by omega)

/-- Fields d and a. -/
theorem reads_da {mk : Hdr → BitVec 6 → BitVec 6 → Instr}
    (he : encode (mk h d a) = [word0 set op h (d.toNat * 65536 + a.toNat * 1024)])
    (hr : ∀ w k, readAs set op w k = some (mk (hdrOf w) (w.extractLsb' 16 6) (w.extractLsb' 10 6)))
    (hs : set < 2 := by decide) (hop : op < 128 := by decide) : Reads (mk h d a) := by
  refine reads_one he (fun hh hf k => (hr _ _).trans (congrArg some ?_)) hs hop
  simp only [hh, word0_field hf, Nat.reduceLeDiff, Nat.reduceAdd]
  congr 1 <;> exact ofNat_eq_of (by omega)

/-- Fields a and b. -/
theorem reads_ab {mk : Hdr → BitVec 6 → BitVec 6 → Instr}
    (he : encode (mk h a b) = [word0 set op h (a.toNat * 1024 + b.toNat * 16)])
    (hr : ∀ w k, readAs set op w k = some (mk (hdrOf w) (w.extractLsb' 10 6) (w.extractLsb' 4 6)))
    (hs : set < 2 := by decide) (hop : op < 128 := by decide) : Reads (mk h a b) := by
  refine reads_one he (fun hh hf k => (hr _ _).trans (congrArg some ?_)) hs hop
  simp only [hh, word0_field hf, Nat.reduceLeDiff, Nat.reduceAdd]
  congr 1 <;> exact ofNat_eq_of (by omega)

/-- Field d alone. -/
theorem reads_d {mk : Hdr → BitVec 6 → Instr}
    (he : encode (mk h d) = [word0 set op h (d.toNat * 65536)])
    (hr : ∀ w k, readAs set op w k = some (mk (hdrOf w) (w.extractLsb' 16 6)))
    (hs : set < 2 := by decide) (hop : op < 128 := by decide) : Reads (mk h d) := by
  refine reads_one he (fun hh hf k => (hr _ _).trans (congrArg some ?_)) hs hop
  simp only [hh, word0_field hf, Nat.reduceLeDiff, Nat.reduceAdd]
  congr 1; exact ofNat_eq_of (by omega)

/-- Field a alone. -/
theorem reads_a {mk : Hdr → BitVec 6 → Instr}
    (he : encode (mk h a) = [word0 set op h (a.toNat * 1024)])
    (hr : ∀ w k, readAs set op w k = some (mk (hdrOf w) (w.extractLsb' 10 6)))
    (hs : set < 2 := by decide) (hop : op < 128 := by decide) : Reads (mk h a) := by
  refine reads_one he (fun hh hf k => (hr _ _).trans (congrArg some ?_)) hs hop
  simp only [hh, word0_field hf, Nat.reduceLeDiff, Nat.reduceAdd]
  congr 1; exact ofNat_eq_of (by omega)

/-- Format LM (02 R24). -/
theorem reads_lm {mk : Hdr → BitVec 6 → BitVec 4 → BitVec 6 → BitVec 2 → Instr}
    (he : encode (mk h d ta o ht) = [word0 set op h (d.toNat * 65536 + ta.toNat * 4096 + o.toNat * 64 + ht.toNat * 16)])
    (hr : ∀ w k, readAs set op w k = some (mk (hdrOf w) (w.extractLsb' 16 6) (w.extractLsb' 12 4) (w.extractLsb' 6 6) (w.extractLsb' 4 2)))
    (hs : set < 2 := by decide) (hop : op < 128 := by decide) : Reads (mk h d ta o ht) := by
  refine reads_one he (fun hh hf k => (hr _ _).trans (congrArg some ?_)) hs hop
  simp only [hh, word0_field hf, Nat.reduceLeDiff, Nat.reduceAdd]
  congr 1 <;> exact ofNat_eq_of (by omega)

/-- A comparison: its code and its predicate in field d (04 R102). -/
theorem reads_compare {mk : Hdr → BitVec 3 → BitVec 3 → BitVec 6 → BitVec 6 → Instr}
    (he : encode (mk h cc p a b) = [word0 set op h (cc.toNat * 524288 + p.toNat * 65536 + a.toNat * 1024 + b.toNat * 16)])
    (hr : ∀ w k, readAs set op w k = some (mk (hdrOf w) (w.extractLsb' 19 3) (w.extractLsb' 16 3) (w.extractLsb' 10 6) (w.extractLsb' 4 6)))
    (hs : set < 2 := by decide) (hop : op < 128 := by decide) : Reads (mk h cc p a b) := by
  refine reads_one he (fun hh hf k => (hr _ _).trans (congrArg some ?_)) hs hop
  simp only [hh, word0_field hf, Nat.reduceLeDiff, Nat.reduceAdd]
  congr 1 <;> exact ofNat_eq_of (by omega)

/-- No format field. -/
theorem reads_bare {mk : Hdr → Instr} (he : encode (mk h) = [word0 set op h 0])
    (hr : ∀ w k, readAs set op w k = some (mk (hdrOf w))) (hs : set < 2 := by decide) (hop : op < 128 := by decide) : Reads (mk h) :=
  reads_one he (fun hh _ _ => (hr _ _).trans (congrArg (fun x => some (mk x)) hh)) hs hop

end

/-- One-word instructions with fields of their own. -/
theorem reads_one_word :
    (∀ h d a e x, Reads (.fclass h d a e x)) ∧ (∀ h d a e x, Reads (.nanorg h d a e x)) ∧ (∀ h p, Reads (.accZero h p)) ∧
    (∀ h d a j, Reads (.lxFlip h d a j)) ∧ (∀ h d a j, Reads (.lxRot h d a j)) ∧ (∀ h p q r r', Reads (.pset h p q r r')) ∧
    (∀ h d a, Reads (.srd h d a)) ∧ (∀ h t d a, Reads (.taSet h t d a)) ∧ (∀ h t, Reads (.taInv h t)) ∧
    (∀ h d t, Reads (.taQry h d t)) ∧ (∀ h off, Reads (.bra h off)) ∧ (∀ h off, Reads (.call h off)) ∧
    (∀ h m, Reads (.trap h m)) ∧ (∀ h m, Reads (.brk h m)) ∧ (∀ h x e, Reads (.quiet h x e)) ∧ (∀ h e, Reads (.phase h e)) ∧
    (∀ h d x, Reads (.cpStat h d x)) := by
  and_intros <;> intros <;>
  · refine reads_one rfl fun hh hf k => congrArg some ?_
    simp only [hh, word0_field hf, Nat.reduceLeDiff, Nat.reduceAdd]
    congr 1 <;> exact ofNat_eq_of (by omega)

/-- Second words of form K (02 R27). -/
theorem reads_literal :
    (∀ h d k, Reads (.movi h d k)) ∧ (∀ h d a k, Reads (.iaddi h d a k)) ∧ (∀ h k, Reads (.brl h k)) ∧
    (∀ h d k, Reads (.smovi h d k)) ∧ (∀ h d k, Reads (.smovh h d k)) ∧ (∀ h d a k, Reads (.saddi h d a k)) ∧
    (∀ h d a k, Reads (.sld h d a k)) ∧ (∀ h d a k, Reads (.sst h d a k)) ∧ (∀ h d k, Reads (.loop h d k)) := by
  and_intros <;> intros <;>
  · refine reads_two rfl fun hh hf => congrArg some ?_
    simp only [hh, word0_field hf, ext_ofNat, Nat.reduceLeDiff, Nat.reduceAdd]
    congr 1 <;> exact ofNat_eq_of (by omega)

/-- Second words of form C: integer, combining and binning instructions (02 R27). -/
theorem reads_extended_integer :
    (∀ h d a b c, Reads (.imad h d a b c)) ∧ (∀ h d a b t u n, Reads (.bfx h d a b t u n)) ∧
    (∀ h d a b c t n, Reads (.bfi h d a b c t n)) ∧ (∀ h d a b e p, Reads (.sel h d a b e p)) ∧
    (∀ h d a t u, Reads (.lcomb h d a t u)) ∧ (∀ h d a b c t o, Reads (.cell h d a b c t o)) := by
  and_intros <;> intros <;>
  · refine reads_two rfl fun hh hf => congrArg some ?_
    simp only [hh, word0_field hf, ext_ofNat, Nat.reduceLeDiff, Nat.reduceAdd]
    congr 1 <;> exact ofNat_eq_of (by omega)

/-- Second words of form C: floating point (02 R27; chapter 05). -/
theorem reads_extended_float :
    (∀ h d a b c x e e' e'', Reads (.ffma h d a b c x e e' e'')) ∧ (∀ h d a b c x e e' e'', Reads (.dfma h d a b c x e e' e'')) ∧
    (∀ h d a b t x e, Reads (.hadd2 h d a b t x e)) ∧ (∀ h d a b t x e, Reads (.hmul2 h d a b t x e)) ∧
    (∀ h d a b c t x e e' e'', Reads (.hfma2 h d a b c t x e e' e'')) ∧
    (∀ h d a t x u y z e e', Reads (.cvt h d a t x u y z e e')) ∧ (∀ h d a t x u e, Reads (.frnd h d a t x u e)) ∧
    (∀ h d a b t x e, Reads (.dxbPack h d a b t x e)) ∧ (∀ h d a b t, Reads (.dxbUnpk h d a b t)) := by
  and_intros <;> intros <;>
  · refine reads_two rfl fun hh hf => congrArg some ?_
    simp only [hh, word0_field hf, ext_ofNat, Nat.reduceLeDiff, Nat.reduceAdd]
    congr 1 <;> exact ofNat_eq_of (by omega)

/-- Second words of form C: the matrix unit (02 R28; chapter 06). -/
theorem reads_extended_matrix :
    (∀ h p d a b t e x e', Reads (.mma h p d a b t e x e')) ∧ (∀ h d p t x u j e, Reads (.accRd h d p t x u j e)) ∧
    (∀ h p d t x u j e, Reads (.accWr h p d t x u j e)) ∧ (∀ h d p a t x e e', Reads (.accCvt h d p a t x e e')) := by
  and_intros <;> intros <;>
  · refine reads_two rfl fun hh hf => congrArg some ?_
    simp only [hh, word0_field hf, ext_ofNat, Nat.reduceLeDiff, Nat.reduceAdd]
    congr 1 <;> exact ofNat_eq_of (by omega)

/-- Second words of form C: memory and atomics (02 R27; chapters 07 and 08). -/
theorem reads_extended_memory :
    (∀ h d t a x u v n, Reads (.ldx h d t a x u v n)) ∧ (∀ h d t a x u v n, Reads (.stx h d t a x u v n)) ∧
    (∀ h d t a b u x v y, Reads (.atom h d t a b u x v y)) ∧ (∀ h d t a u x v y, Reads (.red h d t a u x v y)) ∧
    (∀ h d t a b u x y, Reads (.cas h d t a b u x y)) ∧ (∀ h d a b c t x u y, Reads (.atoms h d a b c t x u y)) ∧
    (∀ h d a t x u y, Reads (.reds h d a t x u y)) ∧ (∀ h d a b c t x u y, Reads (.atomc h d a b c t x u y)) := by
  and_intros <;> intros <;>
  · refine reads_two rfl fun hh hf => congrArg some ?_
    simp only [hh, word0_field hf, ext_ofNat, Nat.reduceLeDiff, Nat.reduceAdd]
    congr 1 <;> exact ofNat_eq_of (by omega)

/-- Second words of form UE: synchronization (02 R27; chapter 09). -/
theorem reads_sync :
    (∀ h d a t x u imm, Reads (.ctrAdd h d a t x u imm)) ∧ (∀ h d a b t x u imm, Reads (.ctrWait h d a b t x u imm)) ∧
    (∀ h d a b c t x p, Reads (.ctrWaitt h d a b c t x p)) ∧ (∀ h d a b t x u imm, Reads (.barArv h d a b t x u imm)) ∧
    (∀ h d a b t x, Reads (.barWait h d a b t x)) ∧ (∀ h x t, Reads (.fence h x t)) ∧ (∀ h d t imm, Reads (.batchWait h d t imm)) := by
  and_intros <;> intros <;>
  · refine reads_two rfl fun hh hf => congrArg some ?_
    simp only [hh, word0_field hf, ext_ofNat, Nat.reduceLeDiff, Nat.reduceAdd]
    congr 1 <;> exact ofNat_eq_of (by omega)

/-- Second words of form UE: copies and locks (02 R27; chapters 10 and 11). -/
theorem reads_engine :
    (∀ h d a b x y z imm, Reads (.cpIn h d a b x y z imm)) ∧ (∀ h d a b x y z imm, Reads (.cpOut h d a b x y z imm)) ∧
    (∀ h d a b c x y z imm, Reads (.cpGath h d a b c x y z imm)) ∧ (∀ h d p x, Reads (.lkAcq h d p x)) ∧
    (∀ h d a p x, Reads (.lkTry h d a p x)) ∧ (∀ h d p x, Reads (.lkUpg h d p x)) := by
  and_intros <;> intros <;>
  · refine reads_two rfl fun hh hf => congrArg some ?_
    simp only [hh, word0_field hf, ext_ofNat, Nat.reduceLeDiff, Nat.reduceAdd]
    congr 1 <;> exact ofNat_eq_of (by omega)

/-- Lane-set instructions that share an opcode: a code in word 0 tells them apart (02 R46). -/
theorem reads_selected_lane :
    (∀ h t d x, Reads (.prefL1 h t d x)) ∧ (∀ h t d x, Reads (.prefL2 h t d x)) ∧ (∀ h d e p, Reads (.pviewMask h d e p)) ∧
    (∀ h p e q, Reads (.pviewAny h p e q)) ∧ (∀ h p e q, Reads (.pviewAll h p e q)) ∧ (∀ h d e p, Reads (.pviewCount h d e p)) ∧
    (∀ h d, Reads (.pmovFromP h d)) ∧ (∀ h d, Reads (.pmovToP h d)) := by
  and_intros <;> intros <;>
  · refine reads_one rfl fun hh hf k => ?_
    simp only [laneRow5, laneRow6, laneRow7, readAs, hh, word0_field hf, BitVec.toNat_ofNat,
      ↓reduceIte, Nat.reduceDiv, Nat.reduceMod, Nat.reduceLeDiff, Nat.reduceAdd, Nat.reducePow]
    clear hh hf
    split <;> simp [BitVec.toNat_eq] at * <;> omega

/-- Uniform-set instructions that share an opcode, with operands (02 R47). -/
theorem reads_selected_uniform :
    (∀ h m, Reads (.xbSetImm h m)) ∧ (∀ h d, Reads (.xbSetReg h d)) ∧ (∀ h m, Reads (.xbAddImm h m)) ∧
    (∀ h d, Reads (.xbAddReg h d)) ∧ (∀ h d a, Reads (.ctrRd h d a)) ∧ (∀ h d a, Reads (.ctrRdSt h d a)) ∧
    (∀ h d, Reads (.ologRetry h d)) ∧ (∀ h d, Reads (.ologDrop h d)) ∧ (∀ h d, Reads (.ologStat h d)) ∧
    (∀ h d a, Reads (.ctxLdV h d a)) ∧ (∀ h d, Reads (.ctxLdA h d)) ∧ (∀ h d a, Reads (.cinvL1 h d a)) ∧
    (∀ h d a, Reads (.cinvWb h d a)) ∧ (∀ h d a, Reads (.cinvWbi h d a)) ∧ (∀ h d a, Reads (.tlbiRange h d a)) ∧
    (∀ h d, Reads (.tlbiCtx h d)) := by
  and_intros <;> intros <;>
  · refine reads_one rfl fun hh hf k => ?_
    simp only [uniformRow1, uniformRow3, uniformRow5, uniformRow6, readAs, hh, word0_field hf, BitVec.toNat_ofNat,
      one_ne_zero, ↓reduceIte, Nat.reduceDiv, Nat.reduceMod, Nat.reduceLeDiff, Nat.reduceAdd, Nat.reducePow]
    clear hh hf
    split <;> simp [BitVec.toNat_eq] at * <;> omega

/-- Uniform-set instructions that share an opcode, without operands (02 R47). -/
theorem reads_selected_bare :
    (∀ h, Reads (.gearN h)) ∧ (∀ h, Reads (.gearF h)) ∧ (∀ h, Reads (.gearW h)) ∧ (∀ h, Reads (.hintCompute h)) ∧
    (∀ h, Reads (.hintMemory h)) ∧ (∀ h, Reads (.hintWait h)) ∧ (∀ h, Reads (.hintEndphase h)) ∧ (∀ h, Reads (.seg h)) ∧
    (∀ h, Reads (.segSync h)) ∧ (∀ h, Reads (.ctxFlV h)) ∧ (∀ h, Reads (.ctxFlA h)) ∧ (∀ h, Reads (.ctxFlAll h)) ∧
    (∀ h, Reads (.tlbiGlobal h)) ∧ (∀ h, Reads (.tlbiAll h)) := by
  and_intros <;> intros <;>
  · refine reads_one rfl fun hh hf k => ?_
    simp only [uniformRow5, uniformRow6, readAs, hh, word0_field hf, BitVec.toNat_ofNat,
      one_ne_zero, ↓reduceIte, Nat.reduceDiv, Nat.reduceMod, Nat.reduceLeDiff, Nat.reduceAdd, Nat.reducePow, Nat.zero_div, Nat.zero_mod]

/-- Engine commands that share an opcode: a code in the second word tells them apart (11 R293). -/
theorem reads_selected_engine :
    (∀ h d a b x y z imm, Reads (.cpBulk h d a b x y z imm)) ∧ (∀ h d a b x y z imm, Reads (.cpBulkFill h d a b x y z imm)) ∧
    (∀ h d a b x y z imm, Reads (.collAllred h d a b x y z imm)) ∧ (∀ h d a b x y z imm, Reads (.collRedscat h d a b x y z imm)) ∧
    (∀ h d a b x y z imm, Reads (.collAllgath h d a b x y z imm)) ∧ (∀ h d a b x y z imm, Reads (.collBcast h d a b x y z imm)) := by
  and_intros <;> intros <;>
  · refine reads_two rfl fun hh hf => ?_
    simp only [uniformRow4, readAs, hh, word0_field hf, ext_ofNat, BitVec.toNat_ofNat,
      one_ne_zero, ↓reduceIte, Nat.reduceDiv, Nat.reduceMod, Nat.reduceLeDiff, Nat.reduceAdd, Nat.reducePow]
    clear hh hf
    split <;> simp [BitVec.toNat_eq] at * <;> omega

/-- Every instruction is read back from its own words; a step that no word encodes has none. -/
theorem reads_encode (i : Instr) : Reads i := by
  cases i with
  | iadd | isub | imul | imulh | imulhu | imin | imax | iminu | imaxu | andv | orv | xorv | andn | shl | shr | sar | rotl | iadd64 | fadd
  | fsub | fmul | fmin | fmax | dadd | dmul | dmin | dmax | binr | lxPick | lxShift | sadd | ssub | smul | smulh | sand | sor | sxor
  | sshl | sshr | ssar | smin | smax | ssel | lread | qpost | qprio | lkDef | stashMap | lkmat | finj | preempt =>
    exact reads_dab rfl fun _ _ => rfl
  | iabs | ineg | popc | clz | brev | mov | frcp | frsq | fsqrt | fex2 | flg2 | fsin | fcos | fabs | fneg | ldsW | ldsD | ldsQ | stsW
  | stsD | stsQ | ldcW | stcW | smov | bcast | launch | launchTry | acqRem | lkQry =>
    exact reads_da rfl fun _ _ => rfl
  | swr | stashWb =>
    exact reads_ab rfl fun _ _ => rfl
  | lidx | batchClose | lkBegin | clk =>
    exact reads_d rfl fun _ _ => rfl
  | ret | jmp | lkRel =>
    exact reads_a rfl fun _ _ => rfl
  | ldB | ldH | ldW | ldD | ldQ | stB | stH | stW | stD | stQ =>
    exact reads_lm rfl fun _ _ => rfl
  | icmp | fcmp | dcmp | ssetq =>
    exact reads_compare rfl fun _ _ => rfl
  | join | exitL | nop | exit | syncs | yieldR | lkEnd | rte =>
    exact reads_bare rfl fun _ _ => rfl
  | fclass | nanorg | accZero | lxFlip | lxRot | pset | srd | taSet | taInv | taQry | bra | call | trap | brk | quiet | phase | cpStat =>
    simp only [reads_one_word]
  | movi | iaddi | brl | smovi | smovh | saddi | sld | sst | loop =>
    simp only [reads_literal]
  | imad | bfx | bfi | sel | lcomb | cell =>
    simp only [reads_extended_integer]
  | ffma | dfma | hadd2 | hmul2 | hfma2 | cvt | frnd | dxbPack | dxbUnpk =>
    simp only [reads_extended_float]
  | mma | accRd | accWr | accCvt =>
    simp only [reads_extended_matrix]
  | ldx | stx | atom | red | cas | atoms | reds | atomc =>
    simp only [reads_extended_memory]
  | ctrAdd | ctrWait | ctrWaitt | barArv | barWait | fence | batchWait =>
    simp only [reads_sync]
  | cpIn | cpOut | cpGath | lkAcq | lkTry | lkUpg =>
    simp only [reads_engine]
  | prefL1 | prefL2 | pviewMask | pviewAny | pviewAll | pviewCount | pmovFromP | pmovToP =>
    simp only [reads_selected_lane]
  | xbSetImm | xbSetReg | xbAddImm | xbAddReg | ctrRd | ctrRdSt | ologRetry | ologDrop | ologStat | ctxLdV | ctxLdA | cinvL1 | cinvWb
  | cinvWbi | tlbiRange | tlbiCtx =>
    simp only [reads_selected_uniform]
  | gearN | gearF | gearW | hintCompute | hintMemory | hintWait | hintEndphase | seg | segSync | ctxFlV | ctxFlA | ctxFlAll | tlbiGlobal
  | tlbiAll =>
    simp only [reads_selected_bare]
  | cpBulk | cpBulkFill | collAllred | collRedscat | collAllgath | collBcast =>
    simp only [reads_selected_engine]
  | _ => exact reads_none rfl

end Sys2Proof
end

section
/-! What the decoder answers (02 R29, R30, R46, R47). -/

namespace Sys2Proof

/-- A well-formed instruction decodes from its own words. -/
theorem decode_of_encode {w k : BitVec 32} {i : Instr} (hwf : i.wf = true) (he : encode i = [w] ∨ encode i = [w, k]) :
    decode w k = .ok i := by
  unfold decode
  rw [reads_encode i w k he]
  obtain he | he := he <;> simp [hwf, he]

/-- What decodes is a well-formed instruction, and its words are the words read. -/
theorem encode_of_decode {w k : BitVec 32} {i : Instr} (h : decode w k = .ok i) :
    i.wf = true ∧ (encode i = [w] ∨ encode i = [w, k]) := by
  unfold decode at h
  split at h
  next => split at h <;> cases h
  next j _ =>
    split at h
    next => cases h
    next hwf =>
      have hwf : j.wf = true := by simpa using hwf
      split at h
      next he =>
        split at h
        next hw => cases h; exact ⟨hwf, .inl (hw ▸ he)⟩
        next => cases h
      next he =>
        split at h
        next hw =>
          split at h
          next hk => cases h; exact ⟨hwf, .inr (hw ▸ hk ▸ he)⟩
          next => cases h
        next => cases h
      next => cases h

/-- Settles O2: an instruction is the decoder's candidate for its own words (`reads_encode`), and its words are the words read. -/
theorem decodeOfEncode : Obligations.DecodeOfEncode := by
  intro i k hwf
  split
  next w he => exact decode_of_encode hwf (.inl he)
  next w k' he => exact decode_of_encode hwf (.inr he)
  next => trivial

/-- Settles O1: each word of the list is the encoding of its instruction. -/
theorem wordsDecode : Obligations.WordsDecode := by
  and_intros <;> exact decode_of_encode rfl (by decide)

/-- The lane-set opcodes without a row (02 R46). -/
def unallottedLane : List Nat := [63, 69, 70, 71, 93, 94, 95, 116, 117, 118, 119, 120, 121, 122, 123, 124, 125, 126, 127]

/-- The uniform-set opcodes without a row (02 R47). -/
def unallottedUniform : List Nat :=
  [29, 30, 31, 42, 43, 44, 45, 46, 47, 52, 53, 54, 55, 68, 69, 70, 71, 78, 79, 103, 104, 105, 106, 107, 108, 109, 110, 111, 112, 113, 114,
    115, 116, 117, 118, 119, 120, 121, 122, 123, 124, 125, 126, 127]

theorem mem_unallottedLane {op : Nat} (hop : op < 128) (h : laneWords op = 0) : op ∈ unallottedLane := by
  revert op
  decide

theorem mem_unallottedUniform {op : Nat} (hop : op < 128) (h : uniformWords op = 0) : op ∈ unallottedUniform := by
  revert op
  decide

theorem readAs_unallottedLane (w k : BitVec 32) : ∀ op ∈ unallottedLane, readAs 0 op w k = none := by
  simp [unallottedLane, readAs, laneRow3, laneRow4, laneRow5, laneRow7]

theorem readAs_unallottedUniform (w k : BitVec 32) : ∀ op ∈ unallottedUniform, readAs 1 op w k = none := by
  simp [unallottedUniform, readAs, uniformRow1, uniformRow2, uniformRow3, uniformRow4, uniformRow6]

/-- An opcode without a row in its set has no candidate. -/
theorem candidate_of_unallotted {w : BitVec 32} (k : BitVec 32) (h : wordsOf w = 0) : candidate w k = none := by
  have hop : (w.extractLsb' 22 7).toNat < 128 := BitVec.isLt _
  have hset : (w.extractLsb' 31 1).toNat < 2 := BitVec.isLt _
  unfold wordsOf at h
  rw [candidate_eq_readAs]
  dsimp only at h
  split at h
  next h0 => exact h0 ▸ readAs_unallottedLane w k _ (mem_unallottedLane hop h)
  next h1 =>
    rw [show (w.extractLsb' 31 1).toNat = 1 by omega]
    exact readAs_unallottedUniform w k _ (mem_unallottedUniform hop h)

/-- Words with a candidate are not refused for their opcode. -/
theorem decode_ne_unallotted {w k : BitVec 32} {i : Instr} (h : candidate w k = some i) : decode w k ≠ .error .unallottedOpcode := by
  unfold decode
  rw [h]
  dsimp only
  repeat' split
  all_goals nofun

/-- A word is refused for its opcode exactly where its set has no row for it. -/
theorem decode_eq_unallotted_iff {w k : BitVec 32} : decode w k = .error .unallottedOpcode ↔ wordsOf w = 0 := by
  constructor
  · intro h
    cases hc : candidate w k with
    | none => simpa [decode, hc] using h
    | some i => exact absurd h (decode_ne_unallotted hc)
  · intro h
    simp [decode, candidate_of_unallotted k h, h]

/-- Settles O3: the decoder compares an instruction's own words with the words read, and an opcode without a row has no candidate. -/
theorem decodeSound : Obligations.DecodeSound :=
  ⟨fun _ _ _ => encode_of_decode, fun _ _ => decode_eq_unallotted_iff⟩

end Sys2Proof
end

section
/-! An instruction that goes on leaves its split at the next word, and the window base (02 R32, R35, R40). -/

namespace Sys2Proof.Machine

@[simp] theorem wvMask_splits (g : Group) (r : Nat) (m : W32) (f : Nat → W32) : (g.wvMask r m f).splits = g.splits := by rw [wvMask_rest]

@[simp] theorem wvMask_newSplits (g : Group) (r : Nat) (m : W32) (f : Nat → W32) : (g.wvMask r m f).newSplits = g.newSplits := by
  rw [wvMask_rest]

/-- A lane-set instruction that writes one register leaves its split at the next word. -/
theorem advances_setLanes {i : Instr} {h : Hdr} {u : Uses} {d : BitVec 6} {f : Group → W32 → Nat → W32}
    (he : ∀ s, exec i s = issueLane i h u (fun m => setLanes d (fun g => f g m) m) s) :
    Advances i (fun _ => u) (someLane h) (fun _ _ => True) :=
  advances_lane (body := fun _ m => setLanes d (fun g => f g m) m) he
    (fun _ _ _ _ _ => ⟨rfl, wvMask_splits _ _ _ _, wvMask_newSplits _ _ _ _⟩)

/-- An instruction that acts on every lane and changes nothing leaves its split at the next word. -/
theorem advances_nop (h : Hdr) : Advances (.nop h) (fun _ => {}) (fun _ => true) (fun _ _ => True) :=
  advances_issue (h := h) (lanes := activeMask h) (body := fun _ t => match t.g.running with
      | none => (t, .fall)
      | some _ => (t, .fall)) (fun _ => rfl) (fun s _ hc _ _ => by
        simp only [State.open_running, hc.1]
        exact ⟨trivial, rfl, rfl⟩)

/-- Settles O14: the four instructions fall through and write registers alone. -/
theorem pcAdvances : Obligations.PcAdvances := by
  intro h d a b k
  refine ⟨advances_setLanes (f := fun g _ l => g.op a l + g.op b l) (d := d) (fun _ => rfl),
    advances_setLanes (f := fun _ _ _ => k) (d := d) (fun _ => rfl), ?_, advances_nop h⟩
  exact advances_uni (body := fun _ _ s => ({ s with g := s.g.ws d.toNat (s.g.rs a.toNat + s.g.rs b.toNat) }, .fall)) (fun _ => rfl)
    (fun _ _ _ _ _ => ⟨rfl, rfl, rfl⟩)

/-- A base in the allotment is taken (R40). -/
theorem moveWindow_of_mem {s : State} {base : Int} (sp : Split) (h : 0 ≤ base ∧ base ≤ (s.g.allot : Int) - 1) :
    moveWindow sp base s = ({ s with g := { s.g with xb := BitVec.ofInt 8 base } }, .fall) := by
  unfold moveWindow
  rw [if_neg (by simp; omega)]

/-- Any other base raises Register Bounds (R40, R428). -/
theorem moveWindow_of_not_mem {s : State} {base : Int} (sp : Split) (h : ¬ (0 ≤ base ∧ base ≤ (s.g.allot : Int) - 1)) :
    moveWindow sp base s =
      (s, .trap (Trap.plain 0x03 sp.pc sp.pc sp.mask (BitVec.ofNat 64 ((BitVec.ofInt 9 base).toNat + 2048)) s.dt)) := by
  have haddr : boundsAddr (BitVec.ofInt 9 base).toNat false 2 = BitVec.ofNat 64 ((BitVec.ofInt 9 base).toNat + 2048) := by
    rw [boundsAddr, Nat.mod_eq_of_lt (BitVec.isLt _)]
    rfl
  unfold moveWindow
  rw [if_pos (by simp; omega), haddr]
  rfl

/-- An instruction whose body moves the window base to `base`. -/
theorem movesWindow {i : Instr} {h : Hdr} {u : Uses} {base : State → Int}
    (he : ∀ s, exec i s = issueUni i h u (fun sp t => moveWindow sp (base t) t) s) (hb : ∀ s : State, base s.open_ = base s) :
    Does i (fun _ => u) (guardOn h) (fun s _ => 0 ≤ base s ∧ base s ≤ (s.g.allot : Int) - 1)
      (fun s _ => { s with g := { s.g with xb := BitVec.ofInt 8 (base s) } }) ∧
    (∀ s sp, s.canIssue i u sp → guardOn h s = true → s.g.role = .plain → s.g.newSplits = [] →
      ¬ (0 ≤ base s ∧ base s ≤ (s.g.allot : Int) - 1) →
      Traps i s sp (Trap.plain 0x03 sp.pc sp.pc sp.mask (BitVec.ofNat 64 ((BitVec.ofInt 9 (base s)).toNat + 2048)) s.dt)) := by
  constructor
  · refine does_uni (body := fun _ sp t => moveWindow sp (base t) t) he fun s sp _ _ hin => ?_
    rw [moveWindow_of_mem sp (by rw [hb]; exact hin)]
    exact ⟨rfl, rfl⟩
  · intro s sp hc ho hp hn hout
    refine traps_body (he s) hc ho hp hn (by simp [Trap.plain]) ?_
    simp only [State.open_running, hc.1]
    rw [moveWindow_of_not_mem sp (by rw [hb]; exact hout), hb]
    rfl

/-- Settles O34: each of the four bodies is `moveWindow` with its base. -/
theorem windowBase : Obligations.WindowBase :=
  fun _ _ _ => ⟨movesWindow (fun _ => rfl) fun _ => rfl, movesWindow (fun _ => rfl) fun _ => rfl,
    movesWindow (fun _ => rfl) fun _ => rfl, movesWindow (fun _ => rfl) fun _ => rfl⟩

end Sys2Proof.Machine
end

section
/-! The last clause of the issue checks fails in a follower: its leader's log can have a Hazard for the instruction it is about to issue, and
the follower takes that trap whether its own hazard-check mode is on or not (12 R329, R340). -/

namespace Sys2Proof.Machine

/-- A leader's team that has logged a Hazard for the first instruction of its only group, and whose trailer is team 1. -/
def hazardLoggedTeam : Team where
  tid := 2
  serial := 0
  idx := 0
  ctx := 0
  tile := 8
  role := .leader
  groups := 1
  scratch := 0
  stashBytes := 0
  base := 0
  saved := false
  scr := []
  scrPoison := []
  badWords := []
  sectors := []
  stash := []
  ended := false
  away := false
  chord := some { Chord.start 2 0 1 0 0 [] with traps := [⟨0, 0, 0, 0x0A, placedPc, placedPc, 0xFFFFFFFF, 0, 0, 0, 0⟩] }
  folds := []
  closes := []
  replay := none
  compared := 0

/-- The trailer of that team at its first instruction, its hazard-check mode off. -/
def hazardFollower : State :=
  { State.reset with g := { placedGroup with role := .trailer }, teams := [hazardLoggedTeam] }

/-- Refutes O42: an instruction without operands passes every check that the last clause names, and the follower still takes the Hazard of its
leader's log, which `State.hazardTrap` reads for it. -/
theorem not_issueChecks : ¬ Obligations.IssueChecks := by
  intro h
  have hpass := (h.2 (.nop ⟨false, false, 7⟩) {} hazardFollower (Split.fresh 0 placedPc 0xFFFFFFFF 0)).2.2.2.2
  exact absurd (hpass rfl ⟨nofun, nofun⟩ rfl rfl nofun) (by decide)

end Sys2Proof.Machine
end

section
/-! A step runs the instruction that the words at the PC decode to (02 R22, R23, R32). -/

namespace Sys2Proof.Machine

/-- Without an input, a package that runs issues on an even clock where a split holds the issue slot. -/
theorem step_of_issuing {s : State} {sp : Split} (hf : s.frozen = false) (hi : s.inputs = []) (hc : s.clock % 2 = 0)
    (hsp : s.tick.issuing = some sp) : step s = s.tick.stepIssue sp := by
  simp [step, hf, hi, hc, hsp]

/-- A group that follows no log takes what it fetches. -/
theorem followFetch_of_plain (s : State) {g : Group} (hp : g.role = .plain) (f : Fetched) : s.followFetch g f = f := by
  simp [State.followFetch, hp, Role.follows]

/-- The issue of a group that follows no log runs the instruction fetched. -/
theorem stepIssue_of_fetch {s s1 : State} {sp : Split} {i : Instr} (hp : s.g.role = .plain) (hf : s.fetchInstr s.g sp = (.instr i, s1)) :
    s.stepIssue sp = exec i s1 := by
  simp [State.stepIssue, hf, followFetch_of_plain s1 hp]

theorem decodeWords_of_decode {w k : BitVec 32} {i : Instr} (sp : Split) (dt : Nat) (h : decode w k = .ok i) :
    decodeWords sp w k dt = .instr i := by
  simp [decodeWords, h]

/-- The fetch of an instruction of one word. -/
theorem fetchInstr_of_one {s s1 : State} {g : Group} {sp : Split} {w : BitVec 32} {i : Instr}
    (hw : s.fetchWord g sp.pc.toNat = (.ok w, s1)) (h1 : wordsOf w ≠ 2) (hd : decode w 0 = .ok i) : s.fetchInstr g sp = (.instr i, s1) := by
  simp only [State.fetchInstr, hw, h1, if_false, decodeWords_of_decode sp s.dt hd]

/-- The fetch of an instruction of two words. -/
theorem fetchInstr_of_two {s s1 s2 : State} {g : Group} {sp : Split} {w k : BitVec 32} {i : Instr}
    (hw : s.fetchWord g sp.pc.toNat = (.ok w, s1)) (h2 : wordsOf w = 2) (hk : s1.fetchWord g (sp.pc + 4).toNat = (.ok k, s2))
    (hd : decode w k = .ok i) : s.fetchInstr g sp = (.instr i, s2) := by
  have hk : s1.fetchWord g (pcAdd sp.pc 4).toNat = (.ok k, s2) := hk
  simp [State.fetchInstr, hw, h2, hk, decodeWords_of_decode sp s.dt hd]

/-- Settles O4: the step is the issue of the split that holds the slot, and the issue runs what `State.fetchInstr` gives. -/
theorem stepRunsDecoded : Obligations.StepRunsDecoded :=
  ⟨fun _ _ _ _ hf hi hc hsp hp hfetch _ => (step_of_issuing hf hi hc hsp).trans (stepIssue_of_fetch hp hfetch),
    fun _ _ _ _ _ _ _ _ => ⟨fetchInstr_of_one, fetchInstr_of_two⟩⟩

end Sys2Proof.Machine
end

section
/-! The split a quadrant runs next, and how its run begins (02 R32; 03 R58, R63). -/

namespace Sys2Proof.Machine

/-! ## The lowest of R63's order -/

theorem lexLt_irrefl (a : List Nat) : lexLt a a = false := by
  induction a with
  | nil => rfl
  | cons x xs ih => simp [lexLt, ih]

theorem lexLt_trans : ∀ {a b c : List Nat}, lexLt a b = true → lexLt b c = true → lexLt a c = true
  | x :: xs, y :: ys, z :: zs, hab, hbc => by
    simp only [lexLt, Bool.or_eq_true, Bool.and_eq_true, decide_eq_true_eq] at hab hbc ⊢
    obtain hxy | ⟨rfl, hab⟩ := hab
    · exact .inl (by omega)
    · obtain hyz | ⟨rfl, hbc⟩ := hbc
      · exact .inl hyz
      · exact .inr ⟨rfl, lexLt_trans hab hbc⟩
  | [], _, _, hab, _ => by simp [lexLt] at hab
  | _ :: _, [], _, hab, _ => by simp [lexLt] at hab
  | _ :: _, _ :: _, [], _, hbc => by simp [lexLt] at hbc

/-- The lower of a choice made so far and one more split. -/
def lowerRun (starved : Bool) (b : Option (Group × Split)) (x : Group × Split) : Option (Group × Split) :=
  match b with
  | none => some x
  | some y => if lexLt (runKey starved x) (runKey starved y) then some x else some y

theorem bestRun_eq (l : List (Group × Split)) : bestRun l = l.foldl (lowerRun (l.any (fun y => decide (64 ≤ y.2.passed)))) none := rfl

/-- The choice out of a list that is not empty: one of them, with none below it.  The choice only ever goes down as the list is read, so what was
not below an earlier choice is not below a later one. -/
theorem foldl_lowerRun (starved : Bool) (l : List (Group × Split)) (hl : l ≠ []) : ∃ b, l.foldl (lowerRun starved) none = some b ∧ b ∈ l ∧
    ∀ x ∈ l, lexLt (runKey starved x) (runKey starved b) = false := by
  induction l using List.reverseRecOn with
  | nil => exact absurd rfl hl
  | append_singleton xs x ih =>
    rw [List.foldl_append]
    by_cases hxs : xs = []
    · subst hxs
      exact ⟨x, rfl, by simp, by simp [lexLt_irrefl]⟩
    · obtain ⟨b, hb, hmem, hlow⟩ := ih hxs
      rw [hb]
      by_cases hx : lexLt (runKey starved x) (runKey starved b) = true
      · refine ⟨x, by simp [lowerRun, hx], by simp, fun z hz => ?_⟩
        obtain hz | hz := List.mem_append.mp hz
        · exact Bool.eq_false_iff.mpr fun hzx => Bool.eq_false_iff.mp (hlow z hz) (lexLt_trans hzx hx)
        · rw [List.mem_singleton.mp hz]
          exact lexLt_irrefl _
      · refine ⟨b, by simp [lowerRun, hx], List.mem_append_left _ hmem, fun z hz => ?_⟩
        obtain hz | hz := List.mem_append.mp hz
        · exact hlow z hz
        · rw [List.mem_singleton.mp hz]
          exact Bool.eq_false_iff.mpr hx

/-! ## SPLIT_SELECT -/

/-- SPLIT_SELECT with the quadrant's clock running looks at the quadrant with its parks ended. -/
theorem execSplitSelect_eq {s : State} {tile quad : Nat} (ht : (s.tile tile).trans = none) (hd : s.snapDue.contains (dieOf tile) = false) :
    execSplitSelect tile quad s =
      match (s.readyQuad tile quad).slotHolder tile quad with
      | some g => .next ((s.readyQuad tile quad).focus g.gid)
      | none =>
        match bestRun ((s.readyQuad tile quad).candidates tile quad) with
        | none => .next (s.readyQuad tile quad)
        | some (g, sp) => .next ((s.readyQuad tile quad).beginSplit tile quad g sp) := by
  have hc : ((s.tile tile).trans.isSome || s.snapDue.contains (dieOf tile)) = false := by simp only [ht, hd]; rfl
  rw [execSplitSelect, hc]
  rfl

/-- What a group that may run at all is known by. -/
theorem groupRuns_iff (s : State) (g : Group) : s.groupRuns g = true ↔ g.live = true ∧ g.away = false ∧ g.halted = false ∧ g.stop = false ∧
    g.run = false ∧ g.flip.isEmpty = true ∧ g.absent.contains 2000 = false ∧ s.trapPending g = false := by
  simp only [State.groupRuns, Bool.and_eq_true, Bool.not_eq_true', and_assoc]

/-- A quadrant of one group that may run has its issue slot free. -/
theorem slotHolder_of_runs {s : State} {tile quad : Nat} (ho : s.others = []) (hruns : s.groupRuns s.g = true) :
    s.slotHolder tile quad = none := by
  obtain ⟨-, -, -, -, hrun, -⟩ := (groupRuns_iff s s.g).mp hruns
  simp [State.slotHolder, State.groups, ho, hrun]

section
variable {s : State} {tile quad : Nat} (ho : s.others = []) (hruns : s.groupRuns s.g = true) (ht : s.g.tile = tile) (hq : s.g.place / 16 = quad)
include ho hruns ht hq

/-- In a quadrant of one group, with nothing to end there, no park ends. -/
theorem readyQuad_of_settled (hs : s.settleStops = s) (hw : s.wakeGroup s.g.gid = s) (hc : s.closeStanding s.g = s) :
    s.readyQuad tile quad = s := by
  obtain ⟨hlive, haway, -, -, hrun, -⟩ := (groupRuns_iff s s.g).mp hruns
  simp [State.readyQuad, hs, State.groups, ho, hlive, haway, ht, hq, hw, hrun, hc]

/-- The candidates of a quadrant of one group with one split, which is eligible. -/
theorem candidates_of_sole {sp : Split} (hsp : s.g.splits = [sp]) (he : s.eligible s.g sp = true) : s.candidates tile quad = [(s.g, sp)] := by
  simp [State.candidates, State.groups, ho, hruns, ht, hq, hsp, he]

end

theorem putSplit_sole {a b : Split} (h : a.slot = b.slot) : putSplit a [b] = [a] := by simp [putSplit, h]

/-- A split passed over once more in the focus's quadrant, or as it was. -/
theorem passOver_splits {s : State} {sp : Split} (tile quad : Nat) (hsp : s.g.splits = [sp]) :
    ∃ n, (s.passOver tile quad).g = { s.g with splits := [{ sp with passed := n }] } := by
  have hself : s.g = { s.g with splits := [{ sp with passed := sp.passed }] } := by rw [← hsp]
  simp only [State.passOver, State.mapGroups, hsp]
  split
  · simp only [List.map_cons, List.map_nil]
    split
    · exact ⟨_, rfl⟩
    · exact ⟨sp.passed, rfl⟩
  · exact ⟨sp.passed, hself⟩

theorem focus_self {s : State} {gid : Nat} (h : s.g.gid = gid) : s.focus gid = s := by simp [State.focus, h]

/-- A run begun in the focus's one split, however often it was passed over, writes no register. -/
theorem beginSplit_of_sole {s : State} {sp : Split} (tile quad : Nat) (hsp : s.g.splits = [sp]) : ∃ n,
    s.beginSplit tile quad s.g sp =
      { s.passOver tile quad with g := ({ s.g with splits := [{ sp with passed := n }] } : Group).beginRun sp } := by
  obtain ⟨n, hn⟩ := passOver_splits tile quad hsp
  refine ⟨n, ?_⟩
  rw [State.beginSplit, focus_self (by rw [hn]), hn]

/-- Settles O46: the branches of SPLIT_SELECT; in a quadrant of one eligible split nothing ends and `State.beginSplit` begins its run; the choice
among several by `foldl_lowerRun`. -/
theorem runsBegin : Obligations.RunsBegin := by
  refine ⟨fun s tile quad ht hd => ⟨fun g hg => ?_, fun g sp hg hb => ?_, fun hg hc => ?_⟩,
    fun s sp tile quad ht hd ho hs hw hc hruns htile hquad hsp he => ?_, fun l b hb => ?_, fun l hl => ?_⟩
  · exact (execSplitSelect_eq ht hd).trans (by rw [hg])
  · exact (execSplitSelect_eq ht hd).trans (by rw [hg, hb])
  · exact (execSplitSelect_eq ht hd).trans (by rw [hg, hc]; rfl)
  · obtain ⟨n, hn⟩ := beginSplit_of_sole tile quad hsp
    have hexec : exec (.splitSelect tile quad) s = .next (s.beginSplit tile quad s.g sp) := by
      refine (execSplitSelect_eq ht hd).trans ?_
      rw [readyQuad_of_settled ho hruns htile hquad hs hw hc, slotHolder_of_runs ho hruns,
        candidates_of_sole ho hruns htile hquad hsp he]
      rfl
    exact ⟨_, hexec.trans (congrArg _ hn), rfl, rfl, rfl, putSplit_sole (b := { sp with passed := n }) rfl, rfl, rfl, rfl, rfl, rfl, rfl, rfl⟩
  · obtain ⟨c, hc, hmem, hlow⟩ := foldl_lowerRun (l.any (fun y => decide (64 ≤ y.2.passed))) l (by rintro rfl; simp [bestRun] at hb)
    rw [bestRun_eq, hc] at hb
    cases hb
    exact ⟨hmem, hlow⟩
  · obtain ⟨c, hc, -⟩ := foldl_lowerRun (l.any (fun y => decide (64 ≤ y.2.passed))) l hl
    rw [bestRun_eq, hc]
    rfl

end Sys2Proof.Machine
end

section
/-! Traps that are due, results that return, register lines that are filled (02 R34; 12 R325, R331, R332, R340). -/

namespace Sys2Proof.Machine

/-! ## Traps that are due -/

theorem execTrapEntry_of_due {s : State} {gid : Nat} {g : Group} {d : Due} {sp : Split} (hg : s.group gid = some g) (hd : s.dueOf g = some d)
    (hsp : g.split d.slot = some sp) : execTrapEntry gid s = .next (s.takeDue g sp d) := by
  simp [execTrapEntry, hg, hd, hsp]

theorem execTrapEntry_of_logged {s : State} {gid : Nat} {g : Group} {l : TrapLog} (hg : s.group gid = some g) (hd : s.dueOf g = none)
    (ht : s.trappable g = true) (hf : g.role.follows = true) (hl : s.followTrap g = some l) :
    execTrapEntry gid s = .next (s.takeLogged g l) := by
  simp [execTrapEntry, hg, hd, ht, hf, hl]

/-- A group that leads no team has no log to write. -/
theorem logVals_of_plain (s : State) {g : Group} (hp : g.role = .plain) (n : Nat) (l : List (Nat × W64)) : s.logVals g n l = s := by
  simp [State.logVals, hp]

theorem logTrap_of_plain (s : State) {g : Group} (hp : g.role = .plain) (n : Nat) : s.logTrap g n = s := by simp [State.logTrap, hp]

theorem markHeld_of_plain (s : State) {g : Group} (hp : g.role = .plain) : s.markHeld g = s := by
  simp only [State.markHeld, logVals_of_plain _ hp, ite_self, List.foldl_fixed]

theorem leavePark_of_ready {s : State} {sp : Split} {slot : Nat} (hlive : s.g.live = true) (hsp : s.g.split slot = some sp)
    (hpark : sp.park = .ready) : s.leavePark s.g.gid slot = s := by
  simp [State.leavePark, group_self hlive, hsp, hpark]

/-- What taking a cause clears leaves the group's number and role, and records no wound. -/
theorem clearDue_rest (g : Group) (d : Due) (hw : g.wounds = []) : (g.clearDue d).gid = g.gid ∧ (g.clearDue d).live = g.live ∧
    (g.clearDue d).role = g.role ∧ (g.clearDue d).lkStop = g.lkStop ∧ (g.clearDue d).wounds = [] := by
  cases d with
  | fault n e => exact ⟨rfl, rfl, rfl, rfl, hw⟩
  | matrix n m => exact ⟨rfl, rfl, rfl, rfl, hw⟩
  | engine n pc => exact ⟨rfl, rfl, rfl, rfl, hw⟩
  | wound n => exact ⟨rfl, rfl, rfl, rfl, rfl⟩

/-- A trap taken with no wound recorded leaves the group its number and does not stop its handler's locks (10 R275). -/
theorem enterTrap_rest (g : Group) (slot : Nat) (t : Trap) (v : BitVec 57) (c : Nat) (hw : g.wounds = []) (hl : g.lkStop = false) :
    (g.enterTrap slot t v c).gid = g.gid ∧ (g.enterTrap slot t v c).live = g.live ∧ (g.enterTrap slot t v c).stopped = false := by
  unfold Group.enterTrap
  split
  · exact ⟨rfl, rfl, by simp [Group.stopped, Group.record, hl]⟩
  · dsimp only
    split <;> exact ⟨rfl, rfl, by simp [Group.stopped, Group.setSplit, hw]⟩

/-- What comes before a due cause is taken: for a fault, the marks in the log. -/
def State.beforeDue (s : State) (g : Group) : Due → State
  | .fault .. => s.markHeld g
  | _ => s

theorem beforeDue_of_plain (s : State) {g : Group} (hp : g.role = .plain) (d : Due) : s.beforeDue g d = s := by
  cases d with
  | fault n e => exact markHeld_of_plain s hp
  | matrix n m => rfl
  | engine n pc => rfl
  | wound n => rfl

/-- What follows a trap taken for a due cause: it is logged, and a stopped handler's lock request is taken back. -/
def State.afterDue (s : State) (gid slot : Nat) : State :=
  let s1 := match s.group gid with
    | some g => s.logTrap g slot
    | none => s
  if (s1.group gid).any (fun x => x.stopped) then s1.withdrawOn gid else s1

theorem takeDue_eq (s : State) (g : Group) (sp : Split) (d : Due) : s.takeDue g sp d =
    ((((s.beforeDue g d).leavePark g.gid d.slot).modGroup g.gid (fun g => g.clearDue d)).takeTrap
      g.gid d.slot (dueTrap g sp s.dt d)).afterDue g.gid d.slot := by
  cases d <;> rfl

/-- In a group without a log whose handler is not stopped nothing follows. -/
theorem afterDue_of_plain {s : State} {slot : Nat} (hlive : s.g.live = true) (hp : s.g.role = .plain) (hs : s.g.stopped = false) :
    s.afterDue s.g.gid slot = s := by
  simp [State.afterDue, group_self hlive, logTrap_of_plain s hp, hs]

/-- Nothing follows the trap of a group without a log and without a wound. -/
theorem takeTrap_afterDue {s : State} {slot : Nat} {t : Trap} (hlive : s.g.live = true) (hp : s.g.role = .plain) (hw : s.g.wounds = [])
    (hl : s.g.lkStop = false) : (s.takeTrap s.g.gid slot t).afterDue s.g.gid slot = s.takeTrap s.g.gid slot t := by
  have hg := g_takeTrap hlive slot t
  obtain ⟨hgid', hlive', hstopped⟩ := enterTrap_rest s.g slot t (s.ctx s.g.ctx).tvec s.clock hw hl
  obtain ⟨hrole', -, -⟩ := role_enterTrap s.g slot t (s.ctx s.g.ctx).tvec s.clock
  rw [← hg] at hgid' hlive' hstopped hrole'
  have h := afterDue_of_plain (slot := slot) (hlive'.trans hlive) (hrole'.trans hp) hstopped
  rwa [hgid'] at h

/-- A due cause taken in a ready split of a group without a log: the cause cleared, then the trap. -/
theorem takeDue_of_plain {s : State} {sp : Split} {d : Due} (hlive : s.g.live = true) (hp : s.g.role = .plain) (hw : s.g.wounds = [])
    (hl : s.g.lkStop = false) (hsp : s.g.split d.slot = some sp) (hpark : sp.park = .ready) :
    s.takeDue s.g sp d = ({ s with g := s.g.clearDue d } : State).takeTrap s.g.gid d.slot (dueTrap s.g sp s.dt d) := by
  obtain ⟨hgid', hlive', hrole', hstop', hwounds'⟩ := clearDue_rest s.g d hw
  have hclear : s.modGroup s.g.gid (fun g => g.clearDue d) = { s with g := s.g.clearDue d } := by simp [State.modGroup]
  have hafter := takeTrap_afterDue (s := { s with g := s.g.clearDue d }) (slot := d.slot) (t := dueTrap s.g sp s.dt d)
    (hlive'.trans hlive) (hrole'.trans hp) hwounds' (hstop'.trans hl)
  rw [takeDue_eq, beforeDue_of_plain s hp, leavePark_of_ready hlive hsp hpark, hclear]
  rwa [hgid'] at hafter

end Sys2Proof.Machine
end

section
/-! Results that return and register lines that are filled (02 R34; 12 R331, R332). -/

namespace Sys2Proof.Machine

/-! ## Results that return -/

theorem execResultReturn_of_awaited {s : State} {gid seq : Nat} {g : Group} {r : Result} {lanes : W32} (hg : s.group gid = some g)
    (hr : g.results.find? (fun x => decide (x.seq = seq)) = some r) (haway : g.away = false) (ht : (s.tile g.tile).trans = none)
    (hw : s.awaited g r = true) (hl : s.lateHeld g (r.keys lanes) = false) :
    execResultReturn gid seq lanes s = .next (s.returnResult g r lanes) := by
  simp [execResultReturn, hg, hr, haway, ht, hw, hl]

/-- Values of register lanes written one after another. -/
def Group.writeLanes (g : Group) (l : List (Nat × W32)) : Group := l.foldl (fun g w => g.wv (w.1 / 32) (w.1 % 32) w.2) g

/-- Values of uniform registers written one after another. -/
def Group.writeUniform (g : Group) (l : List (Nat × W64)) : Group := l.foldl (fun g w => g.ws w.1 w.2) g

theorem writeLanes_rest (l : List (Nat × W32)) : ∀ g : Group,
    g.writeLanes l = { g with v := (g.writeLanes l).v, dirty := (g.writeLanes l).dirty, touched := (g.writeLanes l).touched } := by
  induction l with
  | nil => exact fun _ => rfl
  | cons w rest ih => exact fun g => (ih (g.wv (w.1 / 32) (w.1 % 32) w.2)).trans rfl

theorem writeUniform_rest (l : List (Nat × W64)) : ∀ g : Group,
    g.writeUniform l =
      { g with s := (g.writeUniform l).s, dirty := (g.writeUniform l).dirty, touched := (g.writeUniform l).touched } := by
  induction l with
  | nil => exact fun _ => rfl
  | cons w rest ih => exact fun g => (ih (g.ws w.1 w.2)).trans rfl

/-- The registers that a result has written in all 32 lanes, noted for the end of their poison (R332). -/
def Group.noteMends (g : Group) (r : Result) : Group :=
  { g with mends := g.mends ++ ((dedup (r.vw.map (fun w => w.1 / 32))).filter (fun n =>
      laneList.all (fun l => r.vw.any (fun w => decide (w.1 = n * 32 + l))))).map (fun n => (r.seq, n)) }

/-- The registers with some lanes of a result in them, the result still outstanding. -/
def Group.withResult (g : Group) (r : Result) (lanes : W32) : Group :=
  let g1 := (g.noteMends r).writeLanes (r.vw.filter (fun w => lanes.getLsbD (w.1 % 32)))
  if lanes.getLsbD 0 then g1.writeUniform r.sw else g1

theorem landResult_eq (g : Group) (r : Result) (lanes : W32) : g.landResult r lanes =
    let g2 := g.withResult r lanes
    let vw := r.vw.filter (fun w => !lanes.getLsbD (w.1 % 32))
    let sw := if lanes.getLsbD 0 then [] else r.sw
    if vw.isEmpty && sw.isEmpty then
      { g2 with
        results := g2.results.filter (fun x => decide (x.seq ≠ r.seq))
        regPoison := g2.regPoison.filter (fun n => !g2.mends.any (fun m => decide (m = (r.seq, n))))
        mends := g2.mends.filter (fun m => decide (m.1 ≠ r.seq))
        fpstat := g2.fpstat ||| r.flags
        fences := g2.fences.filter (fun f => decide (f.1 ≠ r.seq) || decide (f.2.1 = 4)) }
    else { g2 with results := g2.results.map (fun x => if x.seq = r.seq then { x with vw := vw, sw := sw } else x) } := rfl

/-- A result changes vector and uniform registers, and the notes on its lines. -/
theorem withResult_rest (g : Group) (r : Result) (lanes : W32) : ∃ v s d t m,
    g.withResult r lanes = { g with v := v, s := s, dirty := d, touched := t, mends := m } := by
  unfold Group.withResult
  dsimp only
  split
  · rw [writeUniform_rest, writeLanes_rest]
    exact ⟨_, _, _, _, _, rfl⟩
  · rw [writeLanes_rest]
    exact ⟨_, _, _, _, _, rfl⟩

/-- A result leaves its group its number, its life and its absent lines. -/
theorem landResult_rest (g : Group) (r : Result) (lanes : W32) :
    (g.landResult r lanes).gid = g.gid ∧ (g.landResult r lanes).live = g.live ∧ (g.landResult r lanes).absent = g.absent := by
  obtain ⟨v, s, d, t, m, h⟩ := withResult_rest g r lanes
  rw [landResult_eq, h]
  dsimp only
  split <;> split <;> exact ⟨rfl, rfl, rfl⟩

theorem getLsbD_allLanes {l : Nat} (h : l < 32) : (0xFFFFFFFF : W32).getLsbD l = true := by
  rw [show (0xFFFFFFFF : W32) = BitVec.allOnes 32 from rfl, BitVec.getLsbD_allOnes]
  exact decide_eq_true h

/-- All lanes of a result in their registers. -/
theorem withResult_all (g : Group) (r : Result) :
    g.withResult r 0xFFFFFFFF = ((g.noteMends r).writeLanes r.vw).writeUniform r.sw := by
  have hv : r.vw.filter (fun w => (0xFFFFFFFF : W32).getLsbD (w.1 % 32)) = r.vw :=
    List.filter_eq_self.mpr fun w _ => getLsbD_allLanes (Nat.mod_lt w.1 (by decide))
  rw [Group.withResult, hv]
  exact if_pos (getLsbD_allLanes (by decide))

/-- With all its lanes a result is gone, its flags in FPSTAT. -/
theorem landResult_all (g : Group) (r : Result) : ∃ p m f, g.landResult r 0xFFFFFFFF =
    { g.withResult r 0xFFFFFFFF with
      results := g.results.filter (fun x => decide (x.seq ≠ r.seq))
      regPoison := p
      mends := m
      fpstat := g.fpstat ||| r.flags
      fences := f } := by
  have hv : r.vw.filter (fun w => !(0xFFFFFFFF : W32).getLsbD (w.1 % 32)) = [] :=
    List.filter_eq_nil_iff.mpr fun w _ => by
      rw [getLsbD_allLanes (Nat.mod_lt w.1 (by decide))]
      exact Bool.false_ne_true
  obtain ⟨v, s, d, t, m, h⟩ := withResult_rest g r 0xFFFFFFFF
  rw [landResult_eq, hv, getLsbD_allLanes (by decide), h]
  exact ⟨_, _, _, rfl⟩

theorem rs_landResult_all (g : Group) (r : Result) (j : Nat) :
    (g.landResult r 0xFFFFFFFF).rs j = (((g.noteMends r).writeLanes r.vw).writeUniform r.sw).rs j := by
  obtain ⟨p, m, f, h⟩ := landResult_all g r
  rw [h, withResult_all]
  rfl

theorem rv_landResult_all (g : Group) (r : Result) (j i : Nat) :
    (g.landResult r 0xFFFFFFFF).rv j i = (((g.noteMends r).writeLanes r.vw).writeUniform r.sw).rv j i := by
  obtain ⟨p, m, f, h⟩ := landResult_all g r
  rw [h, withResult_all]
  rfl

/-- A result of one uniform register. -/
theorem rs_landResult_sole {g : Group} {r : Result} {n : Nat} {x : W64} (hv : r.vw = []) (hs : r.sw = [(n, x)]) (j : Nat) :
    (g.landResult r 0xFFFFFFFF).rs j = if j = n then x else g.rs j := by
  rw [rs_landResult_all, hv, hs]
  exact rs_ws _ _ _ _

/-- A result of one register lane. -/
theorem rv_landResult_sole {g : Group} {r : Result} {k l : Nat} {y : W32} (hl : l < 32) (hv : r.vw = [(k * 32 + l, y)]) (hs : r.sw = [])
    (j i : Nat) (hi : i < 32) : (g.landResult r 0xFFFFFFFF).rv j i = if j = k ∧ i = l then y else g.rv j i := by
  have hreg : (k * 32 + l) / 32 = k := by omega
  have hlane : (k * 32 + l) % 32 = l := by omega
  rw [rv_landResult_all, hv, hs]
  simp only [Group.writeLanes, Group.writeUniform, List.foldl_cons, List.foldl_nil, hreg, hlane]
  exact rv_wv _ _ _ _ _ _ hl hi

/-- Nothing is written late where no line that values go to is absent. -/
theorem writeLate_of_present {s : State} {keys : List Nat} (hlive : s.g.live = true) (h : s.g.lateLines keys = []) :
    s.writeLate s.g.gid keys = s := by
  simp [State.writeLate, group_self hlive, h]

/-- A result that lands in present lines changes its group only. -/
theorem land_of_present {s : State} {r : Result} {lanes : W32} (hlive : s.g.live = true) (h : s.g.lateLines (r.keys lanes) = []) :
    s.land s.g r lanes = { s with g := s.g.landResult r lanes } := by
  obtain ⟨hgid', hlive', habsent'⟩ := landResult_rest s.g r lanes
  have hmod : s.modGroup s.g.gid (fun g => g.landResult r lanes) = { s with g := s.g.landResult r lanes } := by simp [State.modGroup]
  have hlate : ({ s with g := s.g.landResult r lanes } : State).g.lateLines (r.keys lanes) = [] := by
    rw [← h]
    simp only [Group.lateLines, habsent']
  have hwrite := writeLate_of_present (s := { s with g := s.g.landResult r lanes }) (hlive'.trans hlive) hlate
  rw [State.land, hmod]
  rwa [hgid'] at hwrite

/-- A result that waits for nothing lands, and no acquire ends with it. -/
theorem returnResult_of_nothing {s : State} {g : Group} {r : Result} {lanes : W32} (hf : g.fences = []) (ha : r.await = .nothing) :
    s.returnResult g r lanes = s.land g r lanes := by
  simp [State.returnResult, ha, hf]

/-! ## Register lines that are filled -/

/-- What REGISTER_LINE_FILL puts into a group from an image line at a place. -/
def State.filled (s : State) (g : Group) (line pa : Nat) : Group :=
  { g.fillLine line ((upFrom pa 128).map s.physByte) with absent := delNat line g.absent }

/-- Whether a line stands in the accumulator cache. -/
def accCached (line : Nat) : Bool := decide (1024 ≤ line) && decide (line < 2000)

/-- The lines of a cache that an image line takes. -/
def lineUnits (line : Nat) : Nat := (lineSize line + 127) / 128

/-- A state with room made for a line of a group. -/
def State.roomFor (s : State) (g : Group) (gid line : Nat) : State := State.cacheRoom g.tile gid (lineUnits line) (accCached line) 4096 s

/-- The fill of an absent line, there being room for it in the cache and its image not held. -/
theorem execRegisterLineFill_of_room {s : State} {gid line : Nat} {g : Group} (hg : s.group gid = some g) (ha : g.absent.contains line = true)
    (hh : g.halted = false) (ht : (s.tile g.tile).trans = none)
    (hroom : (s.roomFor g gid line).cacheUsed g.tile (accCached line) + lineUnits line ≤ 2048)
    (hheld : (s.roomFor g gid line).imageLineHeld g line = false) :
    execRegisterLineFill gid line s =
      match (s.roomFor g gid line).imagePlace g (imageLine g line) with
      | (none, s1) => .next s1
      | (some pa, s1) =>
        if !s1.cleanRange pa (lineSize line) && codedLine line then .next (s1.imageFault g 0x12 none 512)
        else .next (s1.modGroup gid (fun g =>
          if !!s1.cleanRange pa (lineSize line) then s1.filled g line pa
          else if line < 1024 then { s1.filled g line pa with regPoison := insNat line (s1.filled g line pa).regPoison }
          else { s1.filled g line pa with accPoison := insNat line (s1.filled g line pa).accPoison })) := by
  have hguard : (!g.absent.contains line || g.halted || (s.tile g.tile).trans.isSome) = false := by simp only [ha, hh, ht]; rfl
  simp only [execRegisterLineFill, hg, hguard, Bool.false_eq_true, if_false]
  refine (if_neg (Nat.not_lt.mpr hroom)).trans ?_
  refine (if_neg (Bool.eq_false_iff.mp hheld)).trans ?_
  rfl

section
variable {s s1 : State} {gid line pa : Nat} {g : Group} (hg : s.group gid = some g) (ha : g.absent.contains line = true)
  (hh : g.halted = false) (ht : (s.tile g.tile).trans = none)
  (hroom : (s.roomFor g gid line).cacheUsed g.tile (accCached line) + lineUnits line ≤ 2048)
  (hheld : (s.roomFor g gid line).imageLineHeld g line = false)
include hg ha hh ht hroom hheld

/-- A line without an error in its image comes in as it stands there. -/
theorem execRegisterLineFill_of_clean (hp : (s.roomFor g gid line).imagePlace g (imageLine g line) = (some pa, s1))
    (hc : s1.cleanRange pa (lineSize line) = true) :
    execRegisterLineFill gid line s = .next (s1.modGroup gid (fun g => s1.filled g line pa)) := by
  rw [execRegisterLineFill_of_room hg ha hh ht hroom hheld, hp]
  simp [hc]

/-- A register's line with an error in its image comes in poisoned. -/
theorem execRegisterLineFill_of_poisoned (hp : (s.roomFor g gid line).imagePlace g (imageLine g line) = (some pa, s1))
    (hc : s1.cleanRange pa (lineSize line) = false) (hl : line < 1024) :
    execRegisterLineFill gid line s =
      .next (s1.modGroup gid (fun g => { s1.filled g line pa with regPoison := insNat line (s1.filled g line pa).regPoison })) := by
  have hcoded : codedLine line = false := decide_eq_false (by omega)
  rw [execRegisterLineFill_of_room hg ha hh ht hroom hheld, hp]
  simp [hc, hcoded, hl]

/-- A line whose image cannot be reached stays out. -/
theorem execRegisterLineFill_of_fault (hp : (s.roomFor g gid line).imagePlace g (imageLine g line) = (none, s1)) :
    execRegisterLineFill gid line s = .next s1 := by
  rw [execRegisterLineFill_of_room hg ha hh ht hroom hheld, hp]

end

theorem upFrom_eq_range' (n : Nat) : ∀ a, upFrom a n = List.range' a n := by
  induction n with
  | zero => exact fun _ => rfl
  | succ n ih => exact fun a => by rw [upFrom, ih, List.range'_succ]

/-- The four bytes of a lane among the bytes of a register's line. -/
theorem laneBytes_of_line {α : Type} (f : Nat → α) (pa : Nat) {l : Nat} (hl : l < 32) :
    (((upFrom pa 128).map f).drop (4 * l)).take 4 = (upFrom (pa + 4 * l) 4).map f := by
  rw [upFrom_eq_range', upFrom_eq_range', ← List.map_drop, ← List.map_take, List.drop_range', List.take_range'_of_length_ge (by omega)]
  simp

theorem v_fillLine (g : Group) {line : Nat} (hline : line < 1024) (bs : List Byte) : (g.fillLine line bs).v =
    (laneList.foldl (fun (g : Group) l => g.wv line l (BitVec.ofNat 32 (bytesVal ((bs.drop (4 * l)).take 4)))) g).v := by
  rw [Group.fillLine, if_pos hline]

/-- A lane of a register whose line has been filled has the image's four bytes. -/
theorem rv_filled (s : State) (g : Group) {line l : Nat} (pa : Nat) (hline : line < 1024) (hl : l < 32) :
    (s.filled g line pa).rv line l = BitVec.ofNat 32 (bytesVal ((upFrom (pa + 4 * l) 4).map s.physByte)) := by
  have hfold := wvFold_rv laneList line (fun l => BitVec.ofNat 32 (bytesVal ((((upFrom pa 128).map s.physByte).drop (4 * l)).take 4))) g
    laneList_lt line l hl
  rw [if_pos ⟨rfl, mem_laneList hl⟩, laneBytes_of_line _ _ hl, Group.rv, ← v_fillLine g hline] at hfold
  exact hfold

/-- Settles O47: what is due goes through `takeDue_of_plain`, what returns through `land_of_present` and `landResult_all`, what is filled through
`execRegisterLineFill_of_room`. -/
theorem resultsAndTrapsCome : Obligations.ResultsAndTrapsCome := by
  refine ⟨fun s gid g hg => ⟨fun d sp hd hsp => execTrapEntry_of_due hg hd hsp, fun l hd ht hf hl => execTrapEntry_of_logged hg hd ht hf hl⟩,
    fun s sp d hlive hp hw hl hd hsp hpark => ?_,
    fun s gid g r lanes hg hr haway ht hw hl => execResultReturn_of_awaited hg hr haway ht hw hl,
    fun s r lanes hlive hf ha hl => ⟨_, (returnResult_of_nothing hf ha).trans (land_of_present hlive hl), rfl, rfl, rfl⟩,
    fun g r n k l x y hl => ⟨fun hv hs j => rs_landResult_sole hv hs j, fun hv hs j i hi => rv_landResult_sole hl hv hs j i hi, ?_⟩,
    fun s gid line g hg ha hh ht => ?_, fun s s1 line pa hlive hline ha hh ht hroom hheld hp hg1 hc => ?_⟩
  · exact (execTrapEntry_of_due (group_self hlive) hd hsp).trans (congrArg _ (takeDue_of_plain hlive hp hw hl hsp hpark))
  · obtain ⟨p, m, f, h⟩ := landResult_all g r
    exact ⟨by rw [h], by rw [h]⟩
  · intro acc n s0 hroom hheld
    exact ⟨fun pa s1 hp hc => execRegisterLineFill_of_clean hg ha hh ht hroom hheld hp hc,
      fun pa s1 hp hc hl => execRegisterLineFill_of_poisoned hg ha hh ht hroom hheld hp hc hl,
      fun s1 hp => execRegisterLineFill_of_fault hg ha hh ht hroom hheld hp⟩
  · have hsize : lineSize line = 128 := if_pos (by omega)
    have hunits : lineUnits line = 1 := by rw [lineUnits, hsize]
    have hacc : accCached line = false := by simp [accCached, show ¬ 1024 ≤ line by omega]
    have hr : s.roomFor s.g s.g.gid line = s := by
      rw [State.roomFor, hunits, hacc]
      exact cacheRoom_free hroom _ _
    have hexec := execRegisterLineFill_of_clean (s1 := s1) (pa := pa) (group_self hlive) ha hh ht (by rwa [hr, hunits, hacc]) (by rwa [hr]) (by rwa [hr])
      (by rwa [hsize])
    have hmod : s1.modGroup s.g.gid (fun g => s1.filled g line pa) = { s1 with g := s1.filled s.g line pa } := by simp [State.modGroup, hg1]
    exact ⟨_, hexec.trans (congrArg _ hmod), by simp [State.filled, delNat], fun l hl => rv_filled s1 s.g pa (by omega) hl⟩

end Sys2Proof.Machine
end

section
/-! The branches, calls and jumps, and LOOP (03 R67). -/

namespace Sys2Proof.Machine

/-- A jump to an aligned address (R67). -/
theorem jumpTo_of_aligned {t : W64} (sp : Split) (s : State) (ht : t.extractLsb' 0 2 = 0) : jumpTo t sp s = (s, .jump (t.extractLsb' 0 57)) :=
  if_neg (not_not.mpr ht)

/-- A jump to any other address traps (12 R316). -/
theorem jumpTo_of_misaligned {t : W64} (sp : Split) (s : State) (ht : t.extractLsb' 0 2 ≠ 0) :
    jumpTo t sp s = (s, .trap (Trap.plain 0x04 sp.pc sp.pc sp.mask t s.dt)) :=
  if_pos ht

section
variable {i : Instr} {h : Hdr} {a : BitVec 6}
  (he : ∀ s, exec i s = issueUni i h { sr := [a.toNat] } (fun sp s => jumpTo (s.g.rs a.toNat) sp s) s)
include he

/-- RET and JMP to an aligned address. -/
theorem jumps_jumpTo : Jumps i h { sr := [a.toNat] } (fun s _ => (s.g.rs a.toNat).extractLsb' 0 2 = 0) (fun s _ => s)
    (fun s _ => (s.g.rs a.toNat).extractLsb' 0 57) :=
  jumps_of he fun s sp _ ht => by
    rw [open_rs, jumpTo_of_aligned sp s.open_ ht]
    exact ⟨rfl, rfl, rfl, rfl⟩

/-- RET and JMP to any other address. -/
theorem traps_jumpTo {s : State} {sp : Split} (hc : s.canIssue i { sr := [a.toNat] } sp) (hg : guardOn h s = true)
    (hp : s.g.role = .plain) (hn : s.g.newSplits = []) (ht : (s.g.rs a.toNat).extractLsb' 0 2 ≠ 0) :
    Traps i s sp (Trap.plain 0x04 sp.pc sp.pc sp.mask (s.g.rs a.toNat) s.dt) := by
  refine traps_body (he s) hc hg hp hn (by simp [Trap.plain]) ?_
  simp only [State.open_running, hc.1, open_rs]
  exact jumpTo_of_misaligned sp s.open_ ht

end

/-- The body of LOOP: the register counted down, and the branch taken while it is not zero (R67). -/
def loopBody (a : BitVec 6) (k : BitVec 32) (sp : Split) (s : State) : State × Fate :=
  ({ s with g := s.g.ws a.toNat (s.g.rs a.toNat - 1) }, if s.g.rs a.toNat - 1 ≠ 0 then .jump (pcWords sp.pc k.toInt) else .fall)

theorem exec_loop (h : Hdr) (a : BitVec 6) (k : BitVec 32) (s : State) :
    exec (.loop h a k) s = issueUni (.loop h a k) h { sr := [a.toNat], sw := [a.toNat] } (loopBody a k) s := rfl

/-- Settles O28: each body is a jump, or LOOP's, whose last count falls through. -/
theorem branches : Obligations.Branches := by
  intro h a off k
  refine ⟨?bra, ?call, jumps_jumpTo fun _ => rfl, jumps_jumpTo fun _ => rfl, ?loopOn, ?loopDone, ?loopAdvances, ?misaligned⟩
  case bra => exact jumps_of (fun _ => rfl) fun _ _ _ _ => ⟨rfl, rfl, rfl, rfl⟩
  case call => exact jumps_of (fun _ => rfl) fun _ _ _ _ => ⟨rfl, rfl, rfl, rfl⟩
  case loopOn =>
    refine jumps_of (exec_loop h a k) fun s sp _ hn => ?_
    have hleft : s.g.rs a.toNat - 1 ≠ 0 := fun hz => hn (by bv_omega)
    exact ⟨if_pos hleft, rfl, rfl, rfl⟩
  case loopDone =>
    refine does_uni (fun s => exec_loop h a k s) fun s sp _ _ hone => ?_
    simp only [loopBody, open_rs, hone]
    exact ⟨rfl, rfl⟩
  case loopAdvances =>
    refine advances_uni (fun s => exec_loop h a k s) fun s sp _ _ hone => ?_
    simp only [loopBody, open_rs, hone]
    exact ⟨rfl, rfl, rfl⟩
  case misaligned =>
    rintro s sp i (rfl | rfl) hc hg hp hn ht
    · exact traps_jumpTo (fun _ => rfl) hc hg hp hn ht
    · exact traps_jumpTo (fun _ => rfl) hc hg hp hn ht

end Sys2Proof.Machine
end

section
/-! Instructions that end their split's run or place their split themselves (03 R58, R59). -/

namespace Sys2Proof.Machine

/-- A fate that ends the run of the issuing split, if the instruction that placed its split itself has ended it. -/
def Fate.endsRun : Fate → Bool
  | .jump _ | .stop | .park _ | .pass _ | .placed => true
  | _ => false

/-- A split that ends its run where W is 1 parks (R33). -/
theorem advance_of_w {h : Hdr} (hw : h.w = true) (s : State) (sp : Split) (pc : BitVec 57) (n : Nat) : (s.advance h sp pc true n).g =
    ((s.g.setSplit { sp with pc := pc }).setSplit { sp with pc := pc, hold := n }).endPark sp.slot .wbit 0 false := by
  have hs : (s.g.setSplit { sp with pc := pc }).split sp.slot = some { sp with pc := pc } := by
    simp [Group.setSplit, Group.split, split_putSplit]
  simp only [State.advance, hw, if_true, hs]
  rfl

/-- A split that ends its run where W is 0 is ready. -/
theorem advance_of_not_w {h : Hdr} (hw : h.w = false) (s : State) (sp : Split) (pc : BitVec 57) (n : Nat) :
    (s.advance h sp pc true n).g = (s.g.setSplit { sp with pc := pc }).endRun sp.slot s.clock n := by
  simp only [State.advance, hw, Bool.false_eq_true, if_false, Bool.true_or, if_true]

theorem run_advance_ends (s : State) (h : Hdr) (sp : Split) (pc : BitVec 57) (n : Nat) : (s.advance h sp pc true n).g.run = false := by
  cases hw : h.w with
  | true => rw [advance_of_w hw]; exact run_endPark _ _ _ _ _
  | false => rw [advance_of_not_w hw]; exact run_endRun _ _ _ _

theorem run_finish_of_endsRun {s : State} (i : Instr) (h : Hdr) (sp : Split) {f : Fate} (hf : f.endsRun = true)
    (hp : f = .placed → s.g.run = false) : (s.finish i h sp f).g.run = false := by
  cases f with
  | jump pc => exact run_finish_jump s i h sp pc
  | stop => exact run_boundary _ _ (run_advance_ends _ _ _ _ _)
  | park p => exact run_boundary _ _ (run_endPark _ _ _ _ _)
  | pass p => exact run_boundary _ _ (run_endPark _ _ _ _ _)
  | placed => exact run_boundary _ _ (hp rfl)
  | _ => simp [Fate.endsRun] at hf

/-- An instruction whose body changes bookkeeping alone and ends the run completes with nothing else changed. -/
theorem ends_issue {i : Instr} {h : Hdr} {u : State → Uses} {on : State → Bool} {lanes : State → W32} {body : State → State × Fate}
    (he : ∀ s, exec i s = issue i h (u s) lanes on body s)
    (hb : ∀ s sp, s.canIssue i (u s) sp → on s = true → (body s.open_).1.still = s.still ∧ (body s.open_).2.endsRun = true ∧
      ((body s.open_).2 = .placed → (body s.open_).1.g.run = false)) :
    ∀ s sp, s.canIssue i (u s) sp → ∃ t, exec i s = .next t ∧ t.still = s.still ∧ (on s = true → t.g.run = false) := by
  intro s sp hc
  by_cases ho : on s = true
  · obtain ⟨hst, hf, hr⟩ := hb s sp hc ho
    have hw : (body s.open_).2 ≠ .wait := fun e => by simp [e, Fate.endsRun] at hf
    have ht : ∀ x, (body s.open_).2 ≠ .trap x := fun x e => by simp [e, Fate.endsRun] at hf
    obtain ⟨s2, t, hexec, h1, h2, h3, h4⟩ := issue_run s _ i h (u s) sp lanes on body _ hc ho rfl hw ht
    refine ⟨t, (he s).trans hexec, ?_, fun _ => ?_⟩
    · rw [h3, State.still_finish _ _ _ _ _ ht, h1, hst]
    · rw [h4]
      exact run_finish_of_endsRun i h sp hf fun e => by rw [h2]; exact hr e
  · obtain ⟨t, hexec, hst⟩ := issue_fall s i h (u s) sp lanes on body hc s fun h => absurd h ho
    exact ⟨t, (he s).trans hexec, by rw [hst, if_neg ho], fun h => absurd h ho⟩

/-- What `issueUni` runs of a body. -/
def onUni (body : Split → State → State × Fate) (s : State) : State × Fate :=
  match s.g.running with
  | none => (s, .fall)
  | some sp => body sp s

/-- What `issueLane` and `issueLaneAll` run of a body. -/
def onLanes (h : Hdr) (body : W32 → Split → State → State × Fate) (s : State) : State × Fate :=
  match s.g.running with
  | none => (s, .fall)
  | some sp => body (activeMask h s) sp s

theorem issueUni_eq (i : Instr) (h : Hdr) (u : Uses) (body : Split → State → State × Fate) (s : State) :
    issueUni i h u body s = issue i h u (fun _ => 1) (guardOn h) (onUni body) s := rfl

theorem issueLaneAll_eq (i : Instr) (h : Hdr) (u : Uses) (body : W32 → Split → State → State × Fate) (s : State) :
    issueLaneAll i h u body s = issue i h u (activeMask h) (fun _ => true) (onLanes h body) s := rfl

theorem onUni_open {s : State} {sp : Split} (hr : s.g.running = some sp) (body : Split → State → State × Fate) :
    onUni body s.open_ = body sp s.open_ := by
  rw [onUni, State.open_running, hr]

theorem onLanes_open {s : State} {sp : Split} (hr : s.g.running = some sp) (h : Hdr) (body : W32 → Split → State → State × Fate) :
    onLanes h body s.open_ = body (activeMask h s) sp s.open_ := by
  rw [onLanes, State.open_running, hr, open_activeMask]

theorem ends_uni {i : Instr} {h : Hdr} {u : State → Uses} {body : Split → State → State × Fate}
    (he : ∀ s, exec i s = issueUni i h (u s) body s)
    (hb : ∀ (s : State) sp, s.canIssue i (u s) sp → (body sp s.open_).1.still = s.still ∧ (body sp s.open_).2.endsRun = true ∧
      ((body sp s.open_).2 = .placed → (body sp s.open_).1.g.run = false)) :
    ∀ s sp, s.canIssue i (u s) sp → ∃ t, exec i s = .next t ∧ t.still = s.still ∧ (guardOn h s = true → t.g.run = false) :=
  ends_issue (fun s => (he s).trans (issueUni_eq _ _ _ _ _)) fun s sp hc _ => by
    rw [onUni_open hc.1]
    exact hb s sp hc

theorem ends_laneAll {i : Instr} {h : Hdr} {u : State → Uses} {body : W32 → Split → State → State × Fate}
    (he : ∀ s, exec i s = issueLaneAll i h (u s) body s)
    (hb : ∀ m sp s, (body m sp s).1 = s ∧ (body m sp s).2.endsRun = true ∧ (body m sp s).2 ≠ .placed) :
    ∀ s sp, s.canIssue i (u s) sp → ∃ t, exec i s = .next t ∧ t.still = s.still ∧ ((fun _ => true) s = true → t.g.run = false) :=
  ends_issue (fun s => (he s).trans (issueLaneAll_eq _ _ _ _ _)) fun s sp hc _ => by
    obtain ⟨hs, hf, hp⟩ := hb (activeMask h s) sp s.open_
    rw [onLanes_open hc.1]
    exact ⟨by rw [hs, State.open_still], hf, fun e => absurd e hp⟩

/-- An instruction whose body has placed the issuing split itself leaves the splits so, where none is still to be made. -/
theorem issue_placed {s s1 : State} {i : Instr} {h : Hdr} {u : Uses} {sp : Split} {lanes : State → W32} {on : State → Bool}
    {body : State → State × Fate} (hc : s.canIssue i u sp) (ho : on s = true) (hb : body s.open_ = (s1, .placed)) :
    ∃ t, issue i h u lanes on body s = .next t ∧ t.still = s1.still ∧ (s1.g.newSplits = [] → t.g.splits = s1.g.splits) := by
  obtain ⟨s2, t, hexec, h1, h2, h3, h4⟩ := issue_run s s1 i h u sp lanes on body .placed hc ho hb (by simp) (by simp)
  refine ⟨t, hexec, by rw [h3, State.still_finish _ _ _ _ _ (by simp), h1], fun hn => ?_⟩
  have hfin : (s2.finish i h sp .placed).g = s2.counted.g := State.g_boundary _ _ (by rw [State.counted, h2]; exact hn)
  rw [h4, hfin, State.counted, h2]

/-- An instruction whose body changes nothing and goes on or jumps leaves its split, where it is the only one, at its next PC. -/
theorem issue_moves {s : State} {i : Instr} {h : Hdr} {u : Uses} {sp : Split} {lanes : State → W32} {on : State → Bool}
    {body : State → State × Fate} {f : Fate} {pc : BitVec 57} (hc : s.canIssue i u sp) (ho : on s = true) (hb : body s.open_ = (s.open_, f))
    (hf : f = .fall ∧ pc = pcAdd sp.pc (instrBytes i) ∨ f = .jump pc) (hs : s.g.splits = [sp]) (hn : s.g.newSplits = []) :
    ∃ t, issue i h u lanes on body s = .next t ∧ t.still = s.still ∧ ∃ x, t.g.splits = [x] ∧ x.mask = sp.mask ∧ x.pc = pc := by
  have hw : f ≠ .wait := by rintro rfl; simp at hf
  have ht : ∀ x, f ≠ .trap x := by rintro x rfl; simp at hf
  obtain ⟨s2, t, hexec, h1, h2, h3, h4⟩ := issue_run s s.open_ i h u sp lanes on body f hc ho hb hw ht
  have hs2 : s2.g.splits = [sp] := by rw [h2]; exact hs
  have hn2 : s2.g.newSplits = [] := by rw [h2]; exact hn
  have hone : (s2.finish i h sp f).g.one sp pc := by
    obtain ⟨rfl, rfl⟩ | rfl := hf
    · exact one_finish_fall hs2 hn2
    · exact one_finish_jump hs2 hn2
  obtain ⟨⟨x, hx, -, hm, hpc⟩, -⟩ := hone
  exact ⟨t, hexec, by rw [h3, State.still_finish _ _ _ _ _ ht, h1, State.open_still], x, by rw [h4, hx], hm, hpc⟩

theorem newSplits_endPark (g : Group) (slot : Nat) (p : Park) (n : Nat) (w : Bool) : (g.endPark slot p n w).newSplits = g.newSplits := by
  unfold Group.endPark
  split <;> rfl

/-! ## A group of two splits -/

/-- A split as a park leaves it (R58). -/
def Split.parked (sp : Split) (p : Park) (len : Nat) (w : Bool) (cnt : Nat) : Split :=
  { sp with park := p, plen := len, passed := 0, wAfter := w, cnt := cnt }

/-- A group whose splits are two, in the order of their slots. -/
def Group.Two (g : Group) (a b : Split) : Prop := g.splits = [a, b] ∧ a.slot < b.slot ∨ g.splits = [b, a] ∧ b.slot < a.slot

section
variable {g : Group} {a b : Split}

theorem Group.Two.split_left (ht : g.Two a b) : g.split a.slot = some a := by
  obtain ⟨hs, hlt⟩ | ⟨hs, hlt⟩ := ht
  · simp [Group.split, hs]
  · simp [Group.split, hs, show b.slot ≠ a.slot by omega]

theorem Group.Two.setSplit (ht : g.Two a b) {x : Split} (hx : x.slot = a.slot) : (g.setSplit x).Two x b := by
  obtain ⟨hs, hlt⟩ | ⟨hs, hlt⟩ := ht
  · exact .inl ⟨by simp [Group.setSplit, hs, putSplit, hx], by omega⟩
  · refine .inr ⟨?_, by omega⟩
    simp [Group.setSplit, hs, putSplit, hx, show a.slot ≠ b.slot by omega, show ¬ a.slot < b.slot by omega]

theorem Group.two_of_sole (hs : g.splits = [a]) (hne : b.slot ≠ a.slot) : (g.setSplit b).Two a b := by
  by_cases hlt : b.slot < a.slot
  · exact .inr ⟨by simp [Group.setSplit, hs, putSplit, hne, hlt], hlt⟩
  · exact .inl ⟨by simp [Group.setSplit, hs, putSplit, hne, hlt], by omega⟩

theorem Group.Two.endPark (ht : g.Two a b) (p : Park) (n : Nat) (w : Bool) :
    (g.endPark a.slot p n w).Two (a.parked p n w g.icount) b := by
  unfold Group.endPark
  rw [ht.split_left]
  exact ht.setSplit (x := a.parked p n w g.icount) rfl

/-- Two splits at different PCs do not merge (R60). -/
theorem Group.Two.mergeAt (ht : g.Two a b) (hpc : b.pc ≠ a.pc) (c n : Nat) : Group.mergeAt c n g a.slot = g := by
  cases n with
  | zero => rfl
  | succ n =>
    have hnone : g.splits.find? (fun x => decide (x.slot ≠ a.slot) && x.mergeable && decide (x.pc = a.pc) &&
        !(g.run && decide (x.slot = g.cur))) = none := by
      obtain ⟨hs, -⟩ | ⟨hs, -⟩ := ht <;> simp [hs, hpc]
    rw [Group.mergeAt, ht.split_left]
    simp only [hnone, ite_self]

theorem Group.Two.endRun (ht : g.Two a b) (hpc : b.pc ≠ a.pc) (c d : Nat) :
    (g.endRun a.slot c d).Two { a with park := .ready, age := c, hold := d } b ∧ (g.endRun a.slot c d).newSplits = g.newSplits := by
  have ht2 := ht.setSplit (x := { a with park := .ready, age := c, hold := d }) rfl
  have hm : g.endRun a.slot c d = { (g.setSplit { a with park := .ready, age := c, hold := d }) with
      run := false, runLen := 0, atEnd := g.firstEnd a.slot } := by
    unfold Group.endRun
    rw [ht.split_left]
    exact Group.Two.mergeAt (g := { (g.setSplit { a with park := .ready, age := c, hold := d }) with
      run := false, runLen := 0, atEnd := g.firstEnd a.slot }) (a := { a with park := .ready, age := c, hold := d }) ht2 hpc c 40
  rw [hm]
  exact ⟨ht2, rfl⟩

end

/-- A split that ends its run at a PC that the other one is not at stands there alone, parked where W is 1 (R33, R58). -/
theorem Group.Two.advance {s : State} {a b : Split} (ht : s.g.Two a b) (h : Hdr) {pc : BitVec 57} (hpc : b.pc ≠ pc) (n : Nat) :
    ∃ x, (s.advance h a pc true n).g.Two x b ∧ x.mask = a.mask ∧ x.pc = pc ∧ (s.advance h a pc true n).g.newSplits = s.g.newSplits := by
  have h1 : (s.g.setSplit { a with pc := pc }).Two { a with pc := pc } b := ht.setSplit rfl
  cases hw : h.w with
  | true =>
    have h2 : ((s.g.setSplit { a with pc := pc }).setSplit { a with pc := pc, hold := n }).Two { a with pc := pc, hold := n } b :=
      h1.setSplit rfl
    rw [advance_of_w hw]
    exact ⟨_, h2.endPark .wbit 0 false, rfl, rfl, newSplits_endPark _ _ _ _ _⟩
  | false =>
    obtain ⟨h2, hn⟩ := h1.endRun hpc s.clock n
    rw [advance_of_not_w hw]
    exact ⟨_, h2, rfl, rfl, hn⟩

end Sys2Proof.Machine
end

section
/-! BRL divides its split (03 R59, R69). -/

namespace Sys2Proof.Machine

/-- The body of BRL, for the active lanes t. -/
def brlBody (h : Hdr) (k : BitVec 32) (t : W32) (sp : Split) (s : State) : State × Fate :=
  let target := pcWords sp.pc k.toInt
  let rest := sp.mask &&& ~~~t
  if t = 0 then (s, .fall)
  else if rest = 0 then (s, .jump target)
  else
    match s.g.placeSplit sp.slot target t s.clock with
    | none => (s, ownTrap s sp 0x13 sp.pc (target.setWidth 64))
    | some g1 =>
      (({ s with g := g1.setSplit { sp with mask := rest } }).advance h { sp with mask := rest } (pcAdd sp.pc 8) true (s.clock + 4), .placed)

theorem exec_brl (h : Hdr) (k : BitVec 32) (s : State) : exec (.brl h k) s = issueLaneAll (.brl h k) h {} (brlBody h k) s := rfl

/-- A group of one split has a free slot. -/
theorem freeSlot_of_sole {g : Group} {sp : Split} (hs : g.splits = [sp]) (hn : g.newSplits = []) : ∃ n, g.freeSlot = some n ∧ n ≠ sp.slot := by
  by_cases h0 : sp.slot = 0
  · exact ⟨1, by simp [Group.freeSlot, Group.split, hs, hn, h0], by omega⟩
  · exact ⟨0, by simp [Group.freeSlot, Group.split, hs, hn, h0], by omega⟩

/-- With no other split and an empty stack, a new split takes a free slot (R59). -/
theorem placeSplit_of_sole {g : Group} {sp : Split} (hs : g.splits = [sp]) (hn : g.newSplits = []) (hst : g.stack = []) (pc : BitVec 57)
    (m : W32) (c : Nat) : ∃ n, g.placeSplit sp.slot pc m c = some (g.setSplit (Split.fresh n pc m c)) ∧ n ≠ sp.slot := by
  obtain ⟨n, hfree, hne⟩ := freeSlot_of_sole hs hn
  exact ⟨n, by simp [Group.placeSplit, hs, hst, mergeStack, hfree], hne⟩

/-- A split divided: the lanes taken at a PC in a slot of their own, and the rest. -/
def Group.divided (g : Group) (sp : Split) (n : Nat) (pc : BitVec 57) (taken : W32) (clock : Nat) : Group :=
  (g.setSplit (Split.fresh n pc taken clock)).setSplit { sp with mask := sp.mask &&& ~~~taken }

theorem brlBody_divides {h : Hdr} {k : BitVec 32} {t : W32} {sp : Split} {s : State} (hs : s.g.splits = [sp]) (hn : s.g.newSplits = [])
    (hst : s.g.stack = []) (ht : t ≠ 0) (hf : sp.mask &&& ~~~t ≠ 0) : ∃ n, n ≠ sp.slot ∧ brlBody h k t sp s =
      (({ s with g := s.g.divided sp n (pcWords sp.pc k.toInt) t s.clock } : State).advance h { sp with mask := sp.mask &&& ~~~t }
        (pcAdd sp.pc 8) true (s.clock + 4), .placed) := by
  obtain ⟨n, hplace, hne⟩ := placeSplit_of_sole hs hn hst (pcWords sp.pc k.toInt) t s.clock
  exact ⟨n, hne, by simp only [brlBody, if_neg ht, if_neg hf, hplace]; rfl⟩

theorem two_divided {g : Group} {sp : Split} {n : Nat} (hs : g.splits = [sp]) (hne : n ≠ sp.slot) (pc : BitVec 57) (t : W32) (c : Nat) :
    (g.divided sp n pc t c).Two { sp with mask := sp.mask &&& ~~~t } (Split.fresh n pc t c) :=
  (Group.two_of_sole (b := Split.fresh n pc t c) hs hne).setSplit rfl

/-- Some lanes only: they wait at the target in a slot of their own. -/
theorem brl_of_some {h : Hdr} {k : BitVec 32} {s : State} {sp : Split} (hc : s.canIssue (.brl h k) {} sp) (hs : s.g.splits = [sp])
    (hn : s.g.newSplits = []) (hst : s.g.stack = []) (ht : activeMask h s ≠ 0) (hf : sp.mask &&& ~~~activeMask h s ≠ 0) :
    ∃ u, exec (.brl h k) s = .next u ∧ u.still = s.still ∧ (pcWords sp.pc k.toInt ≠ sp.pc + 8 → ∃ x y, u.g.Two x y ∧
      x.mask = sp.mask &&& ~~~activeMask h s ∧ x.pc = sp.pc + 8 ∧ y.mask = activeMask h s ∧ y.pc = pcWords sp.pc k.toInt) := by
  obtain ⟨n, hne, hbody⟩ := brlBody_divides (s := s.open_) (h := h) (k := k) hs hn hst ht hf
  obtain ⟨u, hexec, hstill, hsplits⟩ := issue_placed (h := h) (lanes := activeMask h) (on := fun _ => true) hc rfl
    ((onLanes_open hc.1 h (brlBody h k)).trans hbody)
  refine ⟨u, (exec_brl h k s).trans hexec, hstill.trans ?_, fun hpc => ?_⟩
  · rw [State.still_advance]
    exact State.still_setG _ _ (Group.still_setSplit _ _)
  · obtain ⟨x, hx, hm, hp, hnew⟩ :=
      (two_divided (g := s.open_.g) hs hne (pcWords sp.pc k.toInt) (activeMask h s) s.open_.clock).advance
        (s := { s.open_ with g := s.open_.g.divided sp n (pcWords sp.pc k.toInt) (activeMask h s) s.open_.clock })
        h (pc := pcAdd sp.pc 8) hpc (s.open_.clock + 4)
    refine ⟨x, Split.fresh n (pcWords sp.pc k.toInt) (activeMask h s) s.clock, ?_, hm, hp, rfl, rfl⟩
    rw [Group.Two, hsplits (hnew.trans hn)]
    exact hx

/-- Settles O29: the three outcomes of `brlBody` for the only split of a group. -/
theorem branchLanes : Obligations.BranchLanes := by
  intro h k s sp hc hs hn hst t f target
  by_cases ht : t = 0
  · obtain ⟨u, hexec, hstill, hx⟩ := issue_moves (h := h) (lanes := activeMask h) (on := fun _ => true) (pc := sp.pc + 8) hc rfl
      ((onLanes_open hc.1 h (brlBody h k)).trans (if_pos ht)) (.inl ⟨rfl, rfl⟩) hs hn
    exact ⟨u, (exec_brl h k s).trans hexec, hstill, fun _ => hx, fun h => absurd ht h, fun h => absurd ht h⟩
  · by_cases hf : f = 0
    · obtain ⟨u, hexec, hstill, hx⟩ := issue_moves (h := h) (lanes := activeMask h) (on := fun _ => true) (pc := pcWords sp.pc k.toInt) hc rfl
        ((onLanes_open hc.1 h (brlBody h k)).trans ((if_neg ht).trans (if_pos hf))) (.inr rfl) hs hn
      exact ⟨u, (exec_brl h k s).trans hexec, hstill, fun h => absurd h ht, fun _ _ => hx, fun _ h => absurd hf h⟩
    · obtain ⟨u, hexec, hstill, hxy⟩ := brl_of_some hc hs hn hst ht hf
      refine ⟨u, hexec, hstill, fun h => absurd h ht, fun _ h => absurd h hf, fun _ _ hpc => ?_⟩
      obtain ⟨x, y, htwo, hxm, hxp, hym, hyp⟩ := hxy hpc
      exact ⟨x, y, htwo.imp And.left And.left, hxm, hxp, hym, hyp⟩

end Sys2Proof.Machine
end

section
/-! Instructions that park their split, and YIELD (03 R58, R60, R70 to R73). -/

namespace Sys2Proof.Machine

/-! ## SYNCS -/

/-- A split that waits at the SYNCS that the issuing split has come to. -/
def Group.syncsMate (g : Group) (sp : Split) : Option Split :=
  g.splits.find? (fun x => decide (x.slot ≠ sp.slot) && decide (x.park = .syncs) && decide (x.pc = sp.pc))

/-- A parked split merged with another one at its SYNCS, into the lower of their slots. -/
def Group.joinSyncs (g : Group) (slot : Nat) (me x : Split) (clock : Nat) : Group :=
  let g1 := (g.relabel (max slot x.slot) (min slot x.slot)).setSplit (mergePair me x)
  let g2 := g1.dropSlot (max slot x.slot) clock
  if (g2.split (max slot x.slot)).isSome then Group.mergeAt clock 40 g2 (max slot x.slot) else g2

/-- The body of SYNCS. -/
def syncsBody (h : Hdr) (sp : Split) (s : State) : State × Fate :=
  match s.g.syncsMate sp with
  | none => (s, .park .syncs)
  | some x =>
    match (s.g.endPark sp.slot .syncs 4 h.w).split sp.slot with
    | none => (s, .park .syncs)
    | some me => ({ s with g := (s.g.endPark sp.slot .syncs 4 h.w).joinSyncs sp.slot me x s.clock }, .placed)

theorem exec_syncs (h : Hdr) (s : State) : exec (.syncs h) s = issueUni (.syncs h) h {} (syncsBody h) s := rfl

theorem still_joinSyncs (g : Group) (slot : Nat) (me x : Split) (c : Nat) : (g.joinSyncs slot me x c).still = g.still := by
  unfold Group.joinSyncs
  dsimp only
  split <;> simp

theorem run_joinSyncs (g : Group) (slot : Nat) (me x : Split) (c : Nat) : (g.joinSyncs slot me x c).run = g.run := by
  unfold Group.joinSyncs
  dsimp only
  split <;> simp

/-- SYNCS changes bookkeeping alone, and ends the run. -/
theorem syncsBody_ends (h : Hdr) (sp : Split) (s : State) : (syncsBody h sp s).1.still = s.still ∧ (syncsBody h sp s).2.endsRun = true ∧
    ((syncsBody h sp s).2 = .placed → (syncsBody h sp s).1.g.run = false) := by
  unfold syncsBody
  split
  · exact ⟨rfl, rfl, nofun⟩
  · split
    · exact ⟨rfl, rfl, nofun⟩
    · refine ⟨State.still_setG _ _ ?_, rfl, fun _ => ?_⟩
      · rw [still_joinSyncs, Group.still_endPark]
      · exact (run_joinSyncs _ _ _ _ _).trans (run_endPark _ _ _ _ _)

/-- No other split at the same SYNCS: the split parks. -/
theorem syncsBody_of_alone {h : Hdr} {sp : Split} {s : State} (ha : ∀ x ∈ s.g.splits, x.slot = sp.slot ∨ x.park ≠ .syncs ∨ x.pc ≠ sp.pc) :
    syncsBody h sp s = (s, .park .syncs) := by
  have hmate : s.g.syncsMate sp = none := by
    refine List.find?_eq_none.mpr fun x hx => ?_
    have := ha x hx
    simp only [Bool.and_eq_true, decide_eq_true_eq]
    tauto
  rw [syncsBody, hmate]

/-- The other split of two, at the same SYNCS, is the one that SYNCS joins. -/
theorem Group.Two.syncsMate {g : Group} {sp x : Split} (ht : g.Two sp x) (hp : x.park = .syncs) (hpc : x.pc = sp.pc) :
    g.syncsMate sp = some x := by
  obtain ⟨hs, hlt⟩ | ⟨hs, hlt⟩ := ht
  · simp [Group.syncsMate, hs, hp, hpc, show x.slot ≠ sp.slot by omega]
  · simp [Group.syncsMate, hs, hp, hpc, show x.slot ≠ sp.slot by omega]

theorem dropSlot_of_empty_stack {g : Group} (hst : g.stack = []) (n c : Nat) :
    (g.dropSlot n c).splits = g.splits.filter (fun x => decide (x.slot ≠ n)) ∧ (g.dropSlot n c).newSplits = g.newSplits := by
  simp [Group.dropSlot, hst]

/-- Two splits merged in the lower of their slots, before the higher one is freed. -/
theorem Group.Two.merged {g : Group} {a b : Split} (ht : g.Two a b) :
    (putSplit (mergePair a b) g.splits).filter (fun x => decide (x.slot ≠ max a.slot b.slot)) = [mergePair a b] := by
  obtain ⟨hs, hlt⟩ | ⟨hs, hlt⟩ := ht
  · simp [hs, putSplit, mergePair, Nat.min_eq_left hlt.le, Nat.max_eq_right hlt.le, show a.slot ≠ b.slot by omega]
  · simp [hs, putSplit, mergePair, Nat.min_eq_right hlt.le, Nat.max_eq_left hlt.le, show b.slot ≠ a.slot by omega]

/-- Of two splits joined at a SYNCS one is left, where nothing is on the stack (R60, R61). -/
theorem Group.Two.joinSyncs {g : Group} {a b : Split} (ht : g.Two a b) (hst : g.stack = []) (c : Nat) :
    (g.joinSyncs a.slot a b c).splits = [mergePair a b] ∧ (g.joinSyncs a.slot a b c).newSplits = g.newSplits := by
  obtain ⟨hs, hn⟩ := dropSlot_of_empty_stack
    (g := (g.relabel (max a.slot b.slot) (min a.slot b.slot)).setSplit (mergePair a b)) hst (max a.slot b.slot) c
  have hone := hs.trans ht.merged
  have hne : (mergePair a b).slot ≠ max a.slot b.slot := by
    obtain ⟨-, hlt⟩ | ⟨-, hlt⟩ := ht <;> simp only [mergePair] <;> omega
  have hgone : (((g.relabel (max a.slot b.slot) (min a.slot b.slot)).setSplit (mergePair a b)).dropSlot (max a.slot b.slot) c).split
      (max a.slot b.slot) = none := by
    rw [Group.split, hone]
    simp [hne]
  unfold Group.joinSyncs
  simp only [hgone, Option.isSome_none, Bool.false_eq_true, if_false]
  exact ⟨hone, hn⟩

/-- SYNCS joins the split that waits there, with the lanes of both. -/
theorem syncs_joins {h : Hdr} {s : State} {sp x : Split} (hc : s.canIssue (.syncs h) {} sp) (hg : guardOn h s = true)
    (ht : s.g.Two sp x) (hn : s.g.newSplits = []) (hst : s.g.stack = []) (hp : x.park = .syncs) (hpc : x.pc = sp.pc) :
    ∃ t y, exec (.syncs h) s = .next t ∧ t.g.splits = [y] ∧ y.slot = min sp.slot x.slot ∧ y.mask = (sp.mask ||| x.mask) ∧ y.pc = sp.pc ∧
      y.park = .syncs := by
  have hopen : s.open_.g.Two sp x := ht
  have hpark := hopen.endPark .syncs 4 h.w
  have hme : (s.open_.g.endPark sp.slot .syncs 4 h.w).split sp.slot = some (sp.parked .syncs 4 h.w s.open_.g.icount) := hpark.split_left
  have hbody : syncsBody h sp s.open_ =
      ({ s.open_ with
          g := (s.open_.g.endPark sp.slot .syncs 4 h.w).joinSyncs sp.slot (sp.parked .syncs 4 h.w s.open_.g.icount) x s.open_.clock },
        .placed) := by
    simp only [syncsBody, hopen.syncsMate hp hpc, hme]
  have hstack : (s.open_.g.endPark sp.slot .syncs 4 h.w).stack = [] := by
    unfold Group.endPark
    rw [hopen.split_left]
    exact hst
  obtain ⟨hone, hnew⟩ := hpark.joinSyncs hstack s.open_.clock
  obtain ⟨t, hexec, -, hsplits⟩ := issue_placed (h := h) (lanes := fun _ => 1) (on := guardOn h) hc hg
    ((onUni_open hc.1 (syncsBody h)).trans hbody)
  refine ⟨t, _, hexec, (hsplits (hnew.trans ?_)).trans hone, rfl, rfl, rfl, rfl⟩
  rw [newSplits_endPark]
  exact hn

/-! ## Parks and YIELD -/

/-- An instruction of every lane that parks its split, whatever lanes are active. -/
theorem parks_laneAll {i : Instr} {h : Hdr} {u : State → Uses} {p : State → Split → Park} {body : W32 → Split → State → State × Fate}
    (he : ∀ s, exec i s = issueLaneAll i h (u s) body s)
    (hb : ∀ (s : State) sp, body (activeMask h s) sp s.open_ = (s.open_, .park (p s sp))) :
    Parks i u (fun _ => true) (fun _ _ => True) (fun s _ => s) p :=
  parks_of (body := fun _ => onLanes h body) (fun s => (he s).trans (issueLaneAll_eq _ _ _ _ _)) fun s sp hc _ _ => by
    rw [onLanes_open hc.1, hb]
    exact ⟨.inl rfl, rfl, rfl, rfl⟩

/-- The only split of a group at a PC, its run ended: ready now, or parked where W is 1 (R33, R63). -/
theorem splits_advance_of_sole {s : State} {sp x : Split} (hs : s.g.splits = [x]) (hx : x.slot = sp.slot) (h : Hdr) (pc : BitVec 57)
    (n : Nat) : (s.advance h sp pc true n).g.splits =
      [if h.w then { sp with pc := pc, hold := n, park := .wbit, plen := 0, passed := 0, wAfter := false, cnt := s.g.icount }
        else { sp with pc := pc, park := .ready, age := s.clock, hold := n }] ∧
    (s.advance h sp pc true n).g.newSplits = s.g.newSplits := by
  cases hw : h.w with
  | true =>
    rw [advance_of_w hw]
    simp [Group.endPark, Group.setSplit, Group.split, hs, putSplit, hx]
  | false =>
    rw [advance_of_not_w hw]
    unfold Group.endRun
    simp [Group.setSplit, Group.split, hs, putSplit, hx, mergeAt_single]

theorem yield_of_sole {h : Hdr} {s : State} {sp : Split} (hc : s.canIssue (.yieldR h) {} sp) (hg : guardOn h s = true)
    (hs : s.g.splits = [sp]) (hn : s.g.newSplits = []) : ∃ t x, exec (.yieldR h) s = .next t ∧ t.g.splits = [x] ∧ x.slot = sp.slot ∧
      x.mask = sp.mask ∧ x.pc = sp.pc + 4 ∧ x.passed = 0 ∧ (h.w = false → x.park = .ready ∧ x.age = s.clock) ∧
      (h.w = true → x.park = .wbit) := by
  obtain ⟨s2, t, hexec, h1, h2, -, h4⟩ := issue_run s s.open_ (.yieldR h) h {} sp (fun _ => 1) (guardOn h)
    (onUni fun _ s => (s, .stop)) .stop hc hg (onUni_open hc.1 _) (by simp) (by simp)
  have hclock : s2.clock = s.clock := (congrArg State.clock h1 : s2.still.clock = s.open_.still.clock)
  obtain ⟨hsplits, hnew⟩ := splits_advance_of_sole (s := s2) (sp := { sp with passed := 0 }) (x := sp) (by rw [h2]; exact hs) rfl h
    (pcAdd sp.pc 4) 0
  have hfin : (s2.finish (.yieldR h) h sp .stop).g = (s2.advance h { sp with passed := 0 } (pcAdd sp.pc 4) true 0).counted.g :=
    State.g_boundary _ _ (hnew.trans (by rw [h2]; exact hn))
  refine ⟨t, _, hexec, by rw [h4, hfin]; exact hsplits, ?_⟩
  cases h.w <;> simp [hclock, pcAdd]

/-- Settles O30: each of the five bodies ends the run and changes bookkeeping alone; JOIN, EXIT, EXIT.L and a SYNCS that is alone park. -/
theorem parksAndEnds : Obligations.ParksAndEnds := by
  intro h drains drainsL goes
  refine ⟨?joinEnds, ?syncsEnds, ?exitEnds, ?exitLEnds, ?yieldEnds, ?joinParks, ?syncsParks, ?syncsJoins, ?exitParks, ?exitLParks, ?nop,
    ?yield⟩
  case joinEnds =>
    exact ends_laneAll (u := fun _ => {}) (body := fun _ _ s => (s, .park .join)) (fun _ => rfl) fun _ _ _ => ⟨rfl, rfl, by simp⟩
  case syncsEnds => exact ends_uni (u := fun _ => {}) (exec_syncs h) fun s sp _ => syncsBody_ends h sp s.open_
  case exitEnds =>
    exact ends_uni (u := drains) (body := fun sp s => (s, .park (.exitDrain sp.mask))) (fun _ => rfl) fun _ _ _ => ⟨rfl, rfl, by simp⟩
  case exitLEnds =>
    exact ends_laneAll (u := drainsL) (body := fun m _ s => (s, .park (.exitDrain m))) (fun _ => rfl) fun _ _ _ => ⟨rfl, rfl, by simp⟩
  case yieldEnds => exact ends_uni (u := fun _ => {}) (body := fun _ s => (s, .stop)) (fun _ => rfl) fun _ _ _ => ⟨rfl, rfl, by simp⟩
  case joinParks => exact parks_laneAll (body := fun _ _ s => (s, .park .join)) (fun _ => rfl) fun _ _ => rfl
  case exitParks =>
    exact parks_uni (body := fun _ sp s => (s, .park (.exitDrain sp.mask))) (fun _ => rfl) fun _ _ _ _ _ => ⟨.inl rfl, rfl, rfl, rfl⟩
  case exitLParks => exact parks_laneAll (body := fun m _ s => (s, .park (.exitDrain m))) (fun _ => rfl) fun _ _ => rfl
  case syncsParks =>
    refine parks_uni (body := fun _ => syncsBody h) (exec_syncs h) fun s sp _ _ halone => ?_
    rw [syncsBody_of_alone (s := s.open_) halone]
    exact ⟨.inl rfl, rfl, rfl, rfl⟩
  case syncsJoins => exact fun s sp x hc hg htwo hn hst hp hpc => syncs_joins hc hg htwo hn hst hp hpc
  case nop =>
    refine does_issue (h := h) (lanes := activeMask h) (body := fun _ => onLanes h fun _ _ s => (s, .fall)) (fun _ => rfl)
      fun s sp hc _ _ => ?_
    rw [onLanes_open hc.1]
    exact ⟨rfl, rfl⟩
  case yield => exact fun s sp hc hg hs hn => yield_of_sole hc hg hs hn

end Sys2Proof.Machine
end

section
/-! Launches from the device, posts, and the priority of a grid (03 R82 to R84). -/

namespace Sys2Proof.Machine

/-- What an instruction adds to a signature is no part of whether it can issue. -/
theorem canIssue_folds {s : State} {i : Instr} {u : Uses} {sp : Split} (hc : s.canIssue i u sp) (fs : List (W32 × W32)) :
    s.canIssue i { u with folds := fs } sp :=
  canIssue_congr hc rfl rfl rfl rfl rfl rfl

/-- A late result that is logged too is owed all the same. -/
theorem still_laterLogged (s : State) (sp : Split) (vw : List (Nat × W32)) (sw : List (Nat × W64)) :
    (s.laterLogged sp vw sw).still = (s.owes sp vw sw 0 .nothing).still := by
  rw [State.laterLogged, State.still_logVals, State.later, State.still_addFolds]
  rfl

/-- A uniform-set instruction of a compare point whose guard is true and whose body goes on. -/
theorem uni_fall_folds {i : Instr} {h : Hdr} {u : Uses} {fs : List (W32 × W32)} {body : Split → State → State × Fate} {s s1 : State}
    {sp : Split} (he : exec i s = issueUni i h { u with folds := fs } body s) (hc : s.canIssue i u sp) (hg : guardOn h s = true)
    (hb : body sp s.open_ = (s1, .fall)) : ∃ x, exec i s = .next x ∧ x.still = s1.still := by
  obtain ⟨x, hexec, hx⟩ := uni_fall he (canIssue_folds hc fs) s1 fun _ => hb
  exact ⟨x, hexec, by rw [hx, if_pos hg]⟩

/-- The descriptor of a child: its priority clamped, and one level deeper than its parent (R82). -/
def State.childOf (s : State) (x : Desc) : Desc :=
  { x with prio := s.clampPrio s.g x.prio, depth := BitVec.ofNat 8 (s.g.depth.toNat + 1) }

/-- The body of LAUNCH and LAUNCH.TRY. -/
def launchBody (try_ : Bool) (d a : BitVec 6) (sp : Split) (s : State) : State × Fate :=
  if s.g.depth = 9 then (s, ownTrap s sp 0x0D sp.pc (s.g.rs a.toNat))
  else if s.descHeld (s.g.rs a.toNat) then (s, .wait)
  else
    match s.readDesc sp (s.g.rs a.toNat) with
    | (.error t, s1) => (s1, .trap t)
    | (.ok bs, s1) =>
      if badCompletion (Desc.ofBytes bs).completion then (s1.laterLogged sp [] [(d.toNat, 3)], .fall)
      else
        match s1.freeQueueEntry s1.g with
        | some r => ((s1.addRelease.enqueueChild s1.g s1.g.seq r (s1.childOf (Desc.ofBytes bs))).laterLogged sp [] [(d.toNat, 0)], .fall)
        | none =>
          if try_ then (s1.laterLogged sp [] [(d.toNat, 1)], .fall)
          else (s1.addRelease, .park (.launch d.toNat s1.g.seq (s1.childOf (Desc.ofBytes bs))))

/-- The body of QPOST. -/
def qpostBody (d a b : BitVec 6) (sp : Split) (s : State) : State × Fate :=
  if s.descHeld (s.g.rs a.toNat) then (s, .wait) else
  match s.readDesc sp (s.g.rs a.toNat) with
  | (.error t, s1) => (s1, .trap t)
  | (.ok bs, s1) =>
    if badCompletion (Desc.ofBytes bs).completion then (s1.laterLogged sp [] [(d.toNat, 3)], .fall)
    else
      (s1.addRelease.owes sp [] [(d.toNat, 0)] 0
        (.post d.toNat (field (s1.g.rs b.toNat) 0 14) (bs.set 0x29 (s1.clampPrio s1.g (Desc.ofBytes bs).prio))), .fall)

section
variable {s t : State} {sp : Split} {a : BitVec 6} {bs : List Byte} (hheld : s.descHeld (s.g.rs a.toNat) = false)
  (hread : s.readDesc sp (s.g.rs a.toNat) = (.ok bs, t)) (hcomp : badCompletion (Desc.ofBytes bs).completion = false)
include hheld hread hcomp

/-- A launch with a free entry in the device queue. -/
theorem launchBody_of_free {r : Bool} (hdepth : s.g.depth ≠ 9) (hfree : t.freeQueueEntry t.g = some r) (try_ : Bool) (d : BitVec 6) :
    launchBody try_ d a sp s =
      ((t.addRelease.enqueueChild t.g t.g.seq r (t.childOf (Desc.ofBytes bs))).laterLogged sp [] [(d.toNat, 0)], .fall) := by
  simp only [launchBody, if_neg hdepth, hheld, hread, hcomp, hfree, Bool.false_eq_true, if_false]

/-- QPOST of a descriptor that it can read and complete. -/
theorem qpostBody_of_read (d b : BitVec 6) : qpostBody d a b sp s =
    (t.addRelease.owes sp [] [(d.toNat, 0)] 0
      (.post d.toNat (field (t.g.rs b.toNat) 0 14) (bs.set 0x29 (t.clampPrio t.g (Desc.ofBytes bs).prio))), .fall) := by
  simp only [qpostBody, hheld, hread, hcomp, Bool.false_eq_true, if_false]

end

/-- The grid that register a names with the priority in register b, which a context without the privilege keeps at most at its own (R82, R83). -/
def State.withPrio (s : State) (a b : BitVec 6) : State :=
  s.modGrid ((s.g.rs a.toNat).extractLsb' 0 32) (fun x =>
    { x with prio := if s.privileged s.g = true then field (s.g.rs b.toNat) 0 5 else min (field (s.g.rs b.toNat) 0 5) s.g.prio.toNat })

/-- The body of QPRIO. -/
def qprioBody (d a b : BitVec 6) (sp : Split) (s : State) : State × Fate :=
  match s.grid ((s.g.rs a.toNat).extractLsb' 0 32) with
  | some x =>
    if x.ctx = s.g.ctx then ((s.withPrio a b).laterLogged sp [] [(d.toNat, 0)], .fall) else (s.laterLogged sp [] [(d.toNat, 1)], .fall)
  | none => (s.laterLogged sp [] [(d.toNat, 1)], .fall)

/-- QPRIO of a grid of its context. -/
theorem qprioBody_of_own {s : State} {a : BitVec 6} {y : Grid} (hy : s.grid ((s.g.rs a.toNat).extractLsb' 0 32) = some y)
    (hctx : y.ctx = s.g.ctx) (d b : BitVec 6) (sp : Split) :
    qprioBody d a b sp s = ((s.withPrio a b).laterLogged sp [] [(d.toNat, 0)], .fall) := by
  simp only [qprioBody, hy, hctx, if_true]

/-- Settles O38: the bodies where each can go on, whose late result is owed (`still_laterLogged`). -/
theorem launches : Obligations.Launches := by
  intro h d a b reads child u up u2 launches
  have hlaunch : ∀ (try_ : Bool) (i : Instr) (u : Uses), (∀ s, exec i s =
      issueUni i h { u with folds := regFolds s.g [a.toNat] none } (launchBody try_ d a) s) → launches i u := by
    intro try_ i u he bs t r s sp hcomp hc hg hdepth hheld hread hfree
    obtain ⟨x, hexec, hx⟩ := uni_fall_folds (he s) hc hg (launchBody_of_free hheld hread hcomp hdepth hfree try_ d)
    exact ⟨x, hexec, hx.trans (still_laterLogged _ _ _ _)⟩
  refine ⟨hlaunch false _ up fun _ => rfl, hlaunch true _ u fun _ => rfl, ?qpost, ?qprio⟩
  case qpost =>
    intro bs t s sp hcomp hc hg hheld hread
    exact uni_fall_folds (body := qpostBody d a b) rfl hc hg (qpostBody_of_read hheld hread hcomp d b)
  case qprio =>
    intro s sp y hc hg hy hctx
    obtain ⟨x, hexec, hx⟩ := uni_fall_folds (body := qprioBody d a b) rfl hc hg (qprioBody_of_own (s := s.open_) hy hctx d b sp)
    exact ⟨x, hexec, hx.trans (still_laterLogged _ _ _ _)⟩

end Sys2Proof.Machine
end

section
/-! Queue entries read and accepted, teams placed (03 R76 to R80, R86, R87). -/

namespace Sys2Proof.Machine

/-! ## QUEUE_ENTRY_READ -/

/-- What a queue's descriptor at a physical address becomes: an entry that waits to be accepted, at depth 0 (R76, R77). -/
def State.entryAt (s : State) (n ctx pa : Nat) : Grid :=
  { Grid.queued { Desc.ofBytes ((upFrom pa 64).map s.physByte) with depth := 0 } ctx (s.ctxDie ctx) with queue := n }

section
variable {s : State} {n : Nat} (hn : n < 16384) (hready : s.headReady n = true)
include hn hready

/-- The head entry of a queue whose context is gone. -/
theorem execQueueEntryRead_of_no_context (hctx : s.hasCtx (s.queueCtx n) = false) :
    execQueueEntryRead n s = .next (s.queueErr n 0x27) := by
  simp [execQueueEntryRead, hready, hctx, hn.not_ge]

variable (hctx : s.hasCtx (s.queueCtx n) = true) (hheld : s.deviceHeld (s.queueCtx n) (s.ringVa n (s.qHead n)) .read = false)
include hctx hheld

/-- A head entry at an address that cannot be read. -/
theorem execQueueEntryRead_of_fault {s1 : State} {e : BitVec 8 × Option W64}
    (htr : s.deviceTranslate (s.queueCtx n) (s.ringVa n (s.qHead n)) .read = (.error e, s1)) :
    execQueueEntryRead n s = .next (s1.queueErr n 0x22) := by
  simp [execQueueEntryRead, hready, hctx, hheld, hn.not_ge, htr]

section
variable {s1 : State} {pa : Nat} (htr : s.deviceTranslate (s.queueCtx n) (s.ringVa n (s.qHead n)) .read = (.ok pa, s1))
include htr

/-- A head entry with an error in its bytes. -/
theorem execQueueEntryRead_of_poison (hclean : s1.cleanRange pa 64 = false) : execQueueEntryRead n s = .next (s1.queueErr n 0x22) := by
  simp [execQueueEntryRead, hready, hctx, hheld, hn.not_ge, htr, hclean]

/-- A head entry with a completion object that cannot be used. -/
theorem execQueueEntryRead_of_bad_completion (hclean : s1.cleanRange pa 64 = true)
    (hbad : badCompletion (Desc.ofBytes ((upFrom pa 64).map s1.physByte)).completion = true) :
    execQueueEntryRead n s = .next (s1.queueErr n 0x26) := by
  simp [execQueueEntryRead, hready, hctx, hheld, hn.not_ge, htr, hclean, hbad]

/-- Any other head entry waits among the grids to be accepted. -/
theorem execQueueEntryRead_of_good (hclean : s1.cleanRange pa 64 = true)
    (hgood : badCompletion (Desc.ofBytes ((upFrom pa 64).map s1.physByte)).completion = false) :
    execQueueEntryRead n s = .next { s1 with grids := s1.grids ++ [s1.entryAt n (s.queueCtx n) pa] } := by
  simp [execQueueEntryRead, hready, hctx, hheld, hn.not_ge, htr, hclean, hgood, State.entryAt]

end

end

/-! ## Acceptance, distribution, retirement, resumption -/

theorem execGridAccept_of_next {s : State} {i : Nat} {x : Grid} (hi : s.nextEntry = some i) (hx : s.grids[i]? = some x)
    (hk : s.keyHeld x = false) : execGridAccept s = .next (s.acceptEntry i x) := by
  simp [execGridAccept, hi, hx, hk]

/-- A child that neither records nor replays is accepted with its serial as its key, and what its context's registers hold (R77, R90). -/
theorem acceptEntry_of_child {s : State} {i : Nat} {x : Grid} (he : x.err = none) (hchild : x.child = true)
    (hrec : x.desc.flags.getLsbD 3 = false) (hreplay : x.desc.flags.getLsbD 4 = false) :
    ∃ y, (s.acceptEntry i x).grids = s.grids.eraseIdx i ++ [y] ∧ y.accepted = true ∧ y.serial = s.serialNext ∧ y.key = s.serialNext ∧
      y.desc = x.desc ∧ y.chseed = (s.ctx x.ctx).chseed ∧ y.chctl = (s.ctx x.ctx).chctl ∧ y.prhold = (s.ctx x.ctx).prhold ∧
      y.recbase = (s.ctx x.ctx).recbase ∧ (s.acceptEntry i x).serialNext = s.serialNext + 1 ∧ (s.acceptEntry i x).mem = s.mem := by
  unfold State.acceptEntry
  simp only [State.gridKey, State.writeKey, he, hchild, hrec, hreplay, Bool.false_eq_true, if_false, if_true, Option.isSome_none, ite_self]
  exact ⟨_, rfl, rfl, rfl, rfl, rfl, rfl, rfl, rfl, rfl, trivial, trivial⟩

/-- A grid with teams to place that nothing goes before. -/
theorem execTeamDistribute_eq {s : State} {serial : BitVec 32} {tile trailer : Nat} {x : Grid} (hx : s.grid serial = some x)
    (hw : x.waiting = true) (haway : (s.ctx x.ctx).away = false) (hswap : s.swapped.contains (dieOf tile) = false)
    (hthird : s.thirdWants x = false) (hfirst : s.grids.any (s.goesFirst x) = false) (harea : s.areaHeld [tile, trailer] = false) :
    execTeamDistribute serial tile trailer s = if x.desc.flags.getLsbD 1 then .next ((s.placeAll serial tile).getD s)
      else .next ((s.placeSet serial tile trailer).getD s) := by
  simp only [execTeamDistribute, hx, hw, haway, hswap, hthird, hfirst, harea, Bool.not_true, Bool.or_self, Bool.false_eq_true, if_false]

theorem execTeamRetire_of_done {s : State} {t : Team} (ht : s.team t.tid = some t) (hown : t.own = true) (hdone : s.teamDone t = true)
    (hheld : (s.grid t.serial).any (fun x => s.recordHeld x t) = false) : execTeamRetire t.tid s = .next (s.retire t) := by
  simp only [execTeamRetire, ht, hown, hdone, hheld, Bool.not_false, Bool.and_self, if_true]

theorem execGridRetire_of_done {s : State} {serial : BitVec 32} {x : Grid} (hx : s.grid serial = some x) (hdone : x.done = true)
    (hteams : s.teams.any (fun t => decide (t.serial = serial)) = false) (hheld : s.completeHeld x = false) :
    execGridRetire serial s =
      .next { s.complete x with grids := (s.complete x).grids.filter (fun y => !(decide (y.serial = serial) && y.accepted)) } := by
  simp only [execGridRetire, hx, hdone, hteams, hheld, Bool.not_false, Bool.and_self, if_true]

theorem execGroupResume_of_resumable {s u : State} {tid tile : Nat} {t : Team} (ht : s.team tid = some t) (hr : s.resumable t = true)
    (hfirst : s.teams.any (fun x => s.resumable x && decide (x.tile = t.tile) && decide (s.resumePrio t < s.resumePrio x)) = false)
    (hall : State.resumeAll tile (s.setOf tid) s = some u) : execGroupResume tid tile s = .next u := by
  simp only [execGroupResume, ht, hr, hfirst, hall, Bool.not_true, Bool.or_self, Bool.false_eq_true, if_false, Option.getD_some]

end Sys2Proof.Machine
end

section
/-! Teams taken out of the machine, and partitions moved out of their tiles (03 R88; 12 R339). -/

namespace Sys2Proof.Machine

/-- What every step of a fold keeps, the fold keeps. -/
theorem keeps_foldl {α β : Type} (obs : State → β) {f : State → α → State} (hf : ∀ s x, obs (f s x) = obs s) (l : List α) (s : State) :
    obs (l.foldl f s) = obs s :=
  List.foldlRecOn l f (motive := fun t => obs t = obs s) rfl fun t ht x _ => (hf t x).trans ht

/-! ## What redundant execution records, and results that come to be known -/

theorem addFolds_teams (s : State) (g : Group) (n : Nat) (b : Bool) (l : List (W32 × W32)) :
    ∃ ts, s.addFolds g n b l = { s with teams := ts } := by
  unfold State.addFolds
  split
  · exact ⟨s.teams, rfl⟩
  · exact ⟨_, rfl⟩

theorem logVals_teams (s : State) (g : Group) (n : Nat) (l : List (Nat × W64)) : ∃ ts, s.logVals g n l = { s with teams := ts } := by
  unfold State.logVals
  split
  · exact ⟨_, rfl⟩
  · exact ⟨s.teams, rfl⟩

/-- A group with the values of an outstanding instruction known. -/
def Group.know (g : Group) (seq : Nat) (vw : List (Nat × W32)) (sw : List (Nat × W64)) (flags : BitVec 5) : Group :=
  { g with results := g.results.map (fun x =>
      if x.seq = seq then { x with vw := vw, sw := sw, flags := flags, await := .nothing } else x) }

section
variable (s : State) (gid seq : Nat) (vw : List (Nat × W32)) (sw : List (Nat × W64)) (flags : BitVec 5) (b : Bool)

/-- Values that come to be known change the outstanding results of their group, and what teams record. -/
theorem resolve_cases : s.resolve gid seq vw sw flags b = s ∨
    ∃ ts, s.resolve gid seq vw sw flags b = { s.modGroup gid (fun g => g.know seq vw sw flags) with teams := ts } := by
  unfold State.resolve
  cases s.group gid with
  | none => exact .inl rfl
  | some g =>
    dsimp only
    cases g.results.find? (fun r => decide (r.seq = seq)) with
    | none => exact .inl rfl
    | some r =>
      obtain ⟨ts, hts⟩ := addFolds_teams (s.modGroup gid (fun g => g.know seq vw sw flags)) g seq false (foldList vw sw)
      simp only [Group.know] at hts
      simp only [hts]
      refine .inr ?_
      split
      · obtain ⟨us, hus⟩ := logVals_teams { s.modGroup gid (fun g => g.know seq vw sw flags) with teams := ts } g r.cnt
          (vw.map (fun w => (w.1, BitVec.ofNat 64 w.2.toNat)) ++ sw.map (fun w => (100000 + w.1, w.2)) ++ [(doneKey, 0)])
        exact ⟨us, hus⟩
      · exact ⟨ts, rfl⟩

end

/-! ## Groups by their numbers -/

/-- The numbers of the groups, each with its team's. -/
def State.members (s : State) : List (Nat × Nat) := s.groups.map (fun g => (g.gid, g.tid))

theorem members_modGroup (s : State) (gid : Nat) (f : Group → Group) (hf : ∀ g, ((f g).gid, (f g).tid) = (g.gid, g.tid)) :
    (s.modGroup gid f).members = s.members := by
  unfold State.modGroup
  split
  · simp only [State.members, State.groups, List.map_cons, hf]
  · simp only [State.members, State.groups, List.map_cons, List.map_map]
    congr 2
    funext g
    simp only [Function.comp]
    split
    · exact hf g
    · rfl

theorem members_resolve (s : State) (gid seq : Nat) (vw : List (Nat × W32)) (sw : List (Nat × W64)) (flags : BitVec 5) (b : Bool) :
    (s.resolve gid seq vw sw flags b).members = s.members := by
  obtain h | ⟨ts, h⟩ := resolve_cases s gid seq vw sw flags b <;> rw [h]
  exact members_modGroup s gid (fun g => g.know seq vw sw flags) fun _ => rfl

theorem members_failFlips (s : State) (gid : Nat) : (s.failFlips gid).members = s.members := by
  unfold State.failFlips
  split
  · rfl
  · exact (keeps_foldl State.members (fun _ _ => members_resolve _ _ _ _ _ _ _) _ _).trans
      (members_modGroup s gid (fun g => { g with flip := [] }) fun _ => rfl)

/-- A group taken out leaves the other ones, and the idle group in the focus if it stood there. -/
theorem members_removeGroup {s : State} {gid : Nat} {p : Nat × Nat} (hp : p ∈ (s.removeGroup gid).members) :
    p = (0, 0) ∨ p ∈ s.members ∧ p.1 ≠ gid := by
  obtain ⟨g, hg, rfl⟩ := List.mem_map.mp hp
  have hmem : ∀ g ∈ (s.failFlips gid).groups, (g.gid, g.tid) ∈ s.members := fun g hg => by
    rw [← members_failFlips s gid]
    exact List.mem_map_of_mem hg
  simp only [State.removeGroup, State.groups, List.mem_cons, List.mem_filter, decide_eq_true_eq] at hg
  obtain rfl | ⟨hg, hne⟩ := hg
  · split
    · exact .inl rfl
    · rename_i hne
      exact .inr ⟨hmem _ List.mem_cons_self, hne⟩
  · exact .inr ⟨hmem g (List.mem_cons_of_mem _ hg), hne⟩

theorem members_removeGroups {p : Nat × Nat} (gids : List Nat) : ∀ {s : State},
    p ∈ (gids.foldl (fun s g => s.removeGroup g) s).members → p = (0, 0) ∨ p ∈ s.members ∧ p.1 ∉ gids := by
  induction gids with
  | nil => exact fun hp => .inr ⟨hp, by simp⟩
  | cons gid rest ih =>
    intro s hp
    obtain h | ⟨hp, hrest⟩ := ih hp
    · exact .inl h
    · exact (members_removeGroup hp).imp_right fun ⟨hp, hne⟩ => ⟨hp, by simp [hne, hrest]⟩

/-- A team taken out has no group left. -/
theorem members_removeTeam {s : State} {tid : Nat} {p : Nat × Nat} (hp : p ∈ (s.removeTeam tid).members) : p = (0, 0) ∨ p.2 ≠ tid := by
  refine (members_removeGroups _ hp).imp_right fun ⟨hmem, hout⟩ htid => hout ?_
  obtain ⟨g, hg, rfl⟩ := List.mem_map.mp hmem
  exact List.mem_map.mpr ⟨g, List.mem_filter.mpr ⟨hg, decide_eq_true htid⟩, rfl⟩

theorem team_removeTeam (s : State) (tid : Nat) : (s.removeTeam tid).team tid = none := by
  simp [State.removeTeam, State.team]

/-- A plain team that retires leaves neither itself nor a group behind (R88). -/
theorem retire_of_plain {s : State} {t : Team} (hc : t.chord = none) (hg : s.grid t.serial = none) : (s.retire t).team t.tid = none ∧
    (s.retire t).groups.any (fun g => decide (g.gid ≠ 0) && decide (g.tid = t.tid)) = false := by
  have hteams : (s.retire t).teams = (s.removeTeam t.tid).teams := by simp [State.retire, hg, Team.followers, hc]
  have hgroups : (s.retire t).groups = (s.removeTeam t.tid).groups := by simp [State.retire, State.groups, hg, Team.followers, hc]
  constructor
  · rw [State.team, hteams]
    exact team_removeTeam s t.tid
  · refine List.any_eq_false.mpr fun g hg => ?_
    rw [hgroups] at hg
    obtain h | h := members_removeTeam (List.mem_map_of_mem (f := fun g => (g.gid, g.tid)) hg)
    · simp [(Prod.mk.inj h).1]
    · simp [h]

/-! ## PARTITION_SWAP_DONE -/

/-- The swap under way, and the dies whose partitions are out of their tiles. -/
def State.swapping (s : State) : Option Swap × List Nat := (s.swap, s.swapped)

theorem swapping_accountN (ctx sel n : Nat) : ∀ s : State, (s.accountN ctx sel n).swapping = s.swapping := by
  induction n with
  | zero => exact fun _ => rfl
  | succ n ih =>
    refine fun s => (ih _).trans ?_
    unfold State.account State.modCtx
    split <;> rfl

/-- Stash lines written back change no swap. -/
theorem swapping_dropStopped (s : State) : s.dropStopped.swapping = s.swapping := by
  unfold State.dropStopped State.recallStash State.sweepStash
  exact keeps_foldl State.swapping (fun s t => swapping_accountN _ _ _ s) _ _

theorem swapping_homeCode (s : State) (pa n : Nat) : (s.homeCode pa n).swapping = s.swapping := rfl

theorem swapping_codeShadow (s : State) (die : Nat) : (s.codeShadow die).swapping = s.swapping := by
  rw [State.codeShadow, apply_ite State.swapping, swapping_homeCode, ite_self]

theorem swapping_resolve (s : State) (gid seq : Nat) (vw : List (Nat × W32)) (sw : List (Nat × W64)) (flags : BitVec 5) (b : Bool) :
    (s.resolve gid seq vw sw flags b).swapping = s.swapping := by
  obtain h | ⟨ts, h⟩ := resolve_cases s gid seq vw sw flags b <;> rw [h]
  unfold State.modGroup
  split <;> rfl

/-- A partition moved out of its tiles is entered among those that are out (R339). -/
theorem swapping_swapOut (s : State) (w : Swap) : (s.swapOut w).swapping = (none, s.swapped ++ s.partOf w.die) := by
  unfold State.swapOut
  rw [swapping_resolve, keeps_foldl State.swapping swapping_codeShadow, swapping_dropStopped]
  rfl

/-- Settles O53: each event where its conditions hold; a team taken out by `retire_of_plain`, a partition moved out by `swapping_swapOut`. -/
theorem gridSteps : Obligations.GridSteps := by
  refine ⟨?doorbell, ?qctl, ?entryRead, ?accept, ?acceptEntry, ?distribute, ?retire, ?retirePlain, ?gridRetire, ?resume, ?swapDone, ?swapOut⟩
  case doorbell => exact fun s n tail hn => congrArg _ (if_pos hn)
  case qctl => exact fun s n v hn => congrArg _ (if_pos hn)
  case entryRead =>
    refine fun s n hn hready => ⟨fun hctx => execQueueEntryRead_of_no_context hn hready hctx, fun s1 hctx hheld => ?_⟩
    refine ⟨fun e htr => execQueueEntryRead_of_fault hn hready hctx hheld htr, fun pa htr =>
      ⟨execQueueEntryRead_of_poison hn hready hctx hheld htr, execQueueEntryRead_of_bad_completion hn hready hctx hheld htr,
        fun hclean hgood => ?_⟩⟩
    exact ⟨_, _, execQueueEntryRead_of_good hn hready hctx hheld htr hclean hgood, rfl, rfl, rfl, rfl, rfl, rfl, rfl⟩
  case accept => exact fun s i x hi hx hk => execGridAccept_of_next hi hx hk
  case acceptEntry =>
    intro s i x he hchild hrec hreplay
    obtain ⟨y, hy⟩ := acceptEntry_of_child (s := s) (i := i) he hchild hrec hreplay
    exact ⟨_, y, rfl, hy⟩
  case distribute =>
    intro s t serial tile trailer x hx hw haway hswap hthird hfirst harea
    have hdist := execTeamDistribute_eq hx hw haway hswap hthird hfirst harea
    exact ⟨fun hset hplace => hdist.trans (by rw [hset, hplace]; rfl), fun hall hplace => hdist.trans (by rw [hall, hplace]; rfl)⟩
  case retire => exact fun s t ht hown hdone hheld => execTeamRetire_of_done ht hown hdone hheld
  case retirePlain =>
    intro s t ht hrole hc hdone hg
    exact ⟨_, execTeamRetire_of_done ht (by simp [Team.own, hrole]) hdone (by simp [hg]), retire_of_plain hc hg⟩
  case gridRetire => exact fun s serial x hx hdone hteams hheld => ⟨_, execGridRetire_of_done hx hdone hteams hheld, rfl, rfl⟩
  case resume => exact fun s u tid tile t ht hr hfirst hall => execGroupResume_of_resumable ht hr hfirst hall
  case swapDone =>
    exact fun s w hw => ⟨fun hout hbusy => by simp [exec, execPartitionSwapDone, hw, hout, hbusy], fun hin => by
      simp [exec, execPartitionSwapDone, hw, hin]⟩
  case swapOut => exact fun s w _ => Prod.mk.inj (swapping_swapOut s w)

end Sys2Proof.Machine
end

section
/-! The words of instructions whose fields are d, a and b, and what the operand forms write: registers, pairs, predicates, uniform registers
(02 R24, R26, R35; 04 R93, R94). -/

namespace Sys2Proof

/-- A word 0 with set bit `set`, opcode `op`, fields d, a and b, and guard `g`: formats LR and UR (02 R23, R24, R26). -/
abbrev WordDab (i : Instr) (set : Bool) (op : BitVec 7) (d a b : BitVec 6) (g : BitVec 4) : Prop :=
  ∃ w, encode i = [w] ∧ w.getLsbD 31 = set ∧ w.extractLsb' 22 7 = op ∧ w.extractLsb' 16 6 = d ∧ w.extractLsb' 10 6 = a ∧
    w.extractLsb' 4 6 = b ∧ w.extractLsb' 0 4 = g

theorem wordDab_of_encode {i : Instr} {set : Bool} {op : BitVec 7} {h : Hdr} {d a b : BitVec 6} {f : Nat}
    (he : encode i = [word0 set.toNat op.toNat h f])
    (hfields : f = d.toNat * 65536 + a.toNat * 1024 + b.toNat * 16 := by simp) : WordDab i set op d a b h.g := by
  have hf : FormatFields f := by omega
  have hop : op.toNat < 128 := op.isLt
  refine ⟨_, he, ?set, BitVec.eq_of_toNat_eq (word0_op hf hop), ?d, ?a, ?b, congrArg Hdr.g (hdrOf_word0 hf hop)⟩
  case set =>
    have hs := word0_set (h := h) hf set.toNat_lt hop
    rw [ext_eq] at hs
    rw [BitVec.getLsbD, Nat.testBit_eq_decide_div_mod_eq]
    exact (congrArg (fun n => decide (n = 1)) hs).trans (decide_toNat_eq_one set)
  case d => exact (word0_field hf (by omega) (by omega)).trans (ofNat_eq_of (by omega))
  case a => exact (word0_field hf (by omega) (by omega)).trans (ofNat_eq_of (by omega))
  case b => exact (word0_field hf (by omega) (by omega)).trans (ofNat_eq_of (by omega))

end Sys2Proof

namespace Sys2Proof.Machine

section
variable {i : Instr} {h : Hdr} {u : Uses} {d a b c : BitVec 6}

/-! ## Vector registers -/

/-- Only the values in the 32 lanes count. -/
theorem LaneSets.congr {f f' : Group → W32 → Nat → W32} (hs : LaneSets i h u d f) (hf : ∀ g m l, l < 32 → f g m l = f' g m l) :
    LaneSets i h u d f' := by
  intro s sp hc
  obtain ⟨t, ht, hv, hstill⟩ := hs s sp hc
  exact ⟨t, ht, fun r l hl => by rw [hv r l hl, hf _ _ _ hl], hstill⟩

theorem laneSets_laneUn (f : W32 → W32) (he : ∀ s, exec i s = laneUn i h d a f s) :
    LaneSets i h { vr := [v1 a], vw := [v1 d] } d (fun g _ l => f (g.op a l)) :=
  laneSets_of he fun _ _ => rfl

theorem laneSets_laneBin (f : W32 → W32 → W32) (he : ∀ s, exec i s = laneBin i h d a b f s) :
    LaneSets i h { vr := [v1 a, v1 b], vw := [v1 d] } d (fun g _ l => f (g.op a l) (g.op b l)) :=
  laneSets_of he fun _ _ => rfl

theorem laneSets_laneTri (f : W32 → W32 → W32 → W32) (he : ∀ s, exec i s = laneTri i h d a b c f s) :
    LaneSets i h { vr := [v1 a, v1 b, v1 c], vw := [v1 d] } d (fun g _ l => f (g.op a l) (g.op b l) (g.op c l)) :=
  laneSets_of he fun _ _ => rfl

/-- An exchange reads the lane that `src` names in the group as it was at issue (04 R105). -/
theorem laneSets_exchange (src : Group → Nat → Nat) (he : ∀ s, exec i s = issueLane i h u (exchange d a src) s)
    (hsrc : ∀ g c, src { g with cleared := c } = src g) : LaneSets i h u d (fun g _ l => g.op a (src g l)) :=
  laneSets_of he fun g c => by rw [hsrc]; rfl

/-- A register written under a mask where `on` holds: its lanes, and nothing else but the line it makes dirty. -/
theorem wvMask_still {s t : State} {on : Bool} {r0 : Nat} {m : W32} {f : Nat → W32}
    (hs : t.still = (if on = true then { s.open_ with g := s.open_.g.wvMask r0 m f } else s).still) :
    (∀ r l, l < 32 → t.g.rv r l = if r = r0 ∧ on = true ∧ m.getLsbD l = true then f l else s.g.rv r l) ∧
    t.still = ({ s with g := { s.g with v := t.g.v, dirty := t.g.dirty } } : State).still := by
  have hv := still_field (fun g => g.v) (fun _ => rfl) hs
  have hd := still_field (fun g => g.dirty) (fun _ => rfl) hs
  cases on with
  | true =>
    simp only [if_true] at hs hv hd
    refine ⟨fun r l hl => ?_, ?_⟩
    · rw [show t.g.rv r l = (s.open_.g.wvMask r0 m f).rv r l by simp only [Group.rv, hv], rv_wvMask _ _ _ _ _ _ hl]
      simp only [true_and]
      rfl
    · rw [hs, hv, hd, wvMask_rest]
      rfl
  | false =>
    simp only [Bool.false_eq_true, if_false] at hs hv hd
    exact ⟨fun r l _ => by simp [Group.rv, hv], by rw [hs, hv, hd]⟩

/-! ## Predicates -/

/-- A lane of a predicate after a write of one in the lanes of a mask; a write of p7 is discarded (02 R35). -/
theorem rp_wpMask_lane (g : Group) (p k : Nat) (m x : W32) {l : Nat} (hl : l < 32) :
    ((g.wpMask p m x).rp k).getLsbD l = if k = p ∧ p ≠ 7 ∧ m.getLsbD l = true then x.getLsbD l else (g.rp k).getLsbD l := by
  rw [rp_wpMask]
  by_cases hk : k = p ∧ p ≠ 7
  · obtain ⟨rfl, hp⟩ := hk
    simp only [hp, ne_eq, not_false_eq_true, and_self, if_true, true_and, BitVec.getLsbD_or, BitVec.getLsbD_and, BitVec.getLsbD_not, hl,
      decide_true, Bool.true_and]
    cases m.getLsbD l <;> simp
  · rw [if_neg hk, if_neg fun hc => hk ⟨hc.1, hc.2.1⟩]

theorem wpFold_rest (ks : List Nat) (m : W32) (x : Nat → W32) : ∀ g : Group,
    ks.foldl (fun g k => g.wpMask k m (x k)) g = { g with
      p := (ks.foldl (fun g k => g.wpMask k m (x k)) g).p
      dirty := (ks.foldl (fun g k => g.wpMask k m (x k)) g).dirty
      touched := (ks.foldl (fun g k => g.wpMask k m (x k)) g).touched } := by
  induction ks with
  | nil => exact fun _ => rfl
  | cons k rest ih =>
    intro g
    rw [List.foldl_cons, ih, wpMask_rest]

/-- A lane of a predicate after writes of several, none of them p7. -/
theorem wpFold_rp_lane (ks : List Nat) (m : W32) (x : Nat → W32) {l : Nat} (hl : l < 32) (k : Nat) : ∀ g : Group, 7 ∉ ks →
    ((ks.foldl (fun g k => g.wpMask k m (x k)) g).rp k).getLsbD l =
      if k ∈ ks ∧ m.getLsbD l = true then (x k).getLsbD l else (g.rp k).getLsbD l := by
  induction ks with
  | nil => simp
  | cons j rest ih =>
    intro g h7
    rw [List.mem_cons, not_or] at h7
    rw [List.foldl_cons, ih _ h7.2, rp_wpMask_lane _ _ _ _ _ hl]
    by_cases hk : k = j
    · subst hk
      by_cases hm : m.getLsbD l = true
      · simp [Ne.symm h7.1, hm]
      · simp [hm]
    · simp [hk]

/-- Predicates written one after another in the active lanes: their lanes, and nothing else but the line they make dirty. -/
theorem wpFold_still {s t : State} {h : Hdr} {ks : List Nat} {x : Nat → W32} (h7 : 7 ∉ ks)
    (hs : t.still = (if someLane h s = true then
      { s.open_ with g := ks.foldl (fun g k => g.wpMask k (activeMask h s) (x k)) s.open_.g } else s).still) :
    (∀ k l, l < 32 → (t.g.rp k).getLsbD l =
      if k ∈ ks ∧ (activeMask h s).getLsbD l = true then (x k).getLsbD l else (s.g.rp k).getLsbD l) ∧
    t.still = ({ s with g := { s.g with p := t.g.p, dirty := t.g.dirty } } : State).still := by
  have hp := still_field (fun g => g.p) (fun _ => rfl) hs
  have hd := still_field (fun g => g.dirty) (fun _ => rfl) hs
  by_cases hl : someLane h s = true
  · simp only [hl, if_true] at hs hp hd
    refine ⟨fun k l hl => ?_, ?_⟩
    · rw [← open_rp s k, ← wpFold_rp_lane ks _ x hl k _ h7, Group.rp, hp]
      rfl
    · rw [hs, hp, hd, wpFold_rest]
      rfl
  · simp only [hl, Bool.false_eq_true, if_false] at hs hp hd
    have hm : activeMask h s = 0 := by simpa [someLane] using hl
    exact ⟨fun k l _ => by simp [Group.rp, hp, hm], by rw [hs, hp, hd]⟩

/-- A lane-set instruction that writes several predicates, none of them p7, from the group as it was at issue. -/
theorem predFold_of {ks : List Nat} {x : Group → Nat → W32} {s : State} {sp : Split} (h7 : 7 ∉ ks)
    (he : ∀ s, exec i s = issueLane i h u
      (fun m _ s => ({ s with g := ks.foldl (fun g k => g.wpMask k m (x s.g k)) s.g }, .fall)) s)
    (hx : ∀ g c, x { g with cleared := c } = x g) (hc : s.canIssue i u sp) : ∃ t, exec i s = .next t ∧
      (∀ k l, l < 32 → (t.g.rp k).getLsbD l =
        if k ∈ ks ∧ (activeMask h s).getLsbD l = true then (x s.g k).getLsbD l else (s.g.rp k).getLsbD l) ∧
      t.still = ({ s with g := { s.g with p := t.g.p, dirty := t.g.dirty } } : State).still := by
  obtain ⟨t, ht, hs⟩ := lane_fall (he s) hc
    { s.open_ with g := ks.foldl (fun g k => g.wpMask k (activeMask h s) (x s.g k)) s.open_.g } fun _ => by simp only [State.open_, hx]
  exact ⟨t, ht, wpFold_still h7 hs⟩

/-- An instruction that computes a predicate lane by lane (04 R102). -/
theorem predSets_setPred {p : BitVec 3} {f : Group → W32 → Nat → Bool}
    (he : ∀ s, exec i s = issueLane i h u (fun m sp s => setPred p (fun g => f g m) m sp s) s)
    (hf : ∀ g c, f { g with cleared := c } = f g) : PredSets i h u p f :=
  predSets_of (x := fun m g => maskOf (laneList.filter (f g m))) he (fun _ _ _ hl => maskOf_bit _ _ hl) (fun _ _ _ => by simp only [hf])

/-! ## Uniform registers and predicates -/

theorem uniSets_uniSet (rd : List (BitVec 6)) (f : Group → W64) (he : ∀ s, exec i s = uniSet i h d rd f s)
    (hf : ∀ g c, f { g with cleared := c } = f g) :
    UniSets i h { sr := rd.map (·.toNat), sw := [d.toNat] } d (fun s _ => f s.g) :=
  uniSets_of he fun s => funext fun _ => hf s.g none

theorem uniSets_uniBin (f : W64 → W64 → W64) (he : ∀ s, exec i s = uniBin i h d a b f s) :
    UniSets i h { sr := [a.toNat, b.toNat], sw := [d.toNat] } d (fun s _ => f (s.g.rs a.toNat) (s.g.rs b.toNat)) :=
  uniSets_uniSet [a, b] _ he fun _ _ => rfl

/-- A uniform predicate after a write of one; a write of q7 is discarded and q7 reads as 1 (02 R35). -/
theorem rq_wq (g : Group) (q : BitVec 3) (x : Bool) {k : Nat} (hk : k < 8) :
    (g.wq q.toNat x).rq k = if k = q.toNat ∧ k ≠ 7 then x else g.rq k := by
  have hbit : (BitVec.ofNat 8 (2 ^ q.toNat)).getLsbD k = decide (k = q.toNat) := by
    rw [BitVec.getLsbD_ofNat, Nat.testBit_two_pow]
    simp [hk, eq_comm]
  unfold Group.wq Group.rq
  by_cases h7 : k = 7
  · simp [h7]
  by_cases hq7 : q.toNat = 7
  · simp [hq7, h7]
  simp only [h7, hq7, if_false, decide_false, Bool.false_or, BitVec.getLsbD_or, BitVec.getLsbD_and, BitVec.getLsbD_not, hbit, hk, ne_eq,
    not_false_eq_true, and_true, apply_ite (BitVec.getLsbD · k), decide_true, Bool.true_and]
  by_cases hkq : k = q.toNat <;> cases x <;> simp [hkq]

end

end Sys2Proof.Machine
end

section
/-! What the functions of the integer instructions say of every value (04 R95, R96, R100, R103 to R107). -/

namespace Sys2Proof.Machine

/-! ## Rotation, counts and reversal (R95, R96) -/

/-- A rotation by the low five bits of a count, as two shifts (R95). -/
theorem rotateLeft_cnt32 (x y : W32) : x.rotateLeft (cnt32 y) =
    (x <<< (y.toNat % 32)) ||| (if y.toNat % 32 = 0 then 0 else x >>> (32 - y.toNat % 32)) := by
  rw [cnt32, BitVec.rotateLeft_def, Nat.mod_mod]
  split
  next hzero => rw [hzero, BitVec.ushiftRight_eq_zero (Nat.le_refl 32)]; rfl
  next => rfl

theorem laneList_eq_range : laneList = List.range 32 := rfl

theorem popCount_eq_countP (x : W32) : popCount x = (List.range 32).countP (fun i => x.getLsbD i) := by
  rw [popCount, lanesOf, laneList_eq_range, List.countP_eq_length_filter]

theorem toNat_popc32 (x : W32) : (popc32 x).toNat = (List.range 32).countP (fun i => x.getLsbD i) := by
  have hle : (List.range 32).countP (fun i => x.getLsbD i) ≤ 32 := List.countP_le_length
  rw [popc32, popCount_eq_countP, BitVec.toNat_ofNat, Nat.mod_eq_of_lt (by omega)]

theorem clz32_zero : clz32 0 = 32 := by decide

/-- CLZ looks for the first 1 from bit 31 downwards. -/
theorem clz32_of_find {x : W32} {i : Nat} (hi : ((List.range 32).map (31 - ·)).find? (fun j => x.getLsbD j) = some i) :
    clz32 x = BitVec.ofNat 32 (31 - i) := by
  unfold clz32
  split
  next j hj => rw [Option.some.inj (hi.symm.trans hj)]
  next hnone => exact absurd (hi.symm.trans hnone) (Option.some_ne_none i)

theorem clz32_of_leading {x : W32} {n : Nat} (hn : n < 32) (hone : x.getLsbD (31 - n) = true)
    (hzero : ∀ i, i < n → x.getLsbD (31 - i) = false) : (clz32 x).toNat = n := by
  have hfind : ((List.range 32).find? fun i => x.getLsbD (31 - i)) = some n :=
    List.find?_range_eq_some.mpr ⟨hone, List.mem_range.mpr hn, fun j hj => by simp [hzero j hj]⟩
  have hbit : ((List.range 32).map (31 - ·)).find? (fun j => x.getLsbD j) = some (31 - n) :=
    List.find?_map.trans (congrArg (Option.map (31 - ·)) hfind)
  rw [clz32_of_find hbit, BitVec.toNat_ofNat]
  omega

theorem maskOf_getLsbD (ls : List Nat) {l : Nat} (hl : l < 32) : (maskOf ls).getLsbD l = decide (l ∈ ls) := by
  rw [maskOf, maskFold_bit _ _ hl]
  simp

theorem brev32_bit (x : W32) {i : Nat} (hi : i < 32) : (brev32 x).getLsbD i = x.getLsbD (31 - i) := by
  have hmem : i ∈ (lanesOf x).map (fun j => 31 - j) ↔ x.getLsbD (31 - i) = true := by
    rw [List.mem_map]
    constructor
    · rintro ⟨j, hj, rfl⟩
      have hlt := lanesOf_lt j hj
      rw [show 31 - (31 - j) = j by omega]
      exact (mem_lanesOf hlt).mp hj
    · exact fun hbit => ⟨31 - i, (mem_lanesOf (by omega)).mpr hbit, by omega⟩
  rw [brev32, maskOf_getLsbD _ hi, Bool.eq_iff_iff, decide_eq_true_iff]
  exact hmem

/-! ## Bit fields (R100) -/

/-- The top bit of a field that holds a number. -/
theorem testBit_top {fld len : Nat} (hlen : 0 < len) (hfld : fld < 2 ^ len) : fld.testBit (len - 1) = true ↔ 2 ^ (len - 1) ≤ fld :=
  ⟨Nat.ge_two_pow_of_testBit, fun hle => Nat.testBit_of_two_pow_le_and_two_pow_add_one_gt hle (by rwa [Nat.sub_add_cancel hlen])⟩

/-- BFX sign-extends where it is signed and the field is not empty and its top bit is 1. -/
theorem bitExtract_eq (signed : Bool) (x : W32) (pos n : Nat) : bitExtract signed x pos n =
    let len := min n (32 - pos)
    let fld := x.toNat / 2 ^ pos % 2 ^ len
    if signed = true ∧ 0 < len ∧ fld.testBit (len - 1) = true then BitVec.ofInt 32 ((fld : Int) - 2 ^ len) else BitVec.ofNat 32 fld := by
  extract_lets len fld
  have htop : (0 < len ∧ fld.testBit (len - 1) = true) ↔ (0 < len ∧ 2 ^ (len - 1) ≤ fld) :=
    and_congr_right fun hlen => testBit_top hlen (Nat.mod_lt _ (Nat.two_pow_pos len))
  have hcond : (signed && decide (0 < len) && decide (2 ^ (len - 1) ≤ fld)) = true ↔
      signed = true ∧ 0 < len ∧ fld.testBit (len - 1) = true := by
    rw [htop, Bool.and_eq_true, Bool.and_eq_true, decide_eq_true_iff, decide_eq_true_iff, and_assoc]
  exact if_congr hcond rfl rfl

/-! ## Predicates of a lane (R103, R104) -/

/-- PSET's operation on the lanes' bits (R103). -/
theorem predOp_bit (op : BitVec 3) (x y : W32) {l : Nat} (hl : l < 32) : (predOp op x y).getLsbD l =
    match op.toNat with
    | 0 => x.getLsbD l && y.getLsbD l
    | 1 => x.getLsbD l || y.getLsbD l
    | 2 => x.getLsbD l ^^ y.getLsbD l
    | 3 => x.getLsbD l && !y.getLsbD l
    | _ => x.getLsbD l || !y.getLsbD l := by
  unfold predOp
  generalize op.toNat = k
  split <;> simp [hl]

/-- The eight predicates of a lane are the binary digits of PMOV's value (R104). -/
theorem predBits_eq_sum (g : Group) (l : Nat) :
    predBits g l = BitVec.ofNat 32 (((List.range 8).map (fun i => if (g.rp i).getLsbD l = true then 2 ^ i else 0)).sum) := by
  have hdigit : (fun i => if (g.rp i).getLsbD l = true then 2 ^ i else 0) = fun i => bitOf ((g.rp i).getLsbD l) * 2 ^ i := by
    funext i
    cases (g.rp i).getLsbD l <;> simp
  rw [predBits, hdigit, List.sum_eq_foldl, List.foldl_map]
  rfl

/-! ## Lanes (R105) -/

theorem shiftLane_eq (n : BitVec 6) (l : Nat) :
    shiftLane n l = if 0 ≤ (l : Int) + n.toInt ∧ (l : Int) + n.toInt ≤ 31 then ((l : Int) + n.toInt).toNat else l := by
  simp only [shiftLane, Bool.and_eq_true, decide_eq_true_eq]

/-! ## LCOMB's operations are commutative and associative (R107) -/

section
variable {n : Nat}

theorem toInt_minS (x y : BitVec n) : (minS x y).toInt = min x.toInt y.toInt := by
  rw [minS, min_def, apply_ite BitVec.toInt]

theorem toInt_maxS (x y : BitVec n) : (maxS x y).toInt = max x.toInt y.toInt := by
  rw [maxS, max_def, apply_ite BitVec.toInt]

theorem toNat_minU (x y : BitVec n) : (minU x y).toNat = min x.toNat y.toNat := by
  rw [minU, min_def, apply_ite BitVec.toNat]

theorem toNat_maxU (x y : BitVec n) : (maxU x y).toNat = max x.toNat y.toNat := by
  rw [maxU, max_def, apply_ite BitVec.toNat]

/-- The eight operations of LCOMB. -/
theorem combOp_cases (op : BitVec 4) : combOp (n := n) op = (· + ·) ∨ combOp (n := n) op = minS ∨ combOp (n := n) op = maxS ∨
    combOp (n := n) op = minU ∨ combOp (n := n) op = maxU ∨ combOp (n := n) op = (· &&& ·) ∨ combOp (n := n) op = (· ||| ·) ∨
    combOp (n := n) op = (· ^^^ ·) := by
  unfold combOp
  generalize op.toNat = k
  match k with
  | 0 | 1 | 2 | 3 | 4 | 5 | 6 | _ + 7 => simp

theorem combOp_comm (op : BitVec 4) (x y : BitVec n) : combOp op x y = combOp op y x := by
  obtain h | h | h | h | h | h | h | h := combOp_cases (n := n) op <;> rw [h]
  · exact BitVec.add_comm x y
  · exact BitVec.eq_of_toInt_eq (by rw [toInt_minS, toInt_minS, min_comm])
  · exact BitVec.eq_of_toInt_eq (by rw [toInt_maxS, toInt_maxS, max_comm])
  · exact BitVec.eq_of_toNat_eq (by rw [toNat_minU, toNat_minU, min_comm])
  · exact BitVec.eq_of_toNat_eq (by rw [toNat_maxU, toNat_maxU, max_comm])
  · exact BitVec.and_comm x y
  · exact BitVec.or_comm x y
  · exact BitVec.xor_comm x y

theorem combOp_assoc (op : BitVec 4) (x y z : BitVec n) : combOp op (combOp op x y) z = combOp op x (combOp op y z) := by
  obtain h | h | h | h | h | h | h | h := combOp_cases (n := n) op <;> rw [h]
  · exact BitVec.add_assoc x y z
  · exact BitVec.eq_of_toInt_eq (by simp only [toInt_minS, min_assoc])
  · exact BitVec.eq_of_toInt_eq (by simp only [toInt_maxS, max_assoc])
  · exact BitVec.eq_of_toNat_eq (by simp only [toNat_minU, min_assoc])
  · exact BitVec.eq_of_toNat_eq (by simp only [toNat_maxU, max_assoc])
  · exact BitVec.and_assoc x y z
  · exact BitVec.or_assoc x y z
  · exact BitVec.xor_assoc x y z

theorem combOp_left_comm (op : BitVec 4) (x y z : BitVec n) : combOp op x (combOp op y z) = combOp op y (combOp op x z) := by
  rw [← combOp_assoc, combOp_comm op x y, combOp_assoc]

theorem combine_cons (op : BitVec 4) (x : BitVec n) {l : List (BitVec n)} (hl : l ≠ []) :
    combine op (x :: l) = combOp op x (combine op l) := by
  cases l with
  | nil => exact absurd rfl hl
  | cons y rest => rfl

/-- The order of the lanes does not matter to their combination. -/
theorem combine_perm (op : BitVec 4) {l l' : List (BitVec n)} (hp : l.Perm l') : combine op l = combine op l' := by
  induction hp with
  | nil => rfl
  | @cons x l l' hp ih =>
    by_cases hl : l = []
    · subst hl
      rw [hp.nil_eq]
    · have hl' : l' ≠ [] := fun he => hl (by rw [he] at hp; exact hp.eq_nil)
      rw [combine_cons op x hl, combine_cons op x hl', ih]
  | swap x y l =>
    by_cases hl : l = []
    · subst hl
      exact combOp_comm op y x
    · simp only [combine_cons op _ (List.cons_ne_nil _ _), combine_cons op _ hl, combOp_left_comm op y x]
  | trans _ _ ih ih' => exact ih.trans ih'

end

end Sys2Proof.Machine
end

section
/-! The integer instructions (chapter 04). -/

namespace Sys2Proof.Machine

/-- Settles O6: the words by `wordDab_of_encode`, and each instruction is `laneBin` with its function; ROTL's rotation is two shifts. -/
theorem twoRegisters : Obligations.TwoRegisters := by
  intro h d a b
  refine ⟨wordDab_of_encode rfl, wordDab_of_encode rfl, wordDab_of_encode rfl, wordDab_of_encode rfl, wordDab_of_encode rfl,
    wordDab_of_encode rfl, wordDab_of_encode rfl, wordDab_of_encode rfl, wordDab_of_encode rfl, wordDab_of_encode rfl,
    wordDab_of_encode rfl, wordDab_of_encode rfl, wordDab_of_encode rfl, wordDab_of_encode rfl, wordDab_of_encode rfl,
    wordDab_of_encode rfl, wordDab_of_encode rfl,
    laneSets_laneBin (· + ·) fun _ => rfl, laneSets_laneBin (· - ·) fun _ => rfl, laneSets_laneBin (· * ·) fun _ => rfl,
    laneSets_laneBin mulHigh fun _ => rfl, laneSets_laneBin mulHighU fun _ => rfl, laneSets_laneBin minS fun _ => rfl,
    laneSets_laneBin maxS fun _ => rfl, laneSets_laneBin minU fun _ => rfl, laneSets_laneBin maxU fun _ => rfl,
    laneSets_laneBin (· &&& ·) fun _ => rfl, laneSets_laneBin (· ||| ·) fun _ => rfl, laneSets_laneBin (· ^^^ ·) fun _ => rfl,
    laneSets_laneBin (· &&& ~~~·) fun _ => rfl, laneSets_laneBin (· <<< cnt32 ·) fun _ => rfl, laneSets_laneBin (· >>> cnt32 ·) fun _ => rfl,
    laneSets_laneBin (fun x y => x.sshiftRight (cnt32 y)) fun _ => rfl, ?rotl⟩
  case rotl => exact (laneSets_laneBin (fun x y => x.rotateLeft (cnt32 y)) fun _ => rfl).congr fun _ _ _ _ => rotateLeft_cnt32 _ _

/-- Settles O7: the words with field b zero, the instructions as `laneUn` with their functions, and the functions on every value. -/
theorem oneRegister : Obligations.OneRegister := by
  refine ⟨fun h d a => ?forms, toNat_popc32, clz32_zero, fun _ _ => clz32_of_leading, fun x _ => brev32_bit x⟩
  case forms =>
    exact ⟨wordDab_of_encode rfl, wordDab_of_encode rfl, wordDab_of_encode rfl, wordDab_of_encode rfl, wordDab_of_encode rfl,
      wordDab_of_encode rfl, wordDab_of_encode rfl,
      laneSets_laneUn (fun x => if x.toInt < 0 then 0 - x else x) fun _ => rfl, laneSets_laneUn (0 - ·) fun _ => rfl,
      laneSets_laneUn popc32 fun _ => rfl, laneSets_laneUn clz32 fun _ => rfl, laneSets_laneUn brev32 fun _ => rfl,
      laneSets_laneUn (·) fun _ => rfl, laneSets_of (fun _ => rfl) fun _ _ => rfl⟩

/-- Settles O8: each instruction is an operand form with its function; BFX's sign is the top bit of its field (`bitExtract_eq`). -/
theorem wideAndSecondWord : Obligations.WideAndSecondWord := by
  intro h d a b c k neg p t op n pos
  refine ⟨laneSetsPair_of (fun _ => rfl) fun _ _ => rfl, laneSets_of (fun _ => rfl) fun _ _ => rfl,
    laneSets_laneUn (· + k) fun _ => rfl, laneSets_laneTri (fun x y z => x * y + z) fun _ => rfl, laneSets_of (fun _ => rfl) fun _ _ => rfl,
    ?bfx, laneSets_of (fun _ => rfl) fun _ _ => rfl⟩
  case bfx =>
    refine (laneSets_of (f := fun g _ l => bitExtract (decide (t.toNat = 1)) (g.op a l) (pos g l) n.toNat) (fun _ => rfl)
      fun _ _ => rfl).congr fun g _ l _ => (bitExtract_eq _ _ _ _).trans ?_
    simp only [decide_eq_true_eq]

/-- Settles O9: ICMP and PSET write one predicate bit by bit, PMOV's value is the sum of its digits, and PMOV to the predicates writes p0 to
p6 one after another. -/
theorem predicates : Obligations.Predicates := by
  refine ⟨fun h cc p pa pb op a b => ⟨?icmp, ?pset⟩, fun h d => ?fromP, fun h a s sp hc => ?toP⟩
  case icmp => exact predSets_setPred (fun _ => rfl) fun _ _ => rfl
  case pset =>
    exact predSets_of (x := fun _ g => predOp op (g.rp pa.toNat) (g.rp pb.toNat)) (fun _ => rfl)
      (fun _ _ _ hl => predOp_bit op _ _ hl) fun _ _ _ => rfl
  case fromP => exact (laneSets_of (f := fun g _ l => predBits g l) (fun _ => rfl) fun _ _ => rfl).congr fun g _ l _ => predBits_eq_sum g l
  case toP =>
    obtain ⟨t, ht, hbits, hstill⟩ := predFold_of (x := fun g k => maskOf (laneList.filter (fun l => (g.op a l).getLsbD k)))
      (ks := upFrom 0 7) (by decide) (fun _ => rfl) (fun _ _ => rfl) hc
    refine ⟨t, ht, fun k l hl => ?_, hstill⟩
    rw [hbits k l hl, maskOf_bit _ _ hl]
    simp only [upFrom_eq_range', List.mem_range'_1, Nat.zero_le, true_and, Nat.zero_add]

/-- Settles O10: each is an exchange with its source lane. -/
theorem laneExchanges : Obligations.LaneExchanges := by
  intro h d a b n6 n
  refine ⟨laneSets_exchange (fun g l => (g.op b l).toNat % 32) (fun _ => rfl) fun _ _ => rfl,
    laneSets_exchange (fun _ l => (BitVec.ofNat 5 l ^^^ n).toNat) (fun _ => rfl) fun _ _ => rfl,
    laneSets_exchange (fun _ l => (l + n.toNat) % 32) (fun _ => rfl) fun _ _ => rfl, ?shift⟩
  case shift =>
    exact (laneSets_exchange (fun _ => shiftLane n6) (fun _ => rfl) fun _ _ => rfl).congr fun g _ l _ => congrArg (g.op a) (shiftLane_eq n6 l)

/-- Settles O11: the views of `viewSet`, LCOMB at both widths, and its independence of the order by `combine_perm`. -/
theorem viewsAndCombinations : Obligations.ViewsAndCombinations := by
  refine ⟨fun h d pd p neg => ?views, fun h d a t op => ⟨fun ht => ?narrow, fun ht => ?wide⟩, fun op _ _ _ hp => combine_perm op hp⟩
  case views =>
    exact ⟨laneSets_of (fun _ => rfl) fun _ _ => rfl, predSets_setPred (fun _ => rfl) fun _ _ => rfl,
      predSets_setPred (fun _ => rfl) fun _ _ => rfl, laneSets_of (fun _ => rfl) fun _ _ => rfl⟩
  case narrow => exact laneSets_of (fun _ => if_pos ht) fun _ _ => rfl
  case wide => exact laneSetsPair_of (fun _ => if_neg ht) fun _ _ => rfl

/-- Settles O12: the words by `wordDab_of_encode`, and each instruction is `uniSet` with its function. -/
theorem uniformArithmetic : Obligations.UniformArithmetic := by
  intro h d a b k
  exact ⟨wordDab_of_encode rfl, wordDab_of_encode rfl, wordDab_of_encode rfl, wordDab_of_encode rfl, wordDab_of_encode rfl,
    wordDab_of_encode rfl, wordDab_of_encode rfl, wordDab_of_encode rfl, wordDab_of_encode rfl, wordDab_of_encode rfl,
    wordDab_of_encode rfl, wordDab_of_encode rfl, wordDab_of_encode rfl,
    uniSets_uniBin (· + ·) fun _ => rfl, uniSets_uniBin (· - ·) fun _ => rfl, uniSets_uniBin (· * ·) fun _ => rfl,
    uniSets_uniBin (fun x y => wrap64 (x.toInt * y.toInt / 2 ^ 64)) fun _ => rfl, uniSets_uniBin (· &&& ·) fun _ => rfl,
    uniSets_uniBin (· ||| ·) fun _ => rfl, uniSets_uniBin (· ^^^ ·) fun _ => rfl, uniSets_uniBin (· <<< cnt64 ·) fun _ => rfl,
    uniSets_uniBin (· >>> cnt64 ·) fun _ => rfl, uniSets_uniBin (fun x y => x.sshiftRight (cnt64 y)) fun _ => rfl,
    uniSets_uniBin minS fun _ => rfl, uniSets_uniBin maxS fun _ => rfl,
    uniSets_uniSet [d, a, b] (fun g => (g.rs a.toNat &&& g.rs d.toNat) ||| (g.rs b.toNat &&& ~~~(g.rs d.toNat))) (fun _ => rfl) fun _ _ => rfl,
    uniSets_uniSet [a] (fun g => g.rs a.toNat) (fun _ => rfl) fun _ _ => rfl,
    uniSets_uniSet [] (fun _ => k.signExtend 64) (fun _ => rfl) fun _ _ => rfl,
    uniSets_uniSet [d] (fun g => k ++ (g.rs d.toNat).extractLsb' 0 32) (fun _ => rfl) fun _ _ => rfl,
    uniSets_uniSet [a] (fun g => g.rs a.toNat + k.signExtend 64) (fun _ => rfl) fun _ _ => rfl⟩

/-- SSETQ writes a uniform predicate where its guard is true, and nothing else (R110). -/
theorem exec_ssetq {h : Hdr} {cc q : BitVec 3} {a b : BitVec 6} {s : State} {sp : Split}
    (hc : s.canIssue (.ssetq h cc q a b) { sr := [a.toNat, b.toNat] } sp) : ∃ t, exec (.ssetq h cc q a b) s = .next t ∧
      (∀ k, k < 8 → t.g.rq k =
        if k = q.toNat ∧ k ≠ 7 ∧ guardOn h s = true then compares cc (s.g.rs a.toNat) (s.g.rs b.toNat) else s.g.rq k) ∧
      t.still = ({ s with g := { s.g with q := t.g.q } } : State).still := by
  obtain ⟨t, ht, hs⟩ := uni_fall (i := .ssetq h cc q a b) (h := h)
    (body := fun _ s => ({ s with g := s.g.wq q.toNat (compares cc (s.g.rs a.toNat) (s.g.rs b.toNat)) }, .fall)) rfl hc _ fun _ => rfl
  have hq := still_field (fun g => g.q) (fun _ => rfl) hs
  cases hg : guardOn h s with
  | true =>
    simp only [hg, if_true] at hs hq
    refine ⟨t, ht, fun k hk => ?_, ?_⟩
    · rw [Group.rq, hq]
      exact (rq_wq s.open_.g q _ hk).trans (by simp only [and_true]; rfl)
    · rw [hs, hq, wq_rest]
      rfl
  | false =>
    simp only [hg, Bool.false_eq_true, if_false] at hs hq
    exact ⟨t, ht, fun k _ => by simp [Group.rq, hq], by rw [hs, hq]⟩

/-- Settles O13: SSETQ by `exec_ssetq`, BCAST as a write of a register under the split's mask, LREAD as a write of S[d]. -/
theorem uniformAndLanes : Obligations.UniformAndLanes := by
  refine ⟨fun h cc q a b s sp hc => exec_ssetq hc, fun h d a s sp hc => ?bcast, fun h d a b => ?lread⟩
  case bcast =>
    obtain ⟨t, ht, hs⟩ := issue_fall s (.bcast h d a) h { vw := [v1 d], sr := [a.toNat] } sp
      (fun s => match s.g.running with | some sp => sp.mask | none => 0) (fun s => s.g.guardTrue h.g)
      (fun s => match s.g.running with
        | none => (s, .fall)
        | some sp => ({ s with g := s.g.wvMask (s.g.phys d.toNat) sp.mask (fun _ => (s.g.rs a.toNat).extractLsb' 0 32) }, .fall)) hc
      { s.open_ with g := s.open_.g.wvMask (s.g.phys d.toNat) sp.mask (fun _ => (s.g.rs a.toNat).extractLsb' 0 32) }
      (fun _ => by simp only [State.open_running, hc.1]; rfl)
    exact ⟨t, ht, wvMask_still hs⟩
  case lread => exact uniSets_of (f := fun s _ => (s.g.op a ((s.g.rs b.toNat).toNat % 32)).setWidth 64) (fun _ => rfl) fun _ => rfl

end Sys2Proof.Machine
end

section
/-! The floating formats: a pattern as a sign and a magnitude, the rounding of a value that a format holds, NaNs and invalid operations (05 R117,
R120, R124 to R126). -/

namespace Sys2Proof.Machine

namespace Fmt

section
variable {f : Fmt} {s : Bool} {mag : Nat}

/-! ## Sign and magnitude (R117) -/

/-- The layout of a format: the fraction, above it the exponent, and the sign on top. -/
def Layout (f : Fmt) : Prop := f.width = f.ebits + f.fbits + 1

theorem Layout.two_pow_width (hf : f.Layout) : 2 ^ f.width = 2 * 2 ^ (f.width - 1) := by
  rw [← pow_succ', show f.width - 1 + 1 = f.width by unfold Layout at hf; omega]

theorem Layout.two_pow_sign (hf : f.Layout) : 2 ^ (f.width - 1) = 2 ^ f.ebits * 2 ^ f.fbits := by
  rw [← pow_add, show f.width - 1 = f.ebits + f.fbits by unfold Layout at hf; omega]

theorem signed_mod (hm : mag < 2 ^ (f.width - 1)) : f.signed s mag % 2 ^ (f.width - 1) = mag := by
  rw [signed, Nat.add_mul_mod_self_right, Nat.mod_eq_of_lt hm]

theorem signed_div (hm : mag < 2 ^ (f.width - 1)) : f.signed s mag / 2 ^ (f.width - 1) = bitOf s := by
  rw [signed, Nat.add_mul_div_right _ _ (Nat.two_pow_pos _), Nat.div_eq_of_lt hm, Nat.zero_add]

/-- Every pattern is a sign put on a magnitude. -/
theorem Layout.exists_signed (hf : f.Layout) {bits : Nat} (hb : bits < 2 ^ f.width) :
    ∃ s mag, mag < 2 ^ (f.width - 1) ∧ bits = f.signed s mag := by
  have hsign : bits / 2 ^ (f.width - 1) < 2 := Nat.div_lt_of_lt_mul (by rw [Nat.mul_comm, ← hf.two_pow_width]; exact hb)
  refine ⟨decide (bits / 2 ^ (f.width - 1) = 1), bits % 2 ^ (f.width - 1), Nat.mod_lt _ (Nat.two_pow_pos _), ?_⟩
  have hbit : bitOf (decide (bits / 2 ^ (f.width - 1) = 1)) = bits / 2 ^ (f.width - 1) := by
    obtain h | h := Nat.le_one_iff_eq_zero_or_eq_one.mp (Nat.le_of_lt_succ hsign) <;> simp [h]
  rw [signed, hbit, Nat.mod_add_div']

/-- What a sign on a magnitude decodes to: above the largest finite value a NaN or an infinity, else a subnormal or a normal number. -/
theorem Layout.decode_signed (hf : f.Layout) (hm : mag < 2 ^ (f.width - 1)) : f.decode (f.signed s mag) =
    if f.top < mag then (if f.hasInf && decide (mag % 2 ^ f.fbits = 0) then .inf s else .nan s (mag % 2 ^ f.fbits))
    else if mag / 2 ^ f.fbits = 0 then .num s (mag % 2 ^ f.fbits) (1 - (f.bias : Int) - f.fbits)
    else .num s (mag % 2 ^ f.fbits + 2 ^ f.fbits) (((mag / 2 ^ f.fbits : Nat) : Int) - f.bias - f.fbits) := by
  have hfrac : f.signed s mag % 2 ^ f.fbits = mag % 2 ^ f.fbits := by
    rw [signed, hf.two_pow_sign, ← Nat.mul_assoc, Nat.add_mul_mod_self_right]
  have hexp : f.signed s mag / 2 ^ f.fbits % 2 ^ f.ebits = mag / 2 ^ f.fbits := by
    rw [← Nat.mod_mul_right_div_self, Nat.mul_comm, ← hf.two_pow_sign, signed_mod hm]
  have hsign : decide (f.signed s mag / 2 ^ (f.width - 1) % 2 = 1) = s := by rw [signed_div hm]; cases s <;> rfl
  simp only [decode, hfrac, hexp, hsign, signed_mod hm]

/-! ## Rounding a value of the format (R120) -/

/-- A finite pattern as a magnitude m and an exponent that k counts from the smallest normal's, which the subnormals share. -/
theorem Layout.num_of_decode_signed (hf : f.Layout) (hm : mag < 2 ^ (f.width - 1)) {s' : Bool} {m : Nat} {e : Int}
    (h : f.decode (f.signed s mag) = .num s' m e) : s' = s ∧ mag ≤ f.top ∧
      ∃ k : Nat, e = 1 + k - f.bias - f.fbits ∧ mag = k * 2 ^ f.fbits + m ∧ m < 2 ^ (f.fbits + 1) ∧ (k ≠ 0 → 2 ^ f.fbits ≤ m) := by
  have hdm : mag / 2 ^ f.fbits * 2 ^ f.fbits + mag % 2 ^ f.fbits = mag := Nat.div_add_mod' _ _
  have hlt : mag % 2 ^ f.fbits < 2 ^ f.fbits := Nat.mod_lt _ (Nat.two_pow_pos _)
  have hpow : 2 ^ (f.fbits + 1) = 2 * 2 ^ f.fbits := pow_succ' _ _
  rw [hf.decode_signed hm] at h
  split at h
  case isTrue => split at h <;> cases h
  case isFalse hfinite =>
    split at h
    case isTrue hsub =>
      cases h
      rw [hsub] at hdm
      exact ⟨rfl, by omega, 0, by simp, by omega, by omega, by simp⟩
    case isFalse hnormal =>
      cases h
      obtain ⟨k, hk⟩ := Nat.exists_eq_succ_of_ne_zero hnormal
      rw [hk, Nat.succ_mul] at hdm
      exact ⟨rfl, by omega, k, by rw [hk]; push_cast; ring, by omega, by omega, by omega⟩

theorem bitLen_le {m n : Nat} (h : m < 2 ^ n) : bitLen m ≤ n := by
  unfold bitLen
  split
  · exact Nat.zero_le n
  next hm => exact (Nat.log2_lt hm).mpr h

theorem lt_bitLen {m n : Nat} (h : 2 ^ n ≤ m) : n < bitLen m := by
  have hm : m ≠ 0 := by have := Nat.two_pow_pos n; omega
  rw [bitLen, if_neg hm]
  exact Nat.lt_succ_of_le ((Nat.le_log2 hm).mpr h)

/-- Rounding at or below the last bit of an exact value drops nothing. -/
theorem roundAt_exact {md : RMode} {m : Nat} {e q : Int} (h : q ≤ e) : roundAt md s m e q false = (m * 2 ^ (e - q).toNat, false) :=
  if_pos h

/-- A magnitude of the format's precision at an exponent of its range is kept as it is, without a flag. -/
theorem round_exact (md : RMode) (s : Bool) {m k : Nat} (hprec : m < 2 ^ (f.fbits + 1)) (hnormal : k ≠ 0 → 2 ^ f.fbits ≤ m)
    (htop : k * 2 ^ f.fbits + m ≤ f.top) :
    f.round md s m (1 + k - f.bias - f.fbits) false = (f.signed s (k * 2 ^ f.fbits + m), 0) := by
  by_cases hm : m = 0
  · have hk : k = 0 := by
      by_contra hk
      have := hnormal hk
      have := Nat.two_pow_pos f.fbits
      omega
    simp [Fmt.round, hm, hk]
  · have hle := bitLen_le hprec
    have hlt : k ≠ 0 → f.fbits < bitLen m := fun hk => lt_bitLen (hnormal hk)
    have hfree : (1 + k - f.bias - f.fbits : Int) + bitLen m - 1 - f.fbits ≤ 1 + k - f.bias - f.fbits := by omega
    have hlast : max ((1 + k - f.bias - f.fbits : Int) + bitLen m - 1 - f.fbits) (1 - (f.bias : Int) - f.fbits) = 1 + k - f.bias - f.fbits := by
      omega
    have hexp : ((1 + k - f.bias - f.fbits : Int) + f.fbits + f.bias - 1).toNat = k := by omega
    simp only [Fmt.round, hm, decide_false, Bool.false_and, Bool.false_eq_true, if_false, hlast, hexp, roundAt_exact (Int.le_refl _),
      roundAt_exact hfree, Int.sub_self, Int.toNat_zero, pow_zero, Nat.mul_one, if_neg (Nat.not_lt.mpr htop), Bool.and_false, flagIf]
    rfl

/-- A finite value of a format rounds to its own pattern. -/
theorem Layout.round_decode (hf : f.Layout) (md : RMode) {bits : Nat} (hb : bits < 2 ^ f.width) {m : Nat} {e : Int}
    (h : f.decode bits = .num s m e) : f.round md s m e false = (bits, 0) := by
  obtain ⟨s', mag, hm, rfl⟩ := hf.exists_signed hb
  obtain ⟨rfl, htop, k, rfl, rfl, hprec, hnormal⟩ := hf.num_of_decode_signed hm h
  exact round_exact md s hprec hnormal htop

end

/-! ## NaNs (R124 to R126) -/

/-- A format with infinities: the exponent of all ones lies above the largest finite value. -/
structure Ieee (f : Fmt) : Prop where
  layout : f.Layout
  hasInf : f.hasInf = true
  fbits_pos : 0 < f.fbits
  top : f.top + 1 = (2 ^ f.ebits - 1) * 2 ^ f.fbits

section
variable {f : Fmt} {s : Bool} {fr : Nat}

theorem Ieee.two_pow_fbits (hf : f.Ieee) : 2 ^ f.fbits = 2 ^ (f.fbits - 1) * 2 := by
  rw [← pow_succ, Nat.sub_add_cancel hf.fbits_pos]

/-- A fraction other than zero above the largest finite value is a NaN's. -/
theorem Ieee.decode_nan (hf : f.Ieee) (h0 : fr ≠ 0) (hfr : fr < 2 ^ f.fbits) : f.decode (f.signed s (f.top + 1 + fr)) = .nan s fr := by
  have hones : 2 ^ f.ebits * 2 ^ f.fbits = (2 ^ f.ebits - 1) * 2 ^ f.fbits + 2 ^ f.fbits := by
    rw [← Nat.succ_mul, Nat.succ_eq_add_one, Nat.sub_add_cancel Nat.one_le_two_pow]
  have hfrac : (f.top + 1 + fr) % 2 ^ f.fbits = fr := by rw [hf.top, Nat.mul_add_mod_self_right, Nat.mod_eq_of_lt hfr]
  rw [hf.layout.decode_signed (by rw [hf.layout.two_pow_sign, hf.top, hones]; omega), if_pos (by omega), hfrac, hf.hasInf]
  simp [h0]

/-- A NaN put into its own format has its quiet bit set and keeps the fraction below it. -/
theorem Ieee.putNan_self (hf : f.Ieee) (s : Bool) (hfr : fr < 2 ^ f.fbits) :
    f.putNan f s fr = f.signed s (f.top + 1 + (2 ^ (f.fbits - 1) + fr % 2 ^ (f.fbits - 1))) := by
  have hdm := Nat.div_add_mod fr (2 ^ (f.fbits - 1))
  have hquiet : (if fr / 2 ^ (f.fbits - 1) % 2 = 1 then fr else fr + 2 ^ (f.fbits - 1)) = 2 ^ (f.fbits - 1) + fr % 2 ^ (f.fbits - 1) := by
    obtain hq | hq := Nat.le_one_iff_eq_zero_or_eq_one.mp (Nat.le_of_lt_succ (Nat.div_lt_of_lt_mul (hf.two_pow_fbits ▸ hfr)))
    all_goals
      rw [hq] at hdm ⊢
      norm_num
      omega
  simp only [putNan, hf.hasInf, Bool.not_true, Bool.false_eq_true, if_false, Nat.le_refl, if_true, Nat.sub_self, pow_zero, Nat.mul_one, hquiet]

/-- PropNaN of one operand reads back as a quiet NaN with its sign and the fraction below the quiet bit. -/
theorem Ieee.decode_putNan (hf : f.Ieee) (s : Bool) (hfr : fr < 2 ^ f.fbits) :
    ∃ q, f.decode (f.putNan f s fr) = .nan s q ∧ f.signalling q = false ∧ q % 2 ^ (f.fbits - 1) = fr % 2 ^ (f.fbits - 1) := by
  have hpos := Nat.two_pow_pos (f.fbits - 1)
  have hlt := Nat.mod_lt fr hpos
  have hhalf := hf.two_pow_fbits
  refine ⟨2 ^ (f.fbits - 1) + fr % 2 ^ (f.fbits - 1), ?reads, ?quiet, ?fraction⟩
  case reads => rw [hf.putNan_self s hfr, hf.decode_nan (by omega) (by omega)]
  case quiet =>
    rw [signalling, Nat.add_div_left _ hpos, Nat.div_eq_of_lt hlt]
    rfl
  case fraction => rw [Nat.add_mod_left, Nat.mod_mod]

theorem propNan_cons {x : FVal} (h : x.isNan = false) (l : List FVal) : f.propNan (x :: l) = f.propNan l := by
  cases x with
  | nan => cases h
  | inf => rfl
  | num => rfl

end

/-! ## Operations on NaNs and infinities (R125, R129, R131) -/

section
variable (f : Fmt) (md : RMode) (o : Nat) (np nc : Bool) {x y z : FVal}

theorem add_of_isNan (h : (x.isNan || y.isNan) = true) :
    f.add md o x y = (f.propNan [x, y], flagIf (x.isSnan f || y.isSnan f) fNV) := if_pos h

theorem mul_of_isNan (h : (x.isNan || y.isNan) = true) :
    f.mul md o x y = (f.propNan [x, y], flagIf (x.isSnan f || y.isSnan f) fNV) := if_pos h

theorem fma_of_isNan (h : (x.isNan || y.isNan || z.isNan) = true) : f.fma md o np nc x y z =
    (f.propNan [x, y, z], flagIf (x.isSnan f || y.isSnan f || z.isSnan f || ((x.isZero && y.isInf) || (x.isInf && y.isZero))) fNV) := if_pos h

/-- The difference of infinities is invalid. -/
theorem add_inf_of_ne {s t : Bool} (h : s ≠ t) : f.add md o (.inf s) (.inf t) = (o, fNV) := by
  rw [add, if_neg (by simp [FVal.isNan])]
  exact if_neg (by simpa using h)

/-- A product of a zero and an infinity is invalid, whatever number is added. -/
theorem fma_of_wild (hx : x.isNan = false) (hy : y.isNan = false) (hz : z.isNan = false)
    (hw : ((x.isZero && y.isInf) || (x.isInf && y.isZero)) = true) : f.fma md o np nc x y z = (o, fNV) := by
  rw [fma, if_neg (by simp [hx, hy, hz])]
  exact if_pos hw

/-- An infinite product and an infinite addend of the other sign are invalid. -/
theorem fma_of_opposite (hi : (x.isInf || y.isInf) = true) (hx : x.isNan = false) (hy : y.isNan = false) (hx0 : x.isZero = false)
    (hy0 : y.isZero = false) {s : Bool} (hs : (x.sign ^^ y.sign ^^ np) ≠ (s ^^ nc)) : f.fma md o np nc x y (.inf s) = (o, fNV) := by
  have haddend : (if nc = true then (FVal.inf s).neg else .inf s) = .inf (s ^^ nc) := by cases nc <;> cases s <;> rfl
  have hne : ((s ^^ nc) == (x.sign ^^ y.sign ^^ np)) = false := beq_eq_false_iff_ne.mpr hs.symm
  have hz : (FVal.inf s).isNan = false := rfl
  simp only [fma, hx, hy, hz, hx0, hy0, hi, haddend, hne, Bool.or_self, Bool.and_false, Bool.false_and, Bool.false_eq_true, if_false, if_true]

end

end Fmt

theorem layout_of_mem {f : Fmt} (hf : f ∈ [fmtF64, fmtF32, fmtF16, fmtBF16, fmtE5M2, fmtE4M3]) : f.Layout := by
  unfold Fmt.Layout
  revert f
  decide

theorem ieee_of_mem {f : Fmt} (hf : f ∈ [fmtF64, fmtF32, fmtF16, fmtBF16]) : f.Ieee := by
  simp only [List.mem_cons, List.not_mem_nil, or_false] at hf
  rcases hf with rfl | rfl | rfl | rfl <;> exact ⟨rfl, rfl, by decide, by decide⟩

/-- Settles O17: a finite pattern is a magnitude of the format's precision in its range, which rounding keeps. -/
theorem roundKeepsValues : Obligations.RoundKeepsValues :=
  fun _ md _ _ _ _ hf hb _ h => (layout_of_mem hf).round_decode md hb h

/-- Settles O18: an operation on a NaN is `propNan` with its flag, and the first NaN stands where the operands before it are none; the invalid
operations of infinities and zeros are those of `add_inf_of_ne`, `fma_of_wild` and `fma_of_opposite`. -/
theorem nanRules : Obligations.NanRules := by
  intro f hf md o np nc s1 s2 s3 fr e x y z first wild
  have hlast : ∀ b : Bool, (b || (FVal.nan s1 fr).isNan) = true := Bool.or_true
  have hmid : (x.isNan || (FVal.nan s1 fr).isNan || z.isNan) = true := by rw [hlast, Bool.true_or]
  refine ⟨(ieee_of_mem hf).decode_putNan s1, congrArg Prod.fst (f.add_of_isNan md o rfl), congrArg Prod.fst (f.mul_of_isNan md o rfl),
    congrArg Prod.fst (f.fma_of_isNan md o np nc rfl), fun hx => ⟨?addSecond, ?mulSecond, ?fmaSecond⟩, fun hx hy => ?fmaThird,
    fun h => ⟨congrArg Prod.snd (f.add_of_isNan md o h), congrArg Prod.snd (f.mul_of_isNan md o h)⟩,
    fun h => congrArg Prod.snd (f.fma_of_isNan md o np nc h), f.add_inf_of_ne md o, rfl, rfl,
    fun hz => ⟨f.fma_of_wild md o np nc rfl rfl hz rfl, f.fma_of_wild md o np nc rfl rfl hz rfl⟩,
    fun hi hx hy hx0 hy0 hs => f.fma_of_opposite md o np nc hi hx hy hx0 hy0 hs⟩
  case addSecond => exact (congrArg Prod.fst (f.add_of_isNan md o (hlast _))).trans (Fmt.propNan_cons hx _)
  case mulSecond => exact (congrArg Prod.fst (f.mul_of_isNan md o (hlast _))).trans (Fmt.propNan_cons hx _)
  case fmaSecond => exact (congrArg Prod.fst (f.fma_of_isNan md o np nc hmid)).trans (Fmt.propNan_cons hx _)
  case fmaThird =>
    exact (congrArg Prod.fst (f.fma_of_isNan md o np nc (hlast _))).trans ((Fmt.propNan_cons hx _).trans (Fmt.propNan_cons hy _))

end Sys2Proof.Machine
end

section
/-! The forms of the floating-point instructions: two operands on FPCTL's mode, results that return later, conversions; and comparisons of NaNs
(05 R129, R132, R135, R137, R138). -/

namespace Sys2Proof.Machine

section
variable {i : Instr} {h : Hdr} {d a b : BitVec 6}

/-! ## Two operands on FPCTL's mode (R129) -/

theorem laneSetsF_f32Bin (f : RMode → Nat → FVal → FVal → Nat × BitVec 5) (he : ∀ s, exec i s = f32Bin i h d a b f s) :
    LaneSetsF i h { vr := [v1 a, v1 b], vw := [v1 d] } d (fun g l =>
      res32 (f (modeOf g.fpctl) (fmtF32.originNan g.pcNow l) (asF32 (g.op a l)) (asF32 (g.op b l)))) :=
  laneSetsF_of he fun _ _ => rfl

theorem laneSetsPairF_f64Bin (f : RMode → Nat → FVal → FVal → Nat × BitVec 5) (he : ∀ s, exec i s = f64Bin i h d a b f s) :
    LaneSetsPairF i h { vr := [v2 a, v2 b], vw := [v2 d] } d (fun g l =>
      res64 (f (modeOf g.fpctl) (fmtF64.originNan g.pcNow l) (asF64 (g.op64 a l)) (asF64 (g.op64 b l)))) :=
  laneSetsPairF_of he fun _ _ => rfl

/-! ## Results that return later (02 R34) -/

/-- A late result is owed. -/
theorem still_later (s : State) (sp : Split) (vw : List (Nat × W32)) (sw : List (Nat × W64)) (flags : BitVec 5) :
    (s.later sp vw sw flags).still = (s.owes sp vw sw flags .nothing).still :=
  State.still_addFolds _ _ _ _ _

/-- A lane-set instruction whose results `res` return later owes those of its active lanes, with their flags. -/
theorem does_later {u : Uses} {res one : State → Nat → Nat × BitVec 5}
    (he : ∀ s, exec i s = issueLane i h u (fun m sp s =>
      (s.later sp ((lanesOf m).map (fun l => (s.g.phys d.toNat * 32 + l, BitVec.ofNat 32 (res s l).1))) []
        (laneFlags m (fun l => (res s l).2)), .fall)) s)
    (hres : ∀ s l, res s l = one s l) :
    Does i (fun _ => u) (someLane h) (fun _ _ => True) (fun s sp =>
      s.owes sp ((lanesOf (activeMask h s)).map (fun l => (s.g.phys d.toNat * 32 + l, BitVec.ofNat 32 (one s l).1))) []
        (laneFlags (activeMask h s) (fun l => (one s l).2)) .nothing) := by
  obtain rfl : res = one := funext₂ hres
  exact does_lane he fun _ _ _ _ _ => ⟨rfl, still_later _ _ _ _ _⟩

end

/-! ## Unordered comparisons (R132) -/

theorem flagIf_nv_eq_one (b : Bool) : flagIf b fNV = 1 ↔ b = true := by cases b <;> decide

/-- Where an operand is NaN a comparison is false but for NE and UN; LT, GE, LE and GT signal, the others for a signalling NaN. -/
theorem Fmt.compare_of_isNan (f : Fmt) (cc : BitVec 3) {x y : Nat} (h : ((f.decode x).isNan || (f.decode y).isNan) = true) :
    f.compare cc x y = (decide (cc.toNat = 1 ∨ cc.toNat = 5),
      flagIf (decide (cc.toNat = 2 ∨ cc.toNat = 3 ∨ cc.toNat = 6 ∨ cc.toNat = 7) || ((f.decode x).isSnan f || (f.decode y).isSnan f)) fNV) := by
  have hcc := cc.isLt
  simp only [Fmt.compare, h]
  generalize cc.toNat = code at hcc
  interval_cases code <;> simp

/-! ## CVT (R137, R138) -/

section
variable {dt st : BitVec 4} {spos dpos rm : BitVec 2} {sat rs : BitVec 1} {h : Hdr} {d a : BitVec 6}

/-- A type with stochastic rounding is narrow (R137). -/
theorem cvtWidth_lt_of_stochastic (hdt : 12 ≤ dt.toNat) : cvtWidth dt < 32 := by
  have hlt := dt.isLt
  unfold cvtWidth
  generalize dt.toNat = code at hdt hlt
  interval_cases code <;> decide

/-- What CVT makes of a lane's source, with the lane's random bits where the destination type is stochastic (R122). -/
def cvtLane (dt st : BitVec 4) (rm : BitVec 2) (sat rs : BitVec 1) (a : BitVec 6) (spos : BitVec 2) : Group → Nat → Nat × BitVec 5 :=
  fun g l => convert dt st (if 12 ≤ dt.toNat then .sr (g.randomBits l) else g.mode rm rs) (decide (sat.toNat = 1)) (cvtSource g a st spos l)

/-- CVT's value of a 32-bit destination register, a narrow result put into its part of the old value. -/
def cvtLow (dt st : BitVec 4) (rm : BitVec 2) (sat rs : BitVec 1) (d a : BitVec 6) (spos dpos : BitVec 2) :
    Group → Nat → W32 × BitVec 5 := fun g l =>
  let x := cvtLane dt st rm sat rs a spos g l
  (if cvtWidth dt = 32 then BitVec.ofNat 32 x.1 else putPart (g.op d l) (cvtWidth dt) dpos.toNat x.1, x.2)

/-- The registers CVT reads: its source, and the old destination of a narrow result. -/
def cvtReads (dt st : BitVec 4) (d a : BitVec 6) : List (Nat × Nat × Nat) :=
  [if cvtWidth st = 64 then v2 a else v1 a] ++ (if cvtWidth dt < 32 then [v1 d] else [])

theorem execCvt_pair (hdt : dt.toNat < 12) (hw : cvtWidth dt = 64) (s : State) : execCvt h d a dt rm st spos dpos sat rs s =
    issueLane (.cvt h d a dt rm st spos dpos sat rs) h { vr := [if cvtWidth st = 64 then v2 a else v1 a], vw := [v2 d] }
      (setLanesF64 d fun g l => res64 (cvtLane dt st rm sat rs a spos g l)) s := by
  have hwide : ¬ 64 < 32 := by decide
  simp only [execCvt, cvtLane, hw, Nat.not_le.mpr hdt, decide_false, Bool.false_eq_true, if_false, if_true, hwide, List.append_nil]

theorem execCvt_low (hdt : dt.toNat < 12) (hw : cvtWidth dt ≠ 64) (s : State) : execCvt h d a dt rm st spos dpos sat rs s =
    issueLane (.cvt h d a dt rm st spos dpos sat rs) h { vr := cvtReads dt st d a, vw := [v1 d] }
      (setLanesF d (cvtLow dt st rm sat rs d a spos dpos)) s := by
  unfold cvtLow cvtLane
  simp only [execCvt, cvtReads, hw, Nat.not_le.mpr hdt, decide_false, Bool.false_eq_true, if_false]

/-- A stochastic conversion counts the random bits of its active lanes (R122). -/
theorem execCvt_stochastic (hdt : 12 ≤ dt.toNat) (s : State) : execCvt h d a dt rm st spos dpos sat rs s =
    issueLane (.cvt h d a dt rm st spos dpos sat rs) h { vr := cvtReads dt st d a, vw := [v1 d] } (fun m sp s =>
      let r := setLanesF d (cvtLow dt st rm sat rs d a spos dpos) m sp s
      ({ r.1 with g := r.1.g.countRandom m }, r.2)) s := by
  have hw : cvtWidth dt ≠ 64 := by have := cvtWidth_lt_of_stochastic hdt; omega
  unfold cvtLow cvtLane
  simp only [execCvt, cvtReads, hw, hdt, decide_true, if_true, if_false]

end

end Sys2Proof.Machine
end

section
/-! The floating-point instructions (chapter 05). -/

namespace Sys2Proof.Machine

/-- Settles O15: each instruction is an operand form with its function. -/
theorem floatArithmetic : Obligations.FloatArithmetic := by
  intro h d a b c rm negc negp rs
  exact ⟨laneSetsF_f32Bin fmtF32.add fun _ => rfl, laneSetsF_f32Bin (fun m o x y => fmtF32.add m o x y.neg) fun _ => rfl,
    laneSetsF_f32Bin fmtF32.mul fun _ => rfl, laneSetsPairF_f64Bin fmtF64.add fun _ => rfl, laneSetsPairF_f64Bin fmtF64.mul fun _ => rfl,
    laneSetsF_of (fun _ => rfl) fun _ _ => rfl, laneSetsF_of (fun _ => rfl) fun _ _ => rfl,
    laneSetsPairF_of (fun _ => rfl) fun _ _ => rfl, laneSetsPairF_of (fun _ => rfl) fun _ _ => rfl,
    laneSets_laneUn (· &&& 0x7FFFFFFF) fun _ => rfl, laneSets_laneUn (· ^^^ 0x80000000) fun _ => rfl,
    laneSetsF_of (fun _ => rfl) fun _ _ => rfl, laneSetsPairF_of (fun _ => rfl) fun _ _ => rfl⟩

/-- Settles O19: the instructions as their operand forms, and the unordered outcomes and flags by `compare_of_isNan`. -/
theorem floatCompares : Obligations.FloatCompares := by
  refine ⟨fun h cc p d a b hf t => ⟨predSetsF_of (fun _ => rfl) fun _ _ => rfl, predSetsF_of (fun _ => rfl) fun _ _ => rfl,
    laneSets_of (fun _ => rfl) fun _ _ => rfl, laneSets_of (fun _ => rfl) fun _ _ => rfl⟩, fun cc x y hnan => ?unordered⟩
  case unordered =>
    rw [fmtF32.compare_of_isNan cc hnan, flagIf_nv_eq_one, Bool.or_eq_true, decide_eq_true_eq, or_assoc, or_assoc, or_assoc]
    exact ⟨rfl, Iff.rfl⟩

/-- Settles O20: each lane's result is `packHalves` of the operation on either half. -/
theorem packedHalves : Obligations.PackedHalves := by
  intro h d a b c t rm negc negp rs
  exact ⟨laneSetsF_of (fun _ => rfl) fun _ _ => rfl, laneSetsF_of (fun _ => rfl) fun _ _ => rfl, laneSetsF_of (fun _ => rfl) fun _ _ => rfl⟩

/-- Settles O21: FRND by its type, CVT by the width and the rounding of its destination. -/
theorem conversions : Obligations.Conversions := by
  intro h d a dt st rm spos dpos sat rs t op
  exact ⟨fun ht => laneSetsF_of (fun _ => if_pos ht) fun _ _ => rfl, fun ht => laneSetsPairF_of (fun _ => if_neg ht) fun _ _ => rfl,
    fun hdt hw => laneSetsPairF_of (execCvt_pair hdt hw) fun _ _ => rfl, fun hdt hw => laneSetsF_of (execCvt_low hdt hw) fun _ _ => rfl,
    fun hdt => does_lane (execCvt_stochastic hdt) fun _ _ _ _ _ => ⟨rfl, rfl⟩⟩

/-- Settles O22: DXB.PACK's body is its effect, but for how its type is tested; DXB.UNPK writes one element to each lane. -/
theorem blockFormats : Obligations.BlockFormats := by
  intro h d a c t rm rs
  refine ⟨does_issue (fun _ => rfl) fun s _ _ _ _ => ⟨rfl, ?pack⟩, laneSets_of (fun _ => rfl) fun _ _ => rfl⟩
  case pack => simp only [decide_eq_true_eq]

/-- Settles O23: `special` gives PropNaN of a NaN, else its function, and the result is owed (`does_later`). -/
theorem specialFunctions : Obligations.SpecialFunctions := by
  intro h d a does
  have hdoes : ∀ i f, (∀ s, exec i s = special i h d a f s) → does i f := fun i f he =>
    does_later he fun s l => by cases asF32 (s.g.op a l) <;> rfl
  clear_value does
  exact ⟨hdoes _ _ (execFrcp.eq_def h d a), hdoes _ _ (execFrsq.eq_def h d a), hdoes _ _ (execFsqrt.eq_def h d a),
    hdoes _ _ (execFex2.eq_def h d a), hdoes _ _ (execFlg2.eq_def h d a), hdoes _ _ (execFsin.eq_def h d a),
    hdoes _ _ (execFcos.eq_def h d a)⟩

end Sys2Proof.Machine
end

section
/-! The accumulator instructions join their tile's queue (06 R146). -/

namespace Sys2Proof.Machine

section
variable {i : Instr} {h : Hdr} {u : State → Uses} {need : State → Split → Prop} {eff : State → Split → State}

/-- Whether an instruction keeps the issue slot while it waits is no part of the checks it must pass. -/
theorem Does.of_queued {on : State → Bool} (hd : Does i (fun s => { u s with queued := true }) on need eff) : Does i u on need eff :=
  fun s sp hc => hd s sp (canIssue_congr hc rfl rfl rfl rfl rfl rfl)

/-- A lane-set instruction that waits for room in its tile's queue, from its body. -/
theorem does_queued {body : State → W32 → Split → State → State × Fate}
    (he : ∀ s, exec i s = issueLane i h { u s with queued := true } (body s) s)
    (hb : ∀ s sp, need s sp → body s (activeMask h s) sp s.open_ = (eff s.open_ sp, .fall)) : Does i u (someLane h) need eff :=
  .of_queued <| does_lane he fun s sp _ _ hn => by
    rw [hb s sp hn]
    exact ⟨rfl, rfl⟩

end

/-! ## MMA (R147 to R151) -/

/-- What an MMA gives its tile's queue: its fragments, and where its scale bytes stand. -/
def mmaJoin (acc : BitVec 3) (a b : BitVec 6) (t : BitVec 4) (z : BitVec 1) (rm : BitVec 2) (rs : BitVec 1) (sa sb : Nat) (m : W32)
    (sp : Split) (s : State) : State × Fate :=
  enqueue s sp m (modeCode s.g rm rs) (.mma t.toNat (decide (z.toNat = 1)) acc.toNat) (capture s.g (s.g.phys a.toNat) 16)
    (capture s.g (s.g.phys b.toNat) 16) sa sb []

/-- The traps of scale areas of `n` bytes that are misaligned or reach beyond the team's scratchpad, or else `go` (R151). -/
def scaleTraps (n sa sb : Nat) (sp : Split) (s : State) (go : State × Fate) : State × Fate :=
  let next := pcAdd sp.pc 8
  if sa % 2 = 1 then (s, ownTrap s sp 0x04 next (BitVec.ofNat 64 sa))
  else if sb % 2 = 1 then (s, ownTrap s sp 0x04 next (BitVec.ofNat 64 sb))
  else if s.scratchOf s.g < sa + n then (s, ownTrap s sp 0x07 next (BitVec.ofNat 64 sa))
  else if s.scratchOf s.g < sb + n then (s, ownTrap s sp 0x07 next (BitVec.ofNat 64 sb))
  else go

/-- Aligned areas within the scratchpad do not trap. -/
theorem scaleTraps_of_fit {n sa sb : Nat} {s : State} (sp : Split) (go : State × Fate) (hsa : sa % 2 = 0) (hsb : sb % 2 = 0)
    (hfita : sa + n ≤ s.scratchOf s.g) (hfitb : sb + n ≤ s.scratchOf s.g) : scaleTraps n sa sb sp s go = go := by
  simp [scaleTraps, hsa, hsb, hfita.not_gt, hfitb.not_gt]

section
variable {h : Hdr} {a b c : BitVec 6} {acc : BitVec 3} {t : BitVec 4} {z rs : BitVec 1} {rm : BitVec 2}

/-- An MMA without scale bytes has no format block and joins the queue. -/
theorem execMma_unscaled (ht : 2 ≤ t.toNat) (s : State) : execMma h acc a b c t z rm rs s =
    issueLane (.mma h acc a b c t z rm rs) h
      { vr := [vN a 16 (if t.toNat = 5 then 2 else 1), vN b 16 (if t.toNat = 5 then 2 else 1)],
        accs := [(acc.toNat, if t.toNat = 5 then 2 else 1)], queued := true, late := true }
      (mmaJoin acc a b t z rm rs (field (s.g.rs c.toNat) 16 32) (field (s.g.rs (c.toNat + 1)) 0 32)) s := by
  have hdxb : decide (t.toNat < 2) = false := decide_eq_false (by omega)
  simp only [execMma, hdxb, Bool.false_and, Bool.false_eq_true, if_false, decide_eq_true_eq]
  rfl

/-- An MMA of a DXB type joins the queue past the checks of its format block and of its scale areas. -/
theorem execMma_scaled (ht : t.toNat < 2) (s : State) : execMma h acc a b c t z rm rs s =
    issueLane (.mma h acc a b c t z rm rs) h
      { vr := [vN a 16 1, vN b 16 1], accs := [(acc.toNat, 1)], sr := [c.toNat, c.toNat + 1], queued := true,
        illegal := badBlock t.toNat (s.g.rs c.toNat) (s.g.rs (c.toNat + 1)), late := true }
      (fun m sp s' =>
        let sa := field (s.g.rs c.toNat) 16 32
        let sb := field (s.g.rs (c.toNat + 1)) 0 32
        scaleTraps (scaleBytes t.toNat) sa sb sp s' (mmaJoin acc a b t z rm rs sa sb m sp s')) s := by
  have hdxb : decide (t.toNat < 2) = true := decide_eq_true ht
  have hne : decide (t.toNat = 5) = false := decide_eq_false (by omega)
  simp only [execMma, hdxb, hne, Bool.true_and, Bool.false_eq_true, if_false, if_true, decide_eq_true_eq]
  rfl

end

/-- Settles O24: each body is `enqueue`, of which `enqueue_room` says once what it does with room; an MMA of a DXB type comes to it past the
checks of its scale areas. -/
theorem accumulatorIssue : Obligations.AccumulatorIssue := by
  intro h d a b c acc t z sat rs rm n j0
  refine ⟨fun ht => ?unscaled, fun ht => ?scaled, ?rd, ?wr, ?zero, ?cvt⟩
  case unscaled => exact does_queued (execMma_unscaled ht) fun s _ hroom => enqueue_room (s := s.open_) hroom ..
  case scaled =>
    refine does_queued (execMma_scaled ht) fun s sp hn => ?_
    obtain ⟨hroom, hsa, hsb, hfita, hfitb⟩ := hn
    exact (scaleTraps_of_fit (s := s.open_) sp _ hsa hsb hfita hfitb).trans (enqueue_room (s := s.open_) hroom ..)
  case rd => exact does_queued (execAccRd.eq_def h d acc t rm n j0 rs) fun s _ hroom => enqueue_room (s := s.open_) hroom ..
  case wr => exact does_queued (execAccWr.eq_def h acc a t rm n j0 rs) fun s _ hroom => enqueue_room (s := s.open_) hroom ..
  case zero => exact does_queued (execAccZero.eq_def h acc) fun s _ hroom => enqueue_room (s := s.open_) hroom ..
  case cvt =>
    refine does_queued (execAccCvt.eq_def h d acc c t rm sat rs) fun s sp hroom => ?_
    dsimp only
    rw [enqueue_room (s := s.open_) hroom]
    rfl

end Sys2Proof.Machine
end

section
/-! Operations that leave the queues of the matrix engines alone (06 R145). -/

namespace Sys2Proof.Machine

/-! ## Stores of the device itself and events raised (07 R187; 15 R406) -/

@[simp] theorem jobs_winSet (s : State) (off : Nat) (x : W64) : (s.winSet off x).jobs = s.jobs := rfl

@[simp] theorem jobs_modCtx (s : State) (c : Nat) (f : Context → Context) : (s.modCtx c f).jobs = s.jobs := by
  unfold State.modCtx
  split <;> rfl

@[simp] theorem jobs_account (s : State) (c k : Nat) : (s.account c k).jobs = s.jobs := jobs_modCtx _ _ _

@[simp] theorem jobs_accountN (c k n : Nat) : ∀ s : State, (s.accountN c k n).jobs = s.jobs := by
  induction n with
  | zero => exact fun _ => rfl
  | succ n ih => exact fun s => (ih _).trans (jobs_account s c k)

@[simp] theorem jobs_physSet (s : State) (pa : Nat) (b : Byte) : (s.physSet pa b).jobs = s.jobs := by
  unfold State.physSet
  split <;> rfl

@[simp] theorem jobs_physSetList (bs : List Byte) : ∀ (s : State) (pa : Nat), (s.physSetList pa bs).jobs = s.jobs := by
  induction bs with
  | nil => exact fun _ _ => rfl
  | cons b bs ih => exact fun s pa => (ih _ _).trans (jobs_physSet s pa b)

@[simp] theorem jobs_physWrite (s : State) (pa : Nat) (bs : List Byte) : (s.physWrite pa bs).jobs = s.jobs := by
  unfold State.physWrite
  split
  · exact jobs_physSetList bs s pa
  · rfl

@[simp] theorem jobs_l2Evict (s : State) (x : L2Line) : (s.l2Evict x).jobs = s.jobs := by
  unfold State.l2Evict
  split
  · split
    · exact jobs_account _ _ _
    · rfl
  · rfl

@[simp] theorem jobs_l2Make (s : State) (die : Nat) : (s.l2Make die).jobs = s.jobs := by
  unfold State.l2Make
  dsimp only
  split
  · rfl
  · split
    · exact jobs_l2Evict s _
    · rfl

@[simp] theorem jobs_l2Use (s : State) (pa : Nat) (c : Option Nat) (wr : Bool) : (s.l2Use pa c wr).jobs = s.jobs := by
  unfold State.l2Use
  split
  · rfl
  · dsimp only
    split <;> split <;> simp

@[simp] theorem jobs_countHome (s : State) (c : Option Nat) (pa kind : Nat) (wr : Bool) : (s.countHome c pa kind wr).jobs = s.jobs := by
  unfold State.countHome
  split
  · split
    · exact jobs_account s _ _
    · rfl
  · split
    · exact jobs_l2Use s pa c wr
    · rfl

@[simp] theorem jobs_recallStash (s : State) (hit : Team → StashLine → Bool) : (s.recallStash hit).jobs = s.jobs := by
  unfold State.recallStash State.sweepStash
  exact keeps_foldl State.jobs (fun s t => jobs_accountN _ _ _ s) _ _

@[simp] theorem jobs_deviceStore (s : State) (c : Option Nat) (pa : Nat) (bs : List Byte) : (s.deviceStore c pa bs).jobs = s.jobs := by
  unfold State.deviceStore State.homeWrite
  split
  · simp only [if_true, State.sendInvals, State.takeStash, jobs_recallStash, jobs_physWrite, jobs_countHome]
  · exact jobs_countHome s c pa 0 true

@[simp] theorem jobs_writeEvent (s : State) (x : Push) : (s.writeEvent x).jobs = s.jobs := by
  unfold State.writeEvent
  dsimp only
  generalize s.queueDrops x.queue = drops
  cases drops
  · rw [if_neg Bool.false_ne_true]
    exact jobs_deviceStore s none (s.queueSlot x.queue) x.bytes
  · rw [if_pos rfl, jobs_winSet]

theorem jobs_pushFault (s : State) (q ty c : Nat) (a b : W64) : (s.pushFault q ty c a b).jobs = s.jobs := by
  unfold State.pushFault State.pushEvent
  split
  · rfl
  · exact jobs_writeEvent s _

/-! ## A bucket raised, other than a tile's demerits (13 R361, R368) -/

/-- A rise that fences no tile changes neither the issuing group nor any queue. -/
theorem raiseBucket_rest (s : State) {kind : Nat} (hk : kind ≠ 1) (unit : Nat) :
    (s.raiseBucket kind unit).g = s.g ∧ (s.raiseBucket kind unit).jobs = s.jobs := by
  simp only [State.raiseBucket, if_neg hk]
  split
  · exact ⟨rfl, rfl⟩
  · split
    · exact ⟨g_pushFault _ _ _ _ _ _, jobs_pushFault _ _ _ _ _ _⟩
    · exact ⟨rfl, rfl⟩

theorem addBucket_rest (s : State) {kind : Nat} (hk : kind ≠ 1) (unit : Nat) :
    (s.addBucket kind unit).g = s.g ∧ (s.addBucket kind unit).jobs = s.jobs := by
  have h := raiseBucket_rest s hk unit
  unfold State.addBucket State.addBuckets
  dsimp only [List.foldl]
  split
  · exact h
  · exact h

end Sys2Proof.Machine
end

section
/-! The matrix engine's oldest job, its data error, and the accumulator rows that ACC.ZERO clears (06 R145, R160, R164). -/

namespace Sys2Proof.Machine

/-! ## The oldest job of a tile -/

section
variable {s : State} {tile : Nat} {j : AccJob}

/-- The oldest job of a tile stands behind jobs of other tiles alone. -/
theorem jobs_of_headJob (hj : s.headJob tile = some j) :
    j.tile = tile ∧ ∃ l r, s.jobs = l ++ j :: r ∧ ∀ x ∈ l, decide (x.tile = tile) = false := by
  obtain ⟨htile, l, r, hjobs, hl⟩ := List.find?_eq_some_iff_append.mp hj
  exact ⟨of_decide_eq_true htile, l, r, hjobs, fun x hx => by simpa using hl x hx⟩

section
variable {l r : List AccJob} (hjobs : s.jobs = l ++ j :: r) (htile : j.tile = tile) (hl : ∀ x ∈ l, decide (x.tile = tile) = false)
include hjobs htile hl

theorem findIdx?_headJob : s.jobs.findIdx? (fun x => decide (x.tile = tile)) = some l.length := by
  rw [hjobs, List.findIdx?_append, List.findIdx?_eq_none_iff.mpr hl, List.findIdx?_cons, htile, decide_eq_true rfl]
  simp

theorem setHeadJob_of_jobs (f : AccJob → AccJob) : s.setHeadJob tile f = { s with jobs := l ++ f j :: r } := by
  have hmodify : s.jobs.modify l.length f = l ++ f j :: r := by
    rw [List.modify_eq_take_cons_drop (by simp [hjobs])]
    simp [hjobs]
  simp only [State.setHeadJob, findIdx?_headJob hjobs htile hl, hmodify]

end

/-- A change of the oldest job that leaves it in its tile: it is the oldest still. -/
theorem headJob_setHeadJob (hj : s.headJob tile = some j) {f : AccJob → AccJob} (hf : (f j).tile = j.tile) :
    (s.setHeadJob tile f).headJob tile = some (f j) := by
  obtain ⟨htile, l, r, hjobs, hl⟩ := jobs_of_headJob hj
  rw [setHeadJob_of_jobs hjobs htile hl, State.headJob, List.find?_append, List.find?_eq_none.mpr fun x hx => by simp [hl x hx]]
  simp [hf, htile]

theorem setHeadJob_rest (hj : s.headJob tile = some j) (f : AccJob → AccJob) :
    (s.setHeadJob tile f).g = s.g ∧ (s.setHeadJob tile f).jobs.length = s.jobs.length := by
  obtain ⟨htile, l, r, hjobs, hl⟩ := jobs_of_headJob hj
  rw [setHeadJob_of_jobs hjobs htile hl]
  exact ⟨rfl, by simp [hjobs]⟩

/-- The oldest job taken out of its queue. -/
theorem length_eraseIdx_headJob (hj : s.headJob tile = some j) :
    (s.jobs.eraseIdx (s.jobs.findIdx (fun x => decide (x.tile = tile)))).length + 1 = s.jobs.length := by
  have hmem := List.mem_of_find?_eq_some hj
  have hlt := List.findIdx_lt_length_of_exists ⟨j, hmem, List.find?_some hj⟩
  rw [List.length_eraseIdx_of_lt hlt]
  omega

end

/-! ## A start (R145, R151, R156) -/

section
variable {s : State} {tile : Nat} {j : AccJob} {g : Group}

theorem execAccumulatorStart_of_ready (hj : s.headJob tile = some j) (hg : s.group j.gid = some g) (htr : (s.tile tile).trans = none)
    (hstarted : j.started = false) (hpresent : j.present g = true) (hread : j.scales = 0 ∨ g.scratchBefore j j.scales = false) :
    execAccumulatorStart tile s =
      .next (if s.badScales j g = [] then s.startJob tile j g else s.matrixError j g (j.accs.headD 0) false (s.badScales j g)) := by
  have hwait : (decide (j.scales ≠ 0) && g.scratchBefore j j.scales) = false := by
    obtain h | h := hread <;> simp [h]
  simp only [execAccumulatorStart, hj, hg, htr, hstarted, hpresent, hwait, List.isEmpty_iff, Bool.not_true, Option.isSome_none, Bool.or_self,
    Bool.false_eq_true, if_false]

/-! ## A completion (R164) -/

/-- The lines in which an error is found now, each once. -/
def AccJob.foundLines (j : AccJob) (g : Group) (lines : List Nat) : List Nat :=
  dedup (((j.badLines g lines).map (fun b => accLine b.1 b.2.1 b.2.2)).filter (fun l => lines.contains l))

/-- The state with the lines in which an error is found now poisoned. -/
def State.poisonFound (s : State) (j : AccJob) (g : Group) (lines : List Nat) : State :=
  if j.foundLines g lines = [] then s
  else s.modGroup j.gid (fun x => { x with accPoison := (j.foundLines g lines).foldl (fun l k => insNat k l) x.accPoison })

/-- The active rows in which a cell is in error. -/
def AccJob.badRows (j : AccJob) (cells : List Nat) : List Nat := (lanesOf j.mask).filter (fun r => cells.contains r)

section
variable {cells lines : List Nat} (hj : s.headJob tile = some j) (hg : s.group j.gid = some g) (htr : (s.tile tile).trans = none)
  (hstarted : j.started = true)
include hj hg htr hstarted

theorem execAccumulatorComplete_of_cells (hrows : j.badRows cells ≠ []) : execAccumulatorComplete ⟨tile, cells, lines⟩ s =
    .next ((s.poisonFound j g lines).matrixError j g (j.accs.headD 0) false (j.badRows cells)) := by
  have hsome : (!((lanesOf j.mask).filter (fun r => cells.contains r)).isEmpty) = true := by
    rw [Bool.not_eq_true', List.isEmpty_eq_false_iff]
    exact hrows
  simp only [execAccumulatorComplete, hj, hg, htr, hstarted, hsome, List.isEmpty_iff, Bool.not_true, Option.isSome_none, Bool.or_self,
    Bool.false_eq_true, if_false, if_true]
  rfl

section
variable (hrows : j.badRows cells = [])
include hrows

theorem execAccumulatorComplete_of_lines {b : Nat × Nat × Nat} {l : List (Nat × Nat × Nat)} (hbad : j.badLines g lines = b :: l) :
    execAccumulatorComplete ⟨tile, cells, lines⟩ s =
      .next ((s.poisonFound j g lines).matrixError j g b.1 true ((j.badLines g lines).map (fun b => b.2.1))) := by
  have hnone : (lanesOf j.mask).filter (fun r => cells.contains r) = [] := hrows
  simp only [execAccumulatorComplete, hj, hg, htr, hstarted, hnone, hbad, State.poisonFound, AccJob.foundLines, List.isEmpty_iff,
    List.isEmpty_nil, Bool.not_true, Option.isSome_none, Bool.or_self, Bool.false_eq_true, if_false]

theorem execAccumulatorComplete_of_clean (hbad : j.badLines g lines = []) :
    execAccumulatorComplete ⟨tile, cells, lines⟩ s = .next (s.completeJob tile j g) := by
  have hnone : (lanesOf j.mask).filter (fun r => cells.contains r) = [] := hrows
  simp only [execAccumulatorComplete, hj, hg, htr, hstarted, hnone, hbad, List.isEmpty_nil, Bool.not_true, Option.isSome_none, Bool.or_self,
    Bool.false_eq_true, if_false]

end

end

end

/-! ## The data error (R164) -/

/-- What ends an outstanding instruction keeps its group's number and matrix errors, and the queues. -/
theorem unresolve_rest (s : State) (gid seq : Nat) :
    ((s.unresolve gid seq).jobs, (s.unresolve gid seq).g.gid, (s.unresolve gid seq).g.matErr) = (s.jobs, s.g.gid, s.g.matErr) := by
  unfold State.unresolve State.modGroup
  split <;> rfl

/-- A data error of the issuing group is recorded behind its others, and the group's jobs leave the queues. -/
theorem matrixError_eq (s : State) (j : AccJob) {g : Group} (hgid : g.gid = s.g.gid) (acc : Nat) (line : Bool) (rows : List Nat) :
    ∃ x : MatErr, (s.matrixError j g acc line rows).g.matErr = s.g.matErr ++ [x] ∧ x.pc = j.pc ∧ x.mask = maskOf rows ∧
      (s.matrixError j g acc line rows).jobs = s.jobs.filter (fun y => decide (y.gid ≠ j.gid)) := by
  unfold State.matrixError
  extract_lets later s1 s2 addr err
  have hfold := keeps_foldl (fun t : State => (t.jobs, t.g.gid, t.g.matErr)) (f := fun t (x : AccJob) => t.unresolve x.gid x.seq)
    (fun t x => unresolve_rest t x.gid x.seq) (j :: later) s1
  obtain ⟨hg, hjobs⟩ := addBucket_rest ((j :: later).foldl (fun t x => t.unresolve x.gid x.seq) s1) (kind := 5) (by decide)
    (dieOf j.tile * 36 + j.tile / 4 % 64)
  simp only [Prod.mk.injEq] at hfold
  obtain ⟨hfjobs, hfgid, hferr⟩ := hfold
  have hgid2 : s2.g.gid = g.gid := (congrArg Group.gid hg).trans (hfgid.trans hgid.symm)
  refine ⟨err, ?_, rfl, rfl, ?_⟩
  · rw [State.modGroup, if_pos hgid2]
    exact congrArg (· ++ [err]) ((congrArg Group.matErr hg).trans hferr)
  · rw [State.modGroup, if_pos hgid2]
    exact hjobs.trans hfjobs

/-! ## ACC.ZERO (R160) -/

/-- A group with some slots of an accumulator, each a row and a column, written with zero. -/
def Group.zeroSlots (g : Group) (n : Nat) (slots : List (Nat × Nat)) : Group := slots.foldl (fun g x => g.wacc n x.1 x.2 0) g

theorem zeroSlots_rest (n : Nat) (slots : List (Nat × Nat)) : ∀ g : Group, g.zeroSlots n slots =
    { g with acc := (g.zeroSlots n slots).acc, dirty := (g.zeroSlots n slots).dirty, touched := (g.zeroSlots n slots).touched } := by
  induction slots with
  | nil => exact fun _ => rfl
  | cons x slots ih => exact fun g => ih (g.wacc n x.1 x.2 0)

theorem racc_zeroSlots (n m : Nat) {row col : Nat} (hrow : row < 32) (hcol : col < 32) (slots : List (Nat × Nat)) :
    ∀ g : Group, (∀ x ∈ slots, x.1 < 32 ∧ x.2 < 32) →
      (g.zeroSlots n slots).racc m row col = if m = n ∧ (row, col) ∈ slots then 0 else g.racc m row col := by
  induction slots with
  | nil => intro g _; simp [Group.zeroSlots]
  | cons x slots ih =>
    intro g hlt
    obtain ⟨⟨hr, hc⟩, hrest⟩ := List.forall_mem_cons.mp hlt
    refine (ih (g.wacc n x.1 x.2 0) hrest).trans ?_
    rw [racc_wacc g n x.1 x.2 m row col 0 hr hc hrow hcol, ← ite_or]
    simp only [List.mem_cons, Prod.ext_iff, and_or_left, or_comm]

/-- The slots of the active rows. -/
def AccJob.slots (j : AccJob) : List (Nat × Nat) := (lanesOf j.mask).flatMap (fun r => (upFrom 0 32).map (fun c => (r, c)))

theorem mem_slots {j : AccJob} {row col : Nat} (hrow : row < 32) (hcol : col < 32) :
    (row, col) ∈ j.slots ↔ j.mask.getLsbD row = true := by
  simp [AccJob.slots, upFrom_eq_range', mem_lanesOf hrow, hcol]

theorem slots_lt {j : AccJob} : ∀ x ∈ j.slots, x.1 < 32 ∧ x.2 < 32 := by
  rintro ⟨row, col⟩ hx
  simp only [AccJob.slots, upFrom_eq_range', List.mem_flatMap, List.mem_map, List.mem_range'_1, Prod.mk.injEq] at hx
  obtain ⟨r, hr, c, hc, rfl, rfl⟩ := hx
  exact ⟨lanesOf_lt r hr, by omega⟩

/-- A slot of accumulator `n` in an active row reads as zero; every other slot as before. -/
theorem racc_zeroSlots_slots (g : Group) (j : AccJob) (n m : Nat) {row col : Nat} (hrow : row < 32) (hcol : col < 32) :
    (g.zeroSlots n j.slots).racc m row col = if m = n ∧ j.mask.getLsbD row = true then 0 else g.racc m row col := by
  simp only [racc_zeroSlots n m hrow hcol j.slots g slots_lt, mem_slots hrow hcol]

/-- The zeros of a completed ACC.ZERO, row by row, are the slots of its active rows. -/
theorem zeroRows_eq (j : AccJob) (n : Nat) (g : Group) :
    (lanesOf j.mask).foldl (fun g r => (upFrom 0 32).foldl (fun g c => g.wacc n r c 0) g) g = g.zeroSlots n j.slots := by
  simp only [Group.zeroSlots, AccJob.slots, List.foldl_flatMap, List.foldl_map]

/-- A completed ACC.ZERO of the issuing group: its slots zeroed, its result awaited no more, its job out of the queue, and nothing else changed
but which of the group's lines are poisoned. -/
theorem completeJob_zero {s : State} {j : AccJob} {n : Nat} (tile : Nat) (hop : j.op = .zero n) (hgid : j.gid = s.g.gid) :
    ∃ poison, s.completeJob tile j s.g =
      { s with
        jobs := s.jobs.eraseIdx (s.jobs.findIdx (fun x => decide (x.tile = tile)))
        g := { s.g.zeroSlots n j.slots with
          accPoison := poison
          results := s.g.results.filter (fun r => decide (r.seq ≠ j.seq)) } } := by
  have hrest := zeroSlots_rest n j.slots s.g
  have hzgid : (s.g.zeroSlots n j.slots).gid = s.g.gid := by rw [hrest]
  have hzres : (s.g.zeroSlots n j.slots).results = s.g.results := by rw [hrest]
  unfold State.completeJob
  simp only [hop, zeroRows_eq, State.unresolve, State.modGroup, hgid, if_true, hzgid, hzres]
  exact ⟨_, rfl⟩

/-! ## The engine's steps -/

/-- Settles O48: the engine's two steps case by case (`execAccumulatorStart_of_ready`, `execAccumulatorComplete_of_…`), the error recorded by
`matrixError_eq`, the oldest job changed in place by a start, and ACC.ZERO's active rows cleared by `completeJob_zero`. -/
theorem matrixSteps : Obligations.MatrixSteps := by
  refine ⟨fun s j g tile hj hg htr => ⟨fun hstarted hpresent hread => ?start, fun cells lines hstarted => ?complete⟩,
    fun s j g acc line rows _ hgid => matrixError_eq s j hgid acc line rows, fun s j tile hj => ?started, fun s j tile n hj _ hgid hop _ => ?zero⟩
  case start =>
    have h : exec (.accumulatorStart tile) s = _ := execAccumulatorStart_of_ready hj hg htr hstarted hpresent hread
    exact ⟨fun hgood => by rw [h, if_pos hgood], fun hbad => by rw [h, if_neg hbad]⟩
  case complete =>
    exact ⟨execAccumulatorComplete_of_clean hj hg htr hstarted, execAccumulatorComplete_of_cells hj hg htr hstarted,
      fun _ _ hrows hbad => execAccumulatorComplete_of_lines (lines := lines) hj hg htr hstarted hrows hbad⟩
  case started => exact ⟨_, _, rfl, headJob_setHeadJob hj rfl, rfl, rfl, rfl, rfl, rfl, setHeadJob_rest hj _⟩
  case zero =>
    obtain ⟨poison, hdone⟩ := completeJob_zero tile hop hgid
    have hrest := zeroSlots_rest n j.slots s.g
    refine ⟨_, hdone, length_eraseIdx_headJob hj, rfl, fun m row col hrow hcol =>
      racc_zeroSlots_slots s.g j n m hrow hcol, by rw [hrest], by rw [hrest], rfl⟩

end Sys2Proof.Machine
end

section
/-! Loads and stores of lanes and of the uniform set take an entry of the operand log (07 R169, R177, R178, R180; 04 R114, R115; 12 R324). -/

namespace Sys2Proof.Machine

/-- The mark that `State.open_` clears is no part of what the caches hold. -/
theorem open_cacheUsed (s : State) (tile : Nat) (acc : Bool) : s.open_.cacheUsed tile acc = s.cacheUsed tile acc := by
  have hgroups : (s.open_.cacheGroups tile).map (fun g => g.cached acc) = (s.cacheGroups tile).map (fun g => g.cached acc) := by
    simp only [State.cacheGroups, State.groups, State.open_, List.filter_cons]
    split <;> rfl
  rw [State.cacheUsed, State.cacheUsed, hgroups]

theorem open_entryFree (s : State) : s.open_.entryFree = s.entryFree := by
  simp only [State.entryFree, open_cacheUsed]
  rfl

section
variable {i : Instr} {h : Hdr} {u : State → Uses} {on : State → Bool} {need : State → Split → Prop} {eff : State → Split → State}

/-- An instruction's contributions to the signatures are no part of the checks it must pass. -/
theorem Does.of_folds {folds : State → List (W32 × W32)} (hd : Does i (fun s => { u s with folds := folds s }) on need eff) :
    Does i u on need eff :=
  fun s sp hc => hd s sp (canIssue_congr hc rfl rfl rfl rfl rfl rfl)

/-- A lane-set instruction that is held in the operand log, from its body. -/
theorem does_held {x : State → Held} {lanes : State → Split → List OlLane} {body : State → W32 → Split → State → State × Fate}
    (he : ∀ s, exec i s = issueLane i h (u s) (body s) s)
    (hb : ∀ s sp, s.canIssue i (u s) sp → someLane h s = true → need s sp → s.entryFree = true ∧
      body s (activeMask h s) sp s.open_ = s.open_.hold i sp (activeMask h s) (x s.open_) (lanes s.open_ sp)) :
    Does i u (someLane h) need (fun s sp => s.withEntry i sp (activeMask h s) (x s) (lanes s sp)) :=
  does_lane he fun s sp hc ho hn => by
    obtain ⟨hfree, hbody⟩ := hb s sp hc ho hn
    rw [hbody]
    exact hold_entry ((open_entryFree s).trans hfree) ..

/-- A uniform-set instruction that is held in the operand log, from its body. -/
theorem does_held_uni {x : Held} {lanes : State → List OlLane} {body : State → Split → State → State × Fate}
    (he : ∀ s, exec i s = issueUni i h (u s) (body s) s)
    (hb : ∀ s sp, need s sp → s.entryFree = true ∧ body s sp s.open_ = s.open_.hold i sp sp.mask x (lanes s.open_)) :
    Does i u (guardOn h) need (fun s sp => s.withEntry i sp sp.mask x (lanes s)) :=
  does_uni he fun s sp _ _ hn => by
    obtain ⟨hfree, hbody⟩ := hb s sp hn
    rw [hbody]
    exact hold_entry ((open_entryFree s).trans hfree) ..

end

section
variable {i : Instr} {h : Hdr} {d a : BitVec 6} {reads : List (Nat × Nat × Nat)} {size : Nat} {ta : Option Nat} {ht : BitVec 2}
  {addr : Group → Nat → W64 × Option Nat}

/-- The registers of an access are aligned to their number (R177). -/
theorem alignedRegs (size : Nat) : (if size = 16 then 4 else max (size / 4) 1) = max (size / 4) 1 := by
  split
  · subst size; rfl
  · rfl

/-! ## Global memory (R177, R178) -/

theorem does_globLoad {sx : Bool} (he : ∀ s, exec i s = globLoad i h d reads size sx ta ht addr s) :
    Does i (fun _ => { vr := reads, vw := [vN d (max (size / 4) 1) (max (size / 4) 1)], late := true, logged := true }) (someLane h)
      (fun s _ => s.entryFree = true) (fun s sp => s.withEntry i sp (activeMask h s)
        { kind := .load sx, space := .glob, size := size, dst := s.g.phys d.toNat, ta := ta, hint := ht }
        ((lanesOf (activeMask h s)).map (fun l => laneAt l (addr s.g l).1 (addr s.g l).2))) := by
  simp only [globLoad, alignedRegs] at he
  exact does_held he fun s _ _ _ hfree => ⟨hfree, rfl⟩

theorem does_globStore (he : ∀ s, exec i s = globStore i h d reads size ta ht addr s) :
    Does i (fun _ => { vr := reads ++ [vN d (max (size / 4) 1) (max (size / 4) 1)], late := true, store := true }) (someLane h)
      (fun s _ => s.g.role ≠ .trailer ∧ s.entryFree = true) (fun s sp => s.withEntry i sp (activeMask h s)
        { kind := .store, space := .glob, size := size, ta := ta, hint := ht }
        ((lanesOf (activeMask h s)).map (fun l =>
          { laneAt l (addr s.g l).1 (addr s.g l).2 with data := s.g.storeData (s.g.phys d.toNat) size l }))) := by
  simp only [globStore, alignedRegs] at he
  exact .of_folds <| does_held he fun s _ _ _ hn => ⟨hn.2, if_neg hn.1⟩

/-! ## Scratchpads (R180) -/

theorem does_scrLoad (he : ∀ s, exec i s = scrLoad i h d a size s) :
    Does i (fun _ => { vr := [v1 a], vw := [vN d (size / 4) (size / 4)], late := true }) (someLane h) (fun s _ => s.entryFree = true)
      (fun s sp => s.withEntry i sp (activeMask h s) { kind := .load false, space := .scr, size := size, dst := s.g.phys d.toNat }
        ((lanesOf (activeMask h s)).map (fun l => laneAt l ((s.g.op a l).setWidth 64) none))) := by
  simp only [scrLoad] at he
  exact does_held he fun s _ _ _ hfree => ⟨hfree, rfl⟩

theorem does_scrStore (he : ∀ s, exec i s = scrStore i h d a size s) :
    Does i (fun _ => { vr := [v1 a, vN d (size / 4) (size / 4)], late := true, store := true }) (someLane h)
      (fun s _ => s.entryFree = true) (fun s sp => s.withEntry i sp (activeMask h s) { kind := .store, space := .scr, size := size }
        ((lanesOf (activeMask h s)).map (fun l =>
          { laneAt l ((s.g.op a l).setWidth 64) none with data := s.g.storeData (s.g.phys d.toNat) size l }))) := by
  simp only [scrStore] at he
  exact .of_folds <| does_held he fun s _ _ _ hfree => ⟨hfree, rfl⟩

end

/-! ## Cluster memory (R180) -/

/-- The lanes of a mask, as a mask. -/
theorem maskOf_lanesOf (m : W32) : maskOf (lanesOf m) = m :=
  BitVec.eq_of_getLsbD_eq fun l hl => maskOf_bit m.getLsbD l hl

/-- The log has nothing of a group without a team. -/
theorem lookLog_of_team_none {s : State} (ht : s.team s.g.tid = none) (hr : s.g.role = .leader) (cnt key : Nat) :
    s.lookLog s.g cnt key = none := by
  simp [State.lookLog, State.logOf, State.replayOf, State.chordOf, State.leaderTeam, ht, hr]

/-- Whether a cluster store performs a lane: where the group takes no part of it from a log, or the lane names its own tile (R180; 13 R347). -/
def State.storesLane (s : State) (a : BitVec 6) (l : Nat) : Bool :=
  !(s.mute || s.doneBefore) || (match s.team s.g.tid with
    | some t => decide ((s.g.op a l).toNat / 2 ^ 18 % 4 = t.idx % 4)
    | none => false)

/-- A cluster store outside a follower leaves out no lane: one that names another tile is of a team that is not checked (13 R351). -/
theorem filter_storesLane {s : State} {m : W32} {a : BitVec 6} (hf : s.g.role.follows = false)
    (hp : s.namesOther m a = true → s.g.role = .plain) : (lanesOf m).filter (s.storesLane a) = lanesOf m := by
  refine List.filter_eq_self.mpr fun l hl => ?_
  by_cases hd : s.doneBefore = true
  · obtain ⟨hr, hlog⟩ := (Bool.and_eq_true _ _).mp hd
    have hr := of_decide_eq_true hr
    cases ht : s.team s.g.tid with
    | none => rw [lookLog_of_team_none ht hr] at hlog; cases hlog
    | some t =>
      have hno : s.namesOther m a = false := Bool.eq_false_iff.mpr fun hn => by rw [hp hn] at hr; cases hr
      simp only [State.namesOther, ht, List.any_eq_false, decide_eq_true_eq, not_not] at hno
      simp only [State.storesLane, ht, hno l hl, decide_true, Bool.or_true]
  · simp [State.storesLane, State.mute, hf, hd]

/-- An instruction with an active lane has a lane of its mask. -/
theorem lanesOf_ne_nil {h : Hdr} {s : State} (ho : someLane h s = true) : lanesOf (activeMask h s) ≠ [] := fun hnil =>
  of_decide_eq_true ho (by rw [← maskOf_lanesOf (activeMask h s), hnil]; rfl)

theorem does_stcW (h : Hdr) (d a : BitVec 6) :
    Does (.stcW h d a)
      (fun s => { vr := [v1 a, v1 d], late := true, cmp := s.namesOther (activeMask h s) a, store := !s.namesOther (activeMask h s) a })
      (someLane h) (fun s _ => s.g.role.follows = false ∧ s.entryFree = true)
      (fun s sp => s.withEntry (.stcW h d a) sp (activeMask h s) { kind := .store, space := .clu, size := 4 }
        ((lanesOf (activeMask h s)).map (fun l =>
          { laneAt l ((s.g.op a l).setWidth 64) none with data := s.g.storeData (s.g.phys d.toNat) 4 l }))) := by
  refine .of_folds <| does_held (execStcW.eq_def h d a) fun s sp hc ho hn => ⟨hn.2, ?_⟩
  have hall : (lanesOf (activeMask h s)).filter (s.open_.storesLane a) = lanesOf (activeMask h s) :=
    filter_storesLane hn.1 fun hother => hc.2.2.2.2.2.2.2 (by simp only [Bool.or_eq_true]; exact Or.inr hother)
  show (if ((lanesOf (activeMask h s)).filter (s.open_.storesLane a)).isEmpty then (s.open_, Fate.fall)
    else s.open_.hold _ sp (maskOf ((lanesOf (activeMask h s)).filter (s.open_.storesLane a))) _
      (((lanesOf (activeMask h s)).filter (s.open_.storesLane a)).map _)) = _
  rw [hall, maskOf_lanesOf, if_neg (by simpa using lanesOf_ne_nil ho)]
  rfl

end Sys2Proof.Machine
end

section
/-! Loads and stores as they are held (07 R177, R178, R180; 04 R114). -/

namespace Sys2Proof.Machine

/-- Settles O25: a load is one of a few forms, and every form is held in the operand log (`does_held`). -/
theorem loadsAreHeld : Obligations.LoadsAreHeld := by
  intro h d a o ta ht t mode disp k
  exact ⟨rfl, (does_globLoad (i := .ldB h d ta o ht) (execLdB.eq_def h d ta o ht) :),
    (does_globLoad (i := .ldH h d ta o ht) (execLdH.eq_def h d ta o ht) :),
    (does_globLoad (i := .ldW h d ta o ht) (execLdW.eq_def h d ta o ht) :),
    (does_globLoad (i := .ldD h d ta o ht) (execLdD.eq_def h d ta o ht) :),
    (does_globLoad (i := .ldQ h d ta o ht) (execLdQ.eq_def h d ta o ht) :), (does_scrLoad (i := .ldsW h d a) (execLdsW.eq_def h d a) :),
    (does_scrLoad (i := .ldsD h d a) (execLdsD.eq_def h d a) :), (does_scrLoad (i := .ldsQ h d a) (execLdsQ.eq_def h d a) :),
    does_held (execLdcW.eq_def h d a) fun _ _ _ _ hfree => ⟨hfree, rfl⟩,
    (does_globLoad (i := .ldx h d ta o ht t mode disp) (execLdx.eq_def h d ta o ht t mode disp) :),
    does_held_uni (execSld.eq_def h d a k) fun _ _ hfree => ⟨hfree, rfl⟩⟩

/-- Settles O26: a store is one of a few forms, and every form is held in the operand log (`does_held`). -/
theorem storesAreHeld : Obligations.StoresAreHeld := by
  intro h d a b o ta ht t mode disp k
  exact ⟨(does_globStore (i := .stB h d ta o ht) (execStB.eq_def h d ta o ht) :),
    (does_globStore (i := .stH h d ta o ht) (execStH.eq_def h d ta o ht) :),
    (does_globStore (i := .stW h d ta o ht) (execStW.eq_def h d ta o ht) :),
    (does_globStore (i := .stD h d ta o ht) (execStD.eq_def h d ta o ht) :),
    (does_globStore (i := .stQ h d ta o ht) (execStQ.eq_def h d ta o ht) :), (does_scrStore (i := .stsW h d a) (execStsW.eq_def h d a) :),
    (does_scrStore (i := .stsD h d a) (execStsD.eq_def h d a) :), (does_scrStore (i := .stsQ h d a) (execStsQ.eq_def h d a) :),
    (does_globStore (i := .stx h d ta o ht t mode disp) (execStx.eq_def h d ta o ht t mode disp) :), does_stcW h d a,
    .of_folds <| does_held_uni (execSst.eq_def h a b k) fun _ _ hn => ⟨hn.2, if_neg hn.1⟩⟩

end Sys2Proof.Machine
end

section
/-! TA.SET and TA.QRY fail to go on while a pending translation's walk waits for a line (07 R175, R187). -/

namespace Sys2Proof.Machine

/-- An instruction of a plain team whose body waits changes nothing while no recorded fault has to be taken first. -/
theorem issue_wait {s s1 : State} {i : Instr} {h : Hdr} {u : Uses} {sp : Split} {lanes : State → W32} {on : State → Bool}
    {body : State → State × Fate} (hc : s.canIssue i u sp) (ho : on s = true) (hp : s.g.role = .plain) (hst : u.store = false)
    (hb : body s.open_ = (s1, .wait)) (hbl : s.g.blocked = false) : issue i h u lanes on body s = .next s := by
  obtain ⟨hr, hpre, hm, hy, -, hroom, -⟩ := hc
  have hperf : ∀ fs, s.perform i h u fs (lanes s) sp body = none := fun fs => by
    have hb : body { s with g := { s.g with cleared := none } } = (s1, .wait) := hb
    have hdone : ((s.g.role.follows || s.doneBefore) && u.logged) = false := by simp [State.doneBefore, Role.follows, hp]
    have hnone : (if s.g.role.follows then s.instrTrap s.g else none) = none := by simp [Role.follows, hp]
    simp only [State.perform, hnone, hdone, hb, Bool.false_eq_true, if_false]
  simp [issue, hr, hpre, hm, hy, hst, ho, hroom, hp, hperf, State.checkedBy, State.heldUp, hbl]

/-- A running group whose aperture 15 is still to be translated, at address 0 through the table at address 0, while an engine owns the line of
the table's first entry. -/
def translationWaits : State :=
  { State.reset with
    g := { placedGroup with ta := [(15, { Aperture.invalid with v := true, pending := true })] }
    owners := [⟨0, 0, 8⟩] }

/-- Refutes O35: while a pending translation's walk waits for a line that an engine owns, TA.QRY waits at issue and writes no register. -/
theorem not_apertures : ¬ Obligations.Apertures := by
  intro h
  let i : Instr := .taQry ⟨false, false, 7⟩ 63 15
  let sp : Split := Split.fresh 0 placedPc 0xFFFFFFFF 0
  have hissue : translationWaits.canIssue i { sw := [63], logged := true } sp := by
    refine ⟨by decide, by decide, by decide, by decide, nofun, by decide, nofun, fun _ => rfl⟩
  have hwait : exec i translationWaits = .next translationWaits := by
    show execTaQry _ _ _ _ = _
    unfold execTaQry issueUni
    exact issue_wait hissue (by decide) rfl rfl (if_pos (by decide)) (by decide)
  obtain ⟨t, ht, hs⟩ := (h.1 ⟨false, false, 7⟩ 63 0 0 15).2.2 translationWaits sp hissue fun _ => trivial
  obtain rfl : translationWaits = t := Host.Outcome.next.inj (hwait.symm.trans ht)
  exact absurd (congrArg (fun s : State => s.g.s) hs) (by decide)

end Sys2Proof.Machine
end

section
/-! Prefetches, stash mappings, and the maintenance of caches and TLBs (07 R179, R189, R191, R198). -/

namespace Sys2Proof.Machine

/-- An instruction that awaits something owes its result. -/
theorem still_awaiting (s : State) (sp : Split) (sw : List (Nat × W64)) (w : Await) :
    (s.awaiting sp sw w).still = (s.owes sp [] sw 0 w).still :=
  State.still_addFolds _ _ _ _ _

section
variable {i : Instr} {h : Hdr} {a b : BitVec 6}

/-- What PREF looks up for a lane (R179). -/
def prefLane (ta : BitVec 4) (o : BitVec 6) (s : State) (l : Nat) : OlLane := laneAt 0 (taAddr ta o s.g l).1 (taAddr ta o s.g l).2

/-- A prefetch of a follower does nothing; any other, whose walks wait for no line, prefetches its lanes one after the other (R179). -/
theorem does_pref {l1 : Bool} {ta : BitVec 4} {o : BitVec 6} {ht : BitVec 2} (he : ∀ s, exec i s = prefLanes i h l1 ta o ht s) :
    Does i (fun _ => { vr := [v1 o], late := true }) (someLane h)
      (fun s _ =>
        let s1 := s.open_.finishAperture s.g.gid ta.toNat
        s.g.role.follows = true ∨ ((s1.g.rta ta.toNat).unsettled = false ∧
          ∀ l ∈ lanesOf (activeMask h s), s1.lookHeld s1.g (s1.prefEntry s1.g ta.toNat) (prefLane ta o s1 l) = false))
      (fun s _ =>
        let s1 := s.finishAperture s.g.gid ta.toNat
        if s.g.role.follows = true then s
        else (lanesOf (activeMask h s)).foldl (fun x l => x.prefetch x.g l1 ta.toNat ht (taAddr ta o s1.g l)) s1) := by
  refine does_lane he fun s sp _ _ hn => ?_
  by_cases hf : s.open_.g.role.follows = true
  · rw [if_pos hf, if_pos (show s.open_.mute = true from hf)]
    exact ⟨rfl, rfl⟩
  · obtain ⟨hsettled, hlanes⟩ := hn.resolve_left hf
    rw [if_neg hf, if_neg (show ¬ s.open_.mute = true from hf)]
    dsimp only
    rw [if_neg]
    · exact ⟨rfl, rfl⟩
    · rw [Bool.or_eq_true, not_or, List.any_eq_true]
      exact ⟨Bool.eq_false_iff.mp hsettled, fun ⟨l, hl, hheld⟩ => Bool.eq_false_iff.mp (hlanes l hl) hheld⟩

/-- The lines of a CINV's range, none where a walk has to wait (R191). -/
def State.cinvRange (s : State) (a b : BitVec 6) : Option (List Nat) × State :=
  let va := (s.g.rs a.toNat).toNat
  let stop := min (2 ^ 57) (va + (s.g.rs b.toNat).toNat)
  State.rangeLines (s.req s.g) ((stop - va) / 4096 + 2) s va stop

/-- CINV owes what it does to the lines of its range, where their walks wait for no line (R191). -/
theorem does_cinv {op : Nat} (he : ∀ s, exec i s = cinv i h a b op s) :
    Does i (fun _ => { sr := [a.toNat, b.toNat], late := true }) (guardOn h)
      (fun s _ => s.g.role.follows = false ∧ (s.open_.cinvRange a b).1.isSome = true)
      (fun s sp => (s.cinvRange a b).2.owes sp [] [] 0 (.lines op ((s.cinvRange a b).1.getD []))) := by
  refine does_uni he fun s sp _ _ hn => ?_
  obtain ⟨hf, hsome⟩ := hn
  obtain ⟨lines, hlines⟩ := Option.isSome_iff_exists.mp hsome
  have hrange : s.open_.cinvRange a b = (some lines, (s.open_.cinvRange a b).2) := Prod.ext hlines rfl
  rw [if_neg (show ¬ s.open_.mute = true from Bool.eq_false_iff.mp hf), hlines]
  dsimp only
  unfold State.cinvRange at hrange
  rw [hrange]
  exact ⟨rfl, still_awaiting _ _ _ _⟩

/-- TLBI drops what it names and waits for the shoot-down (R198). -/
theorem does_tlbi {rs : List (BitVec 6)} {f : State → State} (he : ∀ s, exec i s = tlbi i h rs f s) :
    Does i (fun _ => { sr := rs.map (·.toNat), priv := true, late := true }) (guardOn h) (fun s _ => s.g.role.follows = false)
      (fun s sp => (f s).owes sp [] [] 0 .tlb) := by
  refine does_uni he fun s sp _ _ hf => ⟨rfl, ?_⟩
  rw [if_neg (show ¬ s.open_.mute = true by rw [State.mute]; exact Bool.eq_false_iff.mp hf)]
  exact still_awaiting _ _ _ _

end

/-- STASH.MAP of aligned operands owes its status, the mapping made (R189). -/
theorem does_stashMap (h : Hdr) (d a b : BitVec 6) :
    Does (.stashMap h d a b) (fun _ => { sr := [a.toNat, b.toNat], sw := [d.toNat], late := true, logged := true, cmp := true }) (guardOn h)
      (fun s _ => ((s.g.rs a.toNat).toNat % 128 = 0 ∧ (s.g.rs a.toNat).toNat < 2 ^ 57) ∧ field (s.g.rs b.toNat) 32 32 % 128 = 0 ∧
        field (s.g.rs b.toNat) 0 32 % 128 = 0)
      (fun s sp =>
        let r := s.mapStash s.g.tid (s.g.rs a.toNat).toNat (field (s.g.rs b.toNat) 32 32) (field (s.g.rs b.toNat) 0 32)
        r.2.owes sp [] [(d.toNat, BitVec.ofNat 64 r.1)] 0 .nothing) := by
  refine .of_folds <| does_uni (execStashMap.eq_def h d a b) fun s sp _ _ hn => ?_
  obtain ⟨⟨hva, hlt⟩, hlen, hoff⟩ := hn
  rw [if_neg (by simpa [hva, hlen, hoff] using hlt)]
  exact ⟨rfl, still_laterLogged _ _ _ _⟩

/-- STASH.WB of aligned operands owes the write-back of its range (R189). -/
theorem does_stashWb (h : Hdr) (a b : BitVec 6) :
    Does (.stashWb h a b) (fun _ => { sr := [a.toNat, b.toNat], late := true }) (guardOn h)
      (fun s _ => ((s.g.rs a.toNat).toNat % 128 = 0 ∧ (s.g.rs a.toNat).toNat < 2 ^ 57) ∧ (s.g.rs b.toNat).toNat % 128 = 0 ∧
        s.g.role.follows = false)
      (fun s sp => s.owes sp [] [] 0 (.stashWb (s.g.rs a.toNat).toNat ((s.g.rs a.toNat).toNat + (s.g.rs b.toNat).toNat))) := by
  refine does_uni (execStashWb.eq_def h a b) fun s sp _ _ hn => ?_
  obtain ⟨⟨hva, hlt⟩, hlen, -⟩ := hn
  rw [if_neg (by simpa [hva, hlen] using hlt)]
  exact ⟨rfl, still_awaiting _ _ _ _⟩

/-- Settles O45: each instruction's body past its waits (`does_pref`, `does_cinv`) and its alignment checks (`does_stashMap`, `does_stashWb`). -/
theorem prefetchAndMaintenance : Obligations.PrefetchAndMaintenance := by
  refine ⟨fun h ta o ht => ⟨?l1, ?l2⟩, fun h d a b => ?_⟩
  case l1 => exact (does_pref (i := .prefL1 h ta o ht) (execPrefL1.eq_def h ta o ht) :)
  case l2 => exact (does_pref (i := .prefL2 h ta o ht) (execPrefL2.eq_def h ta o ht) :)
  exact ⟨does_stashMap h d a b, does_stashWb h a b, (does_cinv (i := .cinvL1 h a b) (execCinvL1.eq_def h a b) :),
    (does_cinv (i := .cinvWb h a b) (execCinvWb.eq_def h a b) :), (does_cinv (i := .cinvWbi h a b) (execCinvWbi.eq_def h a b) :),
    (does_tlbi (i := .tlbiAll h) (execTlbiAll.eq_def h) :), (does_tlbi (i := .tlbiGlobal h) (execTlbiGlobal.eq_def h) :),
    (does_tlbi (i := .tlbiCtx h b) (execTlbiCtx.eq_def h b) :), (does_tlbi (i := .tlbiRange h a b) (execTlbiRange.eq_def h a b) :)⟩

end Sys2Proof.Machine
end

section
/-! The steps of a held access: its walk, its request at the home, its reply (07 R172, R176; 12 R324). -/

namespace Sys2Proof.Machine

/-! ## Groups and entries that change -/

/-- A change of a group changes no other part of the machine. -/
theorem modGroup_rest (s : State) (gid : Nat) (f : Group → Group) : ∃ g os, s.modGroup gid f = { s with g := g, others := os } := by
  unfold State.modGroup
  split
  · exact ⟨_, _, rfl⟩
  · exact ⟨_, _, rfl⟩

/-- A change of the focus by its number. -/
theorem modGroup_self (s : State) (f : Group → Group) : s.modGroup s.g.gid f = { s with g := f s.g } := if_pos rfl

/-- What a change keeps of every group it keeps of the focus. -/
theorem modGroup_field {β : Type} (field : Group → β) {f : Group → Group} (hf : ∀ g, field (f g) = field g) (s : State) (gid : Nat) :
    field (s.modGroup gid f).g = field s.g := by
  unfold State.modGroup
  split
  · exact hf s.g
  · rfl

/-- An entry whose lanes have changed. -/
theorem entry_modEntry (g : Group) (idx : Nat) (f : OlLane → OlLane) :
    (g.modEntry idx f).entry idx = (g.entry idx).map (fun e => { e with lanes := e.lanes.map f }) := by
  have hidx : ((fun e : OlEntry => decide (e.idx = idx)) ∘ fun e => if e.idx = idx then { e with lanes := e.lanes.map f } else e) =
      fun e => decide (e.idx = idx) := by
    funext e
    simp only [Function.comp]
    split <;> rfl
  simp only [Group.entry, Group.modEntry, List.find?_map, hidx]
  cases hx : g.olog.find? (fun e => decide (e.idx = idx)) with
  | none => rfl
  | some e => exact congrArg some (if_pos (of_decide_eq_true (List.find?_some (p := fun e : OlEntry => decide (e.idx = idx)) hx)))

/-- The sole lane of an entry set. -/
theorem lanes_setSole {l : OlLane} {ls : List OlLane} (hl : ls = [l]) (st : OlLane → LaneState) :
    ls.map (fun k => if [l.lane].contains k.lane then { k with st := st k } else k) = [{ l with st := st l }] := by
  simp [hl]

/-- The sole lane of an entry of the focus set. -/
theorem entry_setLane_sole {s : State} {x : OlEntry} {l : OlLane} (hx : s.g.entry x.idx = some x) (hl : x.lanes = [l])
    (st : OlLane → LaneState) : (s.setLane s.g.gid x.idx [l.lane] st).g.entry x.idx = some { x with lanes := [{ l with st := st l }] } := by
  rw [State.setLane, modGroup_self]
  simp only [entry_modEntry, hx, Option.map_some, lanes_setSole hl]

/-- Setting lanes changes a log, and nothing but groups. -/
theorem setLane_field {β : Type} (field : Group → β) (hf : ∀ (g : Group) ol, field { g with olog := ol } = field g) (s : State)
    (gid idx : Nat) (ls : List Nat) (st : OlLane → LaneState) : field (s.setLane gid idx ls st).g = field s.g :=
  modGroup_field field (fun g => hf g _) s gid

/-- Nothing is noted in the image of an entry whose line stands in the tile (12 R331). -/
theorem noteEntry_of_present {s : State} {gid idx : Nat} (hlive : s.g.live = true) (hgid : s.g.gid = gid)
    (hlog : s.g.absent.contains (logLine idx) = false) : s.noteEntry gid idx = s := by
  subst hgid
  simp only [State.noteEntry, group_self hlive, hlog, Bool.false_and, Bool.false_eq_true, if_false]

section
variable {s : State} {gid e : Nat} {g : Group} {x : OlEntry} {lanes : W32}

/-! ## Walks (R176) -/

theorem execPageWalkDone_of_entry (hg : (s.settleEntry gid e).group gid = some g) (hx : g.entry e = some x)
    (hh : (s.settleEntry gid e).entryHeld g e = false) :
    execPageWalkDone gid e lanes s = .next (((s.settleEntry gid e).walkEntry g x lanes).noteEntry gid e) := by
  simp [execPageWalkDone, hg, hx, hh]

/-- An access through no aperture has none to be translated first. -/
theorem settleEntry_of_direct (hg : s.group gid = some g) (hx : g.entry e = some x) (hta : x.ta = none) : s.settleEntry gid e = s := by
  simp [State.settleEntry, hg, hx, hta]

/-- The walk of an entry's sole lane: it takes what its address is found to be. -/
theorem walkEntry_sole {s3 : State} {l : OlLane} {st : LaneState} (hx : ∀ y ∈ s.g.olog, y.idx = x.idx → y = x) (hv : x.apt.v = false)
    (hl : x.lanes = [l]) (hlane : lanes.getLsbD l.lane = true) (hst : l.st = .pending) (hlook : s.lookHeld s.g x l = false)
    (hloc : s.locate s.g x l = (st, s3)) : s.walkEntry s.g x lanes = s3.setLane s.g.gid x.idx [l.lane] (fun _ => st) := by
  have hset : x.apt.unsettled = false := by simp [Aperture.unsettled, hv]
  have holog : s.g.olog.map (fun y => if y.idx = x.idx then { y with apt := x.apt } else y) = s.g.olog := by
    refine List.map_congr_left (g := id) (fun y hy => ?_) |>.trans (List.map_id _)
    split
    · next hidx => rw [hx y hy hidx]; rfl
    · rfl
  have hsame : s.modGroup s.g.gid (fun g => { g with olog := g.olog.map (fun y => if y.idx = x.idx then { y with apt := x.apt } else y) }) = s := by
    rw [modGroup_self, holog]
  have hnamed : x.lanes.filter (fun l => lanes.getLsbD l.lane && l.st.isPending) = [l] := by simp [hl, hlane, hst, LaneState.isPending]
  have hpending : x.lanes.filter (fun k => k.st.isPending && [l].any (fun j => decide (j.addr = k.addr))) = [l] := by
    simp [hl, hst, LaneState.isPending]
  simp only [State.walkEntry, hset, Bool.false_and, Bool.false_eq_true, if_false, hsame, hnamed, hpending, List.foldl_cons, List.foldl_nil,
    hlook, hloc]

/-! ## Requests at the home (R172) -/

theorem execHomeRequest_of_ready (hg : (s.modGroup gid (fun g => g.settleReleases)).group gid = some g) (hx : g.entry e = some x)
    (hm : (s.modGroup gid (fun g => g.settleReleases)).mayPerform g x = true)
    (hh : (s.modGroup gid (fun g => g.settleReleases)).entryHeld g e = false) :
    execHomeRequest gid e lanes s =
      .next (((s.modGroup gid (fun g => g.settleReleases)).performEntry gid x lanes).noteEntry gid e) := by
  simp [execHomeRequest, hg, hx, hm, hh]

/-- The sole lane of an entry is its one target. -/
theorem performEntry_sole {l : OlLane} {p : Place} {k : Nat} (hl : x.lanes = [l]) (hlane : lanes.getLsbD l.lane = true)
    (hst : l.st = .located p k) : s.performEntry gid x lanes = s.performAt gid x.idx p k [l.lane] := by
  have hhalves : x.halves lanes = [] := by simp [OlEntry.halves, hl, hst]
  have htargets : x.targets lanes = [(p, k, [l.lane])] := by simp [OlEntry.targets, OlEntry.sameTarget, hl, hst, hlane]
  rw [State.performEntry, hhalves, htargets]
  rfl

/-! ## Replies (12 R324) -/

theorem execMemoryReply_of_present (hg : s.group gid = some g) (haway : g.away = false) (ht : (s.tile g.tile).trans = none)
    (hx : g.entry e = some x) (hlate : s.lateHeld g (x.replyKeys lanes) = false) (hh : s.entryHeld g e = false) :
    execMemoryReply gid e lanes s = .next (s.replyEntry gid x lanes) := by
  simp [execMemoryReply, hg, haway, ht, hx, hlate, hh]

end

/-- A state differs from another in what freeing entries of the operand log changes: the log and the notes of poisoned lines of a group, and what
redundant execution records. -/
def State.FreedFrom (s t : State) : Prop := ∃ ol rp os ts,
  t = { s with g := { s.g with olog := ol, regPoison := rp }, others := os, teams := ts }

theorem State.FreedFrom.trans {s t u : State} (h : s.FreedFrom t) (h' : t.FreedFrom u) : s.FreedFrom u := by
  obtain ⟨_, _, _, _, rfl⟩ := h
  obtain ⟨_, _, _, _, rfl⟩ := h'
  exact ⟨_, _, _, _, rfl⟩

theorem freedFrom_modGroup (s : State) (gid : Nat) {f : Group → Group} (hf : ∀ g, ∃ ol rp, f g = { g with olog := ol, regPoison := rp }) :
    s.FreedFrom (s.modGroup gid f) := by
  unfold State.modGroup
  split
  · obtain ⟨ol, rp, h⟩ := hf s.g
    exact ⟨ol, rp, _, _, by rw [h]⟩
  · exact ⟨_, _, _, _, rfl⟩

theorem freedFrom_addFolds (s : State) (g : Group) (n : Nat) (b : Bool) (l : List (W32 × W32)) : s.FreedFrom (s.addFolds g n b l) :=
  let ⟨_, h⟩ := addFolds_teams s g n b l
  ⟨_, _, _, _, h⟩

theorem freedFrom_logVals (s : State) (g : Group) (n : Nat) (l : List (Nat × W64)) : s.FreedFrom (s.logVals g n l) :=
  let ⟨_, h⟩ := logVals_teams s g n l
  ⟨_, _, _, _, h⟩

theorem freedFrom_freeDone (s : State) (gid : Nat) : s.FreedFrom (s.freeDone gid) := by
  unfold State.freeDone
  split
  · exact ⟨_, _, _, _, rfl⟩
  · refine List.foldlRecOn _ _ (motive := s.FreedFrom) ⟨_, _, _, _, rfl⟩ fun t ht e _ => ht.trans ?_
    dsimp only
    split
    · exact ((freedFrom_modGroup t gid fun g => ⟨_, _, rfl⟩).trans (freedFrom_addFolds _ _ _ _ _)).trans (freedFrom_logVals _ _ _ _)
    · exact (freedFrom_modGroup t gid fun g => ⟨_, _, rfl⟩).trans (freedFrom_addFolds _ _ _ _ _)

/-- The register that a lane of a word load writes (R177). -/
theorem laneWrites_word {x : OlEntry} (hk : x.kind = .load false) (hsize : x.size = 4) (v : BitVec 128) :
    x.laneWrites v = [(x.dst, v.extractLsb' 0 32)] := by
  simp [OlEntry.laneWrites, hk, hsize, upFrom, loadWord]

theorem lateLines_sole {g : Group} {r i : Nat} (hi : i < 32) (hr : g.absent.contains r = false) : g.lateLines [32 * r + i] = [] := by
  have hreg : (32 * r + i) / 32 = r := by omega
  simpa [Group.lateLines, dedup, hreg] using hr

/-- What returns to lines that stand in the tile, of an entry that does, leaves the image alone (12 R331, R335). -/
theorem noteEntry_writeLate_of_present {s : State} {gid idx : Nat} {keys : List Nat} (hlive : s.g.live = true) (hgid : s.g.gid = gid)
    (hlate : s.g.lateLines keys = []) (hlog : s.g.absent.contains (logLine idx) = false) : (s.writeLate gid keys).noteEntry gid idx = s := by
  subst hgid
  rw [writeLate_of_present hlive hlate, noteEntry_of_present hlive rfl hlog]

section
variable {s : State} {x : OlEntry} {l : OlLane} {v : BitVec 128} {lanes : W32} (hlive : s.g.live = true) (hx : s.g.entry x.idx = some x)
  (hk : x.kind = .load false) (hsize : x.size = 4) (hl : x.lanes = [l]) (hlane : lanes.getLsbD l.lane = true) (hst : l.st = .performed v)
include hlive hx hk hsize hl hlane hst

/-- The sole lane of a word load returned: its register is written and its entry may be freed (R177). -/
theorem returnLanes_word : ({ s with g := s.g.wv x.dst l.lane (v.extractLsb' 0 32) } : State).FreedFrom
    (s.returnLanes s.g.gid x.idx lanes) := by
  have hsw : x.sWrites v = [] := by simp [OlEntry.sWrites, hk]
  unfold State.returnLanes
  simp only [group_self hlive, hx, hl, List.filter_cons, List.filter_nil, hlane, hst, Bool.and_self, if_true, List.foldl_cons, List.foldl_nil,
    laneWrites_word hk hsize, hsw, modGroup_self]
  refine State.FreedFrom.trans ?_ (freedFrom_freeDone _ _)
  exact ⟨_, _, _, _, rfl⟩

omit hlive hx in
theorem replyKeys_word : x.replyKeys lanes = [32 * x.dst + l.lane] := by
  simp [OlEntry.replyKeys, hl, hlane, hst, laneWrites_word hk hsize]

/-- The sole lane of a word load returned to a line that stands in the tile, of an entry that does. -/
theorem replyEntry_word (hlt : l.lane < 32) (hd : s.g.absent.contains x.dst = false) (hlog : s.g.absent.contains (logLine x.idx) = false) :
    ({ s with g := s.g.wv x.dst l.lane (v.extractLsb' 0 32) } : State).FreedFrom (s.replyEntry s.g.gid x lanes) := by
  have hfreed := returnLanes_word hlive hx hk hsize hl hlane hst
  unfold State.replyEntry
  generalize s.returnLanes s.g.gid x.idx lanes = t at hfreed ⊢
  obtain ⟨ol, rp, os, ts, ht⟩ := id hfreed
  rw [noteEntry_writeLate_of_present (s := t) (by rw [ht]; exact hlive) (by rw [ht]; rfl) ?late (by rw [ht]; exact hlog)]
  · exact hfreed
  case late =>
    rw [ht, replyKeys_word hk hsize hl hlane hst]
    exact lateLines_sole hlt hd

end

end Sys2Proof.Machine
end

section
/-! Bytes of memory that a home's bookkeeping leaves alone, and a store performed there (07 R172, R173, R186 to R188, R190). -/

namespace Sys2Proof.Machine

/-! ## Bytes read after a store -/

/-- The state without what homes keep beside the bytes: accounting, caches, the directory, stash lines and invalidations on their way. -/
def State.bare (s : State) : State := { s with ctxs := [], l1 := [], l2 := [], chipShares := [], teams := [], invals := [] }

@[simp] theorem bare_account (s : State) (c k : Nat) : (s.account c k).bare = s.bare := by
  unfold State.account State.modCtx
  split <;> rfl

@[simp] theorem bare_accountN (c k n : Nat) : ∀ s : State, (s.accountN c k n).bare = s.bare := by
  induction n with
  | zero => exact fun _ => rfl
  | succ n ih => exact fun s => (ih _).trans (bare_account s c k)

theorem bare_l2Evict (s : State) (x : L2Line) : (s.l2Evict x).bare = s.bare := by
  unfold State.l2Evict
  split
  · split
    · exact bare_account _ _ _
    · rfl
  · rfl

theorem bare_l2Make (s : State) (die : Nat) : (s.l2Make die).bare = s.bare := by
  unfold State.l2Make
  dsimp only
  split
  · rfl
  · split
    · exact bare_l2Evict s _
    · rfl

theorem bare_l2Use (s : State) (pa : Nat) (c : Option Nat) (wr : Bool) : (s.l2Use pa c wr).bare = s.bare := by
  have hmake : ∀ (die : Nat) (x : List L2Line), ({ s.l2Make die with l2 := x } : State).bare = s.bare := fun die x => bare_l2Make s die
  unfold State.l2Use
  split
  · rfl
  · dsimp only
    split
    · split
      · exact bare_account _ _ _
      · rfl
    · split
      · exact (bare_account _ _ _).trans (hmake _ _)
      · exact hmake _ _

theorem bare_countHome (s : State) (c : Option Nat) (pa kind : Nat) (wr : Bool) : (s.countHome c pa kind wr).bare = s.bare := by
  unfold State.countHome
  split
  · split
    · exact bare_account s _ _
    · rfl
  · split
    · exact bare_l2Use s pa c wr
    · rfl

theorem bare_recallStash (s : State) (hit : Team → StashLine → Bool) : (s.recallStash hit).bare = s.bare := by
  unfold State.recallStash State.sweepStash
  exact (keeps_foldl State.bare (fun s t => bare_accountN _ _ _ s) _ _).trans rfl

theorem physByte_of_bare {s t : State} (h : s.bare = t.bare) (a : Nat) : s.physByte a = t.physByte a := by
  show s.bare.physByte a = t.bare.physByte a
  rw [h]

theorem physKind_of_bare {s t : State} (h : s.bare = t.bare) (a : Nat) : s.physKind a = t.physKind a := by
  show s.bare.physKind a = t.bare.physKind a
  rw [h]

theorem deliverable_of_bare {s t : State} (h : s.bare = t.bare) (a : Nat) : s.deliverable a = t.deliverable a := by
  show s.bare.deliverable a = t.bare.deliverable a
  rw [h]

/-- A change of a group changes no byte of memory. -/
theorem physByte_modGroup (s : State) (gid : Nat) (f : Group → Group) (a : Nat) : (s.modGroup gid f).physByte a = s.physByte a := by
  unfold State.modGroup
  split <;> rfl

theorem physKind_physSet (s : State) (pa : Nat) (b : Byte) (a : Nat) : (s.physSet pa b).physKind a = s.physKind a := by
  unfold State.physSet
  split <;> rfl

/-- A byte of device memory after bytes of device memory written. -/
theorem physByte_physSetList {a die : Nat} (ha : a < 2 ^ 60) (bs : List Byte) : ∀ {s : State} {pa : Nat}, pa + bs.length ≤ 2 ^ 60 →
    (∀ i, i < bs.length → ∃ die, s.physKind (pa + i) = .dev die) → s.physKind a = .dev die →
    (s.physSetList pa bs).physByte a = if pa ≤ a ∧ a < pa + bs.length then bs.getD (a - pa) 0 else s.physByte a := by
  induction bs with
  | nil =>
    intro s pa _ _ _
    rw [if_neg (by rw [List.length_nil]; omega)]
    rfl
  | cons b rest ih =>
    intro s pa hpa hdev hka
    rw [List.length_cons] at hpa hdev
    obtain ⟨die0, hk0 : s.physKind pa = .dev die0⟩ := hdev 0 (by omega)
    have hrest := ih (s := s.physSet pa b) (pa := pa + 1) (by omega) (fun i hi => by
      obtain ⟨d, hd⟩ := hdev (i + 1) (by omega)
      exact ⟨d, by rwa [physKind_physSet, Nat.add_assoc, Nat.add_comm 1 i]⟩) (by rwa [physKind_physSet])
    rw [State.physSetList, hrest, State.physByte_physSet b (by omega) ha hk0 hka]
    by_cases heq : a = pa
    · subst heq
      simp
    · by_cases hin : pa + 1 ≤ a ∧ a < pa + 1 + rest.length
      · have hidx : a - pa = (a - (pa + 1)) + 1 := by omega
        rw [if_pos hin, if_pos (by rw [List.length_cons]; omega), hidx, List.getD_cons_succ]
      · rw [if_neg hin, if_neg heq, if_neg (by rw [List.length_cons]; omega)]

/-- A byte of device memory after a store at a home. -/
theorem physByte_homeWrite {s : State} {tile gid tid pa : Nat} {bs : List Byte} (hd : s.deliverable pa = true) (hpa : pa + bs.length ≤ 2 ^ 60)
    (hdev : ∀ i, i < bs.length → ∃ die, s.physKind (pa + i) = .dev die) {a die : Nat} (ha : a < 2 ^ 60) (hka : s.physKind a = .dev die) :
    (s.homeWrite tile gid tid pa bs).physByte a = if pa ≤ a ∧ a < pa + bs.length then bs.getD (a - pa) 0 else s.physByte a := by
  have htake : ((s.physWrite pa bs).takeStash tid pa).physByte a = (s.physSetList pa bs).physByte a := by
    rw [State.takeStash, physByte_of_bare (bare_recallStash _ _), State.physWrite, if_pos hd]
    rfl
  rw [← physByte_physSetList ha bs hpa hdev hka, ← htake]
  unfold State.homeWrite
  rw [if_pos hd]
  dsimp only
  split
  · rfl
  · exact physByte_modGroup _ _ _ a

/-- A store at a home changes of the issuing group the count of invalidations to be acknowledged (R188). -/
theorem homeWrite_field {β : Type} (field : Group → β) (hf : ∀ (g : Group) n, field { g with acks := n } = field g) (s : State)
    (tile gid tid pa : Nat) (bs : List Byte) : field (s.homeWrite tile gid tid pa bs).g = field s.g := by
  have htake : ((s.physWrite pa bs).takeStash tid pa).g = s.g := (g_sweepStash _ _ _).trans (g_physWrite s pa bs)
  unfold State.homeWrite
  split
  · dsimp only
    split
    · exact congrArg field htake
    · exact (modGroup_field field (fun g => hf g _) _ _).trans (congrArg field htake)
  · rfl

/-! ## Values as bytes -/

theorem length_leBytes (n : Nat) : ∀ v : Nat, (leBytes n v).length = n := by
  induction n with
  | zero => exact fun _ => rfl
  | succ n ih => exact fun v => congrArg (· + 1) (ih (v / 256))

/-- A byte of a value. -/
theorem getD_leBytes {n : Nat} : ∀ {i : Nat} (v : Nat), i < n → (leBytes n v).getD i 0 = BitVec.ofNat 8 (v / 2 ^ (8 * i)) := by
  induction n with
  | zero => exact fun _ h => absurd h (by omega)
  | succ n ih =>
    intro i v hi
    cases i with
    | zero => simp [leBytes]
    | succ i =>
      have hpow : 2 ^ (8 * (i + 1)) = 256 * 2 ^ (8 * i) := by rw [Nat.mul_add, Nat.pow_add]; omega
      rw [leBytes, List.getD_cons_succ, ih (v / 256) (by omega), Nat.div_div_eq_div_mul, hpow]

/-- A byte of a store's data. -/
theorem getD_leBytes_toNat {n i w : Nat} (x : BitVec w) (hi : i < n) : (leBytes n x.toNat).getD i 0 = x.extractLsb' (8 * i) 8 := by
  rw [getD_leBytes _ hi]
  apply BitVec.eq_of_toNat_eq
  simp [BitVec.extractLsb'_toNat, Nat.shiftRight_eq_div_pow]

end Sys2Proof.Machine
end

section
/-! Lanes performed at their places: stores to the scratchpad and to memory, and a load of the scratchpad (07 R170, R172, R173, R180). -/

namespace Sys2Proof.Machine

/-- A team that has changed. -/
theorem team_modTeam (s : State) (tid : Nat) {f : Team → Team} (hf : ∀ t, (f t).tid = t.tid) :
    (s.modTeam tid f).team tid = (s.team tid).map f := by
  have htid : ((fun t : Team => decide (t.tid = tid)) ∘ fun t => if t.tid = tid then f t else t) = fun t => decide (t.tid = tid) := by
    funext t
    simp only [Function.comp]
    split
    · rw [hf]
    · rfl
  simp only [State.team, State.modTeam, List.find?_map, htid]
  cases ht : s.teams.find? (fun t => decide (t.tid = tid)) with
  | none => rfl
  | some t => exact congrArg some (if_pos (of_decide_eq_true (List.find?_some (p := fun t : Team => decide (t.tid = tid)) ht)))

section
variable {s : State} {x : OlEntry} {l : OlLane} (hlive : s.g.live = true) (hx : s.g.entry x.idx = some x)
include hlive hx

/-! ## Which operation performs a lane of a normal page -/

/-- A store that nothing holds at its place. -/
theorem performAt_of_store {p : Place} {ls : List Nat} (hk : x.kind = .store) (hheld : s.placeHeld p = false)
    (hwait : s.awaitsEngine s.g x ls = false) (hgone : s.goneScratch p = false) :
    s.performAt s.g.gid x.idx p 0 ls = s.performStore s.g x p 0 ls := by
  simp [State.performAt, group_self hlive, hx, hk, OlEntry.object, hheld, Group.deviceHeld, OlEntry.laneAfter, hwait, hgone]

/-- A load that nothing holds at its place. -/
theorem performAt_of_load {p : Place} {ls : List Nat} {sx : Bool} (hk : x.kind = .load sx) (hheld : s.placeHeld p = false)
    (hwait : s.awaitsEngine s.g x ls = false) (hgone : s.goneScratch p = false) :
    s.performAt s.g.gid x.idx p 0 ls = s.performLoad s.g x p 0 ls := by
  simp [State.performAt, group_self hlive, hx, hk, OlEntry.object, hheld, Group.deviceHeld, OlEntry.laneAfter, OlEntry.stores, hwait, hgone]

end

/-- A scratchpad access waits for no engine command (11 R292). -/
theorem awaitsEngine_of_scr (s : State) (g : Group) {x : OlEntry} (hspace : x.space = .scr) (ls : List Nat) :
    s.awaitsEngine g x ls = false := by
  simp [State.awaitsEngine, hspace]

theorem goneScratch_of_team {s : State} {tid off : Nat} {tm : Team} (ht : s.team tid = some tm) (he : tm.ended = false) :
    s.goneScratch (.scr tid off) = false := by
  simp [State.goneScratch, ht, he]

/-! ## Stores -/

/-- The sole lane of a word store covers no whole sector (R173). -/
theorem coversSector_word {x : OlEntry} {l : OlLane} (hsize : x.size = 4) (hl : x.lanes = [l]) (ls : List Nat) (va : Nat) :
    x.coversSector ls va = false := by
  refine Bool.eq_false_iff.mpr fun hc => ?_
  have hin : ∀ a, va / 32 * 32 ≤ a → a < va / 32 * 32 + 32 → l.addr.toNat ≤ a ∧ a < l.addr.toNat + 4 := fun a hlo hhi => by
    have ha := List.all_eq_true.mp hc a (by rw [upFrom_eq_range', List.mem_range']; exact ⟨a - va / 32 * 32, by omega, by omega⟩)
    simp only [hl, hsize, List.any_cons, List.any_nil, Bool.or_false, Bool.and_eq_true, decide_eq_true_eq] at ha
    exact ⟨ha.1.2, ha.2⟩
  have hfirst := hin (va / 32 * 32) (by omega) (by omega)
  have hlast := hin (va / 32 * 32 + 31) (by omega) (by omega)
  omega

section
variable {s : State} {x : OlEntry} {l : OlLane} (hp : s.g.role = .plain) (hsize : x.size = 4) (hl : x.lanes = [l])
include hp hsize hl

/-- A word stored to a scratchpad by a team that is not checked. -/
theorem performStore_scr_word (tid off : Nat) : s.performStore s.g x (.scr tid off) 0 [l.lane] =
    (s.modTeam tid (fun t => t.put off (leBytes 4 l.data.toNat))).setLane s.g.gid x.idx [l.lane] (fun _ => .performed 0) := by
  simp [State.performStore, State.placeWrite, coversSector_word hsize hl, hp, hl, hsize]

/-- A word stored to device memory by a team that is not checked. -/
theorem performStore_dev_word {pa die : Nat} (hdev : s.physKind pa = .dev die) (hd : s.delivers (dieOf s.g.tile) pa 0 = true) :
    s.performStore s.g x (.glob pa) 0 [l.lane] =
      ((s.countHome (some s.g.ctx) pa 0 true).homeWrite s.g.tile s.g.gid s.g.tid pa (leBytes 4 l.data.toNat)).setLane s.g.gid x.idx [l.lane]
        (fun _ => .performed 0) := by
  have ht : s.tentative s.g = false := by simp [State.tentative, hp]
  simp [State.performStore, State.placeWrite, State.countAccess, coversSector_word hsize hl, hl, hsize, hdev, ht, hd]

end

/-! ## Loads -/

/-- The only entry of a group's log has no earlier store to see (R172). -/
theorem forward_sole {g : Group} {x : OlEntry} (holog : g.olog = [x]) (p : Place) (glob : Bool) (va : Nat) :
    g.forward x.seq p glob va = none := by
  simp [Group.forward, holog]

/-- A word loaded from a scratchpad whose sectors are clean, no earlier store of the group in the log. -/
theorem performLoad_scr_word {s : State} {x : OlEntry} {tm : Team} {tid off : Nat} (holog : s.g.olog = [x]) (hk : x.kind = .load false)
    (hsize : x.size = 4) (hclean : s.placeClean (.scr tid off) 4 = true) (ht : s.team tid = some tm) (ls : List Nat) :
    s.performLoad s.g x (.scr tid off) 0 ls =
      s.setLane s.g.gid x.idx ls (fun _ => .performed (BitVec.ofNat 128 (bytesVal (memGetList tm.scr off 4)))) := by
  have hbytes : s.placeBytes (.scr tid off) 4 = memGetList tm.scr off 4 := by simp [State.placeBytes, ht]
  simp [State.performLoad, State.fetchBytes, Place.plus, forward_sole holog, hk, hsize, hclean, hbytes, upFrom, memGetList]

end Sys2Proof.Machine
end

section
/-! Invalidations, apertures translated, and units that have moved (07 R175, R188, R201, R202). -/

namespace Sys2Proof.Machine

/-! ## Invalidations (R188) -/

/-- An invalidation received: the tile's copy of the sector is gone. -/
theorem execInvalidationReceive_of_sent {s : State} {tile sector : Nat}
    (h : s.invals.any (fun x => decide (x.tile = tile) && decide (x.sector = sector) && !x.received) = true) :
    ∃ i, execInvalidationReceive tile sector s =
      .next (({ s with invals := s.invals.modify i (fun x => { x with received := true }) } : State).l1Drop tile sector) := by
  obtain ⟨i, hi⟩ := Option.isSome_iff_exists.mp (List.findIdx?_isSome.trans h)
  exact ⟨i, by simp only [execInvalidationReceive, hi]⟩

theorem l1_l1Drop (s : State) (tile sector : Nat) :
    (s.l1Drop tile sector).l1.any (fun x => decide (x.tile = tile) && decide (x.sector = sector)) = false := by
  refine List.any_eq_false.mpr fun x hx => ?_
  have hkeep := (List.mem_filter.mp hx).2
  rwa [Bool.not_eq_true', ← Bool.not_eq_true] at hkeep

/-- An acknowledgement that has come back: its invalidation is gone, and its group waits for one less. -/
theorem execInvalidationAck_of_received {s : State} {gid : Nat} (h : s.invals.any (fun x => decide (x.gid = gid) && x.received) = true) :
    ∃ i, i < s.invals.length ∧ execInvalidationAck gid s = .next (
      if gid = 0 then { s with invals := s.invals.eraseIdx i }
      else ({ s with invals := s.invals.eraseIdx i } : State).modGroup gid (fun g => { g with acks := g.acks - 1 })) := by
  obtain ⟨i, hi⟩ := Option.isSome_iff_exists.mp (List.findIdx?_isSome.trans h)
  exact ⟨i, (List.findIdx?_eq_some_iff_getElem.mp hi).1, by simp only [execInvalidationAck, hi]⟩

/-! ## Apertures (R175) -/

/-- A pending aperture of the focus whose walk waits for nothing is translated. -/
theorem settleAperture_of_pending {s s1 : State} {n : Nat} {x : Aperture} (hlive : s.g.live = true) (hv : (s.g.rta n).v = true)
    (hp : (s.g.rta n).pending = true) (hheld : s.transHeld (s.req s.g) (s.g.rta n).base.toNat .read = false)
    (hset : s.setAperture (s.req s.g) (s.g.rta n) (BitVec.ofNat 64 (s.g.rta n).base.toNat) (s.g.rta n).cap.toNat = (x, s1))
    (hg : s1.g = s.g) : ∃ ol, s.settleAperture s.g.gid n = { s1 with g := { s.g.wta n x with olog := ol } } := by
  have hwants : s.g.wantsAperture n = true := by simp [Group.wantsAperture, hv, hp]
  have hunsettled : (s.g.rta n).unsettled = true := by simp [Aperture.unsettled, hv, hp]
  simp only [State.settleAperture, State.finishAperture, group_self hlive, hwants, hunsettled, hheld, hset, Bool.not_false, Bool.and_self, if_true]
  rw [← hg, modGroup_self, hg]
  exact ⟨_, rfl⟩

/-! ## Units (R201, R202) -/

theorem find?_setUnit (s : State) (u : MigUnit) : (s.setUnit u).units.find? (fun x => decide (x.unit = u.unit)) = some u := by
  have hnone : (s.units.filter (fun x => decide (x.unit ≠ u.unit))).find? (fun x => decide (x.unit = u.unit)) = none :=
    List.find?_eq_none.mpr fun x hx => by simpa using (List.mem_filter.mp hx).2
  rw [State.setUnit, List.find?_append, hnone]
  simp

/-- A unit at the new home that its move names, its counter cleared. -/
def MigUnit.arrived (u : MigUnit) (m : UnitMove) (moves : List Nat) (settled : Option Nat) : MigUnit :=
  { u with acting := m.chip, die := m.die, chip := 0, count := 0, moving := none, moves := moves, settled := settled }

theorem units_unitGone_or (s : State) (unit : Nat) (here : Prop) [Decidable here] : (if here then s else s.unitGone unit).units = s.units := by
  split <;> rfl

/-- A unit whose last line has moved has arrived, settled or not. -/
theorem execUnitMoveComplete_of_moved {s : State} {u : MigUnit} {m : UnitMove} (hu : s.units.find? (fun x => decide (x.unit = u.unit)) = some u)
    (hm : u.moving = some m) (hc : chipOf (65536 * u.unit) = s.chip.toNat) (ht : 512 ≤ s.clock - m.since) :
    ∃ t moves settled, execUnitMoveComplete u.unit s = .next t ∧ t.units = (s.setUnit (u.arrived m moves settled)).units := by
  simp only [execUnitMoveComplete, hc, hu, hm, not_lt.mpr ht, ne_eq, not_true_eq_false, if_false]
  split
  · exact ⟨_, _, _, rfl, units_unitGone_or _ _ _⟩
  · exact ⟨_, _, u.settled, rfl, units_unitGone_or _ _ _⟩

end Sys2Proof.Machine
end

section
/-! The steps of a held access (chapter 07). -/

namespace Sys2Proof.Machine

/-- The walk of the sole lane of an access through no aperture (07 R176). -/
theorem walks_sole {s s3 : State} {x : OlEntry} {l : OlLane} {st : LaneState} (hlive : s.g.live = true) (hx : s.g.entry x.idx = some x)
    (huniq : ∀ y ∈ s.g.olog, y.idx = x.idx → y = x) (hta : x.ta = none) (hv : x.apt.v = false) (hl : x.lanes = [l]) (hlt : l.lane < 32)
    (hst : l.st = .pending) (hlog : s.g.absent.contains (logLine x.idx) = false) (hlook : s.lookHeld s.g x l = false)
    (hloc : s.locate s.g x l = (st, s3)) (hg : s3.g = s.g) :
    ∃ t e, exec (.pageWalkDone s.g.gid x.idx 0xFFFFFFFF) s = .next t ∧ t.g.entry x.idx = some e ∧ e.lanes = [{ l with st := st }] ∧
      t.g.v = s.g.v ∧ t.g.s = s.g.s := by
  have hself := group_self hlive
  have hsettle : s.settleEntry s.g.gid x.idx = s := settleEntry_of_direct hself hx hta
  have hexec := execPageWalkDone_of_entry (e := x.idx) (lanes := 0xFFFFFFFF) (by rwa [hsettle]) hx
    (by rw [hsettle, State.entryHeld, hlog, Bool.false_and])
  rw [hsettle, walkEntry_sole huniq hv hl (getLsbD_allLanes hlt) hst hlook hloc] at hexec
  have hlane := entry_setLane_sole (s := s3) (by rwa [hg]) hl fun _ => st
  rw [hg] at hlane
  rw [noteEntry_of_present] at hexec
  · exact ⟨_, _, hexec, hlane, rfl, (setLane_field Group.v (fun _ _ => rfl) ..).trans (congrArg _ hg),
      (setLane_field Group.s (fun _ _ => rfl) ..).trans (congrArg _ hg)⟩
  · exact (setLane_field Group.live (fun _ _ => rfl) ..).trans (by rwa [hg])
  · exact (setLane_field Group.gid (fun _ _ => rfl) ..).trans (congrArg _ hg)
  · rwa [setLane_field Group.absent fun _ _ => rfl, hg]

/-- A word stored to the scratchpad stands there, and no other byte changes (07 R180). -/
theorem stores_scr_word {s : State} {x : OlEntry} {l : OlLane} {tm : Team} {off : Nat} (hlive : s.g.live = true) (hp : s.g.role = .plain)
    (hx : s.g.entry x.idx = some x) (hk : x.kind = .store) (hspace : x.space = .scr) (hsize : x.size = 4) (hl : x.lanes = [l])
    (hheld : s.placeHeld (.scr s.g.tid off) = false) (ht : s.team s.g.tid = some tm) (he : tm.ended = false) :
    ∃ t u, s.performAt s.g.gid x.idx (.scr s.g.tid off) 0 [l.lane] = t ∧ t.team s.g.tid = some u ∧ t.mem = s.mem ∧
      ∀ a, memGet u.scr a = if off ≤ a ∧ a < off + 4 then l.data.extractLsb' (8 * (a - off)) 8 else memGet tm.scr a := by
  have hteam : (s.modTeam s.g.tid (fun t => t.put off (leBytes 4 l.data.toNat))).team s.g.tid = some (tm.put off (leBytes 4 l.data.toNat)) :=
    (team_modTeam s s.g.tid (f := fun t => t.put off (leBytes 4 l.data.toNat)) fun _ => rfl).trans (by rw [ht, Option.map_some])
  rw [performAt_of_store hlive hx hk hheld (awaitsEngine_of_scr s s.g hspace _) (goneScratch_of_team ht he), performStore_scr_word hp hsize hl]
  refine ⟨_, tm.put off (leBytes 4 l.data.toNat), rfl, ?_⟩
  obtain ⟨g, os, hset⟩ := modGroup_rest (s.modTeam s.g.tid (fun t => t.put off (leBytes 4 l.data.toNat))) s.g.gid fun g =>
    g.modEntry x.idx (fun k => if [l.lane].contains k.lane then { k with st := .performed 0 } else k)
  rw [State.setLane, hset]
  refine ⟨hteam, rfl, fun a => ?_⟩
  rw [Team.put, memGet_memSetList, length_leBytes]
  refine ite_congr rfl (fun ha => ?_) fun _ => rfl
  exact getD_leBytes_toNat _ (by omega)

/-- A word stored to device memory stands there, and no other byte of device memory changes (07 R172, R187). -/
theorem stores_dev_word {s : State} {x : OlEntry} {l : OlLane} {pa : Nat} (hlive : s.g.live = true) (hp : s.g.role = .plain)
    (hx : s.g.entry x.idx = some x) (hk : x.kind = .store) (hsize : x.size = 4) (hl : x.lanes = [l]) (hheld : s.placeHeld (.glob pa) = false)
    (hwait : s.awaitsEngine s.g x [l.lane] = false) (hpa : pa + 4 ≤ 2 ^ 60) (hdev : ∀ i, i < 4 → ∃ die, s.physKind (pa + i) = .dev die)
    (hd : s.delivers (dieOf s.g.tile) pa 0 = true) :
    ∃ t, s.performAt s.g.gid x.idx (.glob pa) 0 [l.lane] = t ∧ t.g.v = s.g.v ∧ t.g.s = s.g.s ∧
      ∀ a die, a < 2 ^ 60 → s.physKind a = .dev die →
        t.physByte a = if pa ≤ a ∧ a < pa + 4 then l.data.extractLsb' (8 * (a - pa)) 8 else s.physByte a := by
  obtain ⟨die0, hk0 : s.physKind pa = .dev die0⟩ := hdev 0 (by omega)
  have hbare := bare_countHome s (some s.g.ctx) pa 0 true
  have hdeliver : s.deliverable pa = true := by
    rw [State.delivers, Bool.and_eq_true, Bool.and_eq_true] at hd
    exact hd.1.1
  have hfield : ∀ {β : Type} (field : Group → β), (∀ (g : Group) ol, field { g with olog := ol } = field g) →
      (∀ (g : Group) n, field { g with acks := n } = field g) → field (s.performAt s.g.gid x.idx (.glob pa) 0 [l.lane]).g = field s.g := by
    intro β field holog hacks
    rw [performAt_of_store hlive hx hk hheld hwait rfl, performStore_dev_word hp hsize hl hk0 hd, setLane_field field holog,
      homeWrite_field field hacks, g_countHome]
  refine ⟨_, rfl, hfield Group.v (fun _ _ => rfl) fun _ _ => rfl, hfield Group.s (fun _ _ => rfl) fun _ _ => rfl, fun a die ha hka => ?_⟩
  rw [performAt_of_store hlive hx hk hheld hwait rfl, performStore_dev_word hp hsize hl hk0 hd, State.setLane, physByte_modGroup,
    physByte_homeWrite (by rwa [deliverable_of_bare hbare]) (by rwa [length_leBytes])
      (by simpa only [length_leBytes, physKind_of_bare hbare] using hdev) ha (by rwa [physKind_of_bare hbare]),
    length_leBytes, physByte_of_bare hbare]
  refine ite_congr rfl (fun ha => ?_) fun _ => rfl
  exact getD_leBytes_toNat _ (by omega)

/-- A word loaded from the scratchpad is held in its lane until it returns (07 R180). -/
theorem loads_scr_word {s : State} {x : OlEntry} {l : OlLane} {tm : Team} {off : Nat} (hlive : s.g.live = true) (holog : s.g.olog = [x])
    (hk : x.kind = .load false) (hspace : x.space = .scr) (hsize : x.size = 4) (hl : x.lanes = [l])
    (hheld : s.placeHeld (.scr s.g.tid off) = false) (hclean : s.placeClean (.scr s.g.tid off) 4 = true) (ht : s.team s.g.tid = some tm)
    (he : tm.ended = false) :
    ∃ t e, s.performAt s.g.gid x.idx (.scr s.g.tid off) 0 [l.lane] = t ∧
      t.g.olog = [e] ∧ e.lanes = [{ l with st := .performed (BitVec.ofNat 128 (bytesVal (memGetList tm.scr off 4))) }] ∧ t.mem = s.mem ∧
      t.teams = s.teams := by
  have hx : s.g.entry x.idx = some x := by simp [Group.entry, holog]
  rw [performAt_of_load hlive hx hk hheld (awaitsEngine_of_scr s s.g hspace _) (goneScratch_of_team ht he),
    performLoad_scr_word holog hk hsize hclean ht, State.setLane, modGroup_self]
  refine ⟨_, { x with lanes := [{ l with st := .performed (BitVec.ofNat 128 (bytesVal (memGetList tm.scr off 4))) }] }, rfl, ?_, rfl, rfl, rfl⟩
  simp only [Group.modEntry, holog, List.map_cons, List.map_nil, if_true, lanes_setSole hl]

/-- A word that has been loaded returns to its register (12 R324). -/
theorem replies_word {s : State} {x : OlEntry} {l : OlLane} {v : BitVec 128} (hlive : s.g.live = true) (haway : s.g.away = false)
    (htr : (s.tile s.g.tile).trans = none) (hx : s.g.entry x.idx = some x) (hk : x.kind = .load false) (hsize : x.size = 4)
    (hl : x.lanes = [l]) (hlt : l.lane < 32) (hst : l.st = .performed v) (hd : s.g.absent.contains x.dst = false)
    (hlog : s.g.absent.contains (logLine x.idx) = false) :
    ∃ t, exec (.memoryReply s.g.gid x.idx 0xFFFFFFFF) s = .next t ∧ t.mem = s.mem ∧
      ∀ r i, i < 32 → t.g.rv r i = if r = x.dst ∧ i = l.lane then v.extractLsb' 0 32 else s.g.rv r i := by
  have hlane := getLsbD_allLanes hlt
  have hlate : s.lateHeld s.g (x.replyKeys 0xFFFFFFFF) = false := by
    rw [replyKeys_word hk hsize hl hlane hst, State.lateHeld, lateLines_sole hlt hd]
    rfl
  have hexec := execMemoryReply_of_present (group_self hlive) haway htr hx hlate (by rw [State.entryHeld, hlog, Bool.false_and])
  obtain ⟨ol, rp, os, ts, hreply⟩ := replyEntry_word hlive hx hk hsize hl hlane hst hlt hd hlog
  exact ⟨_, hexec.trans (congrArg _ hreply), rfl, fun r i hi => rv_wv _ _ _ _ _ _ hlt hi⟩

/-- Settles O49: the steps through the laws of their operations, the bytes that a store writes by `physByte_homeWrite` and `memGet_memSetList`. -/
theorem accessSteps : Obligations.AccessSteps := by
  refine ⟨fun s gid e g x lanes => ⟨execPageWalkDone_of_entry, execHomeRequest_of_ready, execMemoryReply_of_present⟩,
    fun s gid x l lanes p k hl hlane hst => performEntry_sole hl hlane hst,
    fun s s3 x l st hlive hx huniq hta hv hl hlt hst hlog hlook hloc hg =>
      walks_sole hlive hx huniq hta hv hl hlt hst hlog hlook hloc hg,
    fun s x l tm off hlive hp hx hk hspace hsize hl hheld ht he => stores_scr_word hlive hp hx hk hspace hsize hl hheld ht he,
    fun s x l pa hlive hp hx hk hsize hl hheld hwait hpa hdev hd => stores_dev_word hlive hp hx hk hsize hl hheld hwait hpa hdev hd,
    fun s x l tm off hlive holog hk hspace hsize hl _ hheld hclean ht he => loads_scr_word hlive holog hk hspace hsize hl hheld hclean ht he,
    fun s x l v hlive haway htr hx hk hsize hl hlt hst hd hlog => replies_word hlive haway htr hx hk hsize hl hlt hst hd hlog,
    fun s tile sector h => ?receive, fun s gid h => ?ack, fun _ _ _ => rfl,
    fun s s1 ta x hlive hv hp hheld hset hg => ?aperture, fun s u m hu hm hc ht => ?move, fun s u n hu hs hn => ?hold⟩
  case receive =>
    obtain ⟨i, hexec⟩ := execInvalidationReceive_of_sent h
    exact ⟨_, hexec, rfl, rfl, List.length_modify .., l1_l1Drop ..⟩
  case ack =>
    obtain ⟨i, hi, hexec⟩ := execInvalidationAck_of_received h
    have hlength : (s.invals.eraseIdx i).length + 1 = s.invals.length := by rw [List.length_eraseIdx_of_lt hi]; omega
    by_cases h0 : gid = 0
    · rw [if_pos h0] at hexec
      exact ⟨_, hexec, hlength, rfl, rfl, fun _ hne => absurd h0 hne⟩
    · rw [if_neg h0] at hexec
      obtain ⟨g, os, hmod⟩ := modGroup_rest { s with invals := s.invals.eraseIdx i } gid fun g => { g with acks := g.acks - 1 }
      refine ⟨_, hexec, by rw [hmod]; exact hlength, by rw [hmod], by rw [hmod], fun hself _ => ?_⟩
      rw [hself]
      exact congrArg (fun s : State => s.g.acks) (modGroup_self { s with invals := s.invals.eraseIdx i } fun g => { g with acks := g.acks - 1 })
  case aperture =>
    obtain ⟨ol, hsettle⟩ := settleAperture_of_pending hlive hv hp hheld hset hg
    exact ⟨_, congrArg Host.Outcome.next hsettle, (rta_wta ..).trans (if_pos rfl), fun n hn => (rta_wta ..).trans (if_neg hn)⟩
  case move =>
    obtain ⟨t, moves, settled, hexec, hunits⟩ := execUnitMoveComplete_of_moved hu hm hc ht
    exact ⟨t, u.arrived m moves settled, hexec, by rw [hunits]; exact find?_setUnit s (u.arrived m moves settled), rfl, rfl, rfl, rfl⟩
  case hold =>
    refine ⟨_, ?_, rfl⟩
    show execSettleHoldEnd u.unit s = _
    simp only [execSettleHoldEnd, hu, hs, hn, Bool.not_false, if_true]

end Sys2Proof.Machine
end

section
/-! Atomics, reductions and BINR take an entry of the operand log, with the operands read at issue (08 R215 to R218, R224). -/

namespace Sys2Proof.Machine

section
variable {i : Instr} {h : Hdr} {vr vw : List (Nat × Nat × Nat)} {t : Nat} {addr : Group → Nat → W64 × Option Nat}
  {x : Group → Nat → BitVec 128}

/-- An atomic or a reduction is held with each lane's operand and value to compare, from its common issue. -/
theorem does_atomIssue {k : State → Held} {c : Option (Group → Nat → BitVec 128)} {cmp : Group → Nat → BitVec 64}
    (he : ∀ s, exec i s = atomIssue i h vr vw (k s) t addr x c s) (hk : ∀ s, k s.open_ = k s)
    (hcmp : ∀ g l, (c.map fun f => (f g l).extractLsb' 0 64).getD 0 = cmp g l) :
    Does i (fun _ => { vr := vr, vw := vw, late := true, logged := true, cmp := true }) (someLane h) (fun s _ => s.entryFree = true)
      (fun s sp => s.withEntry i sp (activeMask h s) (k s)
        ((lanesOf (activeMask h s)).map (fun l => ⟨l, (addr s.g l).1, (addr s.g l).2, x s.g l, cmp s.g l, .pending⟩))) := by
  obtain rfl : (fun g l => (c.map fun f => (f g l).extractLsb' 0 64).getD 0) = cmp := funext fun g => funext (hcmp g)
  simp only [atomIssue] at he
  refine .of_folds <| does_held he fun s sp _ _ hfree => ⟨hfree, ?_⟩
  rw [hk]
  cases c <;> rfl

/-- The forms that compare nothing. -/
theorem does_atomIssue_none {k : State → Held} (he : ∀ s, exec i s = atomIssue i h vr vw (k s) t addr x none s)
    (hk : ∀ s, k s.open_ = k s) :
    Does i (fun _ => { vr := vr, vw := vw, late := true, logged := true, cmp := true }) (someLane h) (fun s _ => s.entryFree = true)
      (fun s sp => s.withEntry i sp (activeMask h s) (k s)
        ((lanesOf (activeMask h s)).map (fun l => ⟨l, (addr s.g l).1, (addr s.g l).2, x s.g l, 0, .pending⟩))) :=
  does_atomIssue he hk fun _ _ => rfl

end

/-- ATOMS and ATOMC: the value of b is compared where the operation is compare-and-swap, and else is the operand (R217). -/
theorem does_atomLocal {i : Instr} {h : Hdr} {space : Space} {d a b c : BitVec 6} {t op : BitVec 4} {sc ord : BitVec 2}
    (he : ∀ s, exec i s = atomLocal i h space d a b c t sc op ord s) :
    let ty := t.toNat
    let cas := decide (op.toNat = 8)
    Does i
      (fun _ => { vr := [v1 a, vT ty b] ++ (if cas then [vT ty c] else []), vw := [vT ty d], late := true, logged := true, cmp := true })
      (someLane h) (fun s _ => s.entryFree = true) (fun s sp => s.withEntry i sp (activeMask h s)
        { kind := .atom ty op.toNat true, space := space, size := atomSize ty, scope := sc.toNat, ord := ord.toNat, dst := s.g.phys d.toNat }
        ((lanesOf (activeMask h s)).map (fun l => ⟨l, (s.g.op a l).setWidth 64, none, atomOperand s.g ty (if cas then c else b) l,
          if cas then (atomOperand s.g ty b l).extractLsb' 0 64 else 0, .pending⟩))) := by
  intro ty cas
  simp only [atomLocal] at he
  exact does_atomIssue (cmp := fun g l => if cas then (atomOperand g ty b l).extractLsb' 0 64 else 0) he (fun _ => rfl)
    fun g l => by split <;> rfl

/-- The entry of a lane of BINR: its count word, or all ones at once where its cell is all ones (R224). -/
def binLane (g : Group) (a b : BitVec 6) (l : Nat) : OlLane :=
  if decide (g.op a l ≠ 0xFFFFFFFF) = true then laneAt l (binOffset g a b l) none
  else { laneAt l 0 none with st := .performed 0xFFFFFFFF }

theorem does_binr (h : Hdr) (d a b : BitVec 6) :
    Does (.binr h d a b) (fun _ => { vr := [v1 a, v1 b], vw := [v1 d], late := true, logged := true, cmp := true }) (someLane h)
      (fun s _ => s.entryFree = true) (fun s sp => s.withEntry (.binr h d a b) sp (activeMask h s)
        { kind := .binr, space := .scr, size := 4, dst := s.g.phys d.toNat } ((lanesOf (activeMask h s)).map (binLane s.g a b))) := by
  refine .of_folds <| does_held (execBinr.eq_def h d a b) fun s sp _ _ hfree => ⟨hfree, congrArg (s.open_.hold _ sp _ _) ?_⟩
  refine List.map_congr_left fun l hl => ?_
  simp only [binLane, List.contains_eq_mem, List.mem_filter, hl, true_and, Bool.decide_eq_true]

end Sys2Proof.Machine
end

section
/-! CELL: the cell of a lane from its coordinates and the grid's descriptor (08 R223). -/

namespace Sys2Proof.Machine

/-- The cell of a coordinate along an axis of `cnt` cells; none outside them (R223). -/
def cellAxis (x o inv : FVal) (cnt : Nat) : Option Nat :=
  match cellIndex x o inv with
  | some q => if q < 0 || (cnt : Int) ≤ q then none else some q.toNat
  | none => none

/-- The linear index of the cells along three axes; all ones where a lane is outside along one (R223). -/
def cellFlat (nx ny : Nat) : Option Nat → Option Nat → Option Nat → W32
  | some x, some y, some z => BitVec.ofNat 32 (x + nx * (y + ny * z))
  | _, _, _ => 0xFFFFFFFF

/-- What CELL of `k` axes gives a lane, with the origins and inverse sizes of the descriptor in s[n] to s[n+2] (R223). -/
def Group.cell (g : Group) (n k : Nat) (a b c : BitVec 6) (nx ny nz l : Nat) : W32 :=
  let f := fun (j lo : Nat) => fmtF32.decode (field (g.rs (n + j)) lo 32)
  cellFlat nx ny (cellAxis (asF32 (g.op a l)) (f 0 0) (f 1 32) nx)
    (if 2 ≤ k then cellAxis (asF32 (g.op b l)) (f 0 32) (f 2 0) ny else some 0)
    (if 3 ≤ k then cellAxis (asF32 (g.op c l)) (f 1 0) (f 2 32) nz else some 0)

section
variable {x o inv : FVal} {cnt : Nat}

theorem cellAxis_of_inside {q : Int} (hq : cellIndex x o inv = some q) (h0 : 0 ≤ q) (hlt : q < cnt) :
    cellAxis x o inv cnt = some q.toNat := by
  simp only [cellAxis, hq, Bool.or_eq_true, decide_eq_true_eq]
  exact if_neg (by omega)

/-- An axis that is not in use is inside at 0. -/
theorem usedAxis_of_inside {p : Prop} [Decidable p] {q : Int} (hq : (if p then cellIndex x o inv else some 0) = some q) (h0 : 0 ≤ q)
    (hlt : q < cnt) : (if p then cellAxis x o inv cnt else some 0) = some q.toNat := by
  split at hq
  · rw [if_pos ‹_›, cellAxis_of_inside hq h0 hlt]
  · cases hq
    exact if_neg ‹_›

theorem cellAxis_of_outside (hout : ∀ q, cellIndex x o inv = some q → q < 0 ∨ (cnt : Int) ≤ q) : cellAxis x o inv cnt = none := by
  cases hq : cellIndex x o inv with
  | none => simp only [cellAxis, hq]
  | some q =>
    simp only [cellAxis, hq, Bool.or_eq_true, decide_eq_true_eq]
    exact if_pos (hout q hq)

end

theorem cellFlat_of_inside (nx ny : Nat) {x y z : Int} (hx : 0 ≤ x) (hy : 0 ≤ y) (hz : 0 ≤ z) :
    cellFlat nx ny (some x.toNat) (some y.toNat) (some z.toNat) = BitVec.ofInt 32 (x + nx * (y + ny * z)) := by
  have hcast : x + nx * (y + ny * z) = ((x.toNat + nx * (y.toNat + ny * z.toNat) : Nat) : Int) := by
    push_cast [Int.toNat_of_nonneg, hx, hy, hz]
    rfl
  rw [hcast, BitVec.ofInt_natCast]
  rfl

theorem cellFlat_of_none (nx ny : Nat) {x y z : Option Nat} (h : x = none ∨ y = none ∨ z = none) : cellFlat nx ny x y z = 0xFFFFFFFF := by
  obtain rfl | rfl | rfl := h
  · rfl
  · cases x <;> rfl
  · cases x <;> cases y <;> rfl

/-- The descriptor at s[n] gives `nx`, `ny` and `nz` cells along `k` axes, within the limits of R223. -/
structure CellGrid (g : Group) (n k nx ny nz : Nat) : Prop where
  x : nx = field (g.rs (n + 3)) 0 16
  y : ny = if 2 ≤ k then field (g.rs (n + 3)) 16 16 else 1
  z : nz = if 3 ≤ k then field (g.rs (n + 3)) 32 16 else 1
  x_pos : 0 < nx
  y_pos : 0 < ny
  z_pos : 0 < nz
  cells : nx * ny * nz < 2 ^ 32
  zero : field (g.rs (n + 3)) 48 16 = 0

/-- Such a descriptor is not illegal. -/
theorem CellGrid.legal {g : Group} {n k nx ny nz : Nat} (hgrid : CellGrid g n k nx ny nz) :
    (decide (nx = 0) || decide (ny = 0) || decide (nz = 0) || decide (2 ^ 32 ≤ nx * ny * nz) ||
      decide (field (g.rs (n + 3)) 48 16 ≠ 0)) = false := by
  obtain ⟨-, -, -, hx, hy, hz, hcells, hzero⟩ := hgrid
  simp only [Bool.or_eq_false_iff, decide_eq_false_iff_not]
  omega

/-- The registers that CELL of `k` axes names. -/
def cellUses (d a b c n : BitVec 6) (k : Nat) : Uses where
  vr := [v1 a] ++ (if 2 ≤ k then [v1 b] else []) ++ (if 3 ≤ k then [v1 c] else [])
  vw := [v1 d]
  sr := [n.toNat, n.toNat + 1, n.toNat + 2, n.toNat + 3]

/-- CELL with a descriptor within its limits writes each active lane's cell to d, and nothing else. -/
theorem exec_cell {h : Hdr} {d a b c n : BitVec 6} {dim : BitVec 4} {s : State} {sp : Split} {nx ny nz : Nat}
    (hgrid : CellGrid s.g n.toNat (dim.toNat + 1) nx ny nz)
    (hc : s.canIssue (.cell h d a b c dim n) (cellUses d a b c n (dim.toNat + 1)) sp) :
    ∃ u, exec (.cell h d a b c dim n) s = .next u ∧
      (∀ r l, l < 32 → u.g.rv r l = if r = s.g.phys d.toNat ∧ (activeMask h s).getLsbD l = true
        then s.g.cell n.toNat (dim.toNat + 1) a b c nx ny nz l else s.g.rv r l) ∧
      u.still = ({ s with g := { s.g with v := u.g.v, dirty := u.g.dirty } } : State).still := by
  -- The body reads the coordinates in the state it acts on and the descriptor in the state at issue, whose uniform registers are the same.
  have he : exec (.cell h d a b c dim n) s = issueLane (.cell h d a b c dim n) h
      { cellUses d a b c n (dim.toNat + 1) with
        illegal := decide (nx = 0) || decide (ny = 0) || decide (nz = 0) || decide (2 ^ 32 ≤ nx * ny * nz) ||
          decide (field (s.g.rs (n.toNat + 3)) 48 16 ≠ 0) }
      (setLanes d (fun g l => Group.cell { g with s := s.g.s } n.toNat (dim.toNat + 1) a b c nx ny nz l)) s := by
    obtain ⟨rfl, rfl, rfl, -⟩ := hgrid
    rfl
  rw [hgrid.legal] at he
  obtain ⟨u, hu, hstill⟩ := lane_fall he hc _ fun _ => rfl
  exact ⟨u, hu, laneSets_still hstill⟩

end Sys2Proof.Machine
end

section
/-! The atomics and CELL (chapter 08). -/

namespace Sys2Proof.Machine

/-- Settles O27: the atomics and reductions through their common issue (`does_atomIssue`), BINR by `does_binr`, and CELL by `exec_cell`,
whose lanes are inside the grid (`cellFlat_of_inside`) or outside it along an axis in use (`cellFlat_of_none`). -/
theorem atomicsAreHeld : Obligations.AtomicsAreHeld := by
  intro h d a b c o n ta t op dim sc ord ty wide v val free held via off x cas
  have hv : v = vT ty := funext fun f => by simp only [v, wide, vT, decide_eq_true_eq]
  have hval : val = fun f g l => atomOperand g ty f l := funext fun f => funext fun g => funext fun l => by
    simp only [val, wide, atomOperand, decide_eq_true_eq]
  rw [hv, hval]
  refine ⟨does_atomIssue_none (i := .atom h d ta o c t sc op ord) (execAtom.eq_def h d ta o c t sc op ord) fun _ => rfl,
    does_atomIssue_none (i := .red h d ta o t sc op ord) (execRed.eq_def h d ta o t sc op ord) fun _ => rfl,
    does_atomIssue (i := .cas h d ta o c t sc ord) (execCas.eq_def h d ta o c t sc ord) (fun _ => rfl) fun _ _ => rfl,
    does_atomLocal (i := .atoms h d a b c t sc op ord) (execAtoms.eq_def h d a b c t sc op ord),
    does_atomLocal (i := .atomc h d a b c t sc op ord) (execAtomc.eq_def h d a b c t sc op ord),
    does_atomIssue_none (i := .reds h a b t sc op ord) (execReds.eq_def h a b t sc op ord) fun _ => rfl, does_binr h d a b, ?cell⟩
  case cell =>
    intro k nx ny nz s sp hnx hny hnz hx hy hz hcells hzero hc
    obtain ⟨u, hu, hlanes, hstill⟩ := exec_cell ⟨hnx, hny, hnz, hx, hy, hz, hcells, hzero⟩ hc
    have hcell : ∀ l, l < 32 → (activeMask h s).getLsbD l = true →
        u.g.rv (s.g.phys d.toNat) l = s.g.cell n.toNat k a b c nx ny nz l := fun l hl hm => (hlanes _ l hl).trans (if_pos ⟨rfl, hm⟩)
    refine ⟨u, hu, hstill, fun r l hl hother => (hlanes r l hl).trans (if_neg hother), fun l x y z hl hm => ?inside,
      fun l hl hm => ?outside⟩
    case inside =>
      intro f hqx hx0 hxn hqy hy0 hyn hqz hz0 hzn
      rw [hcell l hl hm, ← cellFlat_of_inside nx ny hx0 hy0 hz0, ← cellAxis_of_inside hqx hx0 hxn, ← usedAxis_of_inside hqy hy0 hyn,
        ← usedAxis_of_inside hqz hz0 hzn]
      rfl
    case outside =>
      intro f out hout
      refine (hcell l hl hm).trans (cellFlat_of_none nx ny ?_)
      obtain hox | ⟨h2, hoy⟩ | ⟨h3, hoz⟩ := hout
      · exact .inl (cellAxis_of_outside hox)
      · exact .inr (.inl ((if_pos h2).trans (cellAxis_of_outside hoy)))
      · exact .inr (.inr ((if_pos h3).trans (cellAxis_of_outside hoz)))

end Sys2Proof.Machine
end

section
/-! Counters, barriers, and the waits on them (09 R227, R231 to R240). -/

namespace Sys2Proof.Machine

section
variable {i : Instr} {h : Hdr} {u : State → Uses} {on : State → Bool} {need : State → Split → Prop} {eff : State → Split → State}
  {p : State → Split → Park}

/-- An instruction's contributions to the signatures are no part of the checks it must pass to park. -/
theorem Parks.of_folds {folds : State → List (W32 × W32)} (hp : Parks i (fun s => { u s with folds := folds s }) on need eff p) :
    Parks i u on need eff p :=
  fun s sp hc => hp s sp (canIssue_congr hc rfl rfl rfl rfl rfl rfl)

end

/-- An access held in a free entry of the operand log moves no split of its group. -/
theorem g_hold_of_entryFree {s : State} (hfree : s.entryFree = true) (i : Instr) (sp : Split) (m : W32) (x : Held) (l : List OlLane) :
    (s.hold i sp m x l).1.g = (s.withEntry i sp m x l).g := by
  obtain ⟨hentry, hroom⟩ := (Bool.and_eq_true _ _).mp hfree
  obtain ⟨n, hn⟩ := Option.isSome_iff_exists.mp hentry
  have hroom : s.cacheUsed s.g.tile false + 8 ≤ 2048 := of_decide_eq_true hroom
  simp only [State.hold, State.withEntry, hn, cacheRoom_free hroom, if_neg (show ¬ 2048 < s.cacheUsed s.g.tile false + 8 by omega)]
  rw [apply_ite State.g, State.g_logVals, ite_self]
  cases x
  rfl

/-- The access of a wait: its object, looked at while the wait is parked (R231). -/
def waitHeld (bar : Bool) (mode : BitVec 4) (sc : BitVec 2) : Held :=
  { kind := .wait bar, space := modeSpace mode.toNat, size := 8, scope := sc.toNat, uni := true }

/-- A wait of a group without a log to follow takes the free entry and parks its split on it (R231, R235). -/
theorem parks_wait {i : Instr} {h : Hdr} {bar : Bool} {d a : BitVec 6} {regs : List Nat} {imm : Option (BitVec 16)} {mode : BitVec 4}
    {sc : BitVec 2} {target : Group → W64} {q : Option Nat} {deadline : Group → Option W64}
    (he : ∀ s, exec i s = waitOn i h bar d a regs imm mode sc target q deadline s)
    (ht : ∀ s : State, target s.open_.g = target s.g) (hd : ∀ s : State, deadline s.open_.g = deadline s.g) :
    Parks i (fun _ => { sr := regs, sw := [d.toNat], late := true, logged := true, cmp := true, parks := true }) (guardOn h)
      (fun s _ => s.entryFree = true)
      (fun s sp => s.withEntry i sp sp.mask (waitHeld bar mode sc) [laneAt 0 (modeAddr mode.toNat (s.g.rs a.toNat)) none])
      (fun s _ => .ctr ⟨bar, s.takeEntry.getD 0, sc.toNat, target s.g, d.toNat, q, deadline s.g, none⟩) := by
  refine .of_folds <| parks_uni he fun s sp hc _ hfree => ?_
  obtain ⟨-, -, -, -, -, -, -, hplain⟩ := hc
  have htake : s.takeEntry = s.g.freeEntry := takeEntry_plain (by rw [hplain rfl]; rfl)
  obtain ⟨idx, hidx⟩ := Option.isSome_iff_exists.mp ((Bool.and_eq_true _ _).mp hfree).1
  have hopen : s.open_.g.freeEntry = some idx := htake.symm.trans hidx
  have hfree' : s.open_.entryFree = true := (open_entryFree s).trans hfree
  simp only [hopen, hidx, Option.getD_some, ht, hd]
  refine ⟨.inl trivial, (hold_entry hfree' ..).2, ?_⟩
  rw [g_hold_of_entryFree hfree']
  exact ⟨rfl, rfl⟩

/-- Settles O31: the adds, arrivals and reads are held in the operand log (`does_held_uni`), the waits park on their entry (`parks_wait`). -/
theorem countersAndBarriers : Obligations.CountersAndBarriers := by
  intro h d a b c mode kind sc imm q
  refine ⟨?add, ?arrive, ?read, ?readStatus, ?wait, ?waitTime, ?barWait⟩
  case add => exact .of_folds <| does_held_uni (execCtrAdd.eq_def h a b mode sc kind imm) fun _ _ hfree => ⟨hfree, rfl⟩
  case arrive => exact .of_folds <| does_held_uni (execBarArv.eq_def h d a b mode sc kind imm) fun _ _ hfree => ⟨hfree, rfl⟩
  case read => exact does_held_uni (execCtrRd.eq_def h d a) fun _ _ hfree => ⟨hfree, rfl⟩
  case readStatus => exact does_held_uni (execCtrRdSt.eq_def h d a) fun _ _ hfree => ⟨hfree, rfl⟩
  case wait => exact parks_wait (i := .ctrWait h d a b mode sc kind imm) (execCtrWait.eq_def h d a b mode sc kind imm) (fun _ => rfl) fun _ => rfl
  case waitTime => exact parks_wait (i := .ctrWaitt h d a b c mode sc q) (execCtrWaitt.eq_def h d a b c mode sc q) (fun _ => rfl) fun _ => rfl
  case barWait => exact parks_wait (i := .barWait h d a b mode sc) (execBarWait.eq_def h d a b mode sc) (fun _ => rfl) fun _ => rfl

end Sys2Proof.Machine
end

section
/-! Batches, the phase tag, QUIET, and the fences (09 R242 to R247). -/

namespace Sys2Proof.Machine

/-- Settles O32: BATCH.CLOSE on either side of its limit, the parks of BATCH.WAIT and QUIET, and the fences, whose end is awaited
(`still_awaiting`). -/
theorem batchesAndFences : Obligations.BatchesAndFences := by
  intro h d a sc kind imm t last asked full
  refine ⟨?close, ?closeParks, ?wait, ?phase, ?quiet, ?fence, ?acquire⟩
  case close =>
    refine does_uni (execBatchClose.eq_def h d) fun s sp _ _ hroom => ?_
    have hroom : decide (s.open_.g.batchSeq - 1 - s.open_.g.batchDone = 16) = false := hroom
    simp only [hroom, Bool.false_and, Bool.false_eq_true, if_false, and_self]
  case closeParks =>
    refine parks_uni (execBatchClose.eq_def h d) fun s sp _ _ hn => ?_
    obtain ⟨hfull, hf⟩ := hn
    have hfull : decide (s.open_.g.batchSeq - 1 - s.open_.g.batchDone = 16) = true := hfull
    have hmute : s.open_.mute = false := hf
    simp only [hfull, hmute, Bool.not_false, Bool.and_self, if_true]
    exact ⟨.inl rfl, rfl, rfl, rfl⟩
  case wait => exact parks_uni (execBatchWait.eq_def h a kind imm) fun _ _ _ _ _ => ⟨.inl rfl, rfl, rfl, rfl⟩
  case phase => exact does_uni (execPhase.eq_def h t) fun _ _ _ _ _ => ⟨rfl, rfl⟩
  case quiet => exact parks_uni (execQuiet.eq_def h sc t) fun _ _ _ _ _ => ⟨.inl rfl, rfl, rfl, rfl⟩
  case fence => exact does_uni (execFence.eq_def h sc kind) fun _ _ _ _ _ => ⟨rfl, still_awaiting _ _ _ _⟩
  case acquire =>
    refine does_uni (execAcqRem.eq_def h d a) fun s sp _ _ hf => ?_
    have hmute : s.open_.mute = false := hf
    simp only [hmute, Bool.false_eq_true, if_false]
    split
    · exact ⟨rfl, still_awaiting _ _ _ _⟩
    · exact ⟨rfl, still_awaiting _ _ _ _⟩

end Sys2Proof.Machine
end

section
/-! Engine commands without a completion object (11 R292, R296, R306). -/

namespace Sys2Proof.Machine

/-- What stash lines written back leave as it was: of their state, only the teams' stashes and the contexts' accounts change. -/
theorem field_recallStash {β : Type} (field : State → β) (hfield : ∀ s : State, field s = field s.bare) (s : State)
    (hit : Team → StashLine → Bool) : field (s.recallStash hit) = field s := by
  rw [hfield, bare_recallStash, ← hfield]

section
variable (s : State) (id : Nat)

@[simp] theorem cmds_takeLines : (s.takeLines id).cmds = s.cmds := field_recallStash State.cmds (fun _ => rfl) _ _
@[simp] theorem owners_takeLines : (s.takeLines id).owners = s.owners := field_recallStash State.owners (fun _ => rfl) _ _
@[simp] theorem mem_takeLines : (s.takeLines id).mem = s.mem := field_recallStash State.mem (fun _ => rfl) _ _

end

section
variable {s : State} {c : Cmd}

/-- A command with no destination in global memory posts nothing. -/
theorem startCmd_of_dest_nil (hdest : c.dest = []) (hfits : s.postFits s = true) :
    s.startCmd c = (s.takeLines c.id).modCmd c.id (fun c => { c with started := true }) := by
  have hpost : s.postAll c = s := by rw [State.postAll, hdest, List.foldl_nil]
  rw [State.startCmd, hpost, if_pos hfits]

/-- No command but a COLL has members to reach. -/
theorem unreachable_of_kind (hkind : c.kind ≠ 4) : s.unreachable c = false := by
  unfold State.unreachable
  split
  · rw [decide_eq_false hkind, Bool.false_and]
  · rfl

theorem execEngineCommandStart_of_ready (hc : s.cmd c.id = some c) (hs : c.started = false) (he : c.error = none)
    (hheld : s.startHeld c = false) (hbound : s.cmdBound c = false) (hreach : s.unreachable c = false) :
    execEngineCommandStart c.id s = .next (s.startCmd c) := by
  simp [execEngineCommandStart, hc, hs, he, hheld, hbound, hreach]

theorem execEngineTransferStep_of_ready (hc : s.cmd c.id = some c) (hs : c.started = true) (he : c.error = none)
    (hswap : s.cmdSwapped c = false) (hbound : s.cmdBound c = false) :
    execEngineTransferStep c.id s = .next (s.moveCmd c) := by
  simp [execEngineTransferStep, hc, hs, he, hswap, hbound]

theorem execEngineCommandComplete_of_over (hc : s.cmd c.id = some c) (hover : s.cmdOver c = true) :
    execEngineCommandComplete c.id s = .next (s.completeCmd c) := by
  simp [execEngineCommandComplete, hc, hover]

/-- A command that counts no bytes at a barrier has no subtraction due (R306). -/
theorem Cmd.subDue_of_comp (hcomp : c.comp ≠ 2) (total : Nat) : c.subDue total = none :=
  if_pos (by rw [decide_eq_true hcomp, Bool.true_or])

/-- A copy with bytes left moves its next piece, while its tile's clock runs. -/
theorem moveCmd_of_left (hkind : c.kind ≠ 4) (hcomp : c.comp ≠ 2) (htrans : (s.tile c.tile).trans = none) (hpos : c.pos < s.cmdTotal c) :
    s.moveCmd c = s.movePiece c (s.cmdTotal c) := by
  simp [State.moveCmd, Cmd.subDue_of_comp hcomp, htrans, hkind, hpos]

/-- A copy that has landed, with every acknowledgement back, is over. -/
theorem cmdOver_of_landed (hkind : c.kind ≠ 4) (hcomp : c.comp ≠ 2) (hs : c.started = true) (hswap : s.cmdSwapped c = false)
    (hland : s.cmdTotal c ≤ c.landed) (hsettled : s.cmdSettled c = true)
    (hbuf : s.tiles.any (fun x => x.landing.any (fun y => decide (y.cmd = c.id))) = false) : s.cmdOver c = true := by
  unfold State.cmdOver
  rw [hbuf, hsettled, hswap, hs, decide_eq_true hland, Cmd.subDue_of_comp hcomp]
  cases s.collOf c <;> simp [hkind]

theorem completeCmd_of_comp_zero (he : c.error = none) (hcomp : c.comp = 0) : s.completeCmd c = s.leaveQueue c := by
  simp [State.completeCmd, he, hcomp]

end

/-- A command that leaves its queue takes its ownerships with it, and changes no memory and no team. -/
theorem leaveQueue_rest (s : State) (c : Cmd) : (s.leaveQueue c).cmds = s.cmds.filter (fun x => decide (x.id ≠ c.id)) ∧
    (s.leaveQueue c).owners = s.owners.filter (fun o => decide (o.id ≠ c.id)) ∧ (s.leaveQueue c).mem = s.mem ∧
    (s.leaveQueue c).teams = s.teams := by
  unfold State.leaveQueue State.advanceBatches
  obtain ⟨g, os, h⟩ := modGroup_rest { s with
    cmds := s.cmds.filter (fun x => decide (x.id ≠ c.id))
    owners := s.owners.filter (fun o => decide (o.id ≠ c.id)) } c.gid _
  rw [h]
  exact ⟨rfl, rfl, rfl, rfl⟩

end Sys2Proof.Machine
end

section
/-! Waits at their objects, and QUIET, as they end (09 R234 to R236, R245). -/

namespace Sys2Proof.Machine

section
variable {s : State} {g : Group} {gid slot : Nat} {sp : Split} {w : Wait} {late : Bool}

/-- A wait decided before ends as it was decided (R235). -/
theorem evalWait_of_decided {ok : Bool} {st c : W64} (hg : s.group gid = some g) (ha : g.away = false)
    (ht : (s.tile g.tile).trans = none) (hsp : g.split slot = some sp) (hp : sp.park = .ctr w) (hd : w.decided = some (ok, st, c)) :
    s.evalWait gid slot late = s.endWait g slot w ok st c := by
  simp [State.evalWait, hg, hsp, hp, ha, ht, hd]

/-- A deadline that has come, where it is looked at (R234). -/
def Wait.expired (w : Wait) (late : Bool) (dt : Nat) : Bool :=
  late && (match w.deadline with
    | some t => decide (t.toNat ≤ dt)
    | none => false)

/-- A wait that reads its object ends where the object meets the target or the deadline has come, and else waits on (R234, R235). -/
theorem evalWait_of_read {p : Place} {k : Nat} {c st : W64} (hg : s.group gid = some g) (ha : g.away = false)
    (ht : (s.tile g.tile).trans = none) (hsp : g.split slot = some sp) (hp : sp.park = .ctr w) (hd : w.decided = none)
    (hread : s.waitReads g w = some (p, k, c, st)) (hgone : s.goneScratch p = false)
    (hpoison : s.atomPoison g p (if w.bar then 32 else 16) k = false) :
    s.evalWait gid slot late = if w.reachedBy c then s.endWait g slot w true st c
      else if w.expired late s.dt then s.endWait g slot w false st c else s := by
  simp only [State.evalWait, hg, hsp, hp, ha, ht, hd, hread, hgone, hpoison, Option.isSome_none, Bool.or_self, Bool.false_eq_true, if_false]
  rfl

/-- A counter is reached from its target on. -/
theorem Wait.reachedBy_counter (hbar : w.bar = false) (c : W64) : w.reachedBy c = decide (w.target.toNat ≤ c.toNat) := by
  simp [Wait.reachedBy, hbar]

end

/-- A park that has ended leaves its result in its s-register; every other keeps its value. -/
theorem rs_parkResult {s : State} {gid : Nat} (hid : s.g.gid = gid) (hl : s.g.live = true) (seq cnt d n : Nat) (x : W64) :
    (s.parkResult gid seq cnt [(d, x)] none).g.rs n = if n = d then x else s.g.rs n := by
  subst hid
  simp only [State.parkResult, group_self hl, modGroup_self, State.g_logVals, State.g_addFolds, List.foldl_cons, List.foldl_nil, rs_ws]

@[simp] theorem g_acquired (s : State) (g : Group) (acq : Bool) (sc : Nat) : (s.acquired g acq sc).g = s.g := by
  unfold State.acquired
  split <;> rfl

/-- A parked split that goes on at its next instruction. -/
def Split.woken (sp : Split) (clock : Nat) : Split :=
  { sp with pc := pcAdd sp.pc sp.plen, park := if sp.wAfter then .wbit else .ready, age := clock, hold := 0, wAfter := false, plen := 0 }

theorem wakeNext_of_split {g : Group} {slot : Nat} {sp : Split} (h : g.split slot = some sp) (clock : Nat) :
    g.wakeNext slot clock = g.setSplit (sp.woken clock) := by
  simp only [Group.wakeNext, h]
  rfl

theorem slot_of_split {g : Group} {slot : Nat} {sp : Split} (h : g.split slot = some sp) : sp.slot = slot :=
  of_decide_eq_true (List.find?_some (p := fun x : Split => decide (x.slot = slot)) h)

theorem split_wakeNext {g : Group} {slot : Nat} {sp : Split} (h : g.split slot = some sp) (clock : Nat) :
    (g.wakeNext slot clock).split slot = some (sp.woken clock) := by
  rw [wakeNext_of_split h]
  exact (split_putSplit _ _ _).trans (if_pos (slot_of_split h).symm)

/-- A woken split changes nothing of its group but its splits. -/
theorem wakeNext_rest (g : Group) (slot clock : Nat) : ∃ l, g.wakeNext slot clock = { g with splits := l } := by
  unfold Group.wakeNext
  split
  · exact ⟨g.splits, rfl⟩
  · exact ⟨_, rfl⟩

/-- A plain group's wait without a predicate leaves its status in its register and changes no other. -/
theorem rs_endWait {s : State} {w : Wait} {e : OlEntry} (hl : s.g.live = true) (hp : s.g.role = .plain) (he : s.g.entry w.entry = some e)
    (hq : w.q = none) (slot n : Nat) (st c : W64) (ok : Bool) :
    (s.endWait s.g slot w ok st c).g.rs n = if n = w.d then st else s.g.rs n := by
  obtain ⟨l, hw⟩ := wakeNext_rest { s.g with olog := s.g.olog.filter (fun x => decide (x.idx ≠ w.entry)) } slot s.clock
  simp only [State.endWait, he, hq, Option.map_none, g_acquired]
  rw [keeps_foldl State.g (fun s p => by cases p <;> rfl), logVals_of_plain _ hp, modGroup_self, hw]
  exact rs_parkResult rfl (by exact hl) ..

/-- A drained QUIET goes on, an acquire at its scope (R245). -/
theorem execQuietDrained_of_drained {s : State} {g : Group} {gid slot sc since : Nat} {sp : Split} {tag : BitVec 1}
    (hg : s.group gid = some g) (ha : g.away = false) (ht : (s.tile g.tile).trans = none) (hsp : g.split slot = some sp)
    (hp : sp.park = .quiet sc tag since) (hd : s.drained g sc tag since = true) :
    execQuietDrained gid slot s =
      .next (((s.modGroup gid (fun g => g.wakeNext slot s.clock)).logVals g sp.cnt [(doneKey, 0)]).acquired g true sc) := by
  simp [execQuietDrained, hg, hsp, hp, ha, ht, hd]

/-- At team scope a drained QUIET leaves every L1 as it is, and its split is past it (R245). -/
theorem split_quietDrained {s : State} {slot : Nat} {sp : Split} (hsp : s.g.split slot = some sp) (g : Group) (l : List (Nat × W64)) :
    ((((s.modGroup s.g.gid (fun g => g.wakeNext slot s.clock)).logVals g sp.cnt l).acquired g true 0).g.split slot) =
      some (sp.woken s.clock) := by
  rw [g_acquired, State.g_logVals, modGroup_self]
  exact split_wakeNext hsp s.clock

end Sys2Proof.Machine
end

section
/-! Plain engine commands and waits, whole (11 R292, R296, R306; 09 R234 to R236, R245). -/

namespace Sys2Proof.Machine

/-- Settles O51: a command by the step that is its own at each time of its life, a wait by what `State.evalWait` finds (`evalWait_of_decided`,
`evalWait_of_read`), and QUIET by `execQuietDrained_of_drained`. -/
theorem engineAndWaitSteps : Obligations.EngineAndWaitSteps := by
  refine ⟨?commands, fun _ _ _ => ⟨rfl, rfl⟩, ?waits, ?decided, ?register, ?quiet, ?quietSplit⟩
  case commands =>
    intro s c hc hkind he hcomp hdest hswap
    have hk : c.kind ≠ 4 := by omega
    have hn : c.comp ≠ 2 := by omega
    refine ⟨fun hs hheld hbound hfits => ?start, fun hs hbound hpos htrans => ?move, fun hs hland hsettled hbuf => ?complete⟩
    case start =>
      refine ⟨s.startCmd c, execEngineCommandStart_of_ready hc hs he hheld hbound (unreachable_of_kind hk), ?_⟩
      rw [startCmd_of_dest_nil hdest hfits]
      exact ⟨congrArg (List.map _) (cmds_takeLines s c.id), owners_takeLines s c.id, mem_takeLines s c.id⟩
    case move =>
      rw [← moveCmd_of_left hk hn htrans hpos]
      exact execEngineTransferStep_of_ready hc hs he hswap hbound
    case complete =>
      have hover := cmdOver_of_landed hk hn hs hswap hland hsettled hbuf
      obtain ⟨hcmds, howners, hmem, -⟩ := leaveQueue_rest s c
      rw [← completeCmd_of_comp_zero he hcomp] at hcmds howners hmem
      exact ⟨s.completeCmd c, execEngineCommandComplete_of_over hc hover, hcmds, howners, hmem⟩
  case waits =>
    intro s sp w p k c st hl ha ht hsp hp hd hbar hread hgone hpoison
    have heval : ∀ late, s.evalWait s.g.gid sp.slot late = if w.target.toNat ≤ c.toNat then s.endWait s.g sp.slot w true st c
        else if w.expired late s.dt then s.endWait s.g sp.slot w false st c else s := fun late => by
      rw [evalWait_of_read (group_self hl) ha ht hsp hp hd hread hgone (by rwa [hbar]), Wait.reachedBy_counter hbar]
      simp only [decide_eq_true_eq]
    refine ⟨fun hreached => ⟨_, rfl, ?reached⟩, fun d hdl hdue hbelow => ⟨_, rfl, ?expired⟩,
      fun hbelow => congrArg Host.Outcome.next ?still⟩
    case reached => rw [heval, if_pos hreached]
    case expired => rw [heval, if_neg (by omega), if_pos (by simp [Wait.expired, hdl, hdue])]
    case still => rw [heval, if_neg (by omega), if_neg (by simp [Wait.expired])]
  case decided => exact fun s sp w ok st c hl ha ht hsp hp hd => congrArg Host.Outcome.next (evalWait_of_decided (group_self hl) ha ht hsp hp hd)
  case register => exact fun s w slot n st c ok e hl hp he hq => rs_endWait hl hp he hq slot n st c ok
  case quiet => exact fun s g gid sp sc tag since hg ha ht hsp hp hd => execQuietDrained_of_drained hg ha ht hsp hp hd
  case quietSplit =>
    exact fun s sp tag since hl ha ht hsp hp hd =>
      ⟨_, _, execQuietDrained_of_drained (group_self hl) ha ht hsp hp hd, split_quietDrained hsp s.g _, rfl, rfl⟩

end Sys2Proof.Machine
end

section
/-! What a translation leaves alone: the groups, and what holds a line at its home (07 R187, R194 to R197; 10 R266). -/

namespace Sys2Proof.Machine

/-- The state without what translations change: TLBs and walk caches, memory, the bookkeeping of homes, and the count of lost stores. -/
def State.untranslated (s : State) : State :=
  { s.bare with tlb := [], walks := [], mem := [], hostMem := [], remote := [], poison := [], coded := [], lostStores := 0 }

theorem untranslated_of_bare {s t : State} (h : s.bare = t.bare) : s.untranslated = t.untranslated := by
  rw [State.untranslated, h]
  rfl

theorem bare_sweepStash (s : State) (hit : Team → StashLine → Bool) (f : StashLine → Option StashLine) : (s.sweepStash hit f).bare = s.bare := by
  unfold State.sweepStash
  exact (keeps_foldl State.bare (fun s t => bare_accountN _ _ _ s) _ _).trans rfl

theorem bare_homeRead (s : State) (c : Option Nat) (tid pa kind : Nat) : (s.homeRead c tid pa kind).bare = s.bare :=
  (bare_sweepStash _ _ _).trans (bare_countHome s c pa kind false)

theorem untranslated_physSetList (bs : List Byte) : ∀ (s : State) (pa : Nat), (s.physSetList pa bs).untranslated = s.untranslated := by
  induction bs with
  | nil => exact fun _ _ => rfl
  | cons b rest ih =>
    intro s pa
    rw [State.physSetList, ih]
    unfold State.physSet
    split <;> rfl

theorem untranslated_physWrite (s : State) (pa : Nat) (bs : List Byte) : (s.physWrite pa bs).untranslated = s.untranslated := by
  unfold State.physWrite
  split
  · exact untranslated_physSetList bs s pa
  · rfl

/-- A store of the device itself changes bytes, and what homes keep beside them. -/
theorem untranslated_deviceStore (s : State) (c : Option Nat) (pa : Nat) (bs : List Byte) :
    (s.deviceStore c pa bs).untranslated = s.untranslated := by
  have hcount : (s.countHome c pa 0 true).untranslated = s.untranslated := untranslated_of_bare (bare_countHome s c pa 0 true)
  unfold State.deviceStore State.homeWrite
  split
  · rw [if_pos rfl]
    exact (untranslated_of_bare (bare_recallStash _ _)).trans ((untranslated_physWrite _ pa bs).trans hcount)
  · exact hcount

section
variable (s : State) (q : Req) (va : Nat) (n : Need)

theorem untranslated_keepWalk (seen : WalkSeen) : (s.keepWalk q va seen).untranslated = s.untranslated :=
  List.foldrRecOn (motive := fun t : State => t.untranslated = s.untranslated) seen.reads _ rfl
    fun t ht pa _ => (untranslated_of_bare (bare_homeRead t _ _ pa _)).trans ht

theorem untranslated_orPte (pa : Nat) (bits : W64) : (s.orPte q pa bits).untranslated = s.untranslated := by
  unfold State.orPte
  split
  · rfl
  · split
    · rfl
    · exact untranslated_deviceStore s _ _ _

theorem untranslated_loadTlb (e : TlbEntry) : (s.loadTlb q e).untranslated = s.untranslated := rfl

theorem untranslated_walkFor : (s.walkFor q va n).2.untranslated = s.untranslated := by
  have hkept : ((s.keepWalk q va (s.walk q va).2).account q.ctx 6).untranslated = s.untranslated :=
    (untranslated_of_bare (bare_account _ _ _)).trans (untranslated_keepWalk s q va _)
  unfold State.walkFor
  dsimp only
  split
  · exact hkept
  · split
    · exact (untranslated_loadTlb _ _ _).trans ((untranslated_orPte _ _ _ _).trans hkept)
    · exact hkept

theorem untranslated_translate : (s.translate q va n).2.untranslated = s.untranslated := by
  unfold State.translate
  split
  · rfl
  · dsimp only
    split
    · exact untranslated_walkFor s q va n
    · split
      · split
        · exact untranslated_walkFor s q va n
        · rfl
      · rfl

theorem g_translate : (s.translate q va n).2.g = s.g := (congrArg State.g (untranslated_translate s q va n) :)

/-- No line comes to be held, or free, by a translation. -/
theorem lineHeld_translate (pa : Nat) : (s.translate q va n).2.lineHeld pa = s.lineHeld pa :=
  (congrArg (fun t : State => t.lineHeld pa) (untranslated_translate s q va n) :)

end

/-- Finding the die of a lock leaves the issuing group alone. -/
theorem g_lockDie (s : State) (g : Group) (n : W64) : (s.lockDie g n).2.g = s.g := by
  unfold State.lockDie
  split
  · rfl
  next d _ =>
    split
    · have ht := g_translate s (s.req g) (d.base + 128 * lockIndex n) .read
      split
      next e => rwa [e] at ht
      next e =>
        rw [e] at ht
        split <;> exact ht
    · rfl

/-! ## The mark that `State.open_` clears is no part of a walk -/

section
variable (s : State) (q : Req) (va : Nat) (n : Need)

theorem open_readPte (die pa : Nat) : s.open_.readPte die pa = s.readPte die pa := rfl

theorem open_walkFrom (die fuel : Nat) : ∀ (level table : Nat) (seen : WalkSeen),
    s.open_.walkFrom die va fuel level table seen = s.walkFrom die va fuel level table seen := by
  induction fuel with
  | zero => exact fun _ _ _ => rfl
  | succ fuel ih =>
    intro level table seen
    simp only [State.walkFrom, open_readPte, ih]

theorem open_walk : s.open_.walk q va = s.walk q va := by
  simp only [State.walk, open_walkFrom]
  rfl

theorem open_transHeld : s.open_.transHeld q va n = s.transHeld q va n := by
  simp only [State.transHeld, State.walkHeld, open_walk]
  rfl

theorem open_walkFor : (s.open_.walkFor q va n).1 = (s.walkFor q va n).1 := by
  unfold State.walkFor
  rw [open_walk]
  dsimp only
  split
  · rfl
  · split <;> rfl

theorem open_translate : (s.open_.translate q va n).1 = (s.translate q va n).1 := by
  have hlook : ∀ l2 unit, s.open_.lookTlb l2 unit q.ctx va = s.lookTlb l2 unit q.ctx va := fun _ _ => rfl
  unfold State.translate
  simp only [hlook]
  split
  · rfl
  · split
    · exact open_walkFor s q va n
    · split
      · split
        · exact open_walkFor s q va n
        · rfl
      · rfl

/-- Whether an access waits for its walk or its line, the translation's answer read apart from the state it leaves. -/
theorem vaHeld_eq : s.vaHeld q va n = (s.transHeld q va n || (match (s.translate q va n).1 with
    | .ok e => s.lineHeld (e.at va)
    | .error _ => false)) := by
  have hline := lineHeld_translate s q va n
  unfold State.vaHeld
  generalize s.translate q va n = r at hline
  obtain ⟨_ | e, t⟩ := r
  · rfl
  · exact congrArg _ (hline (e.at va))

theorem open_vaHeld : s.open_.vaHeld q va n = s.vaHeld q va n := by
  rw [vaHeld_eq, vaHeld_eq, open_transHeld, open_translate]
  rfl

theorem open_defHeld (num : Nat) : s.open_.defHeld q num none = s.defHeld q num none := by
  unfold State.defHeld
  rw [open_vaHeld]
  rfl

end

end Sys2Proof.Machine
end

section
/-! The lock instructions as they issue (10 R269, R270, R276 to R284). -/

namespace Sys2Proof.Machine

/-! ## The form of a lock instruction (R269) -/

/-- What a lock instruction names, as it issues (R269, R287). -/
def Uses.lock (u : Uses) : Uses := { u with logged := true, parks := true }

/-- What the lock instructions but LK.BEGIN name: the registers they read and write, at a compare point (R287). -/
def lockUses (sr sw : List Nat) : Uses := { sr := sr, sw := sw, late := true, cmp := true }

/-- A lock instruction that comes to its body: its guard is on, and none of its group is outstanding (R269). -/
def State.comesTo (s : State) (i : Instr) (h : Hdr) (u : Uses) (sp : Split) : Prop :=
  s.canIssue i u.lock sp ∧ guardOn h s = true ∧ s.g.newSplits = [] ∧ s.g.lockBusy = false

/-- A lock instruction of a plain team issues with what it names, whatever it adds to the signatures and whether it is a compare point now. -/
theorem canIssue_lock {s : State} {i : Instr} {u : Uses} {sp : Split} (hc : s.canIssue i u.lock sp)
    (c : Bool) (fs : List (W32 × W32)) : s.canIssue i { u.lock with cmp := c, folds := fs } sp := by
  obtain ⟨hr, hpre, hm, hy, hst, -, hit, hplain⟩ := hc
  have hp : s.g.role = .plain := hplain rfl
  exact ⟨hr, hpre, hm, hy, hst, by simp [State.roomless, hp], hit, fun _ => hp⟩

section
variable {i : Instr} {h : Hdr} {folds : State → List (W32 × W32)} {body : Split → State → State × Fate}
  {need : State → Split → Prop} {eff : State → Split → State} {p : State → Split → Park}

/-- A lock instruction that goes on, with none of its group outstanding. -/
theorem does_lock (u : Uses) (he : ∀ s, exec i s = lockIssue i h { u with folds := folds s } body s)
    (hb : ∀ s sp, need s sp → s.g.lockBusy = false ∧ (body sp s.open_).2 = .fall ∧ (body sp s.open_).1.still = (eff s.open_ sp).still) :
    Does i (fun _ => u.lock) (guardOn h) need eff := by
  intro s sp hc
  refine does_uni (need := need) he (fun s sp _ _ hn => ?_) s sp (canIssue_lock hc _ _)
  obtain ⟨hidle, hbody⟩ := hb s sp hn
  rw [if_neg (show ¬ s.open_.g.lockBusy = true from Bool.eq_false_iff.mp hidle)]
  exact hbody

/-- A lock instruction that parks, with none of its group outstanding. -/
theorem parks_lock (u : Uses) (he : ∀ s, exec i s = lockIssue i h { u with folds := folds s } body s)
    (hb : ∀ s sp, need s sp → s.g.lockBusy = false ∧ (body sp s.open_).2 = .park (p s sp) ∧ (body sp s.open_).1.still = (eff s sp).still ∧
      (body sp s.open_).1.g.splits = s.g.splits ∧ (body sp s.open_).1.g.newSplits = s.g.newSplits) :
    Parks i (fun _ => u.lock) (guardOn h) need eff p := by
  intro s sp hc
  refine parks_uni (need := need) he (fun s sp _ _ hn => ?_) s sp (canIssue_lock hc _ _)
  obtain ⟨hidle, hpark, hbody⟩ := hb s sp hn
  rw [if_neg (show ¬ s.open_.g.lockBusy = true from Bool.eq_false_iff.mp hidle)]
  exact ⟨.inl hpark, hbody⟩

/-- A lock instruction that traps, with none of its group outstanding. -/
theorem traps_lock (u : Uses) {fs : List (W32 × W32)} {s : State} {sp : Split} {c : BitVec 8} {resume : BitVec 57} {addr : W64}
    (he : exec i s = lockIssue i h { u with folds := fs } body s) (hgo : s.comesTo i h u sp) (hcause : c ≠ 0x12)
    (hb : body sp s.open_ = (s.open_, .trap (Trap.plain c sp.pc resume sp.mask addr s.dt))) :
    Traps i s sp (Trap.plain c sp.pc resume sp.mask addr s.dt) := by
  obtain ⟨hc, hg, hn, hidle⟩ := hgo
  have hissue := hc
  obtain ⟨hr, -, -, -, -, -, -, hplain⟩ := hc
  refine traps_body (he.trans (issueUni_eq _ _ _ _ _)) (canIssue_lock hissue _ _) hg (hplain rfl) hn hcause ?_
  rw [onUni_open hr, if_neg (show ¬ s.open_.g.lockBusy = true from Bool.eq_false_iff.mp hidle), hb]

end

/-- A late status is owed by the group's lock instruction. -/
theorem still_lockStatus (sp : Split) (d : Nat) (v : W64) (s : State) :
    (lockStatus sp d v s).1.still = (s.markLock.owes sp [] [(d, v)] 0 .nothing).still := still_laterLogged _ _ _ _

/-! ## Requests (R278 to R282) -/

theorem lockScopeBad_eq_false {sc : BitVec 2} : lockScopeBad sc = false ↔ sc.toNat = 1 ∨ sc.toNat = 2 := by
  simp [lockScopeBad, or_iff_not_imp_left]

/-- What LK.ACQ, LK.TRY and LK.UPG check before they ask for a lock (R270, R280), and what they do in a stopped handler (R275). -/
def askBody (a : BitVec 6) (mode : BitVec 3) (sc : BitVec 2) (upg : Bool) (stopped ask : Split → State → State × Fate) (sp : Split) (s : State) :
    State × Fate :=
  if lockScopeBad sc then (s, ownTrap s sp 0x05 (pcAdd sp.pc 8) (s.g.rs a.toNat))
  else if s.breaks s.g (s.g.rs a.toNat) mode.toNat upg then protocolTrap s sp (s.g.rs a.toNat)
  else if s.g.stopped then stopped sp s else ask sp s

/-- A state in which a group may ask for a lock: no lock instruction of it outstanding, a scope that locks have, and the protocol kept (R269, R270,
R280); no handler's requests stopped (R275). -/
def State.mayAsk (s : State) (a : BitVec 6) (mode : BitVec 3) (sc : BitVec 2) (upg : Bool) : Prop :=
  s.g.lockBusy = false ∧ (sc.toNat = 1 ∨ sc.toNat = 2) ∧ s.breaks s.g (s.g.rs a.toNat) mode.toNat upg = false ∧ s.g.stopped = false

section
variable {s : State} {a : BitVec 6} {mode : BitVec 3} {sc : BitVec 2} {upg : Bool} {stopped ask : Split → State → State × Fate}

theorem State.mayAsk.idle (hask : s.mayAsk a mode sc upg) : s.g.lockBusy = false := hask.1

theorem askBody_of_mayAsk (hask : s.mayAsk a mode sc upg) (sp : Split) : askBody a mode sc upg stopped ask sp s.open_ = ask sp s.open_ := by
  obtain ⟨-, hscope, hkept, hgoes⟩ := hask
  have hkept : s.open_.breaks s.open_.g (s.open_.g.rs a.toNat) mode.toNat upg = false := hkept
  have hgoes : s.open_.g.stopped = false := hgoes
  simp only [askBody, lockScopeBad_eq_false.mpr hscope, hkept, hgoes, Bool.false_eq_true, if_false]

theorem askBody_of_scope (hscope : ¬ (sc.toNat = 1 ∨ sc.toNat = 2)) (sp : Split) : askBody a mode sc upg stopped ask sp s =
    (s, .trap (Trap.plain 0x05 sp.pc (sp.pc + 8) sp.mask (s.g.rs a.toNat) s.dt)) := by
  have hbad : lockScopeBad sc = true := by rwa [← lockScopeBad_eq_false, Bool.not_eq_false] at hscope
  rw [askBody, if_pos hbad]
  rfl

theorem askBody_of_breaks (hscope : sc.toNat = 1 ∨ sc.toNat = 2) (hbreaks : s.breaks s.g (s.g.rs a.toNat) mode.toNat upg = true)
    (sp : Split) : askBody a mode sc upg stopped ask sp s =
    (s, .trap (Trap.plain 0x0E sp.pc sp.pc sp.mask (s.g.rs a.toNat) s.dt)) := by
  simp only [askBody, lockScopeBad_eq_false.mpr hscope, hbreaks, Bool.false_eq_true, if_false, if_true]
  rfl

/-- The traps of a lock instruction that asks: Scope before Lock Protocol (R270, R280). -/
theorem traps_ask {i : Instr} {h : Hdr} (u : Uses) {fs : List (W32 × W32)} {sp : Split}
    (he : exec i s = lockIssue i h { u with folds := fs } (askBody a mode sc upg stopped ask) s) :
    (s.comesTo i h u sp → ¬ (sc.toNat = 1 ∨ sc.toNat = 2) →
      Traps i s sp (Trap.plain 0x05 sp.pc (sp.pc + 8) sp.mask (s.g.rs a.toNat) s.dt)) ∧
    (s.comesTo i h u sp → (sc.toNat = 1 ∨ sc.toNat = 2) ∧ s.breaks s.g (s.g.rs a.toNat) mode.toNat upg = true →
      Traps i s sp (Trap.plain 0x0E sp.pc sp.pc sp.mask (s.g.rs a.toNat) s.dt)) :=
  ⟨fun hgo hscope => traps_lock u he hgo (by decide) (askBody_of_scope (s := s.open_) hscope sp),
    fun hgo ⟨hscope, hbreaks⟩ => traps_lock u he hgo (by decide) (askBody_of_breaks (s := s.open_) hscope hbreaks sp)⟩

end

/-- The die of the lock that register a names, with the state once it is found (R266). -/
def State.keptAt (s : State) (a : BitVec 6) : Nat × State := s.lockDie s.g (s.g.rs a.toNat)

/-- Room for one more lock, in the group's lock set and in the pool of the lock's die (R266, R282). -/
def State.lockRoom (s : State) (a : BitVec 6) : Prop := s.g.lset.length < 64 ∧ (s.keptAt a).2.poolHas (s.keptAt a).1 = true

/-- A request for one lock more: what is done where there is no room, and where there is, in the state that has found the lock's die from the one
before (R282). -/
def roomBody (a : BitVec 6) (full send : Split → State → State → State × Fate) (sp : Split) (s : State) : State × Fate :=
  if 64 ≤ s.g.lset.length || !(s.keptAt a).2.poolHas (s.keptAt a).1 then full sp s (s.keptAt a).2 else send sp s (s.keptAt a).2

/-- The request of the lock that register a names, on its way to its slice (R278, R282). -/
def State.ask (s : State) (sp : Split) (a : BitVec 6) (mode : BitVec 3) (sc : BitVec 2) (upg : Bool) (try_ : Option Nat) : State :=
  s.sendRequest sp (s.g.rs a.toNat) mode.toNat upg try_ sc.toNat

section
variable {s : State} {a : BitVec 6} {full send : Split → State → State → State × Fate}

theorem g_keptAt (s : State) (a : BitVec 6) : (s.keptAt a).2.g = s.g := g_lockDie s s.g _

/-- The name of the lock is the same once its die is found. -/
theorem ask_keptAt (s : State) (sp : Split) (a : BitVec 6) (mode : BitVec 3) (sc : BitVec 2) (upg : Bool) (try_ : Option Nat) :
    (s.keptAt a).2.sendRequest sp (s.g.rs a.toNat) mode.toNat upg try_ sc.toNat = (s.keptAt a).2.ask sp a mode sc upg try_ := by
  rw [State.ask, g_keptAt]

theorem roomBody_of_room (hroom : s.lockRoom a) (sp : Split) : roomBody a full send sp s = send sp s (s.keptAt a).2 := by
  obtain ⟨hset, hpool⟩ := hroom
  rw [roomBody, if_neg]
  simp [hset, hpool]

theorem roomBody_of_full (hfull : ¬ s.lockRoom a) (sp : Split) : roomBody a full send sp s = full sp s (s.keptAt a).2 := by
  rw [roomBody, if_pos]
  simpa [State.lockRoom, Decidable.imp_iff_not_or] using hfull

end

section
variable (h : Hdr) (d a : BitVec 6) (mode : BitVec 3) (sc : BitVec 2) (s : State)

/-! ## LK.ACQ, LK.UPG and LK.TRY (R278, R279, R282) -/

/-- LK.ACQ and LK.UPG complete at once in a stopped handler (R275). -/
def completeAtOnce (_ : Split) (s : State) : State × Fate := (s.logVals s.g s.g.icount [(doneKey, 0)], .fall)

/-- LK.ACQ once its checks have passed. -/
def acquireBody (a : BitVec 6) (mode : BitVec 3) (sc : BitVec 2) : Split → State → State × Fate :=
  roomBody a (fun sp s s1 => (s1, ownTrap s sp 0x10 sp.pc (s.g.rs a.toNat))) fun sp s s1 =>
    (s1.sendRequest sp (s.g.rs a.toNat) mode.toNat false none sc.toNat, .park .lock)

/-- LK.TRY once its checks have passed. -/
def tryBody (d a : BitVec 6) (mode : BitVec 3) (sc : BitVec 2) : Split → State → State × Fate :=
  roomBody a (fun sp _ s1 => lockStatus sp d.toNat 2 s1) fun sp s s1 =>
    (((s1.sendRequest sp (s.g.rs a.toNat) mode.toNat false (some d.toNat) sc.toNat).addFence sc.toNat 0).pendingResult sp [] [d.toNat], .fall)

theorem exec_lkAcq : exec (.lkAcq h a mode sc) s =
    lockIssue (.lkAcq h a mode sc) h { lockUses [a.toNat] [] with folds := regFolds s.g [a.toNat] none }
      (askBody a mode sc false completeAtOnce (acquireBody a mode sc)) s := rfl

theorem exec_lkUpg : exec (.lkUpg h a mode sc) s =
    lockIssue (.lkUpg h a mode sc) h { lockUses [a.toNat] [] with folds := regFolds s.g [a.toNat] none }
      (askBody a mode sc true completeAtOnce fun sp s => (s.ask sp a mode sc true none, .park .lock)) s := rfl

theorem exec_lkTry : exec (.lkTry h d a mode sc) s =
    lockIssue (.lkTry h d a mode sc) h { lockUses [a.toNat] [d.toNat] with folds := regFolds s.g [a.toNat] none }
      (askBody a mode sc false (fun sp s => lockStatus sp d.toNat 1 s) (tryBody d a mode sc)) s := rfl

theorem parks_lkAcq : Parks (.lkAcq h a mode sc) (fun _ => (lockUses [a.toNat] []).lock) (guardOn h)
    (fun s _ => s.mayAsk a mode sc false ∧ s.open_.lockRoom a) (fun s sp => (s.open_.keptAt a).2.ask sp a mode sc false none) (fun _ _ => .lock) := by
  refine parks_lock (lockUses [a.toNat] []) (exec_lkAcq h a mode sc) fun s sp ⟨hask, hroom⟩ => ?_
  have hsplits : (s.open_.keptAt a).2.g.splits = s.g.splits := (congrArg Group.splits (g_keptAt s.open_ a) :)
  have hnew : (s.open_.keptAt a).2.g.newSplits = s.g.newSplits := (congrArg Group.newSplits (g_keptAt s.open_ a) :)
  rw [askBody_of_mayAsk hask, acquireBody, roomBody_of_room hroom, ask_keptAt]
  exact ⟨hask.idle, rfl, rfl, hsplits, hnew⟩

theorem parks_lkUpg : Parks (.lkUpg h a mode sc) (fun _ => (lockUses [a.toNat] []).lock) (guardOn h)
    (fun s _ => s.mayAsk a mode sc true) (fun s sp => s.ask sp a mode sc true none) (fun _ _ => .lock) := by
  refine parks_lock (lockUses [a.toNat] []) (exec_lkUpg h a mode sc) fun s sp hask => ?_
  rw [askBody_of_mayAsk hask]
  exact ⟨hask.idle, rfl, rfl, rfl, rfl⟩

theorem does_lkTry_of_room : Does (.lkTry h d a mode sc) (fun _ => (lockUses [a.toNat] [d.toNat]).lock) (guardOn h)
    (fun s _ => s.mayAsk a mode sc false ∧ s.open_.lockRoom a)
    (fun s sp => (((s.keptAt a).2.ask sp a mode sc false (some d.toNat)).addFence sc.toNat 0).owes sp [] [(d.toNat, 0)] 0 .other) := by
  refine does_lock (lockUses [a.toNat] [d.toNat]) (exec_lkTry h d a mode sc) fun s sp ⟨hask, hroom⟩ => ?_
  rw [askBody_of_mayAsk hask, tryBody, roomBody_of_room hroom, ask_keptAt]
  exact ⟨hask.idle, rfl, rfl⟩

theorem does_lkTry_of_full : Does (.lkTry h d a mode sc) (fun _ => (lockUses [a.toNat] [d.toNat]).lock) (guardOn h)
    (fun s _ => s.mayAsk a mode sc false ∧ ¬ s.open_.lockRoom a)
    (fun s sp => (s.keptAt a).2.markLock.owes sp [] [(d.toNat, 2)] 0 .nothing) := by
  refine does_lock (lockUses [a.toNat] [d.toNat]) (exec_lkTry h d a mode sc) fun s sp ⟨hask, hfull⟩ => ?_
  rw [askBody_of_mayAsk hask, tryBody, roomBody_of_full hfull]
  exact ⟨hask.idle, rfl, still_lockStatus ..⟩

/-- LK.ACQ without room, where finding the lock's die changes nothing (R282). -/
theorem traps_lkAcq_of_full {s : State} {sp : Split} (hgo : s.comesTo (.lkAcq h a mode sc) h (lockUses [a.toNat] []) sp)
    (hask : s.mayAsk a mode sc false) (hsame : (s.open_.keptAt a).2 = s.open_) (hfull : ¬ s.open_.lockRoom a) :
    Traps (.lkAcq h a mode sc) s sp (Trap.plain 0x10 sp.pc sp.pc sp.mask (s.g.rs a.toNat) s.dt) := by
  refine traps_lock (lockUses [a.toNat] []) (exec_lkAcq h a mode sc s) hgo (by decide) ?_
  rw [askBody_of_mayAsk hask, acquireBody, roomBody_of_full hfull, hsame]
  rfl

end

/-! ## LK.BEGIN (R276) -/

/-- A group that begins: its age kept or set, and written to register d (R276). -/
def Group.beginAt (g : Group) (d : BitVec 6) (dt : Nat) : Group :=
  let age := if g.agev = true then g.age else BitVec.ofNat 64 dt
  { g.ws d.toNat age with age := age, agev := true, agehold := false }

theorem beginAt_eq (g : Group) (d : BitVec 6) (dt : Nat) :
    (let g1 := if g.agev then g else { g with age := BitVec.ofNat 64 dt, agev := true }
     ({ g1 with agehold := false } : Group).ws d.toNat g1.age) = g.beginAt d dt := by
  unfold Group.beginAt
  by_cases hv : g.agev = true
  · simp only [hv, if_true]
    rfl
  · simp only [hv]
    rfl

theorem does_lkBegin (h : Hdr) (d : BitVec 6) : Does (.lkBegin h d) (fun _ => ({ sw := [d.toNat] } : Uses).lock) (guardOn h)
    (fun s _ => s.g.lockBusy = false) (fun s _ => { s with g := s.g.beginAt d s.dt }) := by
  refine does_lock { sw := [d.toNat] } (folds := fun _ => []) (execLkBegin.eq_def h d) fun s sp hidle => ⟨hidle, rfl, ?_⟩
  exact congrArg (fun g => ({ s.open_ with g := g } : State).still) (beginAt_eq s.open_.g d s.open_.dt)

/-! ## LK.REL and LK.END (R252, R283) -/

/-- A group's release of locks on its way to their slices, outstanding until every slice has confirmed (R252, R283). -/
def State.startRelease (s : State) (sp : Split) : State := s.addRelease.markLock.owes sp [] [] 0 .other

/-- Whether the protocol forbids LK.REL of the lock that register a names: it is no lock, not held, or an ancestor of one that is held (R270). -/
def State.relForbidden (s : State) (a : BitVec 6) : Prop :=
  s.validLock s.g.ctx (s.g.rs a.toNat) = false ∨ s.g.holds (s.g.rs a.toNat) = none ∨
    ∃ x ∈ s.g.lset, (s.ancestors s.g.ctx x.name).contains (s.g.rs a.toNat) = true

/-- The body of LK.REL. -/
def relBody (a : BitVec 6) (sp : Split) (s : State) : State × Fate :=
  let n := s.g.rs a.toNat
  if !s.validLock s.g.ctx n || (s.g.holds n).isNone || s.g.lset.any (fun x => (s.ancestors s.g.ctx x.name).contains n) then protocolTrap s sp n
  else ({ s.startRelease sp with g := { (s.startRelease sp).g with lrel := [n] } }, .fall)

theorem relBody_eq (a : BitVec 6) (sp : Split) (s : State) [Decidable (s.relForbidden a)] : relBody a sp s =
    if s.relForbidden a then protocolTrap s sp (s.g.rs a.toNat)
    else ({ s.startRelease sp with g := { (s.startRelease sp).g with lrel := [s.g.rs a.toNat] } }, .fall) := by
  unfold relBody
  refine if_congr ?_ rfl rfl
  simp only [State.relForbidden, Bool.or_eq_true, Bool.not_eq_true', Option.isNone_iff_eq_none, List.any_eq_true, or_assoc]

theorem relBody_of_forbidden {s : State} {a : BitVec 6} (hf : s.relForbidden a) (sp : Split) : relBody a sp s =
    (s, .trap (Trap.plain 0x0E sp.pc sp.pc sp.mask (s.g.rs a.toNat) s.dt)) := by
  classical
  rw [relBody_eq, if_pos hf]
  rfl

theorem exec_lkRel (h : Hdr) (a : BitVec 6) (s : State) : exec (.lkRel h a) s =
    lockIssue (.lkRel h a) h { lockUses [a.toNat] [] with folds := regFolds s.g [a.toNat] none } (relBody a) s := rfl

theorem does_lkRel (h : Hdr) (a : BitVec 6) :
    Does (.lkRel h a) (fun _ => (lockUses [a.toNat] []).lock) (guardOn h)
      (fun s _ => s.g.lockBusy = false ∧ s.validLock s.g.ctx (s.g.rs a.toNat) = true ∧ (s.g.holds (s.g.rs a.toNat)).isSome = true ∧
        ∀ x ∈ s.g.lset, (s.ancestors s.g.ctx x.name).contains (s.g.rs a.toNat) = false)
      (fun s sp => { s.startRelease sp with g := { (s.startRelease sp).g with lrel := [s.g.rs a.toNat] } }) := by
  classical
  refine does_lock (lockUses [a.toNat] []) (exec_lkRel h a) fun s sp ⟨hidle, hvalid, hheld, hbelow⟩ => ?_
  have hallowed : ¬ s.open_.relForbidden a := by
    rintro (hv | hn | ⟨x, hx, hc⟩)
    · exact Bool.false_ne_true (hv.symm.trans hvalid)
    · exact Option.isSome_iff_ne_none.mp hheld hn
    · exact Bool.false_ne_true ((hbelow x hx).symm.trans hc)
  rw [relBody_eq, if_neg hallowed]
  exact ⟨hidle, rfl, rfl⟩

theorem lset_startRelease (s : State) (sp : Split) : (s.startRelease sp).g.lset = s.g.lset := by
  simp only [State.startRelease, State.owes, State.markLock, State.addRelease, State.addFence]

/-- The body of LK.END. -/
def endBody (sp : Split) (s : State) : State × Fate :=
  ({ s.startRelease sp with g := { (s.startRelease sp).g with lrel := (s.startRelease sp).g.lset.map (fun x => x.name), lend := true } }, .fall)

theorem exec_lkEnd (h : Hdr) (s : State) : exec (.lkEnd h) s = lockIssue (.lkEnd h) h { lockUses [] [] with folds := [] } endBody s := rfl

theorem does_lkEnd (h : Hdr) : Does (.lkEnd h) (fun _ => (lockUses [] []).lock) (guardOn h)
    (fun s _ => s.g.lockBusy = false)
    (fun s sp => { s.startRelease sp with g := { (s.startRelease sp).g with lrel := s.g.lset.map (fun x => x.name), lend := true } }) := by
  refine does_lock (lockUses [] []) (folds := fun _ => []) (exec_lkEnd h) fun s sp hidle => ⟨hidle, rfl, ?_⟩
  rw [endBody, lset_startRelease]

/-! ## LK.QRY (R284) -/

/-- The body of LK.QRY. -/
def qryBody (d a : BitVec 6) (sp : Split) (s : State) : State × Fate :=
  if !s.validLock s.g.ctx (s.g.rs a.toNat) then protocolTrap s sp (s.g.rs a.toNat)
  else lockStatus sp d.toNat (s.lockQuery s.g (s.g.rs a.toNat)) s

theorem exec_lkQry (h : Hdr) (d a : BitVec 6) (s : State) : exec (.lkQry h d a) s =
    lockIssue (.lkQry h d a) h { lockUses [a.toNat] [d.toNat] with folds := regFolds s.g [a.toNat] none }
      (qryBody d a) s := rfl

theorem qryBody_of_valid {s : State} {a : BitVec 6} (hvalid : s.validLock s.g.ctx (s.g.rs a.toNat) = true) (d : BitVec 6) (sp : Split) :
    qryBody d a sp s = lockStatus sp d.toNat (s.lockQuery s.g (s.g.rs a.toNat)) s := by
  rw [qryBody, hvalid, Bool.not_true, if_neg Bool.false_ne_true]

theorem qryBody_of_invalid {s : State} {a : BitVec 6} (hinvalid : s.validLock s.g.ctx (s.g.rs a.toNat) = false) (d : BitVec 6) (sp : Split) :
    qryBody d a sp s = (s, .trap (Trap.plain 0x0E sp.pc sp.pc sp.mask (s.g.rs a.toNat) s.dt)) := by
  rw [qryBody, hinvalid, Bool.not_false, if_pos rfl]
  rfl

theorem does_lkQry (h : Hdr) (d a : BitVec 6) :
    Does (.lkQry h d a) (fun _ => (lockUses [a.toNat] [d.toNat]).lock) (guardOn h)
      (fun s _ => s.g.lockBusy = false ∧ s.validLock s.g.ctx (s.g.rs a.toNat) = true)
      (fun s sp => s.markLock.owes sp [] [(d.toNat, s.lockQuery s.g (s.g.rs a.toNat))] 0 .nothing) := by
  refine does_lock (lockUses [a.toNat] [d.toNat]) (exec_lkQry h d a) fun s sp ⟨hidle, hvalid⟩ => ?_
  rw [qryBody_of_valid (s := s.open_) hvalid]
  exact ⟨hidle, rfl, still_lockStatus ..⟩

/-! ## LK.DEF (R281) -/

/-- The group's outstanding lock instruction is no part of what the caches hold. -/
theorem cacheUsed_markLock (s : State) (tile : Nat) (acc : Bool) : s.markLock.cacheUsed tile acc = s.cacheUsed tile acc := by
  have hgroups : (s.markLock.cacheGroups tile).map (fun g => g.cached acc) = (s.cacheGroups tile).map (fun g => g.cached acc) := by
    simp only [State.cacheGroups, State.groups, State.markLock, List.filter_cons]
    split <;> rfl
  rw [State.cacheUsed, State.cacheUsed, hgroups]

theorem entryFree_markLock (s : State) : s.markLock.entryFree = s.entryFree := by
  simp only [State.entryFree, cacheUsed_markLock]
  rfl

/-- What LK.DEF holds in the operand log: the read of its descriptor. -/
def defHeldAs (s : State) (d b : BitVec 6) : Held :=
  { kind := .lkDef d.toNat (s.g.rs b.toNat), space := .glob, size := 32, uni := true }

/-- The body of LK.DEF. -/
def defBody (h : Hdr) (d a b : BitVec 6) (sp : Split) (s : State) : State × Fate :=
  let num := (s.g.rs b.toNat).toNat
  if 4095 < num then lockStatus sp d.toNat 2 s
  else if s.g.rs a.toNat = 0 then
    if s.defHeld (s.req s.g) num none then (s, .wait)
    else lockStatus sp d.toNat (BitVec.ofNat 64 (s.undefine (s.req s.g) num).1) (s.undefine (s.req s.g) num).2
  else s.markLock.hold (.lkDef h d a b) sp sp.mask
    { defHeldAs s d b with kind := .lkDef d.toNat (BitVec.ofNat 64 num) } [laneAt 0 (s.g.rs a.toNat) none]

theorem exec_lkDef (h : Hdr) (d a b : BitVec 6) (s : State) : exec (.lkDef h d a b) s =
    lockIssue (.lkDef h d a b) h { lockUses [a.toNat, b.toNat] [d.toNat] with folds := regFolds s.g [a.toNat, b.toNat] none }
      (defBody h d a b) s := rfl

section
variable {s : State} {a b : BitVec 6}

theorem defBody_of_past (hpast : 4095 < (s.g.rs b.toNat).toNat) (h : Hdr) (d : BitVec 6) (sp : Split) :
    defBody h d a b sp s = lockStatus sp d.toNat 2 s := if_pos hpast

theorem defBody_of_address (hnum : (s.g.rs b.toNat).toNat ≤ 4095) (haddr : s.g.rs a.toNat ≠ 0) (h : Hdr) (d : BitVec 6) (sp : Split) :
    defBody h d a b sp s = s.markLock.hold (.lkDef h d a b) sp sp.mask (defHeldAs s d b) [laneAt 0 (s.g.rs a.toNat) none] := by
  rw [defBody, if_neg (Nat.not_lt.mpr hnum), if_neg haddr, BitVec.ofNat_toNat, BitVec.setWidth_eq]
  rfl

theorem defBody_of_zero (hnum : (s.g.rs b.toNat).toNat ≤ 4095) (haddr : s.g.rs a.toNat = 0)
    (hready : s.defHeld (s.req s.g) (s.g.rs b.toNat).toNat none = false) (h : Hdr) (d : BitVec 6) (sp : Split) :
    defBody h d a b sp s = lockStatus sp d.toNat (BitVec.ofNat 64 (s.undefine (s.req s.g) (s.g.rs b.toNat).toNat).1)
      (s.undefine (s.req s.g) (s.g.rs b.toNat).toNat).2 := by
  rw [defBody, if_neg (Nat.not_lt.mpr hnum), if_pos haddr, hready, if_neg Bool.false_ne_true]

end

theorem undefine_of_busy {s : State} {q : Req} {num : Nat} (hbusy : s.domainBusy q.ctx num = true) : s.undefine q num = (1, s) := if_pos hbusy

/-- A domain without a lock held or requested is undefined, and every other domain stays (R281). -/
theorem undefine_of_free {s : State} {q : Req} {num : Nat} (hfree : s.domainBusy q.ctx num = false) : (s.undefine q num).1 = 0 ∧
    ∀ x, x ∈ (s.undefine q num).2.domains ↔ x ∈ s.domains ∧ ¬ (x.ctx = q.ctx ∧ x.num = num) := by
  rw [State.undefine, hfree, if_neg Bool.false_ne_true]
  exact ⟨rfl, fun x => by simp [List.mem_filter, imp_iff_not_or]⟩

section
variable (h : Hdr) (d a b : BitVec 6)

theorem does_lkDef_held :
    Does (.lkDef h d a b) (fun _ => (lockUses [a.toNat, b.toNat] [d.toNat]).lock) (guardOn h)
      (fun s _ => s.g.lockBusy = false ∧ (s.g.rs b.toNat).toNat ≤ 4095 ∧ s.g.rs a.toNat ≠ 0 ∧ s.entryFree = true)
      (fun s sp => s.markLock.withEntry (.lkDef h d a b) sp sp.mask (defHeldAs s d b) [laneAt 0 (s.g.rs a.toNat) none]) := by
  refine does_lock (lockUses [a.toNat, b.toNat] [d.toNat]) (exec_lkDef h d a b)
    fun s sp ⟨hidle, hnum, haddr, hfree⟩ => ⟨hidle, ?_⟩
  rw [defBody_of_address (s := s.open_) hnum haddr]
  exact hold_entry ((entryFree_markLock _).trans ((open_entryFree s).trans hfree)) ..

theorem does_lkDef_past :
    Does (.lkDef h d a b) (fun _ => (lockUses [a.toNat, b.toNat] [d.toNat]).lock) (guardOn h)
      (fun s _ => s.g.lockBusy = false ∧ 4095 < (s.g.rs b.toNat).toNat) (fun s sp => s.markLock.owes sp [] [(d.toNat, 2)] 0 .nothing) := by
  refine does_lock (lockUses [a.toNat, b.toNat] [d.toNat]) (exec_lkDef h d a b)
    fun s sp ⟨hidle, hpast⟩ => ⟨hidle, ?_⟩
  rw [defBody_of_past (s := s.open_) hpast]
  exact ⟨rfl, still_lockStatus ..⟩

/-- The status of an LK.DEF of address 0: 1 where a lock of the domain is held or requested, else 0 with the domain undefined (R281). -/
def State.undefines (s : State) (sp : Split) (d : BitVec 6) (num : Nat) : State :=
  if s.domainBusy s.g.ctx num = true then s.markLock.owes sp [] [(d.toNat, 1)] 0 .nothing
  else (s.undefine (s.req s.g) num).2.markLock.owes sp [] [(d.toNat, 0)] 0 .nothing

theorem still_undefines (s : State) (sp : Split) (d : BitVec 6) (num : Nat) :
    (lockStatus sp d.toNat (BitVec.ofNat 64 (s.undefine (s.req s.g) num).1) (s.undefine (s.req s.g) num).2).1.still =
      (s.undefines sp d num).still := by
  rw [still_lockStatus, State.undefines]
  by_cases hbusy : s.domainBusy s.g.ctx num = true
  · rw [if_pos hbusy, undefine_of_busy hbusy]
    rfl
  · rw [if_neg hbusy, (undefine_of_free (Bool.eq_false_iff.mpr hbusy)).1]
    rfl

theorem does_lkDef_undefines :
    Does (.lkDef h d a b) (fun _ => (lockUses [a.toNat, b.toNat] [d.toNat]).lock) (guardOn h)
      (fun s _ => s.g.lockBusy = false ∧ (s.g.rs b.toNat).toNat ≤ 4095 ∧ s.g.rs a.toNat = 0 ∧
        s.defHeld (s.req s.g) (s.g.rs b.toNat).toNat none = false)
      (fun s sp => s.undefines sp d (s.g.rs b.toNat).toNat) := by
  refine does_lock (lockUses [a.toNat, b.toNat] [d.toNat]) (exec_lkDef h d a b)
    fun s sp ⟨hidle, hnum, haddr, hready⟩ => ⟨hidle, ?_⟩
  have hready : s.open_.defHeld (s.open_.req s.open_.g) (s.open_.g.rs b.toNat).toNat none = false := (open_defHeld s _ _).trans hready
  rw [defBody_of_zero (s := s.open_) hnum haddr hready]
  exact ⟨rfl, still_undefines s.open_ sp d _⟩

end

/-- Settles O37: each instruction's own body past the check of R269 (`does_lock`, `parks_lock`, `traps_lock`); the checks that LK.ACQ, LK.UPG and
LK.TRY share are `askBody`, the room that LK.ACQ and LK.TRY need is `roomBody`. -/
theorem lockInstructions : Obligations.LockInstructions := by
  refine ⟨fun h d a b mode sc => ⟨does_lkBegin h d, parks_lkAcq h a mode sc, parks_lkUpg h a mode sc, does_lkTry_of_room h d a mode sc,
    does_lkTry_of_full h d a mode sc, does_lkRel h a, does_lkEnd h, does_lkQry h d a, does_lkDef_held h d a b, does_lkDef_past h d a b,
    does_lkDef_undefines h d a b⟩, fun s q num hfree => undefine_of_free hfree,
    fun h d a mode sc s sp => ⟨?acq, ?try_, ?upg, ?rel, ?qry, ?full⟩⟩
  case acq => exact traps_ask (lockUses [a.toNat] []) (exec_lkAcq h a mode sc s)
  case try_ => exact traps_ask (lockUses [a.toNat] [d.toNat]) (exec_lkTry h d a mode sc s)
  case upg => exact traps_ask (lockUses [a.toNat] []) (exec_lkUpg h a mode sc s)
  case rel =>
    exact fun hgo hforbidden =>
      traps_lock (lockUses [a.toNat] []) (exec_lkRel h a s) hgo (by decide) (relBody_of_forbidden (s := s.open_) hforbidden sp)
  case qry =>
    exact fun hgo hinvalid =>
      traps_lock (lockUses [a.toNat] [d.toNat]) (exec_lkQry h d a s) hgo (by decide) (qryBody_of_invalid (s := s.open_) hinvalid d sp)
  case full =>
    rintro ⟨hc, hg, hn, hidle⟩ hscope hkept hgoes hsame hfull
    refine traps_lkAcq_of_full h a mode sc ⟨hc, hg, hn, hidle⟩ ⟨hidle, hscope, hkept, hgoes⟩ hsame fun ⟨hset, hpool⟩ => ?_
    obtain hset' | hpool' := hfull
    · exact Nat.not_lt.mpr hset' hset
    · exact Bool.false_ne_true (hpool'.symm.trans ((congrArg (fun t : State => t.poolHas _) hsame).symm.trans hpool))

end Sys2Proof.Machine
end

section
/-! Locks at their slices: requests, grants, releases and wounds as they arrive (10 R271, R272, R274, R275, R278, R282, R283). -/

namespace Sys2Proof.Machine

/-! ## LOCK_REQUEST_ARRIVE (R271, R278, R282) -/

section
variable {s s1 : State} {gid die : Nat} {g : Group} {r : LockReq} (hg : s.group gid = some g) (hr : g.lreq = some r) (hnew : r.arrived = false)
  (hheld : s.requestHeld g r = false) (hdie : s.lockDie g r.name = (die, s1))
include hg hr hnew hheld hdie

theorem execLockRequestArrive_of_admits (hadmits : s1.admits g.ctx r.name gid r.mode (s1.waiters g.ctx r.name) = true) :
    execLockRequestArrive gid s = .next (s1.grantRequest g r die) := by
  simp [execLockRequestArrive, hg, hr, hnew, hheld, hdie, hadmits]

theorem execLockRequestArrive_of_queued (hstands : s1.admits g.ctx r.name gid r.mode (s1.waiters g.ctx r.name) = false) (htry : r.try_ = none) :
    execLockRequestArrive gid s = .next (s1.queueRequest g r die) := by
  simp [execLockRequestArrive, hg, hr, hnew, hheld, hdie, hstands, htry]

theorem execLockRequestArrive_of_try {d : Nat} (hstands : s1.admits g.ctx r.name gid r.mode (s1.waiters g.ctx r.name) = false)
    (htry : r.try_ = some d) : execLockRequestArrive gid s = .next (s1.turnAway g r d) := by
  simp [execLockRequestArrive, hg, hr, hnew, hheld, hdie, hstands, htry]

end

/-- A new request of the focus granted: its record at the slice, and the grant on its way (R271). -/
theorem grantRequest_of_new {r : LockReq} (hu : r.upg = false) (s : State) (die : Nat) : s.grantRequest s.g r die =
    { s with
      locks := s.locks ++ [⟨s.g.ctx, r.name, s.g.gid, true, r.mode, none, die⟩]
      g := { s.g with lreq := some { r with arrived := true, granted := true } } } := by
  rw [State.grantRequest, hu, if_neg Bool.false_ne_true]
  exact modGroup_self _ _

/-- A new request of the focus that waits: its record at the slice, and its wounds on their way (R271). -/
theorem queueRequest_of_new {r : LockReq} (hu : r.upg = false) (s : State) (die : Nat) : s.queueRequest s.g r die =
    ({ s with
      locks := s.locks ++ [⟨s.g.ctx, r.name, s.g.gid, false, r.mode, none, die⟩]
      g := { s.g with lreq := some { r with arrived := true, granted := false } } } : State).sendWounds s.g r.name r.mode := by
  rw [State.queueRequest, hu, if_neg Bool.false_ne_true]
  exact congrArg (fun t : State => t.sendWounds s.g r.name r.mode) (modGroup_self _ _)

/-! ## LOCK_GRANT_ARRIVE (R282, R286) -/

theorem execLockGrantArrive_of_granted {s : State} {gid : Nat} {g : Group} {r : LockReq} (hg : s.group gid = some g) (hr : g.lreq = some r)
    (hgranted : r.granted = true) (ht : (s.tile g.tile).trans = none) : execLockGrantArrive gid s = .next (s.takeGrant g r) := by
  simp [execLockGrantArrive, hg, hr, hgranted, ht]

/-- A group that a new lock enters (R282). -/
def Group.takeLock (g : Group) (r : LockReq) : Group := { g with lreq := none, lset := g.lset ++ [⟨r.name, r.mode, none⟩] }

theorem mem_logVals (s : State) (g : Group) (n : Nat) (l : List (Nat × W64)) : (s.logVals g n l).mem = s.mem := by
  obtain ⟨ts, h⟩ := logVals_teams s g n l
  rw [h]

theorem mem_modGroup (s : State) (gid : Nat) (f : Group → Group) : (s.modGroup gid f).mem = s.mem := by
  obtain ⟨g, os, h⟩ := modGroup_rest s gid f
  rw [h]

/-- A grant of a lock that a split of the focus waits for: the lock set takes it, and the split goes on (R282). -/
theorem takeGrant_of_waiting {s : State} {r : LockReq} (hu : r.upg = false) (htry : r.try_ = none) :
    (s.takeGrant s.g r).g = (s.g.takeLock r).wakeNext r.slot s.clock ∧ (s.takeGrant s.g r).mem = s.mem := by
  have hself : s.modGroup s.g.gid (fun g => { g with
      lreq := none
      lset := if r.upg then g.lset.map (fun (x : LockHold) => if x.name = r.name then { x with mode := r.mode, upg := none } else x)
        else g.lset ++ [(⟨r.name, r.mode, none⟩ : LockHold)] }) = { s with g := s.g.takeLock r } := by
    rw [modGroup_self, hu, if_neg Bool.false_ne_true]
    rfl
  unfold State.takeGrant
  simp only [hself, htry]
  refine ⟨(State.g_logVals _ _ _ _).trans ?_, (mem_logVals _ _ _ _).trans (mem_modGroup _ _ _)⟩
  exact congrArg State.g (modGroup_self (({ s with g := s.g.takeLock r } : State).l1Flush s.g.tile) _)

/-- A group whose grant has come, with the split that waited for it (R282). -/
theorem split_takeGrant {s : State} {r : LockReq} {sp : Split} (hu : r.upg = false) (htry : r.try_ = none) (hsp : s.g.split r.slot = some sp) :
    (s.takeGrant s.g r).g.lreq = none ∧ (s.takeGrant s.g r).g.lset = s.g.lset ++ [⟨r.name, r.mode, none⟩] ∧
      (s.takeGrant s.g r).g.split r.slot = some (sp.woken s.clock) := by
  obtain ⟨l, hl⟩ := wakeNext_rest (s.g.takeLock r) r.slot s.clock
  have hsplit : ((s.g.takeLock r).wakeNext r.slot s.clock).split r.slot = some (sp.woken s.clock) :=
    split_wakeNext (g := s.g.takeLock r) hsp s.clock
  rw [(takeGrant_of_waiting hu htry).1]
  exact ⟨by rw [hl]; rfl, by rw [hl]; rfl, hsplit⟩

/-! ## LOCK_RELEASE_ARRIVE (R272, R276, R283) -/

theorem anyGroup_self (s : State) : s.anyGroup s.g.gid = some s.g := by simp [State.anyGroup, State.groups]

theorem execLockReleaseArrive_of_releases {s : State} {gid : Nat} {g : Group} (hg : s.anyGroup gid = some g) (hrel : s.releases g = true) :
    execLockReleaseArrive gid s = .next (s.releaseLocks g) := by
  simp [execLockReleaseArrive, hg, hrel]

/-- A live group's release leaves: its earlier stores are performed and acknowledged, and every slice is reached (R252; log entry 123). -/
theorem releases_of_live {s : State} {n : W64} (hl : s.g.live = true) (hrel : s.g.lrel = [n])
    (hstores : s.g.storesBefore (s.g.lockSeq.getD s.g.seq) = false) (hacks : s.g.acks = 0)
    (hreach : ∀ x ∈ s.locks, x.gid = s.g.gid → x.name = n → s.lockReaches s.g x.die = true) : s.releases s.g = true := by
  have hall : s.locks.all (fun x => decide (x.gid ≠ s.g.gid) || !s.g.lrel.contains x.name || s.lockReaches s.g x.die) = true := by
    refine List.all_eq_true.mpr fun x hx => ?_
    by_cases hid : x.gid = s.g.gid <;> by_cases hname : x.name = n
    · simp [hreach x hx hid hname]
    · simp [hrel, hname]
    · simp [hid]
    · simp [hid]
  have hseq : s.g.releaseSeq = s.g.lockSeq.getD s.g.seq := if_pos hl
  rw [State.releases, hall, hseq, hstores, hacks, hl, hrel]
  rfl

/-- Whose record it is at a slice, and of which lock. -/
def LockRec.owner (r : LockRec) : Nat × W64 × Nat := (r.ctx, r.name, r.gid)

/-- What the scans of queues keep: memory, the focus with its lock set, and whose records stand at the slices (R272). -/
def State.outsideScan (s : State) : Sparse Byte × Nat × List LockHold × List (Nat × W64 × Nat) :=
  (s.mem, s.g.gid, s.g.lset, s.locks.map LockRec.owner)

section
variable (ctx : Nat) (n : W64)

theorem outsideScan_grantRec (s : State) (gid mode : Nat) : (s.grantRec ctx n gid mode).outsideScan = s.outsideScan := by
  have howner : (s.locks.map (fun r => if r.ctx = ctx && decide (r.name = n) && decide (r.gid = gid) then
      { r with held := true, mode := mode, upg := none } else r)).map LockRec.owner = s.locks.map LockRec.owner := by
    rw [List.map_map]
    refine List.map_congr_left fun r _ => ?_
    simp only [Function.comp]
    split <;> rfl
  unfold State.grantRec State.modGroup
  dsimp only
  split <;> exact congrArg (fun l => (s.mem, s.g.gid, s.g.lset, l)) howner

theorem outsideScan_scanList (ws : List (Nat × Nat)) : ∀ (s : State) (left : List (Nat × Nat)),
    (State.scanList ctx n ws s left).outsideScan = s.outsideScan := by
  induction ws with
  | nil => exact fun _ _ => rfl
  | cons w rest ih =>
    intro s left
    rw [State.scanList]
    split
    · rw [ih, outsideScan_grantRec]
    · rw [ih]

/-- A record freed leaves its slice, and the scan that follows keeps the others' (R272). -/
theorem outsideScan_freeRec (s : State) (gid : Nat) : (s.freeRec ctx gid n).outsideScan =
    (s.mem, s.g.gid, s.g.lset, (s.locks.filter (fun r => !(decide (r.ctx = ctx) && decide (r.name = n) && decide (r.gid = gid)))).map LockRec.owner) :=
  outsideScan_scanList ctx n _ _ _

theorem not_mem_freeRec (s : State) (gid : Nat) {x : LockRec} (hx : x ∈ (s.freeRec ctx gid n).locks) :
    ¬ (x.ctx = ctx ∧ x.name = n ∧ x.gid = gid) := by
  have howners : (s.freeRec ctx gid n).locks.map LockRec.owner = _ := congrArg (fun v => v.2.2.2) (outsideScan_freeRec ctx n s gid)
  have hmem : x.owner ∈ (s.freeRec ctx gid n).locks.map LockRec.owner := List.mem_map_of_mem hx
  rw [howners] at hmem
  obtain ⟨y, hy, hxy⟩ := List.mem_map.mp hmem
  simp only [LockRec.owner, Prod.mk.injEq] at hxy
  obtain ⟨hctx, hname, hgid⟩ := hxy
  obtain ⟨-, hkeep⟩ := List.mem_filter.mp hy
  rintro ⟨rfl, rfl, rfl⟩
  simp [hctx, hname, hgid] at hkeep

end

/-- Values that come to be known change no memory, no lock, and nothing of what a group holds. -/
theorem rest_resolve (s : State) (gid seq : Nat) (vw : List (Nat × W32)) (sw : List (Nat × W64)) (flags : BitVec 5) (b : Bool) :
    (s.resolve gid seq vw sw flags b).mem = s.mem ∧ (s.resolve gid seq vw sw flags b).locks = s.locks ∧
      (s.resolve gid seq vw sw flags b).g.lset = s.g.lset ∧ (s.resolve gid seq vw sw flags b).g.lrel = s.g.lrel := by
  obtain h | ⟨ts, h⟩ := resolve_cases s gid seq vw sw flags b <;> rw [h]
  · exact ⟨rfl, rfl, rfl, rfl⟩
  · have hset := modGroup_field (f := fun g => g.know seq vw sw flags) Group.lset (fun _ => rfl) s gid
    have hrel := modGroup_field (f := fun g => g.know seq vw sw flags) Group.lrel (fun _ => rfl) s gid
    obtain ⟨g, os, hrest⟩ := modGroup_rest s gid (fun g => g.know seq vw sw flags)
    exact ⟨(congrArg State.mem hrest :), (congrArg State.locks hrest :), hset, hrel⟩

/-- LK.REL's lock gone from its slice and from the focus's lock set (R283). -/
theorem releaseLocks_of_one {s : State} {n : W64} (hrel : s.g.lrel = [n]) (hend : s.g.lend = false) :
    (s.releaseLocks s.g).g.lrel = [] ∧ (s.releaseLocks s.g).g.lset = s.g.lset.filter (fun l => !([n].contains l.name)) ∧
      (∀ x ∈ (s.releaseLocks s.g).locks, ¬ (x.ctx = s.g.ctx ∧ x.name = n ∧ x.gid = s.g.gid)) ∧ (s.releaseLocks s.g).mem = s.mem := by
  have hscan := outsideScan_freeRec s.g.ctx n s s.g.gid
  simp only [State.outsideScan, Prod.mk.injEq] at hscan
  obtain ⟨hmem, hgid, hset, -⟩ := hscan
  have hfreed : ∀ x ∈ (s.freeRec s.g.ctx s.g.gid n).locks, _ := fun x hx => not_mem_freeRec s.g.ctx n s s.g.gid hx
  unfold State.releaseLocks
  rw [hrel, hend, List.foldl_cons, List.foldl_nil]
  generalize s.freeRec s.g.ctx s.g.gid n = t at hmem hgid hset hfreed
  dsimp only
  rw [← hgid] at hfreed ⊢
  rw [modGroup_self]
  obtain ⟨hm, hk, hs, hr⟩ := rest_resolve ({ t with g := { t.g with
    lset := t.g.lset.filter (fun l => !([n].contains l.name)), lrel := [], lend := false } }) t.g.gid s.g.releaseSeq [] [] 0 true
  exact ⟨hr, hs.trans (congrArg _ hset), fun x hx => hfreed x (hk ▸ hx), hm.trans hmem⟩

/-! ## WOUND_ARRIVE (R274, R275) -/

section
variable {s : State} {gid : Nat} {g : Group} {m : WoundMsg} {rest : List WoundMsg} (hg : s.group gid = some g) (hm : s.woundMsgs = m :: rest)
  (hgid : m.gid = gid)
include hg hm hgid

theorem execWoundArrive_of_goes (hgoes : g.ending = false) (ht : (s.tile g.tile).trans = none) :
    execWoundArrive gid s = .next (({ s with woundMsgs := rest } : State).takeWound g m) := by
  have hg : ({ s with woundMsgs := rest } : State).group gid = some g := hg
  simp [execWoundArrive, List.findIdx?_cons, hm, hgid, hg, hgoes, ht]

theorem execWoundArrive_of_ending (hends : g.ending = true) : execWoundArrive gid s = .next { s with woundMsgs := rest } := by
  have hg : ({ s with woundMsgs := rest } : State).group gid = some g := hg
  simp [execWoundArrive, List.findIdx?_cons, hm, hgid, hg, hends]

end

/-- A group that a wound has reached (R274, R275). -/
def Group.wound (g : Group) (m : WoundMsg) : Group := { g with wounds := g.wounds ++ [⟨m.name, m.dt⟩], lkStop := g.lkStop || g.inh }

/-- A group without a request has none to withdraw (R274, R275). -/
theorem withdraw_of_none {s : State} (hl : s.g.live = true) (hr : s.g.lreq = none) : s.withdraw s.g.gid = s ∧ s.withdrawOn s.g.gid = s := by
  simp [State.withdraw, State.withdrawOn, group_self hl, hr]

/-- A plain group without a request records its wound, and nothing more (R274). -/
theorem takeWound_of_plain {s : State} (hl : s.g.live = true) (hr : s.g.lreq = none) (hp : s.g.role = .plain) (m : WoundMsg) :
    s.takeWound s.g m = { s with g := s.g.wound m } := by
  have hrecord : s.modGroup s.g.gid (fun g => { g with wounds := g.wounds ++ [⟨m.name, m.dt⟩], lkStop := g.lkStop || g.inh }) =
      { s with g := s.g.wound m } := modGroup_self _ _
  obtain ⟨hw, hon⟩ := withdraw_of_none (s := { s with g := s.g.wound m }) hl hr
  have hw : State.withdraw { s with g := s.g.wound m } s.g.gid = { s with g := s.g.wound m } := hw
  have hon : State.withdrawOn { s with g := s.g.wound m } s.g.gid = { s with g := s.g.wound m } := hon
  simp [State.takeWound, hrecord, hw, hon, hp]

/-- Settles O52: each step by what it meets at the slice (`execLockRequestArrive_of_admits` and the like), then what it leaves, for a group in the
focus (`grantRequest_of_new`, `queueRequest_of_new`, `split_takeGrant`, `releaseLocks_of_one`, `takeWound_of_plain`).  One release frees all the locks
that its group gives up (log entry 42). -/
theorem lockSteps : Obligations.LockSteps := by
  refine ⟨?requests, fun s gid g hg hrel => execLockReleaseArrive_of_releases hg hrel, ?wounds, ?granted, ?queued, ?taken, ?released, ?wounded⟩
  case requests =>
    intro s gid g r hg hr
    refine ⟨fun hnew hheld => ⟨fun hadmits => ?_, fun hstands => ⟨fun htry => ?_, fun d htry => ?_⟩⟩, fun hgranted ht => ?_⟩
    · exact execLockRequestArrive_of_admits hg hr hnew hheld rfl hadmits
    · exact execLockRequestArrive_of_queued hg hr hnew hheld rfl hstands htry
    · exact execLockRequestArrive_of_try hg hr hnew hheld rfl hstands htry
    · exact execLockGrantArrive_of_granted hg hr hgranted ht
  case wounds =>
    exact fun s gid g m rest hg hm hgid =>
      ⟨fun hgoes ht => execWoundArrive_of_goes hg hm hgid hgoes ht, fun hends => execWoundArrive_of_ending hg hm hgid hends⟩
  case granted =>
    intro s r hl hr hnew hu hheld die hsame hadmits
    have hdie : s.lockDie s.g r.name = (die, s) := Prod.ext rfl hsame
    refine ⟨_, execLockRequestArrive_of_admits (group_self hl) hr hnew hheld hdie hadmits, ?_⟩
    rw [grantRequest_of_new hu]
    exact ⟨rfl, rfl, rfl⟩
  case queued =>
    intro s r hl hr hnew hu htry hheld hsame hstands
    have hdie : s.lockDie s.g r.name = ((s.lockDie s.g r.name).1, s) := Prod.ext rfl hsame
    refine ⟨_, execLockRequestArrive_of_queued (group_self hl) hr hnew hheld hdie hstands htry, ?_⟩
    rw [queueRequest_of_new hu]
    exact ⟨rfl, fun x hx => List.mem_append_left _ hx, rfl⟩
  case taken =>
    intro s r sp hl hr hgranted hu htry ht hsp
    obtain ⟨hreq, hset, hsplit⟩ := split_takeGrant hu htry hsp
    exact ⟨_, _, execLockGrantArrive_of_granted (group_self hl) hr hgranted ht, hreq, hset, hsplit, rfl, rfl, (takeGrant_of_waiting hu htry).2⟩
  case released =>
    intro s n hl hrel hend hstores hacks hreach
    exact ⟨_, execLockReleaseArrive_of_releases (anyGroup_self s) (releases_of_live hl hrel hstores hacks hreach), releaseLocks_of_one hrel hend⟩
  case wounded =>
    intro s m rest hl hgoes hr hp ht hm hgid
    refine ⟨_, execWoundArrive_of_goes (group_self hl) hm hgid hgoes ht, ?_⟩
    rw [takeWound_of_plain (s := { s with woundMsgs := rest }) hl hr hp]
    exact ⟨rfl, rfl, rfl, rfl⟩

end Sys2Proof.Machine
end

section
/-! The fields of the window's registers, and the registers of the window as they are read and written (15 R391, R393, R394). -/

namespace Sys2Proof.Machine

/-! ## Fields -/

theorem testBit_field (w : W64) (lo n j : Nat) : (field w lo n).testBit j = (decide (j < n) && w.getLsbD (lo + j)) := by
  rw [field, Nat.testBit_mod_two_pow, Nat.testBit_div_two_pow, BitVec.getLsbD, Nat.add_comm lo j]

theorem getLsbD_setField (w : W64) {lo n : Nat} (x : Nat) {i : Nat} (hi : i < 64) :
    (setField w lo n x).getLsbD i = if lo ≤ i ∧ i < lo + n then x.testBit (i - lo) else w.getLsbD i := by
  have hlow : w.toNat % 2 ^ lo < 2 ^ lo := Nat.mod_lt _ (Nat.two_pow_pos lo)
  have hsplit : w.toNat = 2 ^ lo * (2 ^ n * (w.toNat / 2 ^ lo / 2 ^ n) + w.toNat / 2 ^ lo % 2 ^ n) + w.toNat % 2 ^ lo := by
    rw [Nat.div_add_mod, Nat.div_add_mod]
  have hset : w.toNat - w.toNat / 2 ^ lo % 2 ^ n * 2 ^ lo + x % 2 ^ n * 2 ^ lo =
      2 ^ lo * (2 ^ n * (w.toNat / 2 ^ lo / 2 ^ n) + x % 2 ^ n) + w.toNat % 2 ^ lo := by
    have hmul : w.toNat / 2 ^ lo % 2 ^ n * 2 ^ lo = 2 ^ lo * (w.toNat / 2 ^ lo % 2 ^ n) := Nat.mul_comm _ _
    rw [Nat.mul_add] at hsplit
    rw [Nat.mul_add, Nat.mul_comm (x % 2 ^ n)]
    omega
  rw [setField, hset, BitVec.getLsbD_ofNat, decide_eq_true hi, Bool.true_and, Nat.testBit_two_pow_mul_add _ hlow,
    Nat.testBit_two_pow_mul_add _ (Nat.mod_lt _ (Nat.two_pow_pos n))]
  by_cases hbelow : i < lo
  · rw [if_pos hbelow, if_neg (by omega), Nat.testBit_mod_two_pow, decide_eq_true hbelow, Bool.true_and, BitVec.getLsbD]
  · rw [if_neg hbelow]
    by_cases hin : i - lo < n
    · rw [if_pos hin, if_pos (by omega), Nat.testBit_mod_two_pow, decide_eq_true hin, Bool.true_and]
    · rw [if_neg hin, if_neg (by omega), Nat.testBit_div_two_pow, Nat.testBit_div_two_pow, BitVec.getLsbD]
      congr 1
      omega

theorem field_setField_self (w : W64) {lo n : Nat} (x : Nat) (hn : lo + n ≤ 64) : field (setField w lo n x) lo n = x % 2 ^ n := by
  refine Nat.eq_of_testBit_eq fun j => ?_
  rw [testBit_field, Nat.testBit_mod_two_pow]
  by_cases hj : j < n
  · rw [getLsbD_setField w x (by omega), if_pos (by omega), Nat.add_sub_cancel_left]
  · simp [hj]

theorem field_setField_of_disjoint (w : W64) {lo n lo' n' : Nat} (x : Nat) (hd : lo' + n' ≤ lo ∨ lo + n ≤ lo') (hn' : lo' + n' ≤ 64) :
    field (setField w lo n x) lo' n' = field w lo' n' := by
  refine Nat.eq_of_testBit_eq fun j => ?_
  rw [testBit_field, testBit_field]
  by_cases hj : j < n'
  · rw [getLsbD_setField w x (by omega), if_neg (by omega)]
  · simp [hj]

/-! ## Registers of the window -/

@[simp] theorem winGet_winSet (s : State) (off off' : Nat) (x : W64) : (s.winSet off x).winGet off' = if off' = off then x else s.winGet off' :=
  mapGet_mapSet _ _ _ _ _

theorem ready_setReady (s : State) (n : Nat) (b : Bool) (k : Nat) : (s.setReady n b).ready k = if k = n then b else s.ready k := by
  unfold State.ready State.setReady
  rw [winGet_winSet]
  by_cases hword : k / 64 * 8 = n / 64 * 8
  · rw [if_pos hword, getLsbD_setField _ _ (by omega), hword]
    by_cases hk : k = n
    · subst hk
      rw [if_pos (by omega), if_pos rfl, Nat.sub_self]
      cases b <;> rfl
    · rw [if_neg (by omega), if_neg hk]
  · rw [if_neg hword, if_neg (by rintro rfl; exact hword rfl)]

/-! ## Tiles, cluster pairs, clusters and buckets -/

section
variable {α : Type} (key : α → Nat)

/-- The record of a number in a list, or a fresh one. -/
def keyed (fresh : Nat → α) (l : List α) (id : Nat) : α := (l.find? (fun t => decide (key t = id))).getD (fresh id)

/-- The list with the record of a number changed, or a changed fresh one put in. -/
def modKeyed (fresh : Nat → α) (l : List α) (id : Nat) (f : α → α) : List α :=
  if l.any (fun t => decide (key t = id)) = true then l.map (fun t => if key t = id then f t else t) else l ++ [f (fresh id)]

/-- A record read after a change that keeps its number. -/
theorem keyed_modKeyed {fresh : Nat → α} (hfresh : ∀ n, key (fresh n) = n) {f : α → α} (hf : ∀ t, key (f t) = key t) (l : List α) (id k : Nat) :
    keyed key fresh (modKeyed key fresh l id f) k = if k = id then f (keyed key fresh l id) else keyed key fresh l k := by
  have hkey : ((fun t => decide (key t = k)) ∘ fun t => if key t = id then f t else t) = fun t => decide (key t = k) := by
    funext t
    simp only [Function.comp]
    split
    · rw [hf]
    · rfl
  unfold keyed modKeyed
  by_cases hany : l.any (fun t => decide (key t = id)) = true
  · rw [if_pos hany, List.find?_map, hkey]
    obtain ⟨y, hy, hid⟩ := List.any_eq_true.mp hany
    cases hfind : l.find? (fun t => decide (key t = k)) with
    | none =>
      have hne : k ≠ id := fun hk => List.find?_eq_none.mp hfind y hy (hk ▸ hid)
      simp [hne]
    | some t =>
      have htk : key t = k := of_decide_eq_true (List.find?_some (p := fun t => decide (key t = k)) hfind)
      by_cases hk : k = id
      · subst hk
        simp [hfind, htk]
      · simp [hk, htk]
  · have hnone : l.find? (fun t => decide (key t = id)) = none :=
      List.find?_eq_none.mpr fun y hy hid => hany (List.any_eq_true.mpr ⟨y, hy, hid⟩)
    have hnew : key (f (fresh id)) = id := (hf _).trans (hfresh id)
    rw [if_neg hany, List.find?_append]
    by_cases hk : k = id
    · subst hk
      simp [hnone, hnew]
    · cases hfind : l.find? (fun t => decide (key t = k)) <;> simp [hnew, hk, Ne.symm hk]

end

theorem tiles_modTile (s : State) (id : Nat) (f : Tile → Tile) : (s.modTile id f).tiles = modKeyed Tile.id Tile.fresh s.tiles id f := by
  unfold State.modTile modKeyed
  split <;> rfl

theorem tile_eq_keyed (s : State) (id : Nat) : s.tile id = keyed Tile.id Tile.fresh s.tiles id := by
  unfold State.tile keyed
  cases s.tiles.find? (fun t => decide (t.id = id)) <;> rfl

theorem tile_modTile (s : State) (id : Nat) {f : Tile → Tile} (hf : ∀ t, (f t).id = t.id) (k : Nat) :
    (s.modTile id f).tile k = if k = id then f (s.tile id) else s.tile k := by
  simp only [tile_eq_keyed, tiles_modTile, keyed_modKeyed Tile.id (fresh := Tile.fresh) (fun _ => rfl) hf]

theorem pairs_modPair (s : State) (id : Nat) (f : Pair → Pair) : (s.modPair id f).pairs = modKeyed Pair.id Pair.fresh s.pairs id f := by
  unfold State.modPair modKeyed
  split <;> rfl

theorem pair_eq_keyed (s : State) (id : Nat) : s.pair id = keyed Pair.id Pair.fresh s.pairs id := by
  unfold State.pair keyed
  cases s.pairs.find? (fun t => decide (t.id = id)) <;> rfl

theorem pair_modPair (s : State) (id : Nat) {f : Pair → Pair} (hf : ∀ t, (f t).id = t.id) (k : Nat) :
    (s.modPair id f).pair k = if k = id then f (s.pair id) else s.pair k := by
  simp only [pair_eq_keyed, pairs_modPair, keyed_modKeyed Pair.id (fresh := Pair.fresh) (fun _ => rfl) hf]

theorem clus_modClu (s : State) (id : Nat) (f : Clu → Clu) : (s.modClu id f).clus = modKeyed Clu.id Clu.fresh s.clus id f := by
  unfold State.modClu modKeyed
  split <;> rfl

theorem clu_eq_keyed (s : State) (id : Nat) : s.clu id = keyed Clu.id Clu.fresh s.clus id := by
  unfold State.clu keyed
  cases s.clus.find? (fun t => decide (t.id = id)) <;> rfl

theorem clu_modClu (s : State) (id : Nat) {f : Clu → Clu} (hf : ∀ t, (f t).id = t.id) (k : Nat) :
    (s.modClu id f).clu k = if k = id then f (s.clu id) else s.clu k := by
  simp only [clu_eq_keyed, clus_modClu, keyed_modKeyed Clu.id (fresh := Clu.fresh) (fun _ => rfl) hf]

section
variable (s : State) (id : Nat)

theorem modTile_rest (f : Tile → Tile) : s.modTile id f = { s with tiles := (s.modTile id f).tiles } := by
  unfold State.modTile
  split <;> rfl

theorem modPair_rest (f : Pair → Pair) : s.modPair id f = { s with pairs := (s.modPair id f).pairs } := by
  unfold State.modPair
  split <;> rfl

theorem modClu_rest (f : Clu → Clu) : s.modClu id f = { s with clus := (s.modClu id f).clus } := by
  unfold State.modClu
  split <;> rfl

end

/-- A bucket read after one is written. -/
theorem bucket_setBucket (s : State) (b : Bucket) (kind unit : Nat) :
    (s.setBucket b).bucket kind unit = if kind = b.kind ∧ unit = b.unit then b else s.bucket kind unit := by
  unfold State.bucket State.setBucket
  by_cases hb : kind = b.kind ∧ unit = b.unit
  · obtain ⟨rfl, rfl⟩ := hb
    have hgone : (s.buckets.filter (fun x => !(decide (x.kind = b.kind) && decide (x.unit = b.unit)))).find?
        (fun x => decide (x.kind = b.kind) && decide (x.unit = b.unit)) = none := by
      rw [List.find?_filter]
      exact List.find?_eq_none.mpr fun x _ => by grind
    rw [List.find?_append, hgone]
    simp
  · have hkept : (s.buckets.filter (fun x => !(decide (x.kind = b.kind) && decide (x.unit = b.unit)))).find?
        (fun x => decide (x.kind = kind) && decide (x.unit = unit)) = s.buckets.find? (fun x => decide (x.kind = kind) && decide (x.unit = unit)) := by
      rw [List.find?_filter]
      congr 1
      funext x
      grind
    have hnew : ¬ (b.kind = kind ∧ b.unit = unit) := fun ⟨h1, h2⟩ => hb ⟨h1.symm, h2.symm⟩
    rw [if_neg hb, List.find?_append, hkept]
    cases s.buckets.find? (fun x => decide (x.kind = kind) && decide (x.unit = unit)) <;> simp [hnew]

end Sys2Proof.Machine
end

section
/-! A step takes the event at the head of the inputs, and a frozen package stays frozen (15 R408; log entries 3 and 4). -/

namespace Sys2Proof.Machine

/-- What an outcome goes on to is frozen. -/
def Out.Frozen (o : Out) : Prop := ∀ t, o = .next t → t.frozen = true

theorem Out.frozen_next {s : State} (h : s.frozen = true) : Out.Frozen (.next s) := by
  rintro t ⟨⟩
  exact h

@[simp] theorem frozen_answer (s : State) (n : Nat) (bs : List Byte) : (s.answer n bs).frozen = s.frozen := rfl

@[simp] theorem frozen_newRecord (s : State) : s.newRecord.frozen = s.frozen := rfl

@[simp] theorem frozen_setBucket (s : State) (b : Bucket) : (s.setBucket b).frozen = s.frozen := rfl

@[simp] theorem frozen_setReady (s : State) (n : Nat) (b : Bool) : (s.setReady n b).frozen = s.frozen := rfl

@[simp] theorem frozen_modTile (s : State) (id : Nat) (f : Tile → Tile) : (s.modTile id f).frozen = s.frozen := by
  unfold State.modTile
  split <;> rfl

/-- CLR_FENCE changes a tile, a bucket, the health record and the READY map. -/
theorem frozen_clrFence {s : State} (hs : s.frozen = true) (index : Nat) : Out.Frozen (execClrFence index s) := by
  unfold execClrFence
  split
  · exact Out.frozen_next hs
  · dsimp only
    split
    · refine Out.frozen_next ?_
      split <;> simp [hs]
    · exact Out.frozen_next hs

/-- Every management command but RESET leaves a frozen package frozen (R407, R408). -/
theorem frozen_exec_of_management {i : Instr} {s : State} (hi : isManagement i = true) (hr : i ≠ .reset) (hs : s.frozen = true) :
    Out.Frozen (exec i s) := by
  cases i with
  | getZhr =>
    refine Out.frozen_next ?_
    split <;> exact hs
  | getCert piece =>
    refine Out.frozen_next ?_
    split <;> exact hs
  | setCap seq cap lease rest =>
    show Out.Frozen (execSetCap seq cap lease rest s)
    unfold execSetCap
    repeat' split
    all_goals exact Out.frozen_next hs
  | freeze =>
    refine Out.frozen_next ?_
    split
    · rfl
    · exact hs
  | clrFence index => exact frozen_clrFence hs index
  | regRd off =>
    refine Out.frozen_next ?_
    rw [if_pos hs]
    split <;> exact hs
  | regWr off v =>
    refine Out.frozen_next ?_
    rw [if_pos hs]
    split <;> exact hs
  | scanRd chain off =>
    refine Out.frozen_next ?_
    rw [if_pos hs]
    split <;> exact hs
  | reset => exact absurd rfl hr
  | _ => cases hi

/-- Settles O5: what `step` does with the head of the inputs, and of the commands that a frozen package answers only RESET thaws it
(`frozen_exec_of_management`). -/
theorem stepTakesInput : Obligations.StepTakesInput := by
  refine ⟨fun s i rest hin => ⟨fun hf he => ?_, fun hf hm => ?_, fun hf hm => ?_⟩, fun s t hf hstep => ?_⟩
  · simp [step, hf, hin, he]
  · simp [step, hf, hin, hm]
  · simp [step, hf, hin, hm]
  · unfold step at hstep
    rw [if_pos hf] at hstep
    split at hstep
    next => cases hstep
    next i rest hin =>
      by_cases hm : isManagement i = true
      · rw [if_pos hm] at hstep
        by_cases hr : i = .reset
        · exact .inr ⟨rest, hr ▸ hin⟩
        · exact .inl (frozen_exec_of_management hm hr (s := { s with inputs := rest }) hf t hstep)
      · rw [if_neg hm] at hstep
        cases hstep
        exact .inl hf

end Sys2Proof.Machine
end

section
/-! The management commands (13 R361, R371; 14 R389; 15 R407, R408). -/

namespace Sys2Proof.Machine

variable {s : State}

/-! ## The health record and the certificate (R371, R407) -/

theorem execGetZhr_of_up (hup : s.portUp = true) :
    execGetZhr s = .next (s.newRecord.answer 0 (s.newRecord.zhrBody ++ s.newRecord.signature s.newRecord.zhrBody)) := by
  simp [execGetZhr, hup]

theorem take_zhrBody (s : State) (bs : List Byte) : (s.zhrBody ++ bs).take 4 = [0x5A, 0x48, 0x52, 0x31] := by
  unfold State.zhrBody
  simp only [List.append_assoc]
  rw [List.take_append_of_le_length (by simp)]
  rfl

theorem length_upFrom (a n : Nat) : (upFrom a n).length = n := by rw [upFrom_eq_range', List.length_range']

theorem execGetCert_of_up (hup : s.portUp = true) (piece : Nat) :
    ∃ bs, execGetCert piece s = .next (s.answer 0 bs) ∧ bs.length = min 1024 (Config.certLength - 1024 * piece) := by
  refine ⟨_, by rw [execGetCert, if_pos hup], ?_⟩
  rw [List.length_map, length_upFrom]

/-! ## SET_CAP (14 R389) -/

section
variable (hup : s.portUp = true) (seq : W64) (cap lease : BitVec 16)
include hup

theorem execSetCap_of_rest {rest : BitVec 32} (hrest : rest ≠ 0) : execSetCap seq cap lease rest s = .next (s.answer 3 [3]) := by
  rw [execSetCap, hup, if_neg (by decide), if_pos hrest]

theorem execSetCap_of_eq {seq : W64} (hseq : seq = s.winGet 0x010018) : execSetCap seq cap lease 0 s = .next (s.answer 1 [1]) := by
  simp [execSetCap, hup, hseq]

theorem execSetCap_of_lt {seq : W64} (hseq : seq.toNat < (s.winGet 0x010018).toNat) : execSetCap seq cap lease 0 s = .next (s.answer 2 [2]) := by
  have hne : seq ≠ s.winGet 0x010018 := fun h => by rw [h] at hseq; omega
  simp [execSetCap, hup, hne, hseq]

/-- The package with a cap and its lease put in force. -/
def State.withCap (s : State) (seq : W64) (cap lease : BitVec 16) : State :=
  { (s.winSet 0x010018 seq).winSet 0x010010 (setField (setField (s.winGet 0x010010) 0 16 cap.toNat) 16 1 0) with
    capEnd := some ((s.dt + (if lease.toNat = 0 then 2000 else lease.toNat) * 1000000) % 2 ^ 64) }

theorem execSetCap_of_gt {seq : W64} (hseq : (s.winGet 0x010018).toNat < seq.toNat) :
    execSetCap seq cap lease 0 s = .next ((s.withCap seq cap lease).answer 0 [0]) := by
  have hne : seq ≠ s.winGet 0x010018 := fun h => by rw [h] at hseq; omega
  have hlease : lease.toNat = 0 ↔ lease = 0 := by rw [← BitVec.toNat_inj]; rfl
  simp [execSetCap, State.withCap, hup, hne, Nat.not_lt.mpr hseq.le, hlease]

end

theorem winGet_withCap (s : State) (seq : W64) (cap lease : BitVec 16) :
    (s.withCap seq cap lease).winGet 0x010018 = seq ∧ field ((s.withCap seq cap lease).winGet 0x010010) 0 16 = cap.toNat := by
  have hget : ∀ off, (s.withCap seq cap lease).winGet off =
      ((s.winSet 0x010018 seq).winSet 0x010010 (setField (setField (s.winGet 0x010010) 0 16 cap.toNat) 16 1 0)).winGet off := fun _ => rfl
  refine ⟨by simp [hget], ?_⟩
  rw [hget, winGet_winSet, if_pos rfl, field_setField_of_disjoint _ _ (by omega) (by omega), field_setField_self _ _ (by omega)]
  exact Nat.mod_eq_of_lt cap.isLt

/-! ## CLR_FENCE (13 R361; R407) -/

@[simp] theorem tile_setReady (s : State) (n : Nat) (b : Bool) (k : Nat) : (s.setReady n b).tile k = s.tile k := rfl

theorem mem_modTile (s : State) (id : Nat) (f : Tile → Tile) : (s.modTile id f).mem = s.mem := by
  unfold State.modTile
  split <;> rfl

/-- A field-fenced tile is fenced no more, and has no demerits. -/
theorem execClrFence_of_fenced (hup : s.portUp = true) {index : Nat} (hi : index < 576) (hf : (s.tile (tileOfIndex index)).fencedField = true) :
    ∃ z w, execClrFence index s =
      .next ({ (s.modTile (tileOfIndex index) (fun t => { t with fencedField := false })).setBucket ⟨1, index, 0, 0⟩ with
        zhr := z, win := w }.answer 0 [0]) := by
  simp only [execClrFence, hup, hi, hf, Bool.not_true, Bool.false_eq_true, if_false, decide_true, Bool.true_and, if_true]
  split
  · exact ⟨_, _, rfl⟩
  · exact ⟨_, _, rfl⟩

theorem execClrFence_of_clear (hup : s.portUp = true) {index : Nat} (hf : (s.tile (tileOfIndex index)).fencedField = false) :
    execClrFence index s = .next (s.answer 1 [1]) := by
  simp [execClrFence, hup, hf]

/-! ## RESET (R408) -/

/-- What RESET keeps stands beside what the caches lose. -/
theorem loseCaches_rest (s : State) : ∃ c n p, s.loseCaches = { s with coded := c, free := n, poison := p } :=
  List.foldlRecOn (motive := fun t : State => ∃ c n p, t = { s with coded := c, free := n, poison := p }) _ _ ⟨_, _, _, rfl⟩
    fun _ ⟨_, _, _, ht⟩ l _ => ⟨_, _, _, congrArg (fun t => t.code (128 * l) 128) ht⟩

/-- Settles O57, command by command: what each answers and leaves (`execSetCap_of_gt`, `execClrFence_of_fenced`, `loseCaches_rest`).  A request is
answered only while the port is up, RESET keeps what `State.afterReset` names, CLR_FENCE undoes a fence, and SCAN_RD's bytes are free (log entries
14, 15, 24, 71, 126). -/
theorem managementCommands : Obligations.ManagementCommands := by
  intro s hup
  refine ⟨?zhr, ?cert, ?cap, ?rest, ?freeze, ?fenced, ?clear, ?read, ?write, ?frozen, ?reset, ?scan, ?running⟩
  case zhr => exact ⟨_, execGetZhr_of_up hup, rfl, take_zhrBody _ _, rfl, rfl⟩
  case cert =>
    intro piece
    obtain ⟨bs, he, hlen⟩ := execGetCert_of_up hup piece
    exact ⟨_, he, rfl, hlen⟩
  case cap =>
    intro seq cap lease
    obtain hlt | heq | hgt := Nat.lt_trichotomy seq.toNat (s.winGet 0x010018).toNat
    · exact ⟨_, execSetCap_of_lt hup cap lease hlt, fun h => absurd (congrArg BitVec.toNat h) hlt.ne, fun _ => ⟨rfl, rfl⟩, fun h => absurd h hlt.not_gt⟩
    · exact ⟨_, execSetCap_of_eq hup cap lease (BitVec.toNat_inj.mp heq), fun _ => ⟨rfl, rfl⟩, fun h => absurd heq h.ne, fun h => absurd heq h.ne'⟩
    · obtain ⟨hseq, hcap⟩ := winGet_withCap s seq cap lease
      exact ⟨_, execSetCap_of_gt hup cap lease hgt, fun h => absurd (congrArg BitVec.toNat h) hgt.ne', fun h => absurd h hgt.not_gt,
        fun _ => ⟨rfl, hseq, hcap, rfl⟩⟩
  case rest => exact fun seq cap lease rest hrest => ⟨_, execSetCap_of_rest hup seq cap lease hrest, rfl, rfl⟩
  case freeze => exact congrArg Host.Outcome.next (if_pos hup)
  case fenced =>
    intro index hi hf
    obtain ⟨z, w, he⟩ := execClrFence_of_fenced hup hi hf
    refine ⟨_, he, rfl, ?_, ?_, mem_modTile _ _ _⟩
    · exact congrArg Tile.fencedField ((tile_modTile s (tileOfIndex index) (f := fun t => { t with fencedField := false }) (fun _ => rfl) _).trans (if_pos rfl))
    · exact congrArg Bucket.level ((bucket_setBucket _ ⟨1, index, 0, 0⟩ 1 index).trans (if_pos ⟨rfl, rfl⟩))
  case clear => exact fun index hf => ⟨_, execClrFence_of_clear hup hf, rfl⟩
  case read =>
    intro off halign hoff hfrozen
    exact ⟨_, rfl, by simp [hup, hfrozen, State.answer], by simp [hup, hfrozen, State.answer, regOffset, halign, hoff],
      by simp [hup, hfrozen, State.answer]⟩
  case write =>
    intro off v halign hoff hfrozen
    simp [exec, execRegWr, hup, hfrozen, regOffset, halign, hoff]
  case frozen => exact fun off v hfrozen => by simp [exec, execRegRd, execRegWr, hup, hfrozen]
  case reset =>
    obtain ⟨c, n, p, hlose⟩ := loseCaches_rest s
    refine ⟨_, congrArg Host.Outcome.next (if_pos hup), ?_⟩
    rw [hlose]
    exact ⟨rfl, rfl, rfl, rfl, rfl, rfl, rfl, rfl, rfl⟩
  case scan =>
    intro chain off hfrozen
    refine ⟨({ s with free := s.free + 8 } : State).answer 0 s.scanBytes, by simp [exec, execScanRd, hup, hfrozen], rfl, ?_, rfl, rfl⟩
    simp [State.answer, State.scanBytes, List.length_flatMap, length_leBytes, length_upFrom]
  case running => exact fun chain off hfrozen => by simp [exec, execScanRd, hup, hfrozen]

end Sys2Proof.Machine
end

section
/-! TRAP, BRK and RTE, and the handler's instructions on the operand log (12 R318, R323, R327, R328). -/

namespace Sys2Proof.Machine

/-! ## The handler registers exchanged (R318, R323) -/

/-- A sparse array read after some values are set from a place on. -/
theorem mapGet_foldl_mapSet {β : Type} [DecidableEq β] (d : Nat → β) (base : Nat) (f : Nat → β) (j : Nat) (l : List Nat) : ∀ m : Sparse β,
    mapGet d (l.foldl (fun m i => mapSet d m (base + i) (f i)) m) j = if base ≤ j ∧ j - base ∈ l then f (j - base) else mapGet d m j := by
  induction l with
  | nil => intro m; simp
  | cons i rest ih =>
    intro m
    rw [List.foldl_cons, ih, mapGet_mapSet]
    by_cases hrest : base ≤ j ∧ j - base ∈ rest
    · rw [if_pos hrest, if_pos ⟨hrest.1, List.mem_cons_of_mem _ hrest.2⟩]
    · rw [if_neg hrest]
      by_cases hi : j = base + i
      · subst hi
        simp
      · rw [if_neg hi, if_neg fun ⟨hle, hmem⟩ => (List.mem_cons.mp hmem).elim (fun h => hi (by omega)) fun h => hrest ⟨hle, h⟩]

theorem mem_upFrom {a n k : Nat} : k ∈ upFrom a n ↔ a ≤ k ∧ k < a + n := by
  rw [upFrom_eq_range', List.mem_range'_1]

theorem getD_map_upFrom {β : Type} (f : Nat → β) (d : β) (a n : Nat) {i : Nat} (hi : i < n) : ((upFrom a n).map f).getD i d = f (a + i) := by
  rw [List.getD_eq_getElem?_getD, List.getElem?_map, upFrom_eq_range', List.getElem?_range' hi, Nat.one_mul]
  rfl

theorem rs_exchange (g : Group) (n : Nat) : g.exchange.rs n = if 56 ≤ n ∧ n < 64 then mapGet (fun _ => 0) g.hs (n - 56) else g.rs n := by
  have hset := mapGet_foldl_mapSet (fun _ => (0 : W64)) 56 (fun i => ((upFrom 0 8).map (fun k => mapGet (fun _ => 0) g.hs k)).getD i 0) n (upFrom 0 8) g.s
  refine hset.trans (if_ctx_congr ?_ (fun hn => ?_) fun _ => rfl)
  · rw [mem_upFrom]
    omega
  · rw [getD_map_upFrom _ _ _ _ (by omega), Nat.zero_add]

theorem hs_exchange (g : Group) (n : Nat) : mapGet (fun _ => (0 : W64)) g.exchange.hs n = if n < 8 then g.rs (56 + n) else mapGet (fun _ => 0) g.hs n := by
  have hset := mapGet_foldl_mapSet (fun _ => (0 : W64)) 0 (fun i => ((upFrom 56 8).map g.rs).getD i 0) n (upFrom 0 8) g.hs
  simp only [Nat.zero_add, Nat.zero_le, true_and, Nat.sub_zero] at hset
  refine hset.trans (if_ctx_congr ?_ (fun hn => ?_) fun _ => rfl)
  · rw [mem_upFrom]
    omega
  · rw [getD_map_upFrom _ _ _ _ (by omega)]

/-! ## RTE (R323) -/

/-- An instruction whose body has ended the run and placed the issuing split itself. -/
theorem issue_placed_ends {s s1 : State} {i : Instr} {h : Hdr} {u : Uses} {sp : Split} {lanes : State → W32} {on : State → Bool}
    {body : State → State × Fate} (hc : s.canIssue i u sp) (ho : on s = true) (hb : body s.open_ = (s1, .placed))
    (hn : s1.g.newSplits = []) (hrun : s1.g.run = false) :
    ∃ t, issue i h u lanes on body s = .next t ∧ t.still = s1.still ∧ t.g.splits = s1.g.splits ∧ t.g.run = false := by
  obtain ⟨s2, t, hexec, hs2, hg2, hstill, hg⟩ := issue_run s s1 i h u sp lanes on body .placed hc ho hb (by simp) (by simp)
  have hfin : (s2.finish i h sp .placed).g = s2.counted.g := State.g_boundary _ _ (by rw [State.counted, hg2]; exact hn)
  refine ⟨t, hexec, by rw [hstill, State.still_finish _ _ _ _ _ (by simp), hs2], ?_, ?_⟩
  · rw [hg, hfin, State.counted, hg2]
  · rw [hg, hfin, State.counted, hg2]
    exact hrun

/-- The group that RTE leaves: its accesses issued again, the registers exchanged back, its split parked at TRESUME. -/
def Group.returned (g : Group) (sp : Split) : Group :=
  ((g.reissue sp.slot).leaveTrap.setSplit { sp with pc := (g.reissue sp.slot).leaveTrap.tresume }).endPark sp.slot .rte 0 false

theorem exchange_rest (g : Group) :
    g.exchange = { g with s := g.exchange.s, hs := g.exchange.hs, dirty := insNat 2000 g.dirty, touched := insNat 2000 g.touched } := rfl

theorem leaveTrap_eq (g : Group) : g.leaveTrap = { g.exchange with xb := g.txb, inh := false, lkStop := false } := rfl

@[simp] theorem newSplits_leaveTrap (g : Group) : g.leaveTrap.newSplits = g.newSplits := by rw [leaveTrap_eq, exchange_rest]

@[simp] theorem tresume_leaveTrap (g : Group) : g.leaveTrap.tresume = g.tresume := by rw [leaveTrap_eq, exchange_rest]

theorem still_returned (g : Group) (sp : Split) : (g.returned sp).still = (g.reissue sp.slot).leaveTrap.still := by
  rw [Group.returned, Group.still_endPark, Group.still_setSplit]

theorem run_returned (g : Group) (sp : Split) : (g.returned sp).run = false := run_endPark _ _ _ _ _

theorem newSplits_returned (g : Group) (sp : Split) : (g.returned sp).newSplits = g.newSplits := by
  rw [Group.returned, newSplits_endPark]
  exact newSplits_leaveTrap (g.reissue sp.slot)

theorem split_returned (g : Group) (sp : Split) : ∃ x, (g.returned sp).split sp.slot = some x ∧ x.pc = g.tresume ∧ x.mask = sp.mask ∧ x.park = .rte := by
  have hset : ((g.reissue sp.slot).leaveTrap.setSplit { sp with pc := (g.reissue sp.slot).leaveTrap.tresume }).split sp.slot =
      some { sp with pc := (g.reissue sp.slot).leaveTrap.tresume } := by
    simp [Group.setSplit, Group.split, split_putSplit]
  exact ⟨_, (split_endPark (sp := { sp with pc := (g.reissue sp.slot).leaveTrap.tresume }) hset .rte 0 false sp.slot).trans (if_pos rfl),
    tresume_leaveTrap _, rfl, rfl⟩

/-- The body of RTE (R323). -/
def rteBody (h : Hdr) (sp : Split) (s : State) : State × Fate :=
  if !s.g.inh then (s, ownTrap s sp 0x02 sp.pc (wordsAddr (.rte h))) else ({ s with g := s.g.returned sp }, .placed)

theorem exec_rte (h : Hdr) (s : State) : exec (.rte h) s = issueUni (.rte h) h {} (rteBody h) s := rfl

/-- RTE in a handler. -/
theorem execRte_of_inh {h : Hdr} {s : State} {sp : Split} (hc : s.canIssue (.rte h) {} sp) (hg : guardOn h s = true) (hn : s.g.newSplits = [])
    (hi : s.g.inh = true) : ∃ t, exec (.rte h) s = .next t ∧ t.still = ({ s with g := (s.g.reissue sp.slot).leaveTrap } : State).still ∧
      t.g.splits = (s.open_.g.returned sp).splits ∧ t.g.run = false := by
  have hbody : onUni (rteBody h) s.open_ = ({ s.open_ with g := s.open_.g.returned sp }, .placed) := by
    rw [onUni_open hc.1]
    exact if_neg (by simp [State.open_, hi])
  obtain ⟨t, hexec, hst, hsplits, hrun⟩ := issue_placed_ends (lanes := fun _ => 1) (on := guardOn h) hc hg hbody
    ((newSplits_returned _ _).trans hn) (run_returned _ _)
  refine ⟨t, (exec_rte h s).trans hexec, hst.trans ?_, hsplits, hrun⟩
  exact State.still_setG { s with g := (s.g.reissue sp.slot).leaveTrap } _ (still_returned s.open_.g sp)

/-! ## TRAP and BRK (R328) -/

/-- A uniform-set instruction whose body traps. -/
theorem traps_uni {i : Instr} {h : Hdr} {u : Uses} {body : Split → State → State × Fate} {s : State} {sp : Split} {tr : Trap}
    (he : exec i s = issueUni i h u body s) (hc : s.canIssue i u sp) (hg : guardOn h s = true) (hp : s.g.role = .plain) (hn : s.g.newSplits = [])
    (hcause : tr.cause ≠ 0x12) (hb : body sp s.open_ = (s.open_, .trap tr)) : Traps i s sp tr :=
  traps_body (lanes := fun _ => 1) (on := guardOn h) (body := onUni body) he hc hg hp hn hcause ((onUni_open hc.1 body).trans hb)

/-- Settles O40: TRAP, BRK and RTE outside a handler trap in their bodies (`traps_uni`); in a handler RTE leaves its group as `Group.returned` says,
the registers exchanged (`rs_exchange`, `hs_exchange`). -/
theorem trapAndReturn : Obligations.TrapAndReturn := by
  intro h code s sp hg hp hn
  refine ⟨fun hc => ?trap, fun hc => ?brk, fun hc hi => ?outside, fun hc hi => ?handler⟩
  case trap => exact traps_uni rfl hc hg hp hn (by simp [Trap.plain]) rfl
  case brk => exact traps_uni rfl hc hg hp hn (by simp [Trap.plain]) rfl
  case outside => exact traps_uni (exec_rte h s) hc hg hp hn (by simp [Trap.plain]) (if_pos (by simp [State.open_, hi]))
  case handler =>
    obtain ⟨t, hexec, hst, hsplits, hrun⟩ := execRte_of_inh hc hg hn hi
    obtain ⟨x, hx, hpc, hmask, hpark⟩ := split_returned s.open_.g sp
    have hgs : t.g.s = (s.g.reissue sp.slot).exchange.s := still_field (fun g => g.s) (fun _ => rfl) hst
    have hgh : t.g.hs = (s.g.reissue sp.slot).exchange.hs := still_field (fun g => g.hs) (fun _ => rfl) hst
    have hrs : ∀ n, t.g.rs n = (s.g.reissue sp.slot).exchange.rs n := fun n => by rw [Group.rs, hgs, Group.rs]
    refine ⟨t, x, hexec, hst, hrun, still_field (fun g => g.inh) (fun _ => rfl) hst, still_field (fun g => g.xb) (fun _ => rfl) hst,
      fun n hlt => ⟨?_, ?_⟩, fun n hlt => ?_, ?_, hpc, hmask, hpark⟩
    · rw [hrs, rs_exchange, if_pos (by omega), Nat.add_sub_cancel_left]
      rfl
    · rw [hgh, hs_exchange, if_pos hlt]
      rfl
    · rw [hrs, rs_exchange, if_neg (by omega)]
      rfl
    · rw [Group.split, hsplits]
      exact hx

/-! ## The operand log (R327) -/

theorem released_of_none {g : Group} (hr : ∀ r ∈ g.results, r.await ≠ .log true) : g.released = g := by
  have hsame : g.results.map (fun r => if r.await = .log true then { r with await := .log false } else r) = g.results :=
    List.map_congr_left (fun r hmem => if_neg (hr r hmem)) |>.trans (List.map_id _)
  rw [Group.released, hsame]

/-- The selected faulted lanes of an entry given another state. -/
def Group.setSelected (g : Group) (sel : W64) (st : LaneState) : Group :=
  g.modEntry (field sel 0 5) (fun l => if (g.selected sel).contains l.lane then { l with st := st } else l)

/-- The selected lanes pending again, the issuing split waiting for them too. -/
def Group.retrySelected (g : Group) (sel : W64) (slot : Nat) : Group :=
  { g.setSelected sel .pending with olog := (g.setSelected sel .pending).olog.map (fun e =>
      if decide (e.idx = field sel 0 5) && !(g.selected sel).isEmpty then { e with again := some slot } else e) }

theorem retrySelected_eq (g : Group) (sel : W64) (slot : Nat) : g.retrySelected sel slot =
    { g.setSelected sel .pending with olog := (g.setSelected sel .pending).olog.map (fun e =>
        if e.idx = field sel 0 5 ∧ g.selected sel ≠ [] then { e with again := some slot } else e) } := by
  have hwaits : (fun e : OlEntry => if decide (e.idx = field sel 0 5) && !(g.selected sel).isEmpty then { e with again := some slot } else e) =
      fun e => if e.idx = field sel 0 5 ∧ g.selected sel ≠ [] then { e with again := some slot } else e :=
    funext fun e => if_congr (by simp) rfl rfl
  rw [Group.retrySelected, hwaits]

theorem exec_ologRetry (h : Hdr) (a : BitVec 6) (s : State) : exec (.ologRetry h a) s =
    issueUni (.ologRetry h a) h { sr := [a.toNat], handler := true, illegal := badSelector (s.g.rs a.toNat) }
      (fun sp s => ({ s with g := (s.g.retrySelected (s.g.rs a.toNat) sp.slot).released }, .fall)) s := rfl

theorem exec_ologDrop (h : Hdr) (a : BitVec 6) (s : State) : exec (.ologDrop h a) s =
    issueUni (.ologDrop h a) h { sr := [a.toNat], handler := true, illegal := badSelector (s.g.rs a.toNat) }
      (fun _ s => (({ s with g := (s.g.setSelected (s.g.rs a.toNat) (.done none)).released } : State).freeDone s.g.gid, .fall)) s := rfl

section
variable {g : Group} (hr : ∀ r ∈ g.results, r.await ≠ .log true) (sel : W64)
include hr

theorem released_setSelected (st : LaneState) : (g.setSelected sel st).released = g.setSelected sel st := released_of_none hr

theorem released_retrySelected (slot : Nat) : (g.retrySelected sel slot).released = g.retrySelected sel slot := released_of_none hr

end

/-- Settles O43: RETRY and DROP change the selected lanes of their entry alone (`Group.setSelected`), where no result of a follower is held back. -/
theorem operandLog : Obligations.OperandLog := by
  intro h d a
  refine ⟨?retry, ?drop, uniSets_of (fun _ => rfl) fun _ => rfl⟩
  case retry =>
    refine does_uni (exec_ologRetry h a) fun s sp _ _ ⟨_, hr⟩ => ⟨rfl, ?_⟩
    rw [released_retrySelected (g := s.open_.g) hr]
    rw [retrySelected_eq]
    rfl
  case drop =>
    refine does_uni (exec_ologDrop h a) fun s sp _ _ ⟨_, hr⟩ => ⟨rfl, ?_⟩
    rw [released_setSelected (g := s.open_.g) hr]
    rfl

end Sys2Proof.Machine
end

section
/-! CTX.FL and CTX.LD, PREEMPT, and LKMAT (12 R337, R338; 10 R285). -/

namespace Sys2Proof.Machine

variable {h : Hdr} {d a b : BitVec 6} {s : State}

/-- CTX.FL owes the writing of its lines. -/
theorem does_ctxFlush {i : Instr} {what : Nat} (he : ∀ s, exec i s = ctxFlush i h what s) :
    Does i (fun _ => { late := true }) (guardOn h) (fun _ _ => True) (fun s sp => s.owes sp [] [] 0 (.flush what)) :=
  does_uni he fun _ _ _ _ _ => ⟨rfl, still_awaiting _ _ _ _⟩

/-! ## PREEMPT (R338) -/

/-- What PREEMPT and LKMAT name, but for their contributions to the signatures. -/
def statusUses (d a b : BitVec 6) : Uses :=
  { sr := [a.toNat, b.toNat], sw := [d.toNat], priv := true, late := true, logged := true, cmp := true }

/-- A status returned late, logged. -/
def State.status (s : State) (sp : Split) (d : BitVec 6) (v : W64) : State × Fate := (s.laterLogged sp [] [(d.toNat, v)], .fall)

/-- What PREEMPT asks for (R338). -/
structure Preempt where
  op : Nat
  ctx : Nat
  die : Nat

/-- PREEMPT's request as its registers give it. -/
def State.preemptOf (s : State) (a b : BitVec 6) : Preempt :=
  ⟨field (s.g.rs b.toNat) 0 3, field (s.g.rs a.toNat) 0 16, field (s.g.rs a.toNat) 0 2⟩

/-- Whether a partition cannot be swapped as asked: the issuer's own, or one swap after another. -/
def State.swapRefused (s : State) (x : Preempt) : Bool :=
  (s.partDies s.g).contains x.die || s.swap.isSome || decide (s.swapped.contains x.die = decide (x.op = 3))

theorem swapRefused_iff (s : State) (x : Preempt) : s.swapRefused x = true ↔
    (s.partDies s.g).contains x.die = true ∨ s.swap.isSome = true ∨ s.swapped.contains x.die = decide (x.op = 3) := by
  simp [State.swapRefused, or_assoc]

/-- The body of PREEMPT (R338). -/
def preemptBody (d a b : BitVec 6) (sp : Split) (s : State) : State × Fate :=
  let x := s.preemptOf a b
  if field (s.g.rs b.toNat) 3 61 ≠ 0 || 6 ≤ x.op then s.status sp d 3
  else if x.op = 3 || x.op = 4 then
    if !s.partitionAt x.die then s.status sp d 2
    else if s.swapRefused x then s.status sp d 1
    else ((s.pendingResult sp [] [d.toNat]).beginSwap x.die (decide (x.op = 3)) s.g.gid s.g.seq, .fall)
  else if (x.op = 0 || x.op = 2) && decide (x.ctx = s.g.ctx) then s.status sp d 1
  else if !s.hasCtx x.ctx then s.status sp d 2
  else if x.op = 5 then s.status sp d (s.ctxTeams x.ctx)
  else if x.op = 1 then (s.restart x.ctx).status sp d 0
  else ((s.owes sp [] [(d.toNat, 0)] 0 (if x.op = 0 then .preempt x.ctx else .ended x.ctx)).preemptCtx x.ctx (s.partDies s.g), .fall)

theorem exec_preempt (h : Hdr) (d a b : BitVec 6) (s : State) : exec (.preempt h d a b) s =
    issueUni (.preempt h d a b) h { statusUses d a b with folds := regFolds s.g [a.toNat, b.toNat] none } (preemptBody d a b) s := rfl

/-- An instruction with a status whose body goes on to what is stated. -/
theorem does_status {i : Instr} {need : State → Split → Prop} {eff : State → Split → State} {body : Split → State → State × Fate}
    (he : ∀ s, exec i s = issueUni i h { statusUses d a b with folds := regFolds s.g [a.toNat, b.toNat] none } body s)
    (hb : ∀ s sp, need s sp → (body sp s.open_).2 = .fall ∧ (body sp s.open_).1.still = (eff s.open_ sp).still) :
    Does i (fun _ => statusUses d a b) (guardOn h) need eff :=
  (does_uni (body := fun _ => body) he fun s sp _ _ hn => hb s sp hn).of_folds

theorem status_owes (s : State) (sp : Split) (d : BitVec 6) (v : W64) : (s.status sp d v).2 = .fall ∧
    (s.status sp d v).1.still = (s.owes sp [] [(d.toNat, v)] 0 .nothing).still :=
  ⟨rfl, still_laterLogged _ _ _ _⟩

theorem preemptBody_of_illegal (hbad : 6 ≤ (s.preemptOf a b).op ∨ field (s.g.rs b.toNat) 3 61 ≠ 0) (sp : Split) :
    preemptBody d a b sp s = s.status sp d 3 :=
  if_pos (by simpa using hbad.symm)

section
variable (hhigh : field (s.g.rs b.toNat) 3 61 = 0)
include hhigh

theorem preemptBody_of_own (hop : (s.preemptOf a b).op = 0 ∨ (s.preemptOf a b).op = 2) (hctx : (s.preemptOf a b).ctx = s.g.ctx) (sp : Split) :
    preemptBody d a b sp s = s.status sp d 1 := by
  obtain hop | hop := hop <;> simp [preemptBody, hhigh, hop, hctx]

theorem preemptBody_of_missing (hop : (s.preemptOf a b).op = 1 ∨ (((s.preemptOf a b).op = 0 ∨ (s.preemptOf a b).op = 2) ∧ (s.preemptOf a b).ctx ≠ s.g.ctx))
    (hnone : s.hasCtx (s.preemptOf a b).ctx = false) (sp : Split) : preemptBody d a b sp s = s.status sp d 2 := by
  obtain hop | ⟨hop | hop, hctx⟩ := hop
  · simp [preemptBody, hhigh, hop, hnone]
  · simp [preemptBody, hhigh, hop, hctx, hnone]
  · simp [preemptBody, hhigh, hop, hctx, hnone]

theorem preemptBody_of_resume (hop : (s.preemptOf a b).op = 1) (hsome : s.hasCtx (s.preemptOf a b).ctx = true) (sp : Split) :
    preemptBody d a b sp s = (s.restart (s.preemptOf a b).ctx).status sp d 0 := by
  simp [preemptBody, hhigh, hop, hsome]

theorem preemptBody_of_query (hop : (s.preemptOf a b).op = 5) (hsome : s.hasCtx (s.preemptOf a b).ctx = true) (sp : Split) :
    preemptBody d a b sp s = s.status sp d (s.ctxTeams (s.preemptOf a b).ctx) := by
  simp [preemptBody, hhigh, hop, hsome]

/-- A context taken off the package, its grids ended where op is 2. -/
theorem preemptBody_of_other {w : Await} (hop : ((s.preemptOf a b).op = 0 ∧ w = .preempt (s.preemptOf a b).ctx) ∨
      ((s.preemptOf a b).op = 2 ∧ w = .ended (s.preemptOf a b).ctx))
    (hctx : (s.preemptOf a b).ctx ≠ s.g.ctx) (hsome : s.hasCtx (s.preemptOf a b).ctx = true) (sp : Split) : preemptBody d a b sp s =
      ((s.owes sp [] [(d.toNat, 0)] 0 w).preemptCtx (s.preemptOf a b).ctx (s.partDies s.g), .fall) := by
  obtain ⟨hop, rfl⟩ | ⟨hop, rfl⟩ := hop
  · simp [preemptBody, hhigh, hop, hctx, hsome]
  · simp [preemptBody, hhigh, hop, hctx, hsome]

section
variable (hop : (s.preemptOf a b).op = 3 ∨ (s.preemptOf a b).op = 4)
include hop

theorem preemptBody_of_no_partition (hnone : s.partitionAt (s.preemptOf a b).die = false) (sp : Split) :
    preemptBody d a b sp s = s.status sp d 2 := by
  obtain hop | hop := hop <;> simp [preemptBody, hhigh, hop, hnone]

theorem preemptBody_of_refused (hpart : s.partitionAt (s.preemptOf a b).die = true) (href : s.swapRefused (s.preemptOf a b) = true) (sp : Split) :
    preemptBody d a b sp s = s.status sp d 1 := by
  obtain hop | hop := hop <;> simp [preemptBody, hhigh, hop, hpart, href]

theorem preemptBody_of_swap (hpart : s.partitionAt (s.preemptOf a b).die = true) (href : s.swapRefused (s.preemptOf a b) = false) (sp : Split) :
    preemptBody d a b sp s = ((s.owes sp [] [(d.toNat, 0)] 0 .other).beginSwap (s.preemptOf a b).die (decide ((s.preemptOf a b).op = 3)) s.g.gid s.g.seq, .fall) := by
  obtain hop | hop := hop <;> (simp [preemptBody, hhigh, hop, hpart, href]; rfl)

end
end

/-! ## LKMAT (10 R285) -/

/-- Whether a context holds or waits for a lock. -/
def State.locking (s : State) (c : Nat) : Bool :=
  s.locks.any (fun r => decide (r.ctx = c)) || s.groups.any (fun g => g.live && decide (g.ctx = c) && g.lreq.isSome)

/-- The mark that `State.open_` clears is no part of a group's locks. -/
theorem open_locking (s : State) (c : Nat) : s.open_.locking c = s.locking c := by
  unfold State.locking State.groups
  cases hl : s.g.live <;> simp [State.open_, hl]

/-- The body of LKMAT (R285). -/
def lkmatBody (d a b : BitVec 6) (sp : Split) (s : State) : State × Fate :=
  if 2 ^ 36 ≤ (s.g.rs a.toNat).toNat || 2 ^ 16 ≤ (s.g.rs b.toNat).toNat then s.status sp d 2
  else if !s.hasCtx (s.g.rs b.toNat).toNat then s.fresh.2.status sp d s.fresh.1
  else if s.locking (s.g.rs b.toNat).toNat then s.status sp d 1
  else (s.modCtx (s.g.rs b.toNat).toNat (fun x => { x with mat := (s.g.rs a.toNat).extractLsb' 0 36 })).status sp d 0

theorem exec_lkmat (h : Hdr) (d a b : BitVec 6) (s : State) : exec (.lkmat h d a b) s =
    issueUni (.lkmat h d a b) h { statusUses d a b with folds := regFolds s.g [a.toNat, b.toNat] none } (lkmatBody d a b) s := rfl

theorem lkmatBody_of_wide (hwide : 2 ^ 36 ≤ (s.g.rs a.toNat).toNat ∨ 2 ^ 16 ≤ (s.g.rs b.toNat).toNat) (sp : Split) :
    lkmatBody d a b sp s = s.status sp d 2 :=
  if_pos (by simpa using hwide)

section
variable (hm : (s.g.rs a.toNat).toNat < 2 ^ 36) (hc : (s.g.rs b.toNat).toNat < 2 ^ 16) (hsome : s.hasCtx (s.g.rs b.toNat).toNat = true)
include hm hc hsome

theorem lkmatBody_of_locking (hlock : s.locking (s.g.rs b.toNat).toNat = true) (sp : Split) : lkmatBody d a b sp s = s.status sp d 1 := by
  rw [lkmatBody, if_neg (by simp; omega), hsome, if_neg (by simp), if_pos hlock]

theorem lkmatBody_of_free (hlock : s.locking (s.g.rs b.toNat).toNat = false) (sp : Split) : lkmatBody d a b sp s =
    (s.modCtx (s.g.rs b.toNat).toNat (fun x => { x with mat := (s.g.rs a.toNat).extractLsb' 0 36 })).status sp d 0 := by
  rw [lkmatBody, if_neg (by simp; omega), hsome, if_neg (by simp), hlock, if_neg (by simp)]

end

/-- Settles O44: each request of PREEMPT and LKMAT by what its body answers (`preemptBody_of_illegal` and the like); the status is owed
(`status_owes`). -/
theorem contextInstructions : Obligations.ContextInstructions := by
  intro h d a b
  refine ⟨does_ctxFlush fun _ => rfl, does_ctxFlush fun _ => rfl, does_ctxFlush fun _ => rfl, ?ldv, ?lda, ?illegal, ?own, ?missing, ?resume, ?take, ?end_,
    ?query, ⟨?noPartition, ?refused, ?swap⟩, ⟨?wide, ?locking, ?set⟩⟩
  case ldv => exact does_uni (fun _ => rfl) fun _ _ _ _ _ => ⟨rfl, rfl⟩
  case lda => exact does_uni (fun _ => rfl) fun _ _ _ _ _ => ⟨rfl, rfl⟩
  case illegal =>
    refine does_status (exec_preempt h d a b) fun s sp hbad => ?_
    rw [preemptBody_of_illegal (s := s.open_) hbad]
    exact status_owes s.open_ sp d 3
  case own =>
    refine does_status (exec_preempt h d a b) fun s sp ⟨hhigh, hop, hctx⟩ => ?_
    rw [preemptBody_of_own (s := s.open_) hhigh hop hctx]
    exact status_owes s.open_ sp d 1
  case missing =>
    refine does_status (exec_preempt h d a b) fun s sp ⟨hhigh, hop, hnone⟩ => ?_
    rw [preemptBody_of_missing (s := s.open_) hhigh hop hnone]
    exact status_owes s.open_ sp d 2
  case resume =>
    refine does_status (exec_preempt h d a b) fun s sp ⟨hhigh, hop, hsome⟩ => ?_
    rw [preemptBody_of_resume (s := s.open_) hhigh hop hsome]
    exact status_owes _ sp d 0
  case take =>
    refine does_status (exec_preempt h d a b) fun s sp ⟨hhigh, hop, hctx, hsome⟩ => ?_
    rw [preemptBody_of_other (s := s.open_) hhigh (.inl ⟨hop, rfl⟩) hctx hsome]
    exact ⟨rfl, rfl⟩
  case end_ =>
    refine does_status (exec_preempt h d a b) fun s sp ⟨hhigh, hop, hctx, hsome⟩ => ?_
    rw [preemptBody_of_other (s := s.open_) hhigh (.inr ⟨hop, rfl⟩) hctx hsome]
    exact ⟨rfl, rfl⟩
  case query =>
    refine does_status (exec_preempt h d a b) fun s sp ⟨hhigh, hop, hsome⟩ => ?_
    rw [preemptBody_of_query (s := s.open_) hhigh hop hsome]
    exact status_owes s.open_ sp d _
  case noPartition =>
    refine does_status (exec_preempt h d a b) fun s sp ⟨hhigh, hop, hnone⟩ => ?_
    rw [preemptBody_of_no_partition (s := s.open_) hhigh hop hnone]
    exact status_owes s.open_ sp d 2
  case refused =>
    refine does_status (exec_preempt h d a b) fun s sp ⟨hhigh, hop, hpart, href⟩ => ?_
    rw [preemptBody_of_refused (s := s.open_) hhigh hop hpart ((swapRefused_iff s.open_ _).mpr href)]
    exact status_owes s.open_ sp d 1
  case swap =>
    refine does_status (exec_preempt h d a b) fun s sp ⟨hhigh, hop, hpart, href⟩ => ?_
    rw [preemptBody_of_swap (s := s.open_) hhigh hop hpart (Bool.eq_false_iff.mpr fun hr => href ((swapRefused_iff s.open_ _).mp hr))]
    exact ⟨rfl, rfl⟩
  case wide =>
    refine does_status (exec_lkmat h d a b) fun s sp hwide => ?_
    rw [lkmatBody_of_wide (s := s.open_) hwide]
    exact status_owes s.open_ sp d 2
  case locking =>
    refine does_status (exec_lkmat h d a b) fun s sp ⟨hm, hc, hsome, hbusy⟩ => ?_
    rw [lkmatBody_of_locking (s := s.open_) hm hc hsome ((open_locking s _).trans hbusy)]
    exact status_owes s.open_ sp d 1
  case set =>
    refine does_status (exec_lkmat h d a b) fun s sp ⟨hm, hc, hsome, hbusy⟩ => ?_
    rw [lkmatBody_of_free (s := s.open_) hm hc hsome ((open_locking s _).trans hbusy)]
    exact status_owes _ sp d 0

end Sys2Proof.Machine
end

section
/-! The segments of a leader's team as its instructions issue, and SEG (13 R352, R354, R362). -/

namespace Sys2Proof.Machine

/-! ## The segments of a team -/

/-- The open segment of a leader, when it was opened, and the segments before it that stand (R352). -/
def Chord.progress (c : Chord) : Nat × Nat × List Seg := (c.open_, c.openDt, c.segs)

/-- The segments of a team. -/
def State.segsOf (s : State) (tid : Nat) : Option (Option (Nat × Nat × List Seg)) := (s.team tid).map (fun t => t.chord.map Chord.progress)

/-- A team read after a change of teams that keeps their numbers. -/
theorem team_modTeam_any (s : State) (n : Nat) {f : Team → Team} (hf : ∀ t, (f t).tid = t.tid) (tid : Nat) :
    (s.modTeam n f).team tid = (s.team tid).map (fun t => if t.tid = n then f t else t) := by
  have htid : ((fun t : Team => decide (t.tid = tid)) ∘ fun t => if t.tid = n then f t else t) = fun t => decide (t.tid = tid) := by
    funext t
    simp only [Function.comp]
    split
    · rw [hf]
    · rfl
  rw [State.team, State.modTeam, List.find?_map, htid]
  rfl

section
variable (s : State) (tid : Nat)

theorem segsOf_modTeam (n : Nat) {f : Team → Team} (hid : ∀ t, (f t).tid = t.tid)
    (hf : ∀ t, (f t).chord.map Chord.progress = t.chord.map Chord.progress) : (s.modTeam n f).segsOf tid = s.segsOf tid := by
  rw [State.segsOf, team_modTeam_any s n hid, Option.map_map, State.segsOf]
  congr 1
  funext t
  simp only [Function.comp]
  split
  · exact hf t
  · rfl

theorem segsOf_modChord (n : Nat) {f : Chord → Chord} (hf : ∀ c, (f c).progress = c.progress) : (s.modChord n f).segsOf tid = s.segsOf tid :=
  segsOf_modTeam s tid n (fun _ => rfl) fun t => by
    rw [Option.map_map]
    congr 1
    exact funext hf

theorem segsOf_modChord_eq (f : Chord → Chord) :
    (s.modChord tid f).segsOf tid = (s.team tid).map (fun t => t.chord.map (fun c => (f c).progress)) := by
  rw [State.segsOf, State.modChord, team_modTeam s tid (f := fun t => { t with chord := t.chord.map f }) fun _ => rfl, Option.map_map]
  congr 1
  funext t
  exact Option.map_map _ _ _

@[simp] theorem segsOf_addFolds (g : Group) (n : Nat) (b : Bool) (l : List (W32 × W32)) : (s.addFolds g n b l).segsOf tid = s.segsOf tid := by
  unfold State.addFolds
  split
  · rfl
  · exact segsOf_modTeam s tid _ (fun _ => rfl) fun _ => rfl

@[simp] theorem segsOf_logVals (g : Group) (n : Nat) (l : List (Nat × W64)) : (s.logVals g n l).segsOf tid = s.segsOf tid := by
  unfold State.logVals
  split
  · exact segsOf_modChord s tid _ fun _ => rfl
  · rfl

@[simp] theorem segsOf_logRun (g : Group) (slot : Nat) : (s.logRun g slot).segsOf tid = s.segsOf tid := by
  unfold State.logRun
  split
  · exact segsOf_modChord s tid _ fun _ => rfl
  · rfl

@[simp] theorem segsOf_closeGroup (g : Group) (n cnt seq : Nat) : (s.closeGroup g n cnt seq).segsOf tid = s.segsOf tid := by
  refine segsOf_modTeam s tid _ (fun t => ?_) fun t => ?_ <;> split <;> rfl

@[simp] theorem segsOf_closeBehind (g : Group) : (s.closeBehind g).segsOf tid = s.segsOf tid := by
  unfold State.closeBehind
  split
  · split
    · rfl
    · exact keeps_foldl (fun s => s.segsOf tid) (fun s x => segsOf_closeGroup s tid g _ _ _) _ s
  · rfl

@[simp] theorem segsOf_closeFollower (g : Group) : (s.closeFollower g).segsOf tid = s.segsOf tid := by
  unfold State.closeFollower
  split
  · exact keeps_foldl (fun s => s.segsOf tid) (fun s x => segsOf_closeGroup s tid g _ _ _) _ s
  · rfl

@[simp] theorem segsOf_closeStill (n but : Nat) : (s.closeStill n but).segsOf tid = s.segsOf tid :=
  keeps_foldl (fun s => s.segsOf tid) (fun s x => segsOf_closeBehind s tid x) _ s

@[simp] theorem segsOf_foldWrites (u : Uses) (m : W32) : (s.foldWrites u m).segsOf tid = s.segsOf tid := by
  unfold State.foldWrites
  split
  · rfl
  · exact segsOf_addFolds s tid _ _ _ _

@[simp] theorem segsOf_logNow (u : Uses) (m : W32) : (s.logNow u m).segsOf tid = s.segsOf tid := by
  unfold State.logNow
  split
  · exact segsOf_logVals s tid _ _ _
  · split
    · exact segsOf_logVals s tid _ _ _
    · rfl

@[simp] theorem segsOf_boundary (slot : Nat) : (s.boundary slot).segsOf tid = s.segsOf tid := by
  unfold State.boundary
  split
  · rfl
  · refine (segsOf_closeBehind _ tid s.g).trans ?_
    refine (apply_ite (fun x : State => x.segsOf tid) _ _ _).trans ?_
    rw [segsOf_logRun, ite_self]

@[simp] theorem segsOf_followEnd (slot : Nat) : (s.followEnd slot).segsOf tid = s.segsOf tid := by
  unfold State.followEnd
  split <;> rfl

@[simp] theorem segsOf_finish_fall (i : Instr) (h : Hdr) (sp : Split) : (s.finish i h sp .fall).segsOf tid = s.segsOf tid := by
  rw [State.finish, segsOf_boundary, segsOf_followEnd]
  rfl

@[simp] theorem segsOf_takeChecks (n : Nat) : (s.takeChecks n).segsOf tid = s.segsOf tid := by
  unfold State.takeChecks
  split
  · rfl
  · dsimp only
    split
    · rfl
    · split
      · rfl
      · exact segsOf_modChord s tid n fun _ => rfl

@[simp] theorem segsOf_checkedBy (t : State) : (s.checkedBy t).segsOf tid = t.segsOf tid := by
  unfold State.checkedBy
  split
  · exact segsOf_takeChecks t tid _
  · rfl

end

/-! ## SEG (R352, R354, R362) -/

/-- What an instruction of a leader that the log has nothing of leaves of its team's segments where its body goes on. -/
theorem segsOf_perform_fall {s s1 : State} {i : Instr} {h : Hdr} {fs : List (W32 × W32)} {m : W32} {sp : Split} {body : State → State × Fate}
    (hrole : s.g.role = .leader) (hb : body s.open_ = (s1, .fall)) (tid : Nat) :
    ∃ t, s.perform i h {} fs m sp body = some t ∧ t.segsOf tid = s1.segsOf tid := by
  unfold State.perform
  rw [show ({ s with g := { s.g with cleared := none } } : State) = s.open_ from rfl, hb]
  simp only [hrole, Role.follows, Bool.false_eq_true, if_false, Bool.and_false]
  refine ⟨_, rfl, ?_⟩
  simp only [segsOf_closeFollower, segsOf_finish_fall, State.countIf, Bool.false_eq_true, if_false, segsOf_logNow, segsOf_foldWrites, segsOf_addFolds]
  rfl

theorem segsOf_issue_fall {s s1 t : State} {i : Instr} {h : Hdr} {sp : Split} {lanes : State → W32} {on : State → Bool} {body : State → State × Fate}
    (hc : s.canIssue i {} sp) (ho : on s = true) (hrole : s.g.role = .leader) (hb : body s.open_ = (s1, .fall))
    (ht : issue i h {} lanes on body s = .next t) (tid : Nat) : t.segsOf tid = s1.segsOf tid := by
  obtain ⟨hr, hpre, hm, hy, _, hroom, _⟩ := hc
  obtain ⟨t', hperform, hsegs⟩ := segsOf_perform_fall (i := i) (h := h) (fs := []) (m := lanes s) (sp := sp) hrole hb tid
  have hout : issue i h {} lanes on body s = .next (s.checkedBy t') := by
    unfold issue
    simp only [hr, hpre, hm, hy, hroom, ho, hperform, Bool.not_true, Bool.not_false, Bool.or_self, Bool.false_and, Bool.false_eq_true, if_false, if_true, ite_self]
  cases hout.symm.trans ht
  rw [segsOf_checkedBy, hsegs]

theorem segsOf_openNext {s : State} {tid o d : Nat} {l : List Seg} (hs : s.segsOf tid = some (some (o, d, l))) :
    (s.openNext tid).segsOf tid = some (some (o + 1, s.dt, l ++ [⟨o, .closed, false, d, s.dt⟩])) := by
  obtain ⟨t, ht, hchord⟩ := Option.map_eq_some_iff.mp hs
  obtain ⟨c, hc, hp⟩ := Option.map_eq_some_iff.mp hchord
  obtain ⟨rfl, rfl, rfl⟩ : c.open_ = o ∧ c.openDt = d ∧ c.segs = l := by simpa [Chord.progress] using hp
  unfold State.openNext
  rw [ht]
  dsimp only
  rw [segsOf_modTeam _ tid tid (f := fun t => { t with sectors := [] }) (fun _ => rfl) fun _ => rfl, segsOf_modChord_eq, ht]
  simp [hc, Chord.progress]

end Sys2Proof.Machine
end

section
/-! GEAR, HINT, CLK, SEG and FINJ (13 R352, R354, R362, R363; 14 R383 to R385). -/

namespace Sys2Proof.Machine

variable {h : Hdr} {s : State} {sp : Split}

/-! ## SEG (13 R352, R354, R362) -/

@[simp] theorem dt_closeBehind (s : State) (g : Group) : (s.closeBehind g).dt = s.dt := by
  unfold State.closeBehind
  split
  · split
    · rfl
    · exact keeps_foldl State.dt (fun s (x : Seg) => State.closeGroup_dt s g x.n g.closeCnt g.seq) _ s
  · rfl

/-- A leader's open segment closed: the next one is open, from now on. -/
theorem segsOf_closeSegment {s : State} {g : Group} {c : Chord} (hs : s.segsOf g.tid = some (some c.progress)) (hc : s.chordOf g = some c) (cnt seq : Nat) :
    (s.closeSegment g cnt seq).segsOf g.tid = some (some (c.open_ + 1, s.dt, c.segs ++ [⟨c.open_, .closed, false, c.openDt, s.dt⟩])) := by
  unfold State.closeSegment
  simp only [hc, segsOf_closeStill, segsOf_closeGroup]
  rw [segsOf_openNext ((segsOf_closeBehind s g.tid g).trans hs), dt_closeBehind]

theorem chordOf_of_leader {g : Group} {u : Team} (hr : g.role = .leader) (ht : s.team g.tid = some u) : s.chordOf g = u.chord := by
  simp only [State.chordOf, State.leaderTeam, hr, ht]

/-- The body of SEG. -/
def segBody (_ : Split) (s : State) : State × Fate :=
  (if s.g.role = .leader then s.closeSegment s.g (s.g.icount + 1) (s.g.seq + 1) else s, .fall)

/-- SEG that no slack limit holds. -/
theorem exec_seg_of_free (hr : s.g.running = some sp)
    (hfree : ∀ c, s.g.role = .leader → guardOn h s = true → s.chordOf s.g = some c → c.level ≠ 0 → s.slackFull s.g = false) :
    exec (.seg h) s = issueUni (.seg h) h {} segBody s := by
  show execSeg h s = _
  unfold execSeg
  rw [hr]
  refine if_neg fun hcond => ?_
  simp only [Bool.and_eq_true, decide_eq_true_eq] at hcond
  obtain ⟨⟨⟨hlead, hlevel⟩, hguard⟩, hfull⟩ := hcond
  cases hc : s.chordOf s.g with
  | none => simp [hc] at hlevel
  | some c =>
    rw [hfree c hlead hguard hc (by simpa [hc] using hlevel)] at hfull
    cases hfull

/-- SEG of a leader at the slack limit (R354). -/
theorem exec_seg_of_full {c : Chord} (hr : s.g.running = some sp) (hg : guardOn h s = true) (hrole : s.g.role = .leader)
    (hc : s.chordOf s.g = some c) (hlevel : c.level ≠ 0) (hfull : s.slackFull s.g = true) :
    exec (.seg h) s = .next ((s.slackPark (.seg h) h sp false).takeChecks s.g.tid) := by
  have hguard : s.g.guardTrue h.g = true := hg
  show execSeg h s = _
  unfold execSeg
  rw [hr]
  exact if_pos (by simp [hrole, hc, hlevel, hguard, hfull])

/-- A leader parked at the slack limit. -/
theorem slackPark_parks (i : Instr) (h : Hdr) (hr : s.g.running = some sp) (hn : s.g.newSplits = []) (full : Bool) :
    (s.slackPark i h sp full).still = s.still ∧ (s.slackPark i h sp full).g.run = false ∧
    ∃ x, (s.slackPark i h sp full).g.split sp.slot = some x ∧ x.park.isSlack = true ∧ x.pc = sp.pc ∧ x.mask = sp.mask := by
  have hclosed : ∀ cnt seq, ((if s.noneClosed s.g && (full || s.openHeld s.g) then s.closeSegment s.g cnt seq else s).still = s.still) ∧
      (if s.noneClosed s.g && (full || s.openHeld s.g) then s.closeSegment s.g cnt seq else s).g = s.g := fun cnt seq => by
    split
    · exact ⟨State.still_closeSegment _ _ _ _, State.g_closeSegment _ _ _ _⟩
    · exact ⟨rfl, rfl⟩
  obtain ⟨hstill, hg⟩ := hclosed s.g.closeCnt s.g.seq
  unfold State.slackPark
  dsimp only
  have hpark : ∀ n, (s.g.endPark sp.slot (.slack n) (instrBytes i) h.w).newSplits = [] := fun n => (newSplits_endPark _ _ _ _ _).trans hn
  refine ⟨?_, ?_, ?_⟩
  · rw [State.still_boundary, State.still_setG _ _ (Group.still_endPark _ _ _ _ _), hstill]
  · rw [State.g_boundary _ _ (by rw [hg]; exact hpark _)]
    exact run_endPark _ _ _ _ _
  · rw [State.g_boundary _ _ (by rw [hg]; exact hpark _), hg]
    exact ⟨_, (split_endPark (running_split hr).1 _ _ _ _).trans (if_pos rfl), rfl, rfl, rfl⟩

/-- SEG of a leader that no limit holds closes the open segment and goes on. -/
theorem seg_closes {u : Team} {c : Chord} (hc : s.canIssue (.seg h) {} sp) (hg : guardOn h s = true) (hrole : s.g.role = .leader)
    (hu : s.team s.g.tid = some u) (hchord : u.chord = some c) (hfree : c.level = 0 ∨ s.slackFull s.g = false) :
    ∃ t u' c', exec (.seg h) s = .next t ∧ t.still = s.still ∧ t.team s.g.tid = some u' ∧ u'.chord = some c' ∧ c'.open_ = c.open_ + 1 ∧
      c'.segs = c.segs ++ [⟨c.open_, .closed, false, c.openDt, s.dt⟩] := by
  have hof : s.chordOf s.g = some c := (chordOf_of_leader hrole hu).trans hchord
  have he : exec (.seg h) s = issueUni (.seg h) h {} segBody s := exec_seg_of_free hc.1 fun c' _ _ hc' hlevel => by
    cases hof.symm.trans hc'
    exact hfree.resolve_left hlevel
  have hbody : segBody sp s.open_ = (s.open_.closeSegment s.open_.g (s.g.icount + 1) (s.g.seq + 1), .fall) := Prod.ext (if_pos hrole) rfl
  obtain ⟨t, hexec, hst⟩ := uni_fall he hc _ fun _ => hbody
  have hsegs := segsOf_issue_fall hc hg hrole ((onUni_open hc.1 segBody).trans hbody) (he.symm.trans hexec) s.g.tid
  have hs : s.segsOf s.g.tid = some (some c.progress) := by rw [State.segsOf, hu, Option.map_some, hchord, Option.map_some]
  obtain ⟨u', hu', hmap⟩ := Option.map_eq_some_iff.mp (hsegs.trans (segsOf_closeSegment (s := s.open_) (g := s.open_.g) hs hof _ _))
  obtain ⟨c', hc', hprogress⟩ := Option.map_eq_some_iff.mp hmap
  have hnext : c'.progress = (c.open_ + 1, s.dt, c.segs ++ [⟨c.open_, .closed, false, c.openDt, s.dt⟩]) := hprogress
  simp only [Chord.progress, Prod.mk.injEq] at hnext
  obtain ⟨hopen, _, hlist⟩ := hnext
  exact ⟨t, u', c', hexec, by rw [hst, if_pos hg, State.still_closeSegment, State.open_still], hu', hc', hopen, hlist⟩

/-! ## FINJ (13 R363) -/

/-- The mark that `State.open_` clears is all in which the group at a place can differ. -/
theorem open_groupAt {tile place : Nat} {t : Group} (ht : s.groupAt tile place = some t) :
    ∃ c, s.open_.groupAt tile place = some { t with cleared := c } := by
  unfold State.groupAt State.groups at ht ⊢
  rw [List.find?_cons] at ht ⊢
  split at ht
  next hself =>
    cases ht
    exact ⟨none, by rw [show (s.open_.g.live && !s.open_.g.away && decide (s.open_.g.tile = tile) && decide (s.open_.g.place = place)) = true from hself]; rfl⟩
  next hself =>
    exact ⟨t.cleared, by rw [show (s.open_.g.live && !s.open_.g.away && decide (s.open_.g.tile = tile) && decide (s.open_.g.place = place)) = false from hself]; exact ht⟩

theorem open_groupAt_none {tile place : Nat} (ht : s.groupAt tile place = none) : s.open_.groupAt tile place = none := by
  unfold State.groupAt State.groups at ht ⊢
  rw [List.find?_cons] at ht ⊢
  split at ht
  next => cases ht
  next hself => rw [show (s.open_.g.live && !s.open_.g.away && decide (s.open_.g.tile = tile) && decide (s.open_.g.place = place)) = false from hself]; exact ht

/-- What FINJ names. -/
def finjUses (d a b : BitVec 6) : Uses := { sr := [a.toNat, b.toNat], sw := [d.toNat], priv := true, late := true, logged := true }

/-- The flip FINJ asks for (R363). -/
def State.flipOf (s : State) (d b : BitVec 6) : Flip :=
  ⟨(s.g.rs b.toNat).getLsbD 0, field (s.g.rs b.toNat) 1 8, field (s.g.rs b.toNat) 9 5, field (s.g.rs b.toNat) 14 6, s.g.gid, s.g.seq, d.toNat⟩

/-- FINJ's status owed, and its flip among those of the target. -/
def State.flipQueued (s : State) (sp : Split) (d b : BitVec 6) (gid : Nat) : State :=
  (s.owes sp [] [(d.toNat, 0)] 0 .other).modGroup gid (fun g => { g with flip := g.flip ++ [s.flipOf d b] })

/-- FINJ's target. -/
def State.finjTarget (s : State) (a : BitVec 6) : Option Group := s.groupAt (field (s.g.rs a.toNat) 0 10) (field (s.g.rs a.toNat) 10 6)

/-- Whether FINJ names a vector register that its target does not have. -/
def State.flipBeyond (s : State) (b : BitVec 6) (t : Group) : Bool :=
  !(s.g.rs b.toNat).getLsbD 0 && decide (t.allot ≤ field (s.g.rs b.toNat) 1 8)

theorem flipBeyond_iff {b : BitVec 6} {t : Group} :
    s.flipBeyond b t = true ↔ (s.g.rs b.toNat).getLsbD 0 = false ∧ t.allot ≤ field (s.g.rs b.toNat) 1 8 := by
  unfold State.flipBeyond
  rw [Bool.and_eq_true, Bool.not_eq_true', decide_eq_true_eq]

/-- The body of FINJ (R363). -/
def finjBody (d a b : BitVec 6) (sp : Split) (s : State) : State × Fate :=
  if badFlip (s.g.rs a.toNat) (s.g.rs b.toNat) then s.status sp d 3
  else
    match s.finjTarget a with
    | none => s.status sp d 1
    | some t =>
      if !(s.partDies s.g).contains (dieOf t.tile) then s.status sp d 1
      else if s.flipBeyond b t then s.status sp d 2
      else (if t.run then s.flipQueued sp d b t.gid else (s.flipQueued sp d b t.gid).applyFlips { t with flip := t.flip ++ [s.flipOf d b] }, .fall)

theorem exec_finj (h : Hdr) (d a b : BitVec 6) (s : State) : exec (.finj h d a b) s = issueUni (.finj h d a b) h (finjUses d a b) (finjBody d a b) s :=
  rfl

section
variable {d a b : BitVec 6} {t : Group}

theorem finjBody_of_bad (hbad : badFlip (s.g.rs a.toNat) (s.g.rs b.toNat) = true) : finjBody d a b sp s = s.status sp d 3 := if_pos hbad

variable (hgood : badFlip (s.g.rs a.toNat) (s.g.rs b.toNat) = false)
include hgood

theorem finjBody_of_none (ht : s.finjTarget a = none) : finjBody d a b sp s = s.status sp d 1 := by
  simp [finjBody, hgood, ht]

variable (ht : s.finjTarget a = some t)
include ht

theorem finjBody_of_other_partition (hpart : (s.partDies s.g).contains (dieOf t.tile) = false) : finjBody d a b sp s = s.status sp d 1 := by
  simp only [finjBody, hgood, ht, hpart, Bool.not_false, Bool.false_eq_true, if_false, if_true]

variable (hpart : (s.partDies s.g).contains (dieOf t.tile) = true)
include hpart

theorem finjBody_of_beyond (hbeyond : s.flipBeyond b t = true) : finjBody d a b sp s = s.status sp d 2 := by
  simp only [finjBody, hgood, ht, hpart, hbeyond, Bool.not_true, Bool.false_eq_true, if_false, if_true]

theorem finjBody_of_running (hin : s.flipBeyond b t = false) (hrun : t.run = true) : finjBody d a b sp s = (s.flipQueued sp d b t.gid, .fall) := by
  simp only [finjBody, hgood, ht, hpart, hin, hrun, Bool.not_true, Bool.false_eq_true, if_false, if_true]

theorem finjBody_of_standing (hin : s.flipBeyond b t = false) (hrun : t.run = false) : finjBody d a b sp s =
    ((s.flipQueued sp d b t.gid).applyFlips { t with flip := t.flip ++ [s.flipOf d b] }, .fall) := by
  simp only [finjBody, hgood, ht, hpart, hin, hrun, Bool.not_true, Bool.false_eq_true, if_false]

end

/-! ## A flip made (R363) -/

/-- A flip of a vector register changes one bit of one lane. -/
theorem rv_applyFlip {f : Flip} (hv : f.sreg = false) (hlane : f.lane < 32) (g : Group) (r : Nat) {l : Nat} (hl : l < 32) : (g.applyFlip f).rv r l =
    if r = f.reg ∧ l = f.lane then g.rv r l ^^^ BitVec.ofNat 32 (2 ^ f.bit) else g.rv r l := by
  have hplace : r * 32 + l = f.reg * 32 + f.lane ↔ r = f.reg ∧ l = f.lane := by omega
  have hset : (g.applyFlip f).rv r l = mapGet (fun _ => 0)
      (mapSet (fun _ => 0) g.v (f.reg * 32 + f.lane) (g.rv f.reg f.lane ^^^ BitVec.ofNat 32 (2 ^ f.bit))) (r * 32 + l) := by
    simp [Group.applyFlip, hv, Group.rv]
  rw [hset, mapGet_mapSet]
  by_cases heq : r = f.reg ∧ l = f.lane
  · rw [if_pos (hplace.mpr heq), if_pos heq, heq.1, heq.2]
  · rw [if_neg (mt hplace.mp heq), if_neg heq, Group.rv]

/-- A flip of a uniform register changes one bit of it. -/
theorem rs_applyFlip {f : Flip} (hs : f.sreg = true) (g : Group) (n : Nat) : (g.applyFlip f).rs n =
    if n = f.reg then g.rs n ^^^ BitVec.ofNat 64 (2 ^ f.bit) else g.rs n := by
  have hset : (g.applyFlip f).rs n = mapGet (fun _ => 0) (mapSet (fun _ => 0) g.s f.reg (g.rs f.reg ^^^ BitVec.ofNat 64 (2 ^ f.bit))) n := by
    simp [Group.applyFlip, hs, Group.rs]
  rw [hset, mapGet_mapSet]
  by_cases heq : n = f.reg
  · rw [if_pos heq, if_pos heq, heq]
  · rw [if_neg heq, if_neg heq, Group.rs]

/-- Settles O39: the bodies where each goes on, SEG by its two ends (`seg_closes`, `exec_seg_of_full`), FINJ by the cases of its body, a flip by the
register it goes to (`rv_applyFlip`, `rs_applyFlip`). -/
theorem gearAndSegments : Obligations.GearAndSegments := by
  refine ⟨fun h d a b => ⟨?gearN, ?gearF, ?gearW, ?compute, ?memory, ?wait, ?endphase, ?segSync, ?seg, ?closes, ?parks, ?clk,
    ⟨?bad, ?nowhere, ?beyond, ?running, ?standing⟩⟩, fun g f => ⟨fun hv hlane r l hl => rv_applyFlip hv hlane g r hl, fun hs n => rs_applyFlip hs g n⟩⟩
  case gearN => exact does_uni (fun _ => rfl) fun _ _ _ _ _ => ⟨rfl, rfl⟩
  case gearF => exact does_uni (fun _ => rfl) fun _ _ _ _ _ => ⟨rfl, rfl⟩
  case gearW => exact does_uni (fun _ => rfl) fun _ _ _ _ _ => ⟨rfl, rfl⟩
  case compute => exact does_uni (fun _ => rfl) fun _ _ _ _ _ => ⟨rfl, rfl⟩
  case memory => exact does_uni (fun _ => rfl) fun _ _ _ _ _ => ⟨rfl, rfl⟩
  case wait => exact does_uni (fun _ => rfl) fun _ _ _ _ _ => ⟨rfl, rfl⟩
  case endphase => exact does_uni (fun _ => rfl) fun _ _ _ _ _ => ⟨rfl, rfl⟩
  case segSync => exact does_uni (fun _ => rfl) fun _ _ _ _ _ => ⟨rfl, rfl⟩
  case seg =>
    intro s sp hc hneed
    refine uni_fall (exec_seg_of_free hc.1 fun c hlead hg _ _ => absurd hlead (hneed hg)) hc s.open_ fun hg => ?_
    exact Prod.ext (if_neg (hneed hg)) rfl
  case closes => exact fun s sp u c hc hg hrole hu hchord hfree => seg_closes hc hg hrole hu hchord hfree
  case parks =>
    intro s sp c hc hg hrole hchord hlevel hfull hn
    obtain ⟨hst, hrun, x, hx, hpark, hpc, hmask⟩ := slackPark_parks (.seg h) h hc.1 hn false
    have hg' := State.g_takeChecks (s.slackPark (.seg h) h sp false) s.g.tid
    refine ⟨_, x, exec_seg_of_full hc.1 hg hrole hchord hlevel hfull, (State.still_takeChecks _ _).trans hst, ?_, ?_, hpark, hpc, hmask⟩
    · rw [hg']
      exact hrun
    · rw [hg']
      exact hx
  case clk =>
    refine parks_uni (fun _ => rfl) fun s sp _ _ _ => ⟨.inr rfl, still_laterLogged _ _ _ _, ?_, ?_⟩
    · simp only [State.laterLogged, State.later, State.g_logVals, State.g_addFolds]
      rfl
    · simp only [State.laterLogged, State.later, State.g_logVals, State.g_addFolds]
      rfl
  case bad =>
    refine does_uni (exec_finj h d a b) fun s sp _ _ hbad => ?_
    rw [finjBody_of_bad (s := s.open_) hbad]
    exact status_owes s.open_ sp d 3
  case nowhere =>
    refine does_uni (exec_finj h d a b) fun s sp _ _ ⟨hgood, hwhere⟩ => ?_
    obtain hnone | ⟨t, ht, hpart⟩ := hwhere
    · rw [finjBody_of_none (s := s.open_) hgood (open_groupAt_none hnone)]
      exact status_owes s.open_ sp d 1
    · obtain ⟨c, hc⟩ := open_groupAt ht
      rw [finjBody_of_other_partition (s := s.open_) hgood hc hpart]
      exact status_owes s.open_ sp d 1
  case beyond =>
    refine does_uni (exec_finj h d a b) fun s sp _ _ ⟨t, ⟨hgood, ht, hpart⟩, hbit, hreg⟩ => ?_
    obtain ⟨c, hc⟩ := open_groupAt ht
    rw [finjBody_of_beyond (s := s.open_) hgood hc hpart (flipBeyond_iff.mpr ⟨hbit, hreg⟩)]
    exact status_owes s.open_ sp d 2
  case running =>
    intro t
    refine does_uni (exec_finj h d a b) fun s sp _ _ ⟨⟨hgood, ht, hpart⟩, hin, hrun⟩ => ?_
    obtain ⟨c, hc⟩ := open_groupAt ht
    rw [finjBody_of_running (s := s.open_) hgood hc hpart (Bool.eq_false_iff.mpr fun hb => hin (flipBeyond_iff.mp hb)) hrun]
    exact ⟨rfl, rfl⟩
  case standing =>
    intro t
    refine does_uni (exec_finj h d a b) fun s sp _ _ ⟨⟨hgood, ht, hpart⟩, hin, hrun⟩ => ?_
    obtain ⟨c, hc⟩ := open_groupAt ht
    rw [finjBody_of_standing (s := s.open_) hgood hc hpart (Bool.eq_false_iff.mpr fun hb => hin (flipBeyond_iff.mp hb)) hrun]
    exact ⟨rfl, rfl⟩

end Sys2Proof.Machine
end

section
/-! Engine commands as they are taken, and CP.STAT (11 R291 to R297, R307, R309). -/

namespace Sys2Proof.Machine

variable {i : Instr} {h : Hdr} {kind op : Nat} {d b : BitVec 6} {regs : List Nat} {list : Option (BitVec 6)} {comp space sc : BitVec 2} {imm : BitVec 16}
  {s : State} {sp : Split}

/-- What an instruction takes of the room in a team's log, what it waits for and what it folds is no part of whether it issues in a team that is
neither checked nor recorded. -/
theorem Does.of_plain {u v : State → Uses} {on : State → Bool} {need : State → Split → Prop} {eff : State → Split → State} (hd : Does i v on need eff)
    (hplain : ∀ s, (u s).cmp = true)
    (hv : ∀ s : State, s.g.role = .plain → v s = { u s with queued := (v s).queued, room := (v s).room, folds := (v s).folds }) :
    Does i u on need eff :=
  fun s sp hc => hd s sp (by
    obtain ⟨_, _, _, _, _, _, _, hrole⟩ := id hc
    have hp := hrole (by rw [hplain, Bool.or_true])
    rw [hv s hp]
    exact canIssue_congr hc rfl rfl rfl rfl rfl (by simp [State.roomless, hp]))

/-- The mark that `State.open_` clears is no part of the read of a descriptor. -/
theorem open_ownHeld (s : State) (q : Req) (va : Nat) : s.open_.ownHeld q va = s.ownHeld q va := by
  have hout := open_translate s q va .read
  have hg := g_translate s q va .read
  have hgo := g_translate s.open_ q va .read
  unfold State.ownHeld
  rw [open_vaHeld]
  generalize s.open_.translate q va .read = ro at hout hgo
  generalize s.translate q va .read = r at hout hg
  obtain ⟨xo, so⟩ := ro
  obtain ⟨x, s1⟩ := r
  cases hout
  cases xo with
  | error e => rfl
  | ok e =>
    dsimp only at hg hgo ⊢
    rw [hg, hgo]
    rfl

/-! ## The body of an engine command -/

/-- The registers an engine command reads. -/
def engineReads (regs : List Nat) (b : BitVec 6) (list : Option (BitVec 6)) (comp : BitVec 2) : List Nat :=
  regs ++ (if comp = 0 then [] else [b.toNat]) ++ (match list with | some l => [l.toNat] | none => [])

/-- What an engine command names, with what it waits for, takes of the log's room and folds. -/
def engineUses (kind op : Nat) (d : BitVec 6) (regs : List Nat) (b : BitVec 6) (list : Option (BitVec 6)) (comp space sc : BitVec 2) (imm : BitVec 16)
    (h : Hdr) (s : State) : Uses :=
  let c := s.capture kind op regs b comp space sc imm
  let lw := list.map (fun l => s.g.rs l.toNat)
  { sr := engineReads regs b list comp, sw := [d.toNat], cmp := true
    waits := decide (s.g.role ≠ .plain) && s.g.guardTrue h.g && (c.check s.g space.toNat lw s).isNone && !s.outReady c
    queued := s.engineMoves kind s.g.tile
    room := if (kind = 0 || kind = 2) && (c.check s.g space.toNat lw s).isNone then Cmd.room (c.rows * c.rb) c.rows else 0
    folds := if s.g.role = .plain then [] else s.outFolds c ++ regFolds s.g (engineReads regs b list comp) (if comp = 1 then some imm else none) }

/-- A command put into its tile's queue, its batch number in the register it names (R295). -/
def State.takeCmd (s : State) (d : BitVec 6) (c : Cmd) : State :=
  { s with g := s.g.ws d.toNat s.g.batchSeq, cmds := s.cmds ++ [c], nextId := s.nextId + 1 }

/-- The body of an engine command whose checks find nothing and whose queue has room. -/
def acceptBody (kind : Nat) (d : BitVec 6) (c : Cmd) (lw : Option W64) (idx : List W32) (s : State) : State × Fate :=
  if s.mute || s.doneBefore then
    if s.mute && (kind = 0 || kind = 2) then (s.takeCmd d { c with idxList := idx, done := true }, .fall)
    else ({ s with g := s.g.ws d.toNat s.g.batchSeq }, .fall)
  else if kind = 4 then
    if s.ownHeld (s.req s.g) (c.word 0).toNat then (s, .wait)
    else (((s.acceptColl c).1.takeCmd d (s.acceptColl c).2).matchPeers, .fall)
  else
    match s.badIndex c lw with
    | some r => ((s.refuseList c lw r).1.takeCmd d (s.refuseList c lw r).2, .fall)
    | none => (s.takeCmd d { c with idxList := idx, dest := c.ranges }, .fall)

/-- The body of an engine command. -/
def engineBody (i : Instr) (kind op : Nat) (d : BitVec 6) (regs : List Nat) (b : BitVec 6) (list : Option (BitVec 6)) (comp space sc : BitVec 2)
    (imm : BitVec 16) (sp : Split) (s : State) : State × Fate :=
  match (s.capture kind op regs b comp space sc imm).check s.g space.toNat (list.map (fun l => s.g.rs l.toNat)) s with
  | some (cause, a) => ({ s with free := s.free + 1 }, ownTrap s sp cause (pcAdd sp.pc (instrBytes i)) a)
  | none =>
    if s.engineFull kind s.g.tile then (s, .wait)
    else
      match s.readList (s.capture kind op regs b comp space sc imm) (list.map (fun l => s.g.rs l.toNat)) with
      | none => (s, .wait)
      | some idx => acceptBody kind d (s.capture kind op regs b comp space sc imm) (list.map (fun l => s.g.rs l.toNat)) idx s

theorem engineCmd_eq (i : Instr) (h : Hdr) (kind op : Nat) (d : BitVec 6) (regs : List Nat) (b : BitVec 6) (list : Option (BitVec 6))
    (comp space sc : BitVec 2) (imm : BitVec 16) (s : State) : engineCmd i h kind op d regs b list comp space sc imm s =
      issueUni i h (engineUses kind op d regs b list comp space sc imm h s) (engineBody i kind op d regs b list comp space sc imm) s := rfl

theorem engineFull_of_room (hroom : s.tceUsed s.g.tile < 8 ∧ s.engineRoom kind s.g.tile = true) : s.engineFull kind s.g.tile = false := by
  simp [State.engineFull, hroom]

theorem engineBody_of_accepted {idx : List W32}
    (hcheck : (s.capture kind op regs b comp space sc imm).check s.g space.toNat (list.map (fun l => s.g.rs l.toNat)) s = none)
    (hroom : s.tceUsed s.g.tile < 8 ∧ s.engineRoom kind s.g.tile = true)
    (hlist : s.readList (s.capture kind op regs b comp space sc imm) (list.map (fun l => s.g.rs l.toNat)) = some idx) :
    engineBody i kind op d regs b list comp space sc imm sp s =
      acceptBody kind d (s.capture kind op regs b comp space sc imm) (list.map (fun l => s.g.rs l.toNat)) idx s := by
  simp only [engineBody, hcheck, engineFull_of_room hroom, hlist, Bool.false_eq_true, if_false]

/-- A team that is neither checked nor recorded performs its commands itself. -/
theorem notDone_of_plain (hrole : s.g.role = .plain) : (s.mute || s.doneBefore) = false := by
  simp [State.mute, State.doneBefore, hrole, Role.follows]

theorem acceptBody_of_coll {c : Cmd} {lw : Option W64} {idx : List W32} (hrole : s.g.role = .plain)
    (hheld : s.ownHeld (s.req s.g) (c.word 0).toNat = false) :
    acceptBody 4 d c lw idx s = (((s.acceptColl c).1.takeCmd d (s.acceptColl c).2).matchPeers, .fall) := by
  simp [acceptBody, notDone_of_plain hrole, hheld]

theorem acceptBody_of_clean {c : Cmd} {lw : Option W64} {idx : List W32} (hrole : s.g.role = .plain) (hkind : kind ≠ 4)
    (hindex : s.badIndex c lw = none) : acceptBody kind d c lw idx s = (s.takeCmd d { c with idxList := idx, dest := c.ranges }, .fall) := by
  simp [acceptBody, notDone_of_plain hrole, hkind, hindex]

theorem acceptBody_of_poisoned {c : Cmd} {lw : Option W64} {idx : List W32} {r : Nat} (hrole : s.g.role = .plain) (hkind : kind ≠ 4)
    (hindex : s.badIndex c lw = some r) :
    acceptBody kind d c lw idx s = ((s.refuseList c lw r).1.takeCmd d (s.refuseList c lw r).2, .fall) := by
  simp [acceptBody, notDone_of_plain hrole, hkind, hindex]

/-! ## Commands that are taken -/

/-- What is named of an engine command where nothing of redundant execution bears on it. -/
def enginePlain (d : BitVec 6) (regs : List Nat) (b : BitVec 6) (list : Option (BitVec 6)) (comp : BitVec 2) : Uses :=
  { sr := engineReads regs b list comp, sw := [d.toNat], cmp := true }

theorem engineUses_of_plain (hrole : s.g.role = .plain) : engineUses kind op d regs b list comp space sc imm h s =
    { enginePlain d regs b list comp with
      queued := (engineUses kind op d regs b list comp space sc imm h s).queued
      room := (engineUses kind op d regs b list comp space sc imm h s).room
      folds := (engineUses kind op d regs b list comp space sc imm h s).folds } := by
  have hwaits : (engineUses kind op d regs b list comp space sc imm h s).waits = false := by
    simp only [engineUses, hrole, ne_eq, not_true_eq_false, decide_false, Bool.false_and]
  have heta : engineUses kind op d regs b list comp space sc imm h s =
    { enginePlain d regs b list comp with
      waits := (engineUses kind op d regs b list comp space sc imm h s).waits
      queued := (engineUses kind op d regs b list comp space sc imm h s).queued
      room := (engineUses kind op d regs b list comp space sc imm h s).room
      folds := (engineUses kind op d regs b list comp space sc imm h s).folds } := rfl
  rw [hwaits] at heta
  exact heta

/-- An engine command that is accepted, by what its acceptance comes to. -/
theorem does_engine {need : State → Split → Prop} {eff : State → Split → State}
    (he : ∀ s, exec i s = engineCmd i h kind op d regs b list comp space sc imm s)
    (hneed : ∀ s sp, need s sp → (s.capture kind op regs b comp space sc imm).check s.g space.toNat (list.map (fun l => s.g.rs l.toNat)) s = none ∧
      (s.tceUsed s.g.tile < 8 ∧ s.engineRoom kind s.g.tile = true) ∧
      (s.readList (s.capture kind op regs b comp space sc imm) (list.map (fun l => s.g.rs l.toNat))).isSome = true)
    (hbody : ∀ s sp idx, s.g.role = .plain → need s sp →
      s.readList (s.capture kind op regs b comp space sc imm) (list.map (fun l => s.g.rs l.toNat)) = some idx →
      acceptBody kind d (s.open_.capture kind op regs b comp space sc imm) (list.map (fun l => s.open_.g.rs l.toNat)) idx s.open_ = (eff s.open_ sp, .fall)) :
    Does i (fun _ => enginePlain d regs b list comp) (guardOn h) need eff := by
  refine Does.of_plain (v := engineUses kind op d regs b list comp space sc imm h) ?_ (fun _ => rfl) fun s hrole => ?_
  · refine does_uni (fun s => (he s).trans (engineCmd_eq _ _ _ _ _ _ _ _ _ _ _ _ s)) fun s sp hc _ hn => ?_
    obtain ⟨_, _, _, _, _, _, _, hrole⟩ := hc
    obtain ⟨hcheck, hroom, hlist⟩ := hneed s sp hn
    obtain ⟨idx, hidx⟩ := Option.isSome_iff_exists.mp hlist
    rw [engineBody_of_accepted (s := s.open_) hcheck hroom hidx, hbody s sp idx (hrole (Bool.or_true _)) hn hidx]
    exact ⟨rfl, rfl⟩
  · rw [engineUses_of_plain hrole]

theorem engineReads_eq (regs : List Nat) (b : BitVec 6) (list : Option (BitVec 6)) (comp : BitVec 2) :
    engineReads regs b list comp = regs ++ (if comp.toNat = 0 then [] else [b.toNat]) ++ (list.map (·.toNat)).toList := by
  have hcomp : comp = 0 ↔ comp.toNat = 0 := ⟨fun hc => by rw [hc]; rfl, fun hc => BitVec.eq_of_toNat_eq hc⟩
  cases list <;> simp only [engineReads, hcomp, Option.map_none, Option.map_some, Option.toList]

/-- A tile command without a list, or CP.BULK, that is taken (R295). -/
theorem does_takes (he : ∀ s, exec i s = engineCmd i h kind op d regs b none comp space sc imm s) (hkind : kind ≠ 4) :
    Does i (fun _ => { sr := regs ++ (if comp.toNat = 0 then [] else [b.toNat]) ++ [], sw := [d.toNat], cmp := true }) (guardOn h)
      (fun s _ => (s.capture kind op regs b comp space sc imm).check s.g space.toNat none s = none ∧
        (s.tceUsed s.g.tile < 8 ∧ s.engineRoom kind s.g.tile = true))
      (fun s _ => s.takeCmd d { s.capture kind op regs b comp space sc imm with dest := (s.capture kind op regs b comp space sc imm).ranges }) := by
  have hd := does_engine (need := fun s _ => (s.capture kind op regs b comp space sc imm).check s.g space.toNat none s = none ∧
        (s.tceUsed s.g.tile < 8 ∧ s.engineRoom kind s.g.tile = true))
    (eff := fun s _ => s.takeCmd d { s.capture kind op regs b comp space sc imm with dest := (s.capture kind op regs b comp space sc imm).ranges })
    he (fun s _ hn => ⟨hn.1, hn.2, rfl⟩) fun s _ idx hrole _ hidx => by
    cases hidx
    exact acceptBody_of_clean (s := s.open_) hrole hkind rfl
  rw [enginePlain, engineReads_eq] at hd
  exact hd

/-- A COLL that is taken (R295, R302, R303). -/
theorem does_coll (he : ∀ s, exec i s = engineCmd i h 4 op d regs b none comp space sc imm s) :
    Does i (fun _ => { sr := regs ++ (if comp.toNat = 0 then [] else [b.toNat]) ++ [], sw := [d.toNat], cmp := true }) (guardOn h)
      (fun s _ => (s.capture 4 op regs b comp space sc imm).check s.g space.toNat none s = none ∧
        (s.tceUsed s.g.tile < 8 ∧ s.engineRoom 4 s.g.tile = true) ∧
        s.ownHeld (s.req s.g) ((s.capture 4 op regs b comp space sc imm).word 0).toNat = false)
      (fun s _ => ((s.acceptColl (s.capture 4 op regs b comp space sc imm)).1.takeCmd d
        (s.acceptColl (s.capture 4 op regs b comp space sc imm)).2).matchPeers) := by
  have hd := does_engine (need := fun s _ => (s.capture 4 op regs b comp space sc imm).check s.g space.toNat none s = none ∧
        (s.tceUsed s.g.tile < 8 ∧ s.engineRoom 4 s.g.tile = true) ∧
        s.ownHeld (s.req s.g) ((s.capture 4 op regs b comp space sc imm).word 0).toNat = false)
    (eff := fun s _ => ((s.acceptColl (s.capture 4 op regs b comp space sc imm)).1.takeCmd d
        (s.acceptColl (s.capture 4 op regs b comp space sc imm)).2).matchPeers)
    he (fun s _ hn => ⟨hn.1, hn.2.1, rfl⟩) fun s _ idx hrole hn _ =>
      acceptBody_of_coll (s := s.open_) hrole ((open_ownHeld s _ _).trans hn.2.2)
  rw [enginePlain, engineReads_eq] at hd
  exact hd

/-- A CP.GATH whose index list can be read, by what its acceptance comes to (R295, R307). -/
theorem does_gath {c : BitVec 6} {bad : State → Prop} {eff : State → Split → State}
    (he : ∀ s, exec i s = engineCmd i h 2 0 d regs b (some c) comp space sc imm s)
    (hbody : ∀ s sp idx, s.g.role = .plain → bad s →
      s.readList (s.capture 2 0 regs b comp space sc imm) (some (s.g.rs c.toNat)) = some idx →
      acceptBody 2 d (s.open_.capture 2 0 regs b comp space sc imm) (some (s.g.rs c.toNat)) idx s.open_ = (eff s.open_ sp, .fall)) :
    Does i (fun _ => { sr := regs ++ (if comp.toNat = 0 then [] else [b.toNat]) ++ [c.toNat], sw := [d.toNat], cmp := true }) (guardOn h)
      (fun s _ => (s.capture 2 0 regs b comp space sc imm).check s.g space.toNat (some (s.g.rs c.toNat)) s = none ∧
        (s.tceUsed s.g.tile < 8 ∧ s.engineRoom 2 s.g.tile = true) ∧
        (s.readList (s.capture 2 0 regs b comp space sc imm) (some (s.g.rs c.toNat))).isSome = true ∧ bad s) eff := by
  have hd := does_engine (need := fun s _ => (s.capture 2 0 regs b comp space sc imm).check s.g space.toNat (some (s.g.rs c.toNat)) s = none ∧
        (s.tceUsed s.g.tile < 8 ∧ s.engineRoom 2 s.g.tile = true) ∧
        (s.readList (s.capture 2 0 regs b comp space sc imm) (some (s.g.rs c.toNat))).isSome = true ∧ bad s)
    he (fun s _ hn => ⟨hn.1, hn.2.1, hn.2.2.1⟩) fun s sp idx hrole hn hidx => hbody s sp idx hrole hn.2.2.2 hidx
  rw [enginePlain, engineReads_eq] at hd
  exact hd

/-! ## CP.STAT (R309) -/

/-- CP.STAT's value. -/
def State.cpStat (which : BitVec 2) (s : State) : W64 :=
  let n := fun (p : Cmd → Bool) => (s.cmds.filter (fun c => !c.done && p c)).length
  let here := fun (c : Cmd) => decide (dieOf c.tile = dieOf s.g.tile)
  let v : Nat := match which.toNat with
    | 0 => n (fun c => decide (c.gid = s.g.gid)) % 65536 + field s.g.engErr 7 1 * 2 ^ 16 + field s.g.engErr 0 7 * 2 ^ 24 +
        field s.g.engErr 32 32 * 2 ^ 32
    | 1 => s.tceUsed s.g.tile + bitOf (!(s.tile s.g.tile).landing.isEmpty) * 16 + s.landingBytes s.g.tile * 2 ^ 16
    | _ => n (fun c => decide (c.kind = 3) && here c) % 65536 + n (fun c => decide (c.kind = 4) && here c) % 65536 * 65536
  BitVec.ofNat 64 v

theorem uniSets_cpStat (h : Hdr) (d : BitVec 6) (which : BitVec 2) :
    UniSets (.cpStat h d which) h { sw := [d.toNat], logged := true } d (fun s _ => s.cpStat which) :=
  uniSets_of (fun _ => rfl) fun _ => rfl

theorem bitOf_landing (l : List Landed) : bitOf (!l.isEmpty) * 16 = if l = [] then 0 else 16 := by
  cases l <;> rfl

/-- Settles O36: the commands by their body's two ends (`does_takes`, `does_coll`), CP.GATH by whether an index is poisoned, CP.STAT by its value. -/
theorem engineCommands : Obligations.EngineCommands := by
  intro h d a b c comp sp_ sc imm which
  refine ⟨?cpIn, ?cpOut, ?bulk, ?fill, ?allred, ?redscat, ?allgath, ?bcast, ?gathers, ?poisoned, ?stat⟩
  case cpIn => exact does_takes (fun _ => rfl) (by decide)
  case cpOut => exact does_takes (fun _ => rfl) (by decide)
  case bulk => exact does_takes (fun _ => rfl) (by decide)
  case fill => exact does_takes (fun _ => rfl) (by decide)
  case allred => exact does_coll (fun _ => rfl)
  case redscat => exact does_coll (fun _ => rfl)
  case allgath => exact does_coll (fun _ => rfl)
  case bcast => exact does_coll (fun _ => rfl)
  case gathers =>
    refine does_gath (fun _ => rfl) fun s sp idx hrole hbad hidx => ?_
    have hclean : s.open_.badIndex (s.open_.capture 2 0 (upFrom a.toNat 4) b comp sp_ sc imm) (some (s.open_.g.rs c.toNat)) = none := hbad
    refine (acceptBody_of_clean (s := s.open_) hrole (by decide) hclean).trans ?_
    have hlist : idx = (s.open_.readList (s.open_.capture 2 0 (upFrom a.toNat 4) b comp sp_ sc imm) (some (s.open_.g.rs c.toNat))).getD [] :=
      (congrArg (·.getD []) hidx).symm
    rw [hlist]
    rfl
  case poisoned => exact fun r => does_gath (fun _ => rfl) fun s sp idx hrole hbad _ => acceptBody_of_poisoned (s := s.open_) hrole (by decide) hbad
  case stat =>
    have hw : which.toNat = 0 ∨ which.toNat = 1 ∨ which.toNat = 2 ∨ which.toNat = 3 := by omega
    convert uniSets_cpStat h d which using 3
    obtain hw | hw | hw | hw := hw <;> simp only [State.cpStat, bitOf_landing, hw, Nat.reducePow]

end Sys2Proof.Machine
end

section
/-! Traps as they are taken, and the events of the fault queues (12 R318 to R320, R322; 15 R406). -/

namespace Sys2Proof.Machine

/-! ## The group that takes a trap (R318 to R320, R322) -/

/-- What taking a trap can change beside the record. -/
theorem enterTrap_eq (g : Group) (slot : Nat) (t : Trap) (v : BitVec 57) (c : Nat) : g.enterTrap slot t v c =
    { g.record t with
      halted := (g.enterTrap slot t v c).halted, inh := (g.enterTrap slot t v c).inh, s := (g.enterTrap slot t v c).s
      hs := (g.enterTrap slot t v c).hs, dirty := (g.enterTrap slot t v c).dirty, touched := (g.enterTrap slot t v c).touched
      splits := (g.enterTrap slot t v c).splits, txb := (g.enterTrap slot t v c).txb, lkStop := (g.enterTrap slot t v c).lkStop
      trapSeq := (g.enterTrap slot t v c).trapSeq, cleared := (g.enterTrap slot t v c).cleared, cur := (g.enterTrap slot t v c).cur
      runLen := (g.enterTrap slot t v c).runLen, atEnd := none, resumed := false, run := false } := by
  unfold Group.enterTrap
  split
  · rfl
  · dsimp only
    split <;> rfl

theorem enterTrap_of_halt {g : Group} {v : BitVec 57} (hv : g.inh = true ∨ v = 0) (slot : Nat) (t : Trap) (c : Nat) :
    g.enterTrap slot t v c = { g.record t with halted := true, run := false, atEnd := none, resumed := false } :=
  if_pos (by simpa using hv)

/-- The group in its handler, its split not yet moved there (R318). -/
def Group.handling (g : Group) (slot : Nat) (t : Trap) : Group :=
  { ({ g.record t with txb := g.xb } : Group).exchange with
    inh := true, lkStop := !g.wounds.isEmpty, trapSeq := g.seq, cleared := none, run := false, cur := slot, runLen := 0, atEnd := none, resumed := false }

@[simp] theorem splits_handling (g : Group) (slot : Nat) (t : Trap) : (g.handling slot t).splits = g.splits := by
  rw [Group.handling, exchange_rest]
  rfl

theorem enterTrap_of_handler {g : Group} {v : BitVec 57} {slot : Nat} {sp : Split} (hinh : g.inh = false) (hv : v ≠ 0) (hsp : g.split slot = some sp)
    (t : Trap) (c : Nat) :
    g.enterTrap slot t v c = (g.handling slot t).setSplit { sp with pc := wordPc v, park := .ready, age := c, wAfter := false } := by
  have hsplit : (g.handling slot t).split slot = some sp := by rw [Group.split, splits_handling, ← Group.split, hsp]
  have hnot : ¬ (g.inh || decide (v = 0)) = true := by rw [hinh, decide_eq_false hv]; decide
  unfold Group.enterTrap
  rw [if_neg hnot]
  unfold Group.handling at hsplit ⊢
  dsimp only at hsplit ⊢
  rw [hsplit]

theorem handling_rest (g : Group) (slot : Nat) (t : Trap) :
    (g.handling slot t).halted = g.halted ∧ (g.handling slot t).inh = true ∧ (g.handling slot t).txb = g.xb := by
  rw [Group.handling, exchange_rest]
  exact ⟨rfl, rfl, rfl⟩

theorem rs_handling (g : Group) (slot : Nat) (t : Trap) (n : Nat) :
    (g.handling slot t).rs n = if 56 ≤ n ∧ n < 64 then mapGet (fun _ => 0) g.hs (n - 56) else g.rs n :=
  rs_exchange ({ g.record t with txb := g.xb } : Group) n

theorem hs_handling (g : Group) (slot : Nat) (t : Trap) (n : Nat) :
    mapGet (fun _ => (0 : W64)) (g.handling slot t).hs n = if n < 8 then g.rs (56 + n) else mapGet (fun _ => 0) g.hs n :=
  hs_exchange ({ g.record t with txb := g.xb } : Group) n

section
variable {s : State} {slot : Nat} {t : Trap} (hlive : s.g.live = true)
include hlive

theorem takeTrap_of_handler (hinh : s.g.inh = false) (hv : (s.ctx s.g.ctx).tvec ≠ 0) :
    s.takeTrap s.g.gid slot t = { s with g := s.g.enterTrap slot t (s.ctx s.g.ctx).tvec s.clock } := by
  have hcond : (s.g.inh || decide ((s.ctx s.g.ctx).tvec = 0)) = false := by rw [hinh, decide_eq_false hv, Bool.or_false]
  simp only [State.takeTrap, group_self hlive, hcond, Bool.false_eq_true, if_false, if_true, State.modGroup]

theorem mem_takeTrap_of_handler (hinh : s.g.inh = false) (hv : (s.ctx s.g.ctx).tvec ≠ 0) :
    (s.takeTrap s.g.gid slot t).mem = s.mem ∧ (s.takeTrap s.g.gid slot t).teams = s.teams := by
  rw [takeTrap_of_handler hlive hinh hv]
  generalize s.g.enterTrap slot t (s.ctx s.g.ctx).tvec s.clock = g
  exact ⟨rfl, rfl⟩

theorem takeTrap_of_halt (hv : s.g.inh = true ∨ (s.ctx s.g.ctx).tvec = 0) : s.takeTrap s.g.gid slot t =
    ({ s with g := s.g.enterTrap slot t (s.ctx s.g.ctx).tvec s.clock } : State).pushFault (s.g.ctx % 64) 1 s.g.ctx s.g.ctxBase (s.g.record t).tcause := by
  have hcond : (s.g.inh || decide ((s.ctx s.g.ctx).tvec = 0)) = true := by simpa using hv
  simp only [State.takeTrap, group_self hlive, hcond, if_true, State.modGroup]

end

/-! ## The events of the fault queues (R406) -/

section
variable {s : State} {x : Push}

/-- Whether an event waits, as a statement says it (R187, R406). -/
theorem pushEvent_waits_iff : (s.pushes.any (fun y => decide (y.queue = x.queue)) || (!s.queueDrops x.queue && s.lineHeld (s.queueSlot x.queue))) = true ↔
    (∃ y ∈ s.pushes, y.queue = x.queue) ∨ (s.queueDrops x.queue = false ∧ s.lineHeld (s.queueSlot x.queue) = true) := by
  simp

theorem pushEvent_of_waits (hw : (∃ y ∈ s.pushes, y.queue = x.queue) ∨ (s.queueDrops x.queue = false ∧ s.lineHeld (s.queueSlot x.queue) = true)) :
    s.pushEvent x = { s with pushes := s.pushes ++ [x] } :=
  if_pos (pushEvent_waits_iff.mpr hw)

theorem pushEvent_of_free (hw : ¬ ((∃ y ∈ s.pushes, y.queue = x.queue) ∨ (s.queueDrops x.queue = false ∧ s.lineHeld (s.queueSlot x.queue) = true))) :
    s.pushEvent x = s.writeEvent x :=
  if_neg (mt pushEvent_waits_iff.mp hw)

theorem writeEvent_of_drops (hd : s.queueDrops x.queue = true) : s.writeEvent x =
    s.winSet (0x060000 + 32 * x.queue + 24) (setField (s.winGet (0x060000 + 32 * x.queue + 24)) 32 32
      (field (s.winGet (0x060000 + 32 * x.queue + 24)) 32 32 + 1)) :=
  if_pos hd

/-- The event in its queue's next slot. -/
def State.eventStored (s : State) (x : Push) : State := s.deviceStore none (s.queueSlot x.queue) x.bytes

theorem writeEvent_of_room (hd : s.queueDrops x.queue = false) : s.writeEvent x =
    { (s.eventStored x).winSet (0x060000 + 32 * x.queue + 24) (setField (s.winGet (0x060000 + 32 * x.queue + 24)) 0 32
        (field (s.winGet (0x060000 + 32 * x.queue + 24)) 0 32 + 1)) with
      raised := (s.eventStored x).raised ++ [field (s.winGet (0x060000 + 32 * x.queue)) 16 11] } :=
  if_neg (by rw [hd]; exact Bool.false_ne_true)

/-- The vectors raised are no part of the window. -/
theorem winGet_withRaised (s : State) (l : List Nat) (n : Nat) : ({ s with raised := l } : State).winGet n = s.winGet n := rfl

theorem mem_withRaised (s : State) (l : List Nat) : ({ s with raised := l } : State).mem = s.mem := rfl

theorem mem_writeEvent_of_room (hd : s.queueDrops x.queue = false) : (s.writeEvent x).mem = (s.eventStored x).mem ∧
    (s.writeEvent x).raised = (s.eventStored x).raised ++ [field (s.winGet (0x060000 + 32 * x.queue)) 16 11] := by
  rw [writeEvent_of_room hd]
  exact ⟨by rw [mem_withRaised, State.winSet_mem], rfl⟩

end

/-! ## The obligation -/

/-- The record, and what taking a trap leaves alone (R318, R322). -/
theorem enterTrap_record (g : Group) (slot : Nat) (t : Trap) (v : BitVec 57) (c : Nat) :
    ∃ x : Group, g.enterTrap slot t v c = { g.record t with
      halted := x.halted, inh := x.inh, s := x.s, hs := x.hs, dirty := x.dirty, touched := x.touched, splits := x.splits, txb := x.txb, lkStop := x.lkStop
      trapSeq := x.trapSeq, cleared := x.cleared, cur := x.cur, runLen := x.runLen, atEnd := none, resumed := false, run := false } :=
  ⟨_, enterTrap_eq g slot t v c⟩

section
variable {s : State} {sp : Split} (tr : Trap) (hlive : s.g.live = true)
include hlive

/-- The group of a trap that a handler takes (R318). -/
theorem takeTrap_handler (hsp : s.g.split sp.slot = some sp) (hinh : s.g.inh = false) (hv : (s.ctx s.g.ctx).tvec ≠ 0) :
    (s.takeTrap s.g.gid sp.slot tr).g = (s.g.handling sp.slot tr).setSplit
      { sp with pc := wordPc (s.ctx s.g.ctx).tvec, park := .ready, age := s.clock, wAfter := false } :=
  (g_takeTrap hlive _ _).trans (enterTrap_of_handler hinh hv hsp tr s.clock)

/-- The group of a trap that halts it (R319, R320). -/
theorem takeTrap_halts (hv : s.g.inh = true ∨ (s.ctx s.g.ctx).tvec = 0) :
    (s.takeTrap s.g.gid sp.slot tr).g = { s.g.record tr with halted := true, run := false, atEnd := none, resumed := false } :=
  (g_takeTrap hlive _ _).trans (enterTrap_of_halt hv _ _ _)

/-- The halt's event stands in the state with the group that has halted (R319, R406). -/
theorem takeTrap_event (hv : s.g.inh = true ∨ (s.ctx s.g.ctx).tvec = 0) : s.takeTrap s.g.gid sp.slot tr =
    ({ s with g := (s.takeTrap s.g.gid sp.slot tr).g } : State).pushEvent
      ⟨s.g.ctx % 64, 1, s.g.ctx, s.dt, s.g.ctxBase, (s.takeTrap s.g.gid sp.slot tr).g.tcause⟩ := by
  have ht := takeTrap_of_halt (slot := sp.slot) (t := tr) hlive hv
  rw [← g_takeTrap hlive] at ht
  have hcause : (s.takeTrap s.g.gid sp.slot tr).g.tcause = (s.g.record tr).tcause := by rw [takeTrap_halts tr hlive hv]
  rw [hcause]
  exact ht

end

/-- Settles O41: a trap by whether its group has a handler to enter (`takeTrap_handler`, `takeTrap_halts`), an event by whether it waits, is dropped or
is stored. -/
theorem trapEntryRecord : Obligations.TrapEntryRecord := by
  refine ⟨fun s sp tr hlive hsp => ?trap, fun s x => ⟨pushEvent_of_waits, fun hw hd => ?dropped, fun hw hd => ?stored⟩⟩
  case dropped =>
    rw [pushEvent_of_free hw, writeEvent_of_drops hd]
    refine ⟨?_, State.winSet_mem _ _ _, State.winSet_raised _ _ _, State.winSet_pushes _ _ _⟩
    rw [winGet_winSet, if_pos rfl]
  case stored =>
    rw [pushEvent_of_free hw]
    refine ⟨?_, mem_writeEvent_of_room hd⟩
    rw [writeEvent_of_room hd, winGet_withRaised, winGet_winSet, if_pos rfl]
  case trap =>
    have hg := g_takeTrap hlive sp.slot tr
    have hhandler := takeTrap_handler tr hlive hsp
    have hhalts := takeTrap_halts (sp := sp) tr hlive
    have hevent := takeTrap_event (sp := sp) tr hlive
    have hrest := mem_takeTrap_of_handler (slot := sp.slot) (t := tr) hlive
    obtain ⟨x, hx⟩ := enterTrap_record s.g sp.slot tr (s.ctx s.g.ctx).tvec s.clock
    rw [hx] at hg
    clear hx
    dsimp only
    generalize s.takeTrap s.g.gid sp.slot tr = t at hg hhandler hhalts hevent hrest ⊢
    refine ⟨?cause, ?pc, ?resume, ?mask, ?addr, ?dt, ?other, ?lanes, fun w hw => ?walk, fun hw => ?noWalk, ?v, ?p, ?q, ?acc, ?xb, ?run,
      fun hinh hv => ?handler, fun hv => ?halts⟩
    case handler =>
      obtain ⟨hmem, hteams⟩ := hrest hinh hv
      obtain ⟨hhalted, hin, htxb⟩ := handling_rest s.g sp.slot tr
      have hrs := rs_handling s.g sp.slot tr
      have hhs := hs_handling s.g sp.slot tr
      have hgroup := hhandler hinh hv
      have hsplit : ∀ n, t.g.split n = if n = sp.slot then
          some { sp with pc := wordPc (s.ctx s.g.ctx).tvec, park := .ready, age := s.clock, wAfter := false } else s.g.split n := fun n => by
        rw [hgroup]
        exact (split_putSplit _ n _).trans (by rw [splits_handling]; rfl)
      generalize s.g.handling sp.slot tr = x at hgroup hhalted hin htxb hrs hhs
      refine ⟨hmem, hteams, ?_, ?_, ?_, fun n hn => ?_, fun n hn => ⟨?_, ?_⟩, ⟨_, (hsplit _).trans (if_pos rfl), rfl, rfl, rfl, rfl⟩,
        fun n hn => (hsplit n).trans (if_neg hn)⟩
      · rw [hgroup, Group.setSplit_halted, hhalted]
      · rw [hgroup, Group.setSplit_inh, hin]
      · rw [hgroup, Group.setSplit_txb, htxb]
      · rw [hgroup, show (x.setSplit _).rs n = x.rs n from rfl, hrs, if_neg (by omega)]
      · rw [hgroup, show (x.setSplit _).rs (56 + n) = x.rs (56 + n) from rfl, hrs, if_pos (by omega), Nat.add_sub_cancel_left]
      · rw [hgroup, Group.setSplit_hs, hhs, if_pos hn]
    case halts =>
      have hgroup := hhalts hv
      have hev := hevent hv
      refine ⟨?_, ?_, ?_, ?_, hev⟩
      all_goals rw [hgroup]
      all_goals rfl
    case walk => rw [hg]; simp [Group.record, hw]
    case noWalk => rw [hg]; simp [Group.record, hw]
    all_goals rw [hg]
    all_goals rfl

end Sys2Proof.Machine
end

section
/-! Engine commands as they start, move, land, complete, meet their COLL's members or are abandoned (11 R291, R292, R299, R303, R306, R307). -/

namespace Sys2Proof.Machine

variable {s : State} {c : Cmd}

/-! ## Starts and steps (R292, R296, R299; 16 R412) -/

theorem execEngineCommandStart_of_bound (hc : s.cmd c.id = some c) (hs : c.started = false) (he : c.error = none) (hheld : s.startHeld c = false)
    (hbound : s.cmdBound c = true) : execEngineCommandStart c.id s = .next (s.abandonCmd c) := by
  simp [execEngineCommandStart, hc, hs, he, hheld, hbound]

theorem execEngineCommandStart_of_unreachable (hc : s.cmd c.id = some c) (hs : c.started = false) (he : c.error = none)
    (hheld : s.startHeld c = false) (hbound : s.cmdBound c = false) (hreach : s.unreachable c = true) : execEngineCommandStart c.id s =
      .next ((s.engineError c 0x48 (c.word 0)).modCmd c.id (fun x => { x with error := some 0x48 })) := by
  simp [execEngineCommandStart, hc, hs, he, hheld, hbound, hreach]

theorem execEngineTransferStep_of_bound (hc : s.cmd c.id = some c) (hs : c.started = true) (he : c.error = none) (hswap : s.cmdSwapped c = false)
    (hbound : s.cmdBound c = true) : execEngineTransferStep c.id s = .next (s.abandonCmd c) := by
  simp [execEngineTransferStep, hc, hs, he, hswap, hbound]

/-- A step whose subtraction is due makes it (R306). -/
theorem moveCmd_of_due {n : Nat} (hdue : c.subDue (s.cmdTotal c) = some n) (hsettled : s.cmdSettled c = true) : s.moveCmd c = s.subtract c n := by
  simp [State.moveCmd, hdue, hsettled]

/-- What a step does where no subtraction is due and its tile's clock does not stop it. -/
theorem moveCmd_of_going (hdue : c.subDue (s.cmdTotal c) = none)
    (hgoing : c.kind ≤ 2 → (s.tile c.tile).trans = none ∨ (c.kind ≠ 1 ∧ c.pos < c.asked)) : s.moveCmd c =
      if c.kind = 4 then
        match s.collOf c with
        | none => s
        | some x =>
          if (c.from_ x.rank).length < (x.own c.op).2 then s.ownPiece c x
          else if !c.gathered x then s
          else if c.pos < s.cmdTotal c then s.movePiece c (s.cmdTotal c)
          else match x.mirror with
            | some va => if x.mirrorLeft c then s.mirrorPiece c x va else s
            | none => s
      else if c.pos < s.cmdTotal c then s.movePiece c (s.cmdTotal c)
      else s := by
  have hclock : ¬ (decide (c.kind ≤ 2) && (s.tile c.tile).trans.isSome && (decide (c.kind = 1) || decide (c.asked ≤ c.pos))) = true := by
    simp only [Bool.and_eq_true, Bool.or_eq_true, decide_eq_true_eq]
    rintro ⟨⟨hkind, htrans⟩, hstop⟩
    obtain hnone | ⟨hne, hlt⟩ := hgoing hkind
    · rw [hnone] at htrans
      cases htrans
    · omega
  simp only [State.moveCmd, hdue]
  exact if_neg hclock

section
variable (hdue : c.subDue (s.cmdTotal c) = none) (hgoing : c.kind ≤ 2 → (s.tile c.tile).trans = none ∨ (c.kind ≠ 1 ∧ c.pos < c.asked))
include hdue hgoing

theorem moveCmd_piece (hkind : c.kind ≠ 4) (hpos : c.pos < s.cmdTotal c) : s.moveCmd c = s.movePiece c (s.cmdTotal c) := by
  rw [moveCmd_of_going hdue hgoing, if_neg hkind, if_pos hpos]

variable {x : Coll} (hkind : c.kind = 4) (hcoll : s.collOf c = some x)
include hkind hcoll

theorem moveCmd_own (hown : (c.from_ x.rank).length < (x.own c.op).2) : s.moveCmd c = s.ownPiece c x := by
  rw [moveCmd_of_going hdue hgoing, if_pos hkind, hcoll]
  exact if_pos hown

variable (hown : (x.own c.op).2 ≤ (c.from_ x.rank).length) (hall : c.gathered x = true)
include hown hall

theorem moveCmd_gathered (hpos : c.pos < s.cmdTotal c) : s.moveCmd c = s.movePiece c (s.cmdTotal c) := by
  rw [moveCmd_of_going hdue hgoing, if_pos hkind, hcoll]
  simp only [Nat.not_lt.mpr hown, hall, hpos, Bool.not_true, Bool.false_eq_true, if_false, if_true]

theorem moveCmd_mirror {va : Nat} (hpos : s.cmdTotal c ≤ c.pos) (hmirror : x.mirror = some va) (hleft : x.mirrorLeft c = true) :
    s.moveCmd c = s.mirrorPiece c x va := by
  rw [moveCmd_of_going hdue hgoing, if_pos hkind, hcoll]
  simp only [Nat.not_lt.mpr hown, hall, Nat.not_lt.mpr hpos, hmirror, hleft, Bool.not_true, Bool.false_eq_true, if_false, if_true]

end

/-! ## Bytes that land in a scratchpad (R292, R300) -/

/-- The bytes of a team's scratchpad. -/
def State.scrOf (s : State) (tid : Nat) : Option (Sparse Byte) := (s.team tid).map Team.scr

theorem scrOf_modTeam (s : State) (n tid : Nat) {f : Team → Team} (hid : ∀ t, (f t).tid = t.tid) (hscr : ∀ t, (f t).scr = t.scr) :
    (s.modTeam n f).scrOf tid = s.scrOf tid := by
  rw [State.scrOf, team_modTeam_any s n hid, Option.map_map, State.scrOf]
  refine congrArg (fun g => Option.map g _) (funext fun t => ?_)
  show (if t.tid = n then f t else t).scr = t.scr
  split
  · exact hscr t
  · rfl

theorem scrOf_logVals (s : State) (tid : Nat) (g : Group) (n : Nat) (l : List (Nat × W64)) : (s.logVals g n l).scrOf tid = s.scrOf tid := by
  unfold State.logVals
  split
  · exact scrOf_modTeam s _ tid (fun _ => rfl) fun _ => rfl
  · rfl

theorem scrOf_logLanding (s : State) (tid : Nat) (x : Cmd) (segs : List (Nat × List Byte)) : (s.logLanding x segs).scrOf tid = s.scrOf tid := by
  unfold State.logLanding
  split
  · rfl
  · exact scrOf_logVals _ _ _ _ _

theorem scrOf_landAt {t : Team} (ht : s.team t.tid = some t) (hsaved : t.saved = false) (off : Nat) (bs : List Byte) :
    (s.landAt t.tid [(off, bs)]).scrOf t.tid = some (memSetList t.scr off bs) := by
  rw [State.landAt, ht]
  dsimp only
  rw [hsaved, if_neg Bool.false_ne_true, State.scrOf, team_modTeam s t.tid (f := fun t => [(off, bs)].foldl (fun t x => t.put x.1 x.2) t) fun _ => rfl, ht]
  rfl

/-- One run of bytes that lands in a team's banks is there, and nothing else of them changes. -/
theorem scrOf_landBytes {t : Team} (ht : s.team t.tid = some t) (hsaved : t.saved = false) (id off : Nat) (bs : List Byte) :
    (s.landBytes id t.tid [(off, bs)]).scrOf t.tid = some (memSetList t.scr off bs) := by
  rw [← scrOf_landAt ht hsaved]
  unfold State.landBytes
  dsimp only
  have hclean := scrOf_modTeam (s.landAt t.tid [(off, bs)]) t.tid t.tid (f := fun t =>
    { t with scrPoison := if [(off, bs)].foldl (fun n x => n + x.2.length) 0 = 32 then
        t.scrPoison.filter (fun k => !([(off, bs)].any (fun x => decide (x.1 / 32 = k)))) else t.scrPoison }) (fun _ => rfl) fun _ => rfl
  split
  · exact (scrOf_logLanding _ _ _ _).trans hclean
  · exact hclean

/-! ## Completions (R306) -/

theorem completeCmd_of_counter {p : Place} {s1 : State} (he : c.error = none) (hcomp : c.comp = 1) (hwaits : s.objectWaits c = false)
    (hobj : s.objectOf c = (some p, s1)) (hheld : s1.objectHeld p = false) :
    s.completeCmd c = (s1.counterAdd p (BitVec.ofNat 64 c.imm)).leaveQueue c := by
  simp [State.completeCmd, he, hcomp, hwaits, hobj, hheld]

/-! ## The members' parts of a COLL (R303, R307) -/

/-- The only part that has come, of a COLL that is issued, is taken in by the command it is matched with. -/
theorem matchPeers_of_one {m : PeerMsg} (hnone : s.peerMsgs = []) (hissued : m.nth < mapGet (fun _ => 0) (s.ctx m.ctx).colls m.group)
    (hfind : s.cmds.find? (fun c => !c.done && c.error.isNone && c.matchedBy m) = some c) :
    ({ s with peerMsgs := [m] } : State).matchPeers = s.takePeer c m := by
  have hback : ({ s with peerMsgs := [] } : State) = s := by rw [← hnone]
  have hdec : decide (m.nth < mapGet (fun _ => 0) (({ s with peerMsgs := [m] } : State).ctx m.ctx).colls m.group) = true := decide_eq_true hissued
  simp only [State.matchPeers, List.filter_cons, hdec, List.filter_nil, if_true, Bool.not_true, Bool.false_eq_true, if_false, List.foldl_cons,
    List.foldl_nil, hback, hfind]

theorem takePeer_of_differing {m : PeerMsg} {x : Coll} (hcoll : s.collOf c = some x)
    (hdiff : ¬ (m.op = c.op ∧ m.n = x.n ∧ m.typ = x.typ ∧ m.red = x.red ∧ m.root = x.root)) : s.takePeer c m = s.failCmd c 0x4A (c.word 0) := by
  rw [State.takePeer, hcoll]
  refine if_pos ?_
  simp only [Bool.or_eq_true, decide_eq_true_eq]
  tauto

theorem takePeer_of_same {m : PeerMsg} {x : Coll} (hcoll : s.collOf c = some x)
    (hsame : m.op = c.op ∧ m.n = x.n ∧ m.typ = x.typ ∧ m.red = x.red ∧ m.root = x.root) (hcode : m.code = 0) (hrank : m.rank < x.members.length)
    (hother : m.rank ≠ x.rank) (hnew : c.peers.any (fun p => decide (p.1 = m.rank)) = false) (hlen : m.data.length = x.share c.op m.rank) :
    s.takePeer c m = s.modCmd c.id (fun y => { y with peers := y.peers ++ [(m.rank, m.data)] }) := by
  obtain ⟨hop, hn, htyp, hred, hroot⟩ := hsame
  rw [State.takePeer, hcoll]
  dsimp only
  rw [if_neg (by simp [hop, hn, htyp, hred, hroot]), if_neg (by rw [hcode]; decide), if_pos (by simp [hrank, hother, hnew, hlen])]

/-- Settles O50: the three steps of a command by what its checks find, a step by what it has left to do, and the part of a COLL that comes by whether its
parameters agree. -/
theorem engineSteps : Obligations.EngineSteps := by
  refine ⟨fun s c hc => ⟨fun hs he hheld => ⟨fun hbound => ?_, fun hbound hreach => ?_, fun hbound hreach => ?_⟩,
    fun hs he hswap => ⟨fun hbound => ?_, fun hbound => ?_⟩, fun hover => execEngineCommandComplete_of_over hc hover⟩,
    fun s c hdest hfits => ?starts, fun s c => ⟨fun n hdue hsettled => moveCmd_of_due hdue hsettled, fun hdue hgoing =>
      ⟨moveCmd_piece hdue hgoing, fun x hkind hcoll => ⟨moveCmd_own hdue hgoing hkind hcoll, fun hown hall =>
        ⟨moveCmd_gathered hdue hgoing hkind hcoll hown hall, fun va hpos hmirror hleft =>
          moveCmd_mirror hdue hgoing hkind hcoll hown hall hpos hmirror hleft⟩⟩⟩⟩,
    fun s t id off bs ht hsaved => Option.map_eq_some_iff.mp (scrOf_landBytes ht hsaved id off bs),
    fun s c he => ⟨completeCmd_of_comp_zero he, fun p s1 hcomp hwaits hobj hheld => completeCmd_of_counter he hcomp hwaits hobj hheld⟩, leaveQueue_rest,
    fun s m => rfl, fun s m c x hnone hissued hfind hcoll => ⟨fun hdiff => ?_, fun hsame hcode hrank hother hnew hlen => ?_⟩⟩
  case starts =>
    rw [startCmd_of_dest_nil hdest hfits]
    exact ⟨congrArg (List.map _) (cmds_takeLines _ _), owners_takeLines _ _, mem_takeLines _ _⟩
  · exact execEngineCommandStart_of_bound hc hs he hheld hbound
  · exact execEngineCommandStart_of_unreachable hc hs he hheld hbound hreach
  · exact execEngineCommandStart_of_ready hc hs he hheld hbound hreach
  · exact execEngineTransferStep_of_bound hc hs he hswap hbound
  · exact execEngineTransferStep_of_ready hc hs he hswap hbound
  · exact (matchPeers_of_one hnone hissued hfind).trans (takePeer_of_differing hcoll hdiff)
  · exact (matchPeers_of_one hnone hissued hfind).trans (takePeer_of_same hcoll hsame hcode hrank hother hnew hlen)

end Sys2Proof.Machine
end

section
/-! Gears, pair balance, droop, the governor and the cap's lease (14 R374, R376 to R381, R388, R389). -/

namespace Sys2Proof.Machine

variable (s : State) (tile pair : Nat)

/-! ## What the operations on gears leave alone -/

section
variable {β : Type} (field : State → β)

/-- What an engine has asked for by the time its clock stops bears on its commands alone. -/
theorem field_askedFor (hfree : ∀ (s : State) n, field { s with free := n } = field s) (hcmds : ∀ (s : State) l, field { s with cmds := l } = field s) :
    field (s.askedFor tile) = field s :=
  keeps_foldl field (fun s _ => (hcmds { s with free := s.free + 1 } _).trans (hfree s _)) _ s

theorem field_modTile (htiles : ∀ (s : State) l, field { s with tiles := l } = field s) (f : Tile → Tile) : field (s.modTile tile f) = field s := by
  rw [modTile_rest, htiles]

theorem field_modPair (hpairs : ∀ (s : State) l, field { s with pairs := l } = field s) (f : Pair → Pair) : field (s.modPair pair f) = field s := by
  rw [modPair_rest, hpairs]

end

@[simp] theorem tiles_modPair (f : Pair → Pair) : (s.modPair pair f).tiles = s.tiles := field_modPair s pair State.tiles (fun _ _ => rfl) f
@[simp] theorem tile_modPair (f : Pair → Pair) (k : Nat) : (s.modPair pair f).tile k = s.tile k :=
  field_modPair s pair (fun s => s.tile k) (fun _ _ => rfl) f
@[simp] theorem dt_modPair (f : Pair → Pair) : (s.modPair pair f).dt = s.dt := field_modPair s pair State.dt (fun _ _ => rfl) f
@[simp] theorem g_modPair (f : Pair → Pair) : (s.modPair pair f).g = s.g := field_modPair s pair State.g (fun _ _ => rfl) f
@[simp] theorem mem_modPair (f : Pair → Pair) : (s.modPair pair f).mem = s.mem := field_modPair s pair State.mem (fun _ _ => rfl) f

@[simp] theorem pair_modTile (f : Tile → Tile) (k : Nat) : (s.modTile tile f).pair k = s.pair k :=
  field_modTile s tile (fun s => s.pair k) (fun _ _ => rfl) f
@[simp] theorem g_modTile (f : Tile → Tile) : (s.modTile tile f).g = s.g := field_modTile s tile State.g (fun _ _ => rfl) f
@[simp] theorem groups_modTile (f : Tile → Tile) : (s.modTile tile f).groups = s.groups := field_modTile s tile State.groups (fun _ _ => rfl) f
@[simp] theorem memory_modTile (f : Tile → Tile) : (s.modTile tile f).mem = s.mem := field_modTile s tile State.mem (fun _ _ => rfl) f

@[simp] theorem tile_askedFor (k : Nat) : (s.askedFor tile).tile k = s.tile k :=
  field_askedFor s tile (fun s => s.tile k) (fun _ _ => rfl) fun _ _ => rfl
@[simp] theorem pair_askedFor (k : Nat) : (s.askedFor tile).pair k = s.pair k :=
  field_askedFor s tile (fun s => s.pair k) (fun _ _ => rfl) fun _ _ => rfl
@[simp] theorem g_askedFor : (s.askedFor tile).g = s.g := field_askedFor s tile State.g (fun _ _ => rfl) fun _ _ => rfl
@[simp] theorem mem_askedFor : (s.askedFor tile).mem = s.mem := field_askedFor s tile State.mem (fun _ _ => rfl) fun _ _ => rfl

/-! ## The count of a pair's deferred transitions (R387) -/

@[simp] theorem tile_recount (k : Nat) : (s.recount pair).tile k = s.tile k := tile_modPair _ _ _ _
@[simp] theorem g_recount : (s.recount pair).g = s.g := g_modPair _ _ _
@[simp] theorem mem_recount : (s.recount pair).mem = s.mem := mem_modPair _ _ _

theorem light_recount (k : Nat) : ((s.recount pair).pair k).light = (s.pair k).light := by
  rw [State.recount, pair_modPair]
  · split
    next hk => rw [hk]
    next => rfl
  · exact fun _ => rfl

/-! ## Transitions as they start, are deferred and end (R377, R380) -/

theorem tile_startChange : (s.startChange tile).tile tile =
    { s.tile tile with trans := some (!(s.tile tile).fgear), deferred := none, want := none, since := s.dt } := by
  rw [State.startChange, tile_recount, tile_modTile, if_pos rfl, tile_askedFor]
  exact fun _ => rfl

theorem light_startChange (k : Nat) : ((s.startChange tile).pair k).light = (s.pair k).light := by
  rw [State.startChange, light_recount, pair_modTile, pair_askedFor]

@[simp] theorem g_startChange : (s.startChange tile).g = s.g := by rw [State.startChange, g_recount, g_modTile, g_askedFor]
@[simp] theorem mem_startChange : (s.startChange tile).mem = s.mem := by rw [State.startChange, mem_recount, memory_modTile, mem_askedFor]

theorem tile_defer : (s.defer tile).tile tile = { s.tile tile with deferred := some s.dt, want := none } := by
  rw [State.defer, tile_modPair, tile_recount, tile_modTile, if_pos rfl]
  exact fun _ => rfl

@[simp] theorem g_defer : (s.defer tile).g = s.g := by rw [State.defer, g_modPair, g_recount, g_modTile]
@[simp] theorem mem_defer : (s.defer tile).mem = s.mem := by rw [State.defer, mem_modPair, mem_recount, memory_modTile]

theorem execGearTransitionStart_of_tile (htile : isTile tile = true) : execGearTransitionStart tile s =
    .next (if ((s.cancelLapsed tile).recount (pairOf tile)).starts tile = true then ((s.cancelLapsed tile).recount (pairOf tile)).decideGear tile
      else (s.cancelLapsed tile).recount (pairOf tile)) := if_pos htile

/-- The state in which the balancer decides: a free value is drawn, and the pair's lighter layer noted. -/
def State.weighed (s : State) (tile : Nat) : State :=
  ({ s with free := s.free + 1 } : State).modPair (pairOf tile) (fun p =>
    { p with light := decide (field (Config.freeValue s.free) 16 16 < field (Config.freeValue s.free) 0 16) })

/-- A transition put to the balancer starts or is deferred (R380). -/
theorem decideGear_cases : s.decideGear tile = (s.weighed tile).startChange tile ∨ s.decideGear tile = (s.weighed tile).defer tile := by
  have he : s.decideGear tile = if (s.weighed tile).grants (field (Config.freeValue s.free) 0 16) (field (Config.freeValue s.free) 16 16)
      (field (Config.freeValue s.free) 32 16) (field (Config.freeValue s.free) 48 16) = true then (s.weighed tile).startChange tile
      else (s.weighed tile).defer tile := rfl
  rw [he]
  split
  · exact .inl rfl
  · exact .inr rfl

@[simp] theorem tile_weighed (k : Nat) : (s.weighed tile).tile k = s.tile k := tile_modPair _ _ _ _
@[simp] theorem dt_weighed : (s.weighed tile).dt = s.dt := dt_modPair _ _ _
@[simp] theorem g_weighed : (s.weighed tile).g = s.g := g_modPair _ _ _
@[simp] theorem mem_weighed : (s.weighed tile).mem = s.mem := mem_modPair _ _ _

theorem changed_of_elapsed {f : Bool} (htrans : (s.tile tile).trans = some f) (hover : (if f = true then 600 else 300) ≤ s.elapsed (s.tile tile).since) :
    s.changed tile = some f := by
  rw [State.changed, htrans]
  exact if_pos (decide_eq_true hover)

theorem changed_of_running {f : Bool} (htrans : (s.tile tile).trans = some f) (hrun : s.elapsed (s.tile tile).since < (if f = true then 600 else 300)) :
    s.changed tile = none := by
  rw [State.changed, htrans]
  exact if_neg (by simpa using hrun)

theorem execGearTransitionEnd_of_over {f : Bool} (htrans : (s.tile tile).trans = some f)
    (hover : (if f = true then 600 else 300) ≤ s.elapsed (s.tile tile).since) : execGearTransitionEnd tile s = .next (s.endChange tile f) := by
  rw [execGearTransitionEnd, changed_of_elapsed s tile htrans hover]

theorem execGearTransitionEnd_of_running {f : Bool} (htrans : (s.tile tile).trans = some f)
    (hrun : s.elapsed (s.tile tile).since < (if f = true then 600 else 300)) : execGearTransitionEnd tile s = .next s := by
  rw [execGearTransitionEnd, changed_of_running s tile htrans hrun]

/-- A change of gear that ends with nothing buffered and nobody to stop (R377). -/
theorem endChange_of_quiet {f : Bool} (hland : (s.tile tile).landing = []) (hstop : s.groups.any (fun g => g.live && g.stop && !g.away) = false) :
    s.endChange tile f = (s.modTile tile (fun t => { t with fgear := f, trans := none, since := s.dt })).modTile tile (fun t => { t with landing := [] }) := by
  have hempty : ((s.modTile tile (fun t => { t with fgear := f, trans := none, since := s.dt })).tile tile).landing = [] := by
    rw [tile_modTile, if_pos rfl]
    · exact hland
    · exact fun _ => rfl
  unfold State.endChange State.drainLanding
  rw [hempty]
  unfold State.settleStops
  rw [List.foldl_nil, groups_modTile, groups_modTile, hstop, if_neg Bool.false_ne_true]

/-! ## Pair balance (R380, R387) -/

/-- The currents of a pair without balance load measured. -/
theorem pair_measured_of_idle (up lo : Nat) (hburn : (s.pair pair).burn = false) :
    (s.measured pair up lo).pair pair = { s.pair pair with imb := imbUnits up lo, burn := false, light := decide (lo < up) } := by
  unfold State.measured
  rw [if_neg (by rw [hburn]; exact Bool.false_ne_true)]
  dsimp only
  rw [pair_modPair, if_pos rfl, hburn, Bool.false_and]
  exact fun _ => rfl

/-- The currents of a pair with balance load measured: it stops where they would stay balanced without it. -/
theorem pair_measured_of_burning (up lo : Nat) (hburn : (s.pair pair).burn = true) :
    (s.measured pair up lo).pair pair =
      { s.pair pair with
        imb := imbUnits up lo
        burn := !(if (s.pair pair).burnLow = true then withinPct up (lo - s.fresh.1.toNat) s.balPct else withinPct (up - s.fresh.1.toNat) lo s.balPct)
        light := decide (lo < up) } := by
  have hpair : s.fresh.2.pair pair = s.pair pair := rfl
  unfold State.measured
  rw [if_pos hburn]
  dsimp only
  rw [pair_modPair, if_pos rfl, hpair, hburn, Bool.true_and]
  exact fun _ => rfl

theorem exec_pairBalanceMeasure (up lo pu pl : Nat) :
    exec (.pairBalanceMeasure pair up lo pu pl) s = execPairBalanceMeasure pair up lo pu pl s := rfl

/-- A pair whose lapsed deferrals are cancelled, its currents measured. -/
def State.looked (s : State) (pair up lo : Nat) : State := (((pairTiles pair).foldl (fun s t => s.cancelLapsed t) s).recount pair).measured pair up lo

section
variable {s pair} {up lo pu pl t : Nat} (hp : pair < 256) (hp' : pair % 64 < 18)
include hp hp'

theorem execPairBalanceMeasure_of_none (hc : (s.looked pair up lo).candidate pair = none) :
    execPairBalanceMeasure pair up lo pu pl s = .next (s.looked pair up lo) := by
  unfold execPairBalanceMeasure
  rw [if_neg (by simp [hp, hp'])]
  dsimp only
  rw [← State.looked, hc]

variable (hc : (s.looked pair up lo).candidate pair = some t)
include hc

theorem execPairBalanceMeasure_of_grants (hg : (s.looked pair up lo).grants up lo pu pl = true) :
    execPairBalanceMeasure pair up lo pu pl s = .next ((s.looked pair up lo).startChange t) := by
  unfold execPairBalanceMeasure
  rw [if_neg (by simp [hp, hp'])]
  dsimp only
  rw [← State.looked, hc]
  exact if_pos hg

theorem execPairBalanceMeasure_of_defers (hg : (s.looked pair up lo).grants up lo pu pl = false)
    (hd : ((s.looked pair up lo).tile t).deferred = none) : execPairBalanceMeasure pair up lo pu pl s = .next ((s.looked pair up lo).defer t) := by
  unfold execPairBalanceMeasure
  rw [if_neg (by simp [hp, hp'])]
  dsimp only
  rw [← State.looked, hc]
  dsimp only
  rw [hg, if_neg Bool.false_ne_true, hd]
  rfl

end

/-- A deferred transition whose wait is over (R380). -/
theorem waitedOut_of_late {d : Nat} (hd : (s.tile tile).deferred = some d) (hwait : s.balWait ≤ s.elapsed d) (hwants : s.wantsChange tile = true)
    (hcand : s.candidate (pairOf tile) = some tile) : s.waitedOut tile = true := by
  rw [State.waitedOut, hd, hwants, hcand, Option.any_some, decide_eq_true hwait]
  simp

theorem pair_grantLate : (s.grantLate tile).pair (pairOf tile) =
    { (s.startChange tile).pair (pairOf tile) with burn := true, burnLow := ((s.startChange tile).pair (pairOf tile)).light } := by
  rw [State.grantLate, pair_modPair, if_pos rfl]
  exact fun _ => rfl

/-! ## Droop, the governor and the cap's lease (R374, R381, R388, R389) -/

section
variable (cluster : Nat) (f : Clu → Clu)

@[simp] theorem g_modClu : (s.modClu cluster f).g = s.g := by rw [modClu_rest]
@[simp] theorem mem_modClu : (s.modClu cluster f).mem = s.mem := by rw [modClu_rest]
@[simp] theorem capBinds_modClu : (s.modClu cluster f).capBinds = s.capBinds := by
  rw [modClu_rest]
  rfl

end

/-- Under no cap that binds, nothing is unmet (R388). -/
theorem noteUnmet_of_uncapped (cluster power : Nat) (hcap : s.capBinds = false) :
    s.noteUnmet cluster power = s.winSet 0x010010 (setField (s.winGet 0x010010) 17 1 0) := by
  unfold State.noteUnmet
  rw [hcap]
  simp only [Bool.false_and, Bool.false_eq_true, if_false, bitOf]

theorem setClocks_of_ok {c : Nat} {f n : BitVec 12} {power : Nat} (hok : s.clocksOk (s.clu c) f.toNat n.toNat power = true) :
    s.setClocks c f n power = s.modClu c (fun c => { c with fmhz := f, nmhz := n }) := if_pos hok

/-- The clocks that the governor may set lie between floor and top, in steps of 50 MHz (R374). -/
theorem bounds_of_clocksOk {c : Clu} {f n power : Nat} (hok : s.clocksOk c f n power = true) :
    1000 ≤ f ∧ f ≤ 2100 ∧ f % 50 = 0 ∧ 300 ≤ n ∧ n ≤ 550 ∧ n % 50 = 0 := by
  unfold State.clocksOk at hok
  simp only [Bool.and_eq_true, decide_eq_true_eq] at hok
  obtain ⟨⟨⟨⟨⟨⟨hf, hf'⟩, hstep⟩, hn⟩, hn'⟩, hstep'⟩, -⟩ := hok
  exact ⟨hf, hf', hstep, hn, hn', hstep'⟩

theorem execCapLeaseExpiry_of_over {n : Nat} (hend : s.capEnd = some n) (hahead : s.ahead n = false) : execCapLeaseExpiry s =
    .next { s.winSet 0x010010 (setField (setField (s.winGet 0x010010) 0 16 (field (s.winGet 0x010008) 0 16)) 16 1 1) with capEnd := none } := by
  simp only [execCapLeaseExpiry, hend, hahead, Bool.not_false, if_true]

theorem withCapEnd_rest (x : Option Nat) : ({ s with capEnd := x } : State).capEnd = x ∧ ({ s with capEnd := x } : State).g = s.g := ⟨rfl, rfl⟩

/-- The lease's end is no part of the window. -/
theorem winGet_withCapEnd (x : Option Nat) (n : Nat) : ({ s with capEnd := x } : State).winGet n = s.winGet n := rfl

/-- Settles O55: transitions by whether they start, are deferred, run or are over, a pair by its candidate, the governor by what it may set. -/
theorem gearSteps : Obligations.GearSteps := by
  refine ⟨fun s tile htile => ⟨fun hstarts => ?starts, fun hstill => ?still⟩, fun s tile => ?decides,
    fun s tile f htrans => ⟨fun hover => ?ends, fun hrun => ?runs⟩, fun s tile f htrans hland hstop hover => ?quiet,
    fun s pair up lo pu pl hp hp' => ⟨fun hnone => ?none, fun t ht => ⟨fun hgrants => ?grants, fun hnot hnew => ?defers⟩⟩,
    fun s pair up lo => ?measured, fun s tile d hd hwait hwants hcand => ?late, fun s c hc hc' => ?droop, fun s c hstretched => ?recovers,
    fun s c f n power hc hc' => ?governor, fun s c f n power hc hc' hcap hok => ?free, fun s c f n power hok => ?clocks,
    fun s n hend hahead => ?lease⟩
  case starts => exact (execGearTransitionStart_of_tile s tile htile).trans (by rw [if_pos hstarts])
  case still => exact (execGearTransitionStart_of_tile s tile htile).trans (by rw [if_neg (by rw [hstill]; exact Bool.false_ne_true)])
  case decides =>
    obtain he | he := decideGear_cases s tile
    · refine ⟨.inl ?_, ?_, ?_, ?_⟩
      · rw [he, tile_startChange, tile_weighed, dt_weighed]
        exact ⟨rfl, rfl⟩
      · rw [he, tile_startChange, tile_weighed]
      · rw [he, g_startChange, g_weighed]
      · rw [he, mem_startChange, mem_weighed]
    · refine ⟨.inr ?_, ?_, ?_, ?_⟩
      · rw [he, tile_defer, dt_weighed]
      · rw [he, tile_defer, tile_weighed]
      · rw [he, g_defer, g_weighed]
      · rw [he, mem_defer, mem_weighed]
  case ends => exact execGearTransitionEnd_of_over s tile htrans hover
  case runs => exact execGearTransitionEnd_of_running s tile htrans hrun
  case quiet =>
    refine ⟨_, execGearTransitionEnd_of_over s tile htrans hover, ?_⟩
    rw [endChange_of_quiet s tile hland hstop, g_modTile, g_modTile, memory_modTile, memory_modTile]
    have htile : (((s.modTile tile (fun t => { t with fgear := f, trans := none, since := s.dt })).modTile tile (fun t => { t with landing := [] })).tile tile) =
        { s.tile tile with fgear := f, trans := none, since := s.dt, landing := [] } := by
      rw [tile_modTile, if_pos rfl, tile_modTile, if_pos rfl]
      · exact fun _ => rfl
      · exact fun _ => rfl
    rw [htile]
    exact ⟨rfl, rfl, rfl, rfl⟩
  case none =>
    rw [exec_pairBalanceMeasure, ← State.looked]
    exact execPairBalanceMeasure_of_none hp hp' (by rwa [← State.looked] at hnone)
  case grants =>
    rw [exec_pairBalanceMeasure, ← State.looked]
    rw [← State.looked] at ht hgrants
    exact execPairBalanceMeasure_of_grants hp hp' ht hgrants
  case defers =>
    rw [exec_pairBalanceMeasure, ← State.looked]
    rw [← State.looked] at ht hnot hnew
    exact execPairBalanceMeasure_of_defers hp hp' ht hnot hnew
  case measured =>
    cases hburn : (s.pair pair).burn with
    | false =>
      rw [pair_measured_of_idle s pair up lo hburn]
      exact ⟨rfl, rfl, fun _ => rfl, nofun⟩
    | true =>
      rw [pair_measured_of_burning s pair up lo hburn]
      exact ⟨rfl, rfl, nofun, fun _ => rfl⟩
  case late =>
    refine ⟨?_, ?_, ?_, ?_⟩
    · rw [show exec (.balanceWaitExpiry tile) s = execBalanceWaitExpiry tile s from rfl, execBalanceWaitExpiry,
        if_pos (waitedOut_of_late _ tile hd hwait hwants hcand)]
    · rw [State.grantLate, tile_modPair, tile_startChange]
    · rw [pair_grantLate]
    · rw [pair_grantLate, light_startChange]
  case droop =>
    refine ⟨_, congrArg Host.Outcome.next (if_pos (by simp [hc, hc'])), ?_, ?_, ?_, g_modClu _ _ _, mem_modClu _ _ _⟩
    all_goals
      rw [clu_modClu, if_pos rfl]
      exact fun _ => rfl
  case recovers =>
    refine ⟨_, congrArg Host.Outcome.next (if_pos hstretched), ?_, ?_, g_modClu _ _ _⟩
    all_goals
      rw [clu_modClu, if_pos rfl]
      exact fun _ => rfl
  case governor => exact if_neg (by simp [hc, hc'])
  case free =>
    have hcap' : (s.setClocks c f n power).capBinds = false := by rw [setClocks_of_ok s hok, capBinds_modClu, hcap]
    refine ⟨_, if_neg (by simp [hc, hc']), ?_⟩
    rw [noteUnmet_of_uncapped _ c power hcap', setClocks_of_ok s hok]
    have hclu : ∀ (s : State) n x k, (s.winSet n x).clu k = s.clu k := fun _ _ _ _ => rfl
    refine ⟨?_, ?_, ?_, ?_, ?_⟩
    · rw [hclu, clu_modClu, if_pos rfl]
      exact fun _ => rfl
    · rw [hclu, clu_modClu, if_pos rfl]
      exact fun _ => rfl
    · rw [winGet_winSet, if_pos rfl, getLsbD_setField _ _ (by omega), if_pos (by omega)]
      rfl
    · rw [State.winSet_g, g_modClu]
    · rw [State.winSet_mem, mem_modClu]
  case clocks => exact bounds_of_clocksOk s hok
  case lease =>
    obtain ⟨hnone, hg⟩ := withCapEnd_rest (s.winSet 0x010010 (setField (setField (s.winGet 0x010010) 0 16 (field (s.winGet 0x010008) 0 16)) 16 1 1)) none
    refine ⟨_, execCapLeaseExpiry_of_over s hend hahead, hnone, ?_, ?_, hg.trans (State.winSet_g _ _ _)⟩
    · rw [winGet_withCapEnd, winGet_winSet, if_pos rfl, field_setField_of_disjoint _ _ (by omega) (by omega), field_setField_self _ _ (by omega)]
      exact Nat.mod_mod _ _
    · rw [winGet_withCapEnd, winGet_winSet, if_pos rfl, getLsbD_setField _ _ (by omega), if_pos (by omega)]
      rfl

end Sys2Proof.Machine
end

section
/-! Redundant execution, fault injection and health as they move (13 R347, R353, R356 to R360, R363, R366 to R370). -/

namespace Sys2Proof.Machine

variable {s : State}

/-! ## Flips at a run boundary (R363) -/

section
variable {gid : Nat} {g : Group} (hg : s.anyGroup gid = some g)
include hg

theorem execFinjApply_of_gone (h : g.live = false ∨ g.away = true) : execFinjApply gid s = .next (s.failFlips gid) := by
  simp only [execFinjApply, hg]
  exact if_pos (by simpa using h)

theorem execFinjApply_of_standing (hlive : g.live = true) (haway : g.away = false) (hrun : g.run = false) :
    execFinjApply gid s = .next (s.applyFlips g) := by
  simp [execFinjApply, hg, hlive, haway, hrun]

end

theorem applyFlip_rest (g : Group) (f : Flip) : (g.applyFlip f).gid = g.gid ∧ (g.applyFlip f).live = g.live := by
  unfold Group.applyFlip
  dsimp only
  split <;> exact ⟨rfl, rfl⟩

theorem v_applyFlip {f : Flip} (hsreg : f.sreg = true) (g : Group) : (g.applyFlip f).v = g.v := by
  unfold Group.applyFlip
  dsimp only
  rw [if_pos hsreg]

/-- The groups found by other numbers do not depend on the issuing group. -/
theorem group_setG {g : Group} {n : Nat} (hgid : g.gid = s.g.gid) (hlive : g.live = s.g.live) (hn : s.group n ≠ some s.g) :
    ({ s with g := g } : State).group n = s.group n := by
  unfold State.group State.groups at hn ⊢
  rw [List.find?_cons] at hn
  rw [List.find?_cons, List.find?_cons, hgid, hlive]
  split at hn
  · exact absurd rfl hn
  next => rfl

/-- The only flip of the issuing group, of a uniform register and asked for by a group that is gone, is made and answered to nobody. -/
theorem applyFlips_of_sole {f : Flip} (hflip : s.g.flip = [f]) (hsreg : f.sreg = true) (hissuer : s.group f.issuer = none) :
    s.applyFlips s.g = { s with g := { s.g.applyFlip f with flip := [] } } := by
  have hlines : s.g.flipLines = [] := by simp [Group.flipLines, hflip, hsreg]
  have hgroup : ({ s with g := { s.g.applyFlip f with flip := [] } } : State).group f.issuer = none := by
    rw [← hissuer]
    obtain ⟨hgid, hlive⟩ := applyFlip_rest s.g f
    exact group_setG (g := { s.g.applyFlip f with flip := [] }) hgid hlive (by rw [hissuer]; exact nofun)
  have hmade : s.modGroup s.g.gid (fun g => { g.flip.foldl Group.applyFlip g with flip := [] }) = { s with g := { s.g.applyFlip f with flip := [] } } := by
    rw [State.modGroup, if_pos rfl, hflip, List.foldl_cons, List.foldl_nil]
  unfold State.applyFlips
  rw [hlines, List.foldl_nil]
  dsimp only
  rw [anyGroup_self, Option.map_some, hlines, hmade, hflip, List.foldl_cons, List.foldl_nil, State.resolve, hgroup]
  rfl

/-- A segment that was released, or whose lines nothing holds, does not wait for its commit. -/
theorem not_held {rel held : Bool} (h : rel = true ∨ held = false) : ¬ (!rel && held) = true := by
  cases rel <;> simp_all

/-- A leader that lost a released segment stops it only while it is not still; a commit, only while a line is held. -/
theorem not_stopped {rel still held : Bool} (hstill : rel = true → still = true) (hheld : rel = false → held = false) :
    ¬ (if rel = true then !still else held) = true := by
  cases rel <;> simp_all

/-! ## The trailer's segments and the comparison (R347, R353, R358) -/

theorem execTrailerSegmentStart_of_due {t : Team} {c : Chord} (ht : s.team t.tid = some t) (hc : t.chord = some c) (hlevel : c.level ≠ 0)
    (hseg : c.trailerSeg ≤ c.open_) (hcompared : c.segs.any (fun x => decide (x.n < c.trailerSeg)) = false) (hdue : 2000 ≤ s.elapsed c.trailerDt) :
    execTrailerSegmentStart t.tid s = .next (s.modChord t.tid (fun x => { x with trailerSeg := c.trailerSeg + 1 })) := by
  simp [execTrailerSegmentStart, ht, hc, hlevel, hseg, hcompared, hdue]

theorem execSegmentCompare_of_replay {t : Team} {i : Nat} (ht : s.team t.tid = some t) (hr : t.replay = some i) :
    execSegmentCompare t.tid s = .next (s.replayCompare t.tid i) := by
  simp [execSegmentCompare, ht, hr]

section
variable {t0 t u : Team} {c : Chord} {x : Seg} {rest : List Seg} (ht0 : s.team t.tid = some t0) (hc : t0.chord = some c) (hreplay : t0.replay = none)
  (hsegs : c.segs = x :: rest) (hst : x.st ≠ .voting) (ht : (s.closeRun c.trailer).team t.tid = some t) (hu : (s.closeRun c.trailer).team c.trailer = some u)

/-- What a compare leaves for later, whether or not it matters. -/
def State.owedAt (s : State) (t u : Team) : List (Nat × Nat) := s.owedNow t.tid ++ s.heldNow u.tid

variable (hlead : (s.closeRun c.trailer).runClosed t ((s.closeRun c.trailer).owedAt t u) x.n = true)
  (htrail : (s.closeRun c.trailer).followClosed t.closes u ((s.closeRun c.trailer).owedAt t u) x.n = true)
include ht0 hc hreplay hsegs hst ht hu hlead htrail

theorem execSegmentCompare_of_closed : execSegmentCompare t.tid s =
    (if (s.closeRun c.trailer).sliceBad t c = true then .next ((s.closeRun c.trailer).endGrid t.serial 0x62)
    else if t.sigs c.owed ((s.closeRun c.trailer).owedAt t u) x.n = u.sigs c.owed ((s.closeRun c.trailer).owedAt t u) x.n then
      .next (if (!x.rel && (s.closeRun c.trailer).commitHeld c.vers x.n) = true then s.closeRun c.trailer
        else (s.closeRun c.trailer).passSegment t.tid x ((s.closeRun c.trailer).owedAt t u))
    else .next ((if x.rel = true then (s.closeRun c.trailer).reportLate t.tid else s.closeRun c.trailer).callThird t.tid x.n)) := by
  unfold execSegmentCompare
  rw [ht0]
  dsimp only
  rw [hreplay, hc]
  dsimp only
  rw [ht, hu, hsegs, List.head?_cons]
  dsimp only
  exact if_neg (by rw [← State.owedAt, hlead, htrail]; simp [hst])

end

/-! ## The third run (R345, R359) -/

theorem execThirdRunPlace_of_fits {t : Team} {c : Chord} {k : Check} {tile : Nat} (ht : s.team t.tid = some t) (hc : t.chord = some c)
    (hk : c.oldestCheck = some k) (hwait : c.thirdWait = true) (hfits : s.thirdFits t c tile = true)
    (hbest : s.betterThird t c tile = false) (hknown : c.checkKnown k = true) : execThirdRunPlace t.tid tile s =
      .next (if s.sliceBad t c = true then s.endGrid t.serial 0x62 else s.placeThird t c k tile) := by
  simp [execThirdRunPlace, ht, hc, hk, hwait, hfits, hbest, hknown]

/-- The team of a third run of a team without groups in its checkpoint. -/
def Team.thirdOf (t : Team) (k : Check) (tid tile base : Nat) : Team :=
  { t with
    tid := tid, tile := tile, role := .third, base := base, saved := false, scr := k.scr, scrPoison := k.scrPoison, badWords := [], sectors := [], stash := []
    ended := true, away := false, chord := none, folds := [], closes := t.closes.filter (fun y => decide (y.seg < k.seg)), replay := none }

theorem placeThird_of_nil {t : Team} {c : Chord} {k : Check} {tile base : Nat} (hgroups : k.groups = [])
    (hbanks : s.takeBanks tile (t.scratch + t.stashBytes) = (base, s)) :
    s.placeThird t c k tile =
      (({ s with nextId := s.nextId + 1, teams := s.teams ++ [t.thirdOf k s.nextId tile base] } : State).l1Flush tile).modChord t.tid
        (fun c => { c with third := some s.nextId, thirdWait := false }) := by
  unfold State.placeThird
  rw [hbanks, hgroups]
  rfl

theorem team_eq_none_of_fresh (hfresh : ∀ y ∈ s.teams, y.tid < s.nextId) : s.team s.nextId = none :=
  List.find?_eq_none.mpr fun y hy hid => absurd (hfresh y hy) (by rw [of_decide_eq_true hid]; exact Nat.lt_irrefl _)

/-- The teams once a third run is placed: its own is new, and its leader's Chord state names it. -/
theorem team_placed (hfresh : ∀ y ∈ s.teams, y.tid < s.nextId) {u : Team} (hu : u.tid = s.nextId) (tile : Nat) {m : Nat} (hm : m ≠ s.nextId)
    (f : Chord → Chord) (n : Nat) :
    ((({ s with nextId := s.nextId + 1, teams := s.teams ++ [u] } : State).l1Flush tile).modChord m f).team n =
      if n = s.nextId then some u else (s.team n).map (fun t => if t.tid = m then { t with chord := t.chord.map f } else t) := by
  have hadd : (({ s with nextId := s.nextId + 1, teams := s.teams ++ [u] } : State).l1Flush tile).team n =
      (s.team n).or (if n = s.nextId then some u else none) := by
    refine List.find?_append.trans ?_
    rw [List.find?_singleton, hu]
    simp [State.team, eq_comm]
  rw [State.modChord, team_modTeam_any, hadd]
  · by_cases hn : n = s.nextId
    · rw [if_pos hn, if_pos hn, hn, team_eq_none_of_fresh hfresh, Option.none_or, Option.map_some, if_neg (by rw [hu]; exact Ne.symm hm)]
    · rw [if_neg hn, if_neg hn, Option.or_none]
  · exact fun _ => rfl

/-! ## The vote (R360) -/

section
variable {t0 t u w : Team} {c : Chord} {x : Seg} {rest : List Seg} {tid3 : Nat} (ht0 : s.team t.tid = some t0) (hc : t0.chord = some c)
  (hthird : c.third = some tid3) (hsegs : c.segs = x :: rest) (hst : x.st = .voting)

/-- The state in which a vote is counted: the runs that follow close what they stand at. -/
def State.voted (s : State) (c : Chord) (tid3 : Nat) : State := (s.closeRun tid3).closeRun c.trailer

/-- What a vote leaves for later, whether or not it matters. -/
def State.owedVote (s : State) (t u : Team) (tid3 : Nat) : List (Nat × Nat) := s.owedNow t.tid ++ s.heldNow u.tid ++ s.heldNow tid3

variable (ht : (s.voted c tid3).team t.tid = some t) (hu : (s.voted c tid3).team c.trailer = some u) (hw : (s.voted c tid3).team tid3 = some w)
  (hlead : (s.voted c tid3).runClosed t ((s.voted c tid3).owedVote t u tid3) x.n = true)
  (htrail : (s.voted c tid3).followClosed t.closes u ((s.voted c tid3).owedVote t u tid3) x.n = true)
  (hrun3 : (s.voted c tid3).followClosed t.closes w ((s.voted c tid3).owedVote t u tid3) x.n = true)
include ht0 hc hthird hsegs hst ht hu hw hlead htrail hrun3

theorem execVote_of_closed : execVote t.tid s =
    (if w.sigs c.owed ((s.voted c tid3).owedVote t u tid3) x.n = t.sigs c.owed ((s.voted c tid3).owedVote t u tid3) x.n then
      .next (if (!x.rel && (s.voted c tid3).commitHeld c.vers x.n) = true then s.voted c tid3
        else (s.voted c tid3).voteLead t.tid u tid3 x ((s.voted c tid3).owedVote t u tid3))
    else if w.sigs c.owed ((s.voted c tid3).owedVote t u tid3) x.n = u.sigs c.owed ((s.voted c tid3).owedVote t u tid3) x.n then
      .next (if (if x.rel = true then !(s.voted c tid3).leadStill t.tid else (s.voted c tid3).commitHeld c.thirdVers x.n) = true then s.voted c tid3
        else (s.voted c tid3).voteTrail t u tid3 x ((s.voted c tid3).owedVote t u tid3))
    else .next ((s.voted c tid3).voteNone t)) := by
  unfold execVote
  rw [ht0, Option.bind_some, hc]
  dsimp only
  rw [hthird]
  dsimp only
  rw [← State.voted, ht, hu, hw, hsegs, List.head?_cons]
  dsimp only
  exact if_neg (by rw [← State.owedVote, hlead, htrail, hrun3]; simp [hst])

end

/-! ## Hold limits, containment and corrected errors (R357, R368 to R370) -/

section
variable {ctx : Nat} (hover : (s.bytesOver ctx || s.timeOver ctx) = true)
include hover

theorem execPrismHoldLimit_of_closed {d tid n : Nat} (hclosed : s.oldestClosed ctx = some (d, tid, n))
    (hheld : (s.team tid).any (fun t => t.chord.any (fun c => s.commitHeld c.vers n)) = false) :
    execPrismHoldLimit ctx s = .next (s.releaseSegment tid n) := by
  simp [execPrismHoldLimit, hover, hclosed, hheld]

theorem execPrismHoldLimit_of_open {d tid : Nat} (hclosed : s.oldestClosed ctx = none) (hleft : s.closedLeft ctx = false)
    (hopen : s.oldestOpen ctx = some (d, tid)) : execPrismHoldLimit ctx s = .next (s.closeOpen tid) := by
  simp [execPrismHoldLimit, hover, hclosed, hleft, hopen]

end

theorem bucket_key (s : State) (kind unit : Nat) : (s.bucket kind unit).kind = kind ∧ (s.bucket kind unit).unit = unit := by
  unfold State.bucket
  split
  next b hfind => simpa using List.find?_some hfind
  next => exact ⟨rfl, rfl⟩

theorem execBucketLeak_of_due {kind unit : Nat} (hlevel : (s.bucket kind unit).level ≠ 0)
    (hdue : bucketPeriod kind ≤ s.elapsed (s.bucket kind unit).since) : execBucketLeak kind unit s = .next (s.setBucket
      { s.bucket kind unit with level := (s.bucket kind unit).level - 1, since := ((s.bucket kind unit).since + bucketPeriod kind) % 2 ^ 64 }) := by
  simp [execBucketLeak, hlevel, hdue]

theorem execCorrectedMemoryError_of_words {t : Team} {unit : Nat} {words : List Nat} (hwords : words ≠ []) (ht : s.team t.tid = some t)
    (hended : t.ended = false) (hsaved : t.saved = false) : execCorrectedMemoryError 2 ⟨unit, t.tid, words⟩ s = .next (s.wordErrors t words) := by
  simp [execCorrectedMemoryError, hwords, ht, hended, hsaved]

/-- Settles O54: a compare and a vote by their outcomes (`execSegmentCompare_of_closed`, `execVote_of_closed`), the third run by the teams it leaves
(`team_placed`), the flips of a sole group by `applyFlips_of_sole`, the rest by what their checks find. -/
theorem checkSteps : Obligations.CheckSteps := by
  refine ⟨fun s gid g hg => ⟨execFinjApply_of_gone hg, execFinjApply_of_standing hg⟩, fun s f hlive haway hrun hflip hsreg hreg hbit hissuer => ?flip,
    fun s t c ht hc hlevel hseg hcompared hdue => execTrailerSegmentStart_of_due ht hc hlevel hseg hcompared hdue,
    fun s t i ht hr => execSegmentCompare_of_replay ht hr, fun s t0 t u c x rest ht0 hc hreplay hsegs hst => ?compare,
    fun s tid x owed => ⟨fun hrel => ?commits, fun hrel => ?released⟩,
    fun s t c k tile ht hc hk hwait hfits hbest hknown => ⟨fun hbad => ?poisoned, fun hgood => ?third⟩,
    fun s t c k tile base ht hc hgroups hbanks hfresh => ?placed, fun s t0 t u w c x rest tid3 ht0 hc hthird hsegs hst => ?vote,
    fun s ctx d tid n hover => ⟨execPrismHoldLimit_of_closed hover, execPrismHoldLimit_of_open hover⟩,
    fun s die hon hfenced => ⟨fun hfreeze => ?freezes, fun hstays => ?fences⟩, fun s kind unit tid hcorr => ?corrected,
    fun s t unit words hwords ht hended hsaved => execCorrectedMemoryError_of_words hwords ht hended hsaved, fun s kind unit hlevel hdue => ?leak⟩
  case flip =>
    refine ⟨_, execFinjApply_of_standing (anyGroup_self s) hlive haway hrun, ?_⟩
    rw [applyFlips_of_sole hflip hsreg hissuer]
    exact ⟨rfl, fun n => rs_applyFlip hsreg s.g n, v_applyFlip hsreg s.g, rfl⟩
  case compare =>
    intro s1 owed ht hu hlead htrail
    have he := execSegmentCompare_of_closed ht0 hc hreplay hsegs hst ht hu hlead htrail
    refine ⟨fun hbad => ?_, fun hgood hsame hcommit => ?_, fun hgood hdiff => ?_⟩
    · exact he.trans (if_pos hbad)
    · exact he.trans ((if_neg (by rw [hgood]; exact Bool.false_ne_true)).trans ((if_pos hsame).trans
        (congrArg Host.Outcome.next (if_neg (not_held hcommit)))))
    · exact he.trans ((if_neg (by rw [hgood]; exact Bool.false_ne_true)).trans (if_neg hdiff))
  case commits => rw [State.passSegment, if_neg (by rw [hrel]; exact Bool.false_ne_true)]
  case released => rw [State.passSegment, if_pos hrel]
  case poisoned => exact (execThirdRunPlace_of_fits ht hc hk hwait hfits hbest hknown).trans (by rw [if_pos hbad])
  case third => exact (execThirdRunPlace_of_fits ht hc hk hwait hfits hbest hknown).trans (by rw [if_neg (by rw [hgood]; exact Bool.false_ne_true)])
  case placed =>
    intro v
    have hm : t.tid ≠ s.nextId := fun hm => by
      rw [hm, team_eq_none_of_fresh hfresh] at ht
      cases ht
    have hv := fun n => (congrArg (fun s : State => s.team n) (placeThird_of_nil (c := c) hgroups hbanks)).trans
      (team_placed hfresh (u := t.thirdOf k s.nextId tile base) rfl tile hm (fun c => { c with third := some s.nextId, thirdWait := false }) n)
    refine ⟨⟨_, (hv _).trans (if_pos rfl), rfl, rfl, rfl, rfl⟩, ?_⟩
    rw [show v.team t.tid = _ from (hv t.tid).trans (if_neg hm), ht, Option.map_some, if_pos rfl, Option.bind_some, hc, Option.map_some]
  case vote =>
    intro s1 owed ht hu hw hlead htrail hrun3 lead trail third
    have he := execVote_of_closed ht0 hc hthird hsegs hst ht hu hw hlead htrail hrun3
    refine ⟨fun hsame hcommit => ?_, fun hdiff hsame hstill hcommit => ?_, fun hdiff hdiff' => ?_⟩
    · exact he.trans ((if_pos hsame).trans (congrArg Host.Outcome.next (if_neg (not_held hcommit))))
    · exact he.trans ((if_neg hdiff).trans ((if_pos hsame).trans (congrArg Host.Outcome.next (if_neg (not_stopped hstill hcommit)))))
    · exact he.trans ((if_neg hdiff).trans (if_neg hdiff'))
  case freezes =>
    refine (if_neg ?_).trans (if_pos hfreeze)
    simp [hon, hfenced]
  case fences =>
    refine (if_neg ?_).trans (if_neg (by rw [hstays]; exact Bool.false_ne_true))
    simp [hon, hfenced]
  case corrected => exact congrArg Host.Outcome.next (if_pos hcorr)
  case leak =>
    obtain ⟨hkind, hunit⟩ := bucket_key s kind unit
    refine ⟨_, execBucketLeak_of_due hlevel hdue, ?_, ?_, rfl, rfl⟩
    · rw [bucket_setBucket, if_pos ⟨hkind.symm, hunit.symm⟩]
      exact Nat.sub_add_cancel (Nat.pos_of_ne_zero hlevel)
    · rw [bucket_setBucket, if_pos ⟨hkind.symm, hunit.symm⟩]

end Sys2Proof.Machine
end

section
/-! The host, the fabric, time, bias, snapshots and bring-up (11 R313; 15 R391 to R406, R408; log entries 24, 72, 73, 76 and 77). -/

namespace Sys2Proof.Machine

/-! ## The host's accesses and snoops (R397, R398) -/

theorem mem_insNat (n : Nat) (l : List Nat) : n ∈ insNat n l := by
  induction l with
  | nil => exact List.mem_singleton_self n
  | cons k rest ih =>
    unfold insNat
    split
    next hk => exact hk ▸ List.mem_cons_self
    next =>
      split
      · exact List.mem_cons_self
      · exact List.mem_cons_of_mem _ ih

theorem hostLines_hostTake (s : State) (pa : Nat) : (s.hostTake pa).hostLines.contains (pa / 64) = true :=
  List.contains_iff_mem.mpr (mem_insNat _ _)

theorem outsideRead_of_bytes {s : State} {pa n : Nat} {bs : List Byte} (hbs : (s.homeRead none 0 pa 0).physRead pa n = some bs) :
    (s.outsideRead pa n).reply = bs ∧ (s.outsideRead pa n).replyStatus = 0 := by
  rw [State.outsideRead, hbs]
  exact ⟨rfl, rfl⟩

section
variable {s : State} {pa die : Nat} (hdev : s.physKind pa = .dev die) (hup : s.portUp = true)
include hdev hup

/-- A host's access that its line can take goes to its home. -/
theorem execHostCxlMemAccess_of_access {op n : Nat} {data : List Byte} (hop : op ≤ 2)
    (hin : op = 2 ∨ inLine pa (if op = 0 then n else data.length) = true) :
    execHostCxlMemAccess pa op n data s = .next (s.hostAccess pa op n data) := by
  have hok : (decide (op ≤ 2) && (decide (op = 2) || inLine pa (if op = 0 then n else data.length))) = true := by simpa [hop] using hin
  unfold execHostCxlMemAccess
  dsimp only
  rw [hdev]
  dsimp only
  rw [if_neg (by rw [hup]; decide), if_neg (by omega), if_pos hok]

theorem execHostCxlMemAccess_of_return {data : List Byte} (hline : s.hostLines.contains (pa / 64) = true)
    (hin : data = [] ∨ inLine pa data.length = true) (n : Nat) : execHostCxlMemAccess pa 3 n data s = .next (s.hostGive pa data) := by
  have hok : (data.isEmpty || inLine pa data.length) = true := by simpa using hin
  unfold execHostCxlMemAccess
  dsimp only
  rw [hdev]
  dsimp only
  rw [if_neg (by rw [hup]; decide), if_pos rfl, if_pos (by rw [hline, Bool.true_and]; exact hok)]

end

section
variable {s : State} {pa : Nat}

theorem hostAccess_of_waits (hw : s.lineBusy pa = true ∨ s.waitsBehind pa = true) (op n : Nat) (data : List Byte) :
    s.hostAccess pa op n data = { s with waiting := s.waiting ++ [.host pa op n data] } := if_pos (by simpa using hw)

theorem hostAccess_of_free (hbusy : s.lineBusy pa = false) (hw : s.waitsBehind pa = false) (op n : Nat) (data : List Byte) :
    s.hostAccess pa op n data = if op = 2 then s.hostTake pa else if op = 1 then s.outsideWrite pa data else s.outsideRead pa n :=
  if_neg (by rw [hbusy, hw]; decide)

end

@[simp] theorem invals_account (s : State) (ctx sel : Nat) : (s.account ctx sel).invals = s.invals := by
  unfold State.account State.modCtx
  split <;> rfl

@[simp] theorem invals_accountN (ctx sel n : Nat) : ∀ s : State, (s.accountN ctx sel n).invals = s.invals := by
  induction n with
  | zero => exact fun _ => rfl
  | succ n ih => exact fun s => (ih _).trans (invals_account s ctx sel)

theorem invals_recallStash (s : State) (hit : Team → StashLine → Bool) : (s.recallStash hit).invals = s.invals := by
  unfold State.recallStash State.sweepStash
  exact (keeps_foldl State.invals (fun s t => invals_accountN _ _ _ s) _ _).trans rfl

theorem invals_l2Evict (s : State) (x : L2Line) : (s.l2Evict x).invals = s.invals := by
  unfold State.l2Evict
  split
  · split
    · exact invals_account _ _ _
    · rfl
  · rfl

/-- A snoop sends the invalidations of the line's sharers after those already on their way. -/
theorem invals_hostSnoop (s : State) (pa : Nat) : (s.hostSnoop pa).invals = s.invals ++ (s.takeStash 0 pa).sharers 2048 0 pa 64 := by
  have hsent : ((s.takeStash 0 pa).dropShared pa 64).invals = s.invals ++ (s.takeStash 0 pa).sharers 2048 0 pa 64 :=
    congrArg (· ++ _) (invals_recallStash s _)
  unfold State.hostSnoop
  dsimp only
  split
  · rw [invals_l2Evict, hsent]
  · exact hsent

theorem bare_hostSnoop (s : State) (pa : Nat) : (s.hostSnoop pa).bare = s.bare := by
  have hsent : ((s.takeStash 0 pa).dropShared pa 64).bare = s.bare := bare_recallStash s _
  unfold State.hostSnoop
  dsimp only
  split
  · rw [bare_l2Evict, hsent]
  · exact hsent

/-- What a state holds beside what homes keep is the same in two states alike but for that. -/
theorem field_of_bare {β : Type} (field : State → β) (hfield : ∀ s : State, field s = field s.bare) {s t : State} (h : s.bare = t.bare) :
    field s = field t := by
  rw [hfield, h, ← hfield]

theorem execCxlHostSnoop_of_up {s : State} {line : Nat} (hup : s.portUp = true) (hline : 64 * line < 0x800000000000) :
    execCxlHostSnoop line s = .next (s.snoopAccess line) := by
  unfold execCxlHostSnoop
  rw [if_pos (by rw [hup, decide_eq_true hline, Bool.and_self])]

/-! ## The fabric (R401 to R403) -/

section
variable {s : State} {port : Nat}

/-- A flit at a port that is up. -/
theorem execGflFlitReceive_of_up (hport : port < 48) (hup : (s.winGet (portCtl port + 8)).getLsbD 0 = true) (h : FlitHead) (pa : Nat)
    (wr retried : Bool) (data : List Byte) : execGflFlitReceive port h pa wr retried data s =
      if retried = true then .next ((s.winSet (portCtl port + 8) (setField (s.winGet (portCtl port + 8)) 32 32
        (field (s.winGet (portCtl port + 8)) 32 32 + 1))).addBucket 6 port)
      else if h.chip ≠ s.chip then .next { s with strays := s.strays + 1 }
      else .next (if inLine pa data.length = true then s.flitAccess h pa wr data else s) := by
  unfold execGflFlitReceive
  rw [if_neg (by rw [hup, decide_eq_false (by omega)]; decide)]

theorem flitAccess_of_stray {h : FlitHead} {pa : Nat} (hchip : chipOf pa ≠ s.chip.toNat) (hserve : s.servingChip pa ≠ s.chip) (wr : Bool)
    (data : List Byte) : s.flitAccess h pa wr data = { s with strays := s.strays + 1 } := by
  unfold State.flitAccess
  rw [if_pos (by rw [decide_eq_true hchip, decide_eq_true hserve, Bool.and_self])]

section
variable {h : FlitHead} {pa : Nat} (hhome : chipOf pa = s.chip.toNat ∨ s.servingChip pa = s.chip)
include hhome

/-- A line that this package is a home of is no other chip's. -/
theorem not_stray : ¬ (decide (chipOf pa ≠ s.chip.toNat) && decide (s.servingChip pa ≠ s.chip)) = true := by
  rcases hhome with hchip | hserve
  · simp [hchip]
  · simp [hserve]

theorem flitAccess_of_waits (hw : s.lineHeld pa = true ∨ s.waitsBehind pa = true) (wr : Bool) (data : List Byte) :
    s.flitAccess h pa wr data = { s with waiting := s.waiting ++ [.flit h pa wr data] } := by
  unfold State.flitAccess
  rw [if_neg (not_stray hhome), if_pos (by simpa using hw)]
  rfl

theorem flitAccess_of_free (hheld : s.lineHeld pa = false) (hw : s.waitsBehind pa = false) (wr : Bool) (data : List Byte) :
    let s1 := if h.movable = true ∧ h.src ≠ s.chip ∧ h.die < 4 then s.countMovable pa h.src h.die else s
    s.flitAccess h pa wr data =
      if wr = true then s1.outsideWrite pa data else (s1.outsideRead pa data.length).shareChip h.src.toNat pa data.length := by
  refine ((if_neg (not_stray hhome)).trans (if_neg (by rw [hheld, hw]; decide))).trans ?_
  simp only [Bool.and_eq_true, decide_eq_true_eq, and_assoc]

end

end

section
variable {s : State} {port : Nat} (hport : port < 48)
include hport

theorem execGflPortUp_of_ready (hon : (s.winGet (portCtl port)).getLsbD 0 = true) (hready : s.ready (352 + port) = true) (peer : BitVec 12) :
    execGflPortUp port peer s =
      .next (s.winSet (portCtl port + 8) (setField (setField (s.winGet (portCtl port + 8)) 0 1 1) 16 12 peer.toNat)) := by
  unfold execGflPortUp
  rw [if_neg (by rw [hon, hready, decide_eq_false (by omega)]; decide)]

theorem execGflPortDown_of_up (hup : (s.winGet (portCtl port + 8)).getLsbD 0 = true) : execGflPortDown port s = .next (s.portDown port) := by
  unfold execGflPortDown
  rw [if_neg (by rw [hup, decide_eq_false (by omega)]; decide)]

end

/-- The PORTSTAT of a port that trained: up, with its far end. -/
theorem portStat_up (v : W64) (peer : BitVec 12) : (setField (setField v 0 1 1) 16 12 peer.toNat).getLsbD 0 = true ∧
    field (setField (setField v 0 1 1) 16 12 peer.toNat) 16 12 = peer.toNat := by
  constructor
  · rw [getLsbD_setField _ _ (by omega), if_neg (by omega), getLsbD_setField _ _ (by omega), if_pos (by omega)]
    rfl
  · rw [field_setField_self _ _ (by omega), Nat.mod_eq_of_lt peer.isLt]

section
variable {β : Type} {i : Nat} {p : Nat × β → Bool} (hp : ∀ y, p (i, y) = false)
include hp

theorem filter_mapErase (m : Sparse β) : (mapErase i m).filter p = m.filter p := by
  induction m with
  | nil => rfl
  | cons c rest ih =>
    obtain ⟨k, y⟩ := c
    unfold mapErase
    split
    next hk =>
      subst hk
      rw [ih, List.filter_cons_of_neg (by rw [hp]; decide)]
    next => rw [List.filter_cons, List.filter_cons, ih]

theorem filter_mapInsert (x : β) (m : Sparse β) : (mapInsert i x m).filter p = m.filter p := by
  induction m with
  | nil => exact List.filter_cons_of_neg (by rw [hp]; decide)
  | cons c rest ih =>
    obtain ⟨k, y⟩ := c
    unfold mapInsert
    split
    · exact List.filter_cons_of_neg (by rw [hp]; decide)
    · rw [List.filter_cons, List.filter_cons, ih]

/-- A selection that no value at an index meets does not see that index written. -/
theorem filter_mapSet [DecidableEq β] (d : Nat → β) (m : Sparse β) (x : β) : (mapSet d m i x).filter p = m.filter p := by
  unfold mapSet
  split
  · exact filter_mapErase hp m
  · rw [filter_mapInsert hp, filter_mapErase hp]

end

/-- A register outside the routing table bears on no route. -/
theorem routedBy_winSet {off : Nat} (hoff : 0x088000 ≤ off) (s : State) (x : W64) (port : Nat) :
    (s.winSet off x).routedBy port = s.routedBy port := by
  unfold State.routedBy State.winSet
  rw [filter_mapSet]
  intro y
  rw [decide_eq_false (show ¬ off < 0x088000 by omega), Bool.and_false, Bool.false_and, Bool.false_and]

/-- A port's link dropped: PORTSTAT.UP cleared. -/
def State.linkDrop (s : State) (port : Nat) : State := s.winSet (portCtl port + 8) (setField (s.winGet (portCtl port + 8)) 0 1 0)

theorem up_linkDrop_self (s : State) (port : Nat) : ((s.linkDrop port).winGet (portCtl port + 8)).getLsbD 0 = false := by
  rw [State.linkDrop, winGet_winSet, if_pos rfl, getLsbD_setField _ _ (by omega), if_pos (by omega)]
  rfl

/-- A link that is down stays down as another drops. -/
theorem up_linkDrop_of_down {s : State} {k : Nat} (hk : (s.winGet (portCtl k + 8)).getLsbD 0 = false) (port : Nat) :
    ((s.linkDrop port).winGet (portCtl k + 8)).getLsbD 0 = false := by
  by_cases hsame : portCtl k + 8 = portCtl port + 8
  · rw [hsame, up_linkDrop_self]
  · rw [State.linkDrop, winGet_winSet, if_neg hsame, hk]

@[simp] theorem mem_linkDrop (s : State) (port : Nat) : (s.linkDrop port).mem = s.mem := State.winSet_mem _ _ _
@[simp] theorem g_linkDrop (s : State) (port : Nat) : (s.linkDrop port).g = s.g := State.winSet_g _ _ _

/-- A port that no route uses leaves no chip unreached. -/
theorem portDown_of_unused {s : State} {port : Nat} (hnone : s.routedBy port = []) : s.portDown port = s.linkDrop port := by
  have hrouted : (s.linkDrop port).routedBy port = [] := (routedBy_winSet (by unfold portCtl; omega) s _ port).trans hnone
  unfold State.portDown
  dsimp only
  rw [← State.linkDrop, hrouted]
  rfl

/-- The links named in a list are down once they have been dropped one after another. -/
theorem up_foldl_linkDrop {k : Nat} (l : List Nat) : ∀ s : State, k ∈ l ∨ (s.winGet (portCtl k + 8)).getLsbD 0 = false →
    ((l.foldl State.linkDrop s).winGet (portCtl k + 8)).getLsbD 0 = false := by
  induction l with
  | nil => exact fun s h => h.resolve_left List.not_mem_nil
  | cons port rest ih =>
    refine fun s h => ih (s.linkDrop port) ?_
    rcases h with hmem | hdown
    · rcases List.mem_cons.mp hmem with rfl | hrest
      · exact .inr (up_linkDrop_self s k)
      · exact .inl hrest
    · exact .inr (up_linkDrop_of_down hdown port)

/-- The state frozen with the links of some ports dropped. -/
def State.frozenWithout (s : State) (ports : List Nat) : State := { ports.foldl State.linkDrop s with frozen := true }

theorem freezeNow_eq (s : State) : s.freezeNow = s.frozenWithout (upFrom 0 48) := rfl

theorem frozenWithout_rest (s : State) (ports : List Nat) : (s.frozenWithout ports).frozen = true ∧ (s.frozenWithout ports).g = s.g ∧
    (s.frozenWithout ports).mem = s.mem :=
  ⟨rfl, keeps_foldl State.g g_linkDrop ports s, keeps_foldl State.mem mem_linkDrop ports s⟩

theorem up_frozenWithout (s : State) {ports : List Nat} {k : Nat} (hk : k ∈ ports) :
    ((s.frozenWithout ports).winGet (portCtl k + 8)).getLsbD 0 = false :=
  up_foldl_linkDrop ports s (.inl hk)

/-! ## Routes (R402, R406) -/

/-- The routing entry of a chip in force. -/
def State.routed (s : State) (chip : BitVec 12) (v : W64) : State :=
  { s.winSet (0x080000 + 8 * chip.toNat) v with routePend := s.routePend.filter (fun y => decide (y.1 ≠ chip.toNat)) }

theorem winGet_withRoutePend (s : State) (l : List (Nat × W64)) (n : Nat) : ({ s with routePend := l } : State).winGet n = s.winGet n := rfl

theorem winGet_routed (s : State) (chip : BitVec 12) (v : W64) : (s.routed chip v).winGet (0x080000 + 8 * chip.toNat) = v := by
  rw [State.routed, winGet_withRoutePend, winGet_winSet, if_pos rfl]

theorem execRouteApply_of_pending {s : State} {chip : BitVec 12} {x : Nat × W64}
    (hx : s.routePend.find? (fun x => decide (x.1 = chip.toNat)) = some x) : execRouteApply chip s =
      .next (if chip ≠ s.chip ∧ s.routeUp chip.toNat = true ∧ x.2.getLsbD 63 = true ∧ (s.routed chip x.2).routeUp chip.toNat = false
        then (s.routed chip x.2).pushFault 0 7 0 (BitVec.ofNat 64 chip.toNat) 0 else s.routed chip x.2) := by
  unfold execRouteApply
  rw [hx]
  dsimp only
  rw [← State.routed]
  simp only [Bool.and_eq_true, decide_eq_true_eq, Bool.not_eq_true', and_assoc]

end Sys2Proof.Machine
end

section
/-! Time, bias, snapshots and bring-up as they move, and the package's events together (11 R313; 15 R394, R398 to R406, R408). -/

namespace Sys2Proof.Machine

/-! ## Time (R404, R405) -/

section
variable (s : State) (sync : Bool) (corr : Option Int)

theorem sync_setSync : ((s.setSync sync corr).winGet 0x48).getLsbD 1 = sync := by
  have hbit : (setField (s.winGet 0x48) 1 1 (bitOf sync)).getLsbD 1 = sync := by
    rw [getLsbD_setField _ _ (by omega), if_pos (by omega)]
    cases sync <;> rfl
  unfold State.setSync
  rw [winGet_winSet, if_pos rfl]
  cases corr with
  | none => exact hbit
  | some x =>
    dsimp only
    rw [getLsbD_setField _ _ (by omega), if_neg (by omega), hbit]

theorem corr_setSync_none : field ((s.setSync sync none).winGet 0x48) 32 32 = field (s.winGet 0x48) 32 32 := by
  rw [State.setSync, winGet_winSet, if_pos rfl]
  exact field_setField_of_disjoint _ _ (.inr (by omega)) (by omega)

/-- CORR takes a correction that it can hold. -/
theorem corr_setSync_some {x : Int} (hlo : -(2 : Int) ^ 31 ≤ x) (hhi : x ≤ 2 ^ 31 - 1) :
    field ((s.setSync sync (some x)).winGet 0x48) 32 32 = (x % 2 ^ 32).toNat := by
  rw [State.setSync, winGet_winSet, if_pos rfl, field_setField_self _ _ (by omega), min_eq_right hhi, max_eq_right hlo]
  omega

@[simp] theorem dt_setSync : (s.setSync sync corr).dt = s.dt := State.winSet_dt _ _ _
@[simp] theorem lastMessage_setSync : (s.setSync sync corr).lastMessage = s.lastMessage := State.winSet_lastMessage _ _ _
@[simp] theorem half_setSync : (s.setSync sync corr).half = s.half := State.winSet_half _ _ _
@[simp] theorem lag_setSync : (s.setSync sync corr).lag = s.lag := State.winSet_lag _ _ _
@[simp] theorem g_setSync : (s.setSync sync corr).g = s.g := State.winSet_g _ _ _
@[simp] theorem mem_setSync : (s.setSync sync corr).mem = s.mem := State.winSet_mem _ _ _

end

section
variable (s : State) (r : Nat)

/-- The state with the root's time heard. -/
def State.heard : State := { s with lastMessage := s.dt, rootDt := r, rootClock := s.clock }

/-- The state slewed a tick up. -/
def State.slewedUp : State := ({ s.heard r with dt := s.dt + 1, lastMessage := s.dt + 1, slewAt := s.dt + 1 } : State).setSync true (some 1)

/-- The state with a tick held back. -/
def State.slewedDown : State := ({ s.heard r with lag := 1, slewAt := s.dt } : State).setSync true (some (-1))

/-- The state stepped forward to the root's time. -/
def State.stepped : State := ({ s.heard r with dt := r, lastMessage := r, half := false } : State).setSync true (some ((r : Int) - s.dt))

/-- The state in step with the root as it is. -/
def State.joined : State := ({ s.heard r with half := false } : State).setSync true none

/-- The state at half rate, to be met by the root. -/
def State.slowed : State := ({ s.heard r with half := true } : State).setSync false none

/-- What a message of the root's time does (R404, R405). -/
def State.timed : State :=
  if (s.winGet 0x48).getLsbD 1 = true ∧ s.dt ≤ r + 20 ∧ r ≤ s.dt + 20 then
    if s.dt = r ∨ s.elapsed s.slewAt < 1000 then s.heard r else if s.dt < r then s.slewedUp r else s.slewedDown r
  else if s.dt < r then s.stepped r
  else if s.dt ≤ r + 20 then s.joined r
  else s.slowed r

end

theorem execTimeMessage_of_follower {s : State} (hfollow : (s.winGet 0x48).getLsbD 0 = false) (root : W64) :
    execTimeMessage root s = .next (s.timed root.toNat) := by
  have hcases : execTimeMessage root s =
      if (s.winGet 0x48).getLsbD 0 = true then .next s
      else if ((s.winGet 0x48).getLsbD 1 && (decide (s.dt ≤ root.toNat + 20) && decide (root.toNat ≤ s.dt + 20))) = true then
        if (decide (s.dt = root.toNat) || decide (s.elapsed s.slewAt < 1000)) = true then .next (s.heard root.toNat)
        else if s.dt < root.toNat then .next (s.slewedUp root.toNat)
        else .next (s.slewedDown root.toNat)
      else if s.dt < root.toNat then .next (s.stepped root.toNat)
      else if s.dt ≤ root.toNat + 20 then .next (s.joined root.toNat)
      else .next (s.slowed root.toNat) := rfl
  rw [hcases, if_neg (by rw [hfollow]; exact Bool.false_ne_true)]
  unfold State.timed
  simp only [Bool.and_eq_true, Bool.or_eq_true, decide_eq_true_eq, apply_ite Host.Outcome.next]

section
variable {s : State} {r : Nat}

/-- What every message of the root's time leaves as it was. -/
theorem timed_rest (s : State) (r : Nat) : (s.timed r).lastMessage ≥ s.dt ∧ (s.timed r).g = s.g ∧ (s.timed r).mem = s.mem := by
  unfold State.timed
  split
  · split
    · exact ⟨le_refl _, rfl, rfl⟩
    · split
      · exact ⟨(lastMessage_setSync _ _ _).symm ▸ Nat.le_succ _, g_setSync _ _ _, mem_setSync _ _ _⟩
      · exact ⟨(lastMessage_setSync _ _ _).symm ▸ le_refl _, g_setSync _ _ _, mem_setSync _ _ _⟩
  · split
    next hlt => exact ⟨(lastMessage_setSync _ _ _).symm ▸ hlt.le, g_setSync _ _ _, mem_setSync _ _ _⟩
    next =>
      split
      · exact ⟨(lastMessage_setSync _ _ _).symm ▸ le_refl _, g_setSync _ _ _, mem_setSync _ _ _⟩
      · exact ⟨(lastMessage_setSync _ _ _).symm ▸ le_refl _, g_setSync _ _ _, mem_setSync _ _ _⟩

theorem corr_slewedUp (s : State) (r : Nat) : field ((s.slewedUp r).winGet 0x48) 32 32 = 1 := by
  rw [State.slewedUp, corr_setSync_some]
  · rfl
  · decide
  · decide

theorem corr_slewedDown (s : State) (r : Nat) : field ((s.slewedDown r).winGet 0x48) 32 32 = 2 ^ 32 - 1 := by
  rw [State.slewedDown, corr_setSync_some]
  · rfl
  · decide
  · decide

theorem corr_stepped (hlt : s.dt < r) (hnear : r ≤ s.dt + 20) : field ((s.stepped r).winGet 0x48) 32 32 = r - s.dt := by
  rw [State.stepped, corr_setSync_some]
  · omega
  · omega
  · omega

theorem corr_joined (s : State) (r : Nat) : field ((s.joined r).winGet 0x48) 32 32 = field (s.winGet 0x48) 32 32 :=
  corr_setSync_none { s.heard r with half := false } true

theorem corr_slowed (s : State) (r : Nat) : field ((s.slowed r).winGet 0x48) 32 32 = field (s.winGet 0x48) 32 32 :=
  corr_setSync_none { s.heard r with half := true } false

/-- A joined package behind its root goes up by at most a tick a microsecond. -/
theorem timed_of_behind (hsync : (s.winGet 0x48).getLsbD 1 = true) (hlt : s.dt < r) (hnear : r ≤ s.dt + 20) :
    (s.timed r).dt = (if 1000 ≤ s.elapsed s.slewAt then s.dt + 1 else s.dt) ∧
      field ((s.timed r).winGet 0x48) 32 32 = if 1000 ≤ s.elapsed s.slewAt then 1 else field (s.winGet 0x48) 32 32 := by
  rw [State.timed, if_pos ⟨hsync, by omega, hnear⟩]
  by_cases hdue : 1000 ≤ s.elapsed s.slewAt
  · rw [if_neg (by omega), if_pos hlt, if_pos hdue, if_pos hdue]
    exact ⟨dt_setSync _ _ _, corr_slewedUp s r⟩
  · rw [if_pos (.inr (by omega)), if_neg hdue, if_neg hdue]
    exact ⟨rfl, rfl⟩

/-- A joined package ahead of its root holds a tick back at most once a microsecond. -/
theorem timed_of_ahead (hsync : (s.winGet 0x48).getLsbD 1 = true) (hlt : r < s.dt) (hnear : s.dt ≤ r + 20) :
    (s.timed r).dt = s.dt ∧ (1000 ≤ s.elapsed s.slewAt → (s.timed r).lag = 1 ∧ field ((s.timed r).winGet 0x48) 32 32 = 2 ^ 32 - 1) := by
  rw [State.timed, if_pos ⟨hsync, hnear, by omega⟩]
  by_cases hdue : 1000 ≤ s.elapsed s.slewAt
  · rw [if_neg (by omega), if_neg (by omega)]
    exact ⟨dt_setSync _ _ _, fun _ => ⟨lag_setSync _ _ _, corr_slewedDown s r⟩⟩
  · rw [if_pos (.inr (by omega))]
    exact ⟨rfl, fun h => absurd h hdue⟩

/-- A package that has not joined, or is far behind, steps to its root. -/
theorem timed_of_step (hfar : (s.winGet 0x48).getLsbD 1 = false ∨ s.dt + 20 < r) (hlt : s.dt < r) : s.timed r = s.stepped r := by
  have hnot : ¬ ((s.winGet 0x48).getLsbD 1 = true ∧ s.dt ≤ r + 20 ∧ r ≤ s.dt + 20) := by
    rintro ⟨hsync, -, hnear⟩
    rcases hfar with hfar | hfar
    · rw [hfar] at hsync
      exact Bool.false_ne_true hsync
    · omega
  rw [State.timed, if_neg hnot, if_pos hlt]

theorem timed_of_join (hsync : (s.winGet 0x48).getLsbD 1 = false) (hle : r ≤ s.dt) (hnear : s.dt ≤ r + 20) : s.timed r = s.joined r := by
  rw [State.timed, if_neg (by rintro ⟨h, -, -⟩; rw [hsync] at h; exact Bool.false_ne_true h), if_neg (by omega), if_pos hnear]

theorem timed_of_far (hfar : r + 20 < s.dt) : s.timed r = s.slowed r := by
  rw [State.timed, if_neg (by omega), if_neg (by omega), if_neg (by omega)]

theorem execTimeSyncTimeout_of_lost (hfollow : (s.winGet 0x48).getLsbD 0 = false) (hsync : (s.winGet 0x48).getLsbD 1 = true)
    (hlate : 10000000 ≤ s.elapsed s.lastMessage) : execTimeSyncTimeout s = .next (s.winSet 0x48 (setField (s.winGet 0x48) 1 1 0)) := by
  have hlost : s.syncLost = true := by
    unfold State.syncLost
    rw [hfollow, hsync, decide_eq_true hlate]
    rfl
  rw [execTimeSyncTimeout, if_pos hlost]

theorem settleTime_of_met (hhalf : s.half = true) (hmet : s.dt ≤ s.rootNow + 20) :
    s.settleTime = ({ s with half := false } : State).setSync true none :=
  if_pos (by rw [hhalf, decide_eq_true hmet, Bool.and_self])

theorem settleTime_of_ahead (hahead : s.rootNow + 20 < s.dt) : s.settleTime = s :=
  if_neg (by rw [decide_eq_false (by omega), Bool.and_false]; exact Bool.false_ne_true)

end

/-! ## Bias (R399, R400) -/

theorem bare_dropPage (s : State) (page : Nat) : (s.dropPage page).bare = s.bare := by
  unfold State.dropPage
  exact (keeps_foldl State.bare (fun s x => bare_l2Evict s x) _ _).trans (bare_recallStash s _)

/-- A page's bias changed, its lines given up first where the host takes them (R400). -/
def State.flipStart (s : State) (f : BiasFlip) : State := if f.toHost = true then s.dropPage f.page else s

theorem bare_flipStart (s : State) (f : BiasFlip) : (s.flipStart f).bare = s.bare := by
  unfold State.flipStart
  split
  · exact bare_dropPage s _
  · rfl

/-- The byte of the bias table with a page's bit changed. -/
def flipByte (toHost : Bool) (old : Byte) (bit : Nat) : Byte :=
  if toHost = true then old ||| BitVec.ofNat 8 (2 ^ bit) else old &&& ~~~BitVec.ofNat 8 (2 ^ bit)

theorem getLsbD_flipByte (toHost : Bool) (old : Byte) {bit : Nat} (hbit : bit < 8) : (flipByte toHost old bit).getLsbD bit = toHost := by
  unfold flipByte
  have hone : (BitVec.ofNat 8 (2 ^ bit)).getLsbD bit = true := by
    rw [BitVec.getLsbD_ofNat, decide_eq_true hbit, Nat.testBit_two_pow_self, Bool.and_self]
  cases toHost with
  | true => rw [if_pos rfl, BitVec.getLsbD_or, hone, Bool.or_true]
  | false => rw [if_neg Bool.false_ne_true, BitVec.getLsbD_and, BitVec.getLsbD_not, hone, Bool.not_true, Bool.and_false, Bool.and_false]

/-- The state with a flip's bit written and the flip over. -/
def State.flipped (s : State) (f : BiasFlip) : State :=
  { s.flipStart f with
    mem := memSet s.mem (s.biasPlace f.page).1 (flipByte f.toHost (memGet s.mem (s.biasPlace f.page).1) (s.biasPlace f.page).2)
    flips := s.flips.filter (fun x => decide (x.die ≠ f.die)) }

theorem execBiasFlipDone_of_clear {s : State} {f : BiasFlip} (hf : s.flips.find? (fun x => decide (x.die = f.die)) = some f)
    (howner : f.toHost = true → s.owners.any (fun o => decide (o.pa < s.chip.toNat * 2 ^ 48 + f.page + 4096) &&
      decide (s.chip.toNat * 2 ^ 48 + f.page < o.pa + o.len)) = false)
    (hhost : f.toHost = false → s.hostLines.any (fun h => decide (64 * h / 4096 * 4096 = s.chip.toNat * 2 ^ 48 + f.page)) = false) :
    execBiasFlipDone f.die s = .next ((s.flipped f).winSet (dieBlock f.die + 16) (setField (setField (setField
      ((s.flipped f).winGet (dieBlock f.die + 16)) 0 1 0) 1 1 1) 32 32 (s.elapsed f.since))) := by
  have hbare := bare_flipStart s f
  have hplace : (s.flipStart f).biasPlace f.page = s.biasPlace f.page := field_of_bare (fun s => s.biasPlace f.page) (fun _ => rfl) hbare
  have hmem : (s.flipStart f).mem = s.mem := field_of_bare State.mem (fun _ => rfl) hbare
  have hflips : (s.flipStart f).flips = s.flips := field_of_bare State.flips (fun _ => rfl) hbare
  have hclear : ¬ (if f.toHost = true then s.owners.any (fun o => decide (o.pa < s.chip.toNat * 2 ^ 48 + f.page + 4096) &&
      decide (s.chip.toNat * 2 ^ 48 + f.page < o.pa + o.len))
      else s.hostLines.any (fun h => decide (64 * h / 4096 * 4096 = s.chip.toNat * 2 ^ 48 + f.page))) = true := by
    cases hto : f.toHost with
    | true => rw [if_pos rfl, howner hto]; exact Bool.false_ne_true
    | false => rw [if_neg Bool.false_ne_true, hhost hto]; exact Bool.false_ne_true
  unfold execBiasFlipDone
  rw [hf]
  dsimp only
  rw [if_neg hclear, ← State.flipStart, hplace, hmem, hflips]
  rfl

/-! ## Snapshots (R313) -/

/-- SNAPSTAT after a stream that failed. -/
def streamError (v : W64) : W64 := setField (setField v 0 1 0) 1 1 1

/-- The state with the stream given up. -/
def State.streamStopped (s : State) : State := { s.winSet 0x020018 (streamError (s.winGet 0x020018)) with streaming := false }

section
variable {s : State} (hstream : s.streaming = true) (hheld : s.streamHeld = false)
include hstream hheld

theorem streamReady : (s.streaming && !s.streamHeld) = true := by
  rw [hstream, hheld]
  rfl

theorem execSnapshotStreamDone_of_failed : execSnapshotStreamDone true s =
    .next (s.streamStopped.pushFault 0 6 0 (streamError (s.winGet 0x020018)) 0) := by
  unfold execSnapshotStreamDone
  rw [if_pos (streamReady hstream hheld)]
  rfl

theorem execSnapshotStreamDone_of_bad (hbad : s.stream.2 = true) : execSnapshotStreamDone false s =
    .next (s.stream.1.streamStopped.pushFault 0 6 0 (streamError (s.stream.1.winGet 0x020018)) 0) := by
  unfold execSnapshotStreamDone
  rw [if_pos (streamReady hstream hheld), if_neg Bool.false_ne_true]
  generalize s.stream = x at hbad
  obtain ⟨t, bad⟩ := x
  dsimp only at hbad ⊢
  subst hbad
  rfl

theorem execSnapshotStreamDone_of_good (hbad : s.stream.2 = false) : execSnapshotStreamDone false s =
    .next { s.stream.1.winSet 0x020018 (setField (s.stream.1.winGet 0x020018) 0 1 0) with streaming := false } := by
  unfold execSnapshotStreamDone
  rw [if_pos (streamReady hstream hheld), if_neg Bool.false_ne_true]
  generalize s.stream = x at hbad
  obtain ⟨t, bad⟩ := x
  dsimp only at hbad ⊢
  subst hbad
  rfl

end

theorem winGet_withStreaming (s : State) (b : Bool) (n : Nat) : ({ s with streaming := b } : State).winGet n = s.winGet n := rfl

theorem mem_withStreaming (s : State) (b : Bool) : ({ s with streaming := b } : State).mem = s.mem := rfl

theorem winGet_withSnapDue (s : State) (l : List Nat) (b : Bool) (n : Nat) :
    ({ s with snapDue := l, streaming := b } : State).winGet n = s.winGet n := rfl

/-- SNAPSTAT as a partition has stopped: the time that took, and with the last one the stream that runs. -/
def State.stopStat (s : State) (left : List Nat) : W64 :=
  let st := setField (s.winGet 0x020018) 16 16 (s.elapsed s.snapAt / 10)
  if left.isEmpty then setField st 0 1 1 else st

theorem running_stopStat (s : State) : (s.stopStat []).getLsbD 0 = true := by
  unfold State.stopStat
  rw [List.isEmpty_nil, if_pos rfl, getLsbD_setField _ _ (by omega), if_pos (by omega)]
  rfl

theorem execSnapshotStopEnd_of_stopped {s : State} {die : Nat} (hdies : (s.partOf die).filter (fun d => s.snapDue.contains d) ≠ [])
    (hstop : s.groups.any (fun g => g.live && g.run && !g.halted && !g.away && (s.partOf die).contains (dieOf g.tile)) = false) :
    let dies := (s.partOf die).filter (fun d => s.snapDue.contains d)
    let left := s.snapDue.filter (fun d => !dies.contains d)
    execSnapshotStopEnd die s =
      .next { (dies.foldl (fun s d => s.codeShadow d) s).winSet 0x020018 (s.stopStat left) with snapDue := left, streaming := left.isEmpty } := by
  have hempty : ((s.partOf die).filter (fun d => s.snapDue.contains d)).isEmpty = false := List.isEmpty_eq_false_iff.mpr hdies
  unfold execSnapshotStopEnd
  dsimp only
  rw [hempty, hstop, Bool.or_false, if_neg Bool.false_ne_true]
  rfl

/-! ## Bring-up (R394, R399) -/

theorem win_blank (s : State) (pa n : Nat) : (s.blank pa n).win = s.win := by
  unfold State.blank
  dsimp only
  split <;> rfl

theorem win_clearBias (s : State) (die : Nat) : (s.clearBias die).win = s.win := by
  unfold State.clearBias
  split
  · rfl
  · exact win_blank _ _ _

theorem ready_of_win {s t : State} (h : s.win = t.win) (n : Nat) : s.ready n = t.ready n := by
  unfold State.ready State.winGet
  rw [h]

@[simp] theorem mem_setReady (s : State) (n : Nat) (b : Bool) : (s.setReady n b).mem = s.mem := State.winSet_mem _ _ _

/-- The bias table of a die whose base is not 0 cleared. -/
theorem memGet_clearBias {s : State} {die d : Nat} (hbase : s.biasBase die ≠ 0) (hdev : s.physKind (s.chip.toNat * 2 ^ 48 + s.biasBase die) = .dev d)
    (a : Nat) : memGet (s.clearBias die).mem a =
      if s.biasBase die ≤ a ∧ a < s.biasBase die + 6291456 then 0 else memGet s.mem a := by
  have hsmall : s.biasBase die < 2 ^ 48 := by
    have hfield : field (s.winGet (dieBlock die)) 20 28 < 2 ^ 28 := Nat.mod_lt _ (Nat.two_pow_pos 28)
    unfold State.biasBase
    omega
  have hlocal : localOf (s.chip.toNat * 2 ^ 48 + s.biasBase die) = s.biasBase die := by
    unfold localOf
    omega
  rw [State.clearBias, if_neg hbase, memGet_blank _ _ _ _ _ hdev, hlocal]

/-- Whether a function is the first of its die's stacks to be ready. -/
def State.firstStack (s : State) (bit : Nat) : Bool := decide (bit < 12) && (upFrom (3 * (bit / 3)) 3).all (fun n => !s.ready n)

theorem firstStack_iff {s : State} {bit : Nat} :
    s.firstStack bit = true ↔ bit < 12 ∧ ∀ n, bit / 3 * 3 ≤ n → n < bit / 3 * 3 + 3 → s.ready n = false := by
  simp only [State.firstStack, Bool.and_eq_true, decide_eq_true_eq, List.all_eq_true, mem_upFrom, Bool.not_eq_true', Nat.mul_comm 3, and_imp]

theorem execFunctionReady_of_can {s : State} {bit : Nat} (hcan : s.canReady bit = true) :
    execFunctionReady bit s = .next ((if s.firstStack bit = true then s.clearBias (bit / 3) else s).setReady bit true) := by
  unfold execFunctionReady
  rw [if_neg (by rw [hcan]; decide)]
  rfl

end Sys2Proof.Machine
end

section
/-! The package's obligation (11 R313; 15 R393 to R408). -/

namespace Sys2Proof.Machine

/-- Settles O56: each event by what it does in the state that the statement gives (`hostAccess_of_free`, `flitAccess_of_free`, `portDown_of_unused`,
`execTimeMessage_of_follower` with the cases of `State.timed`, `execBiasFlipDone_of_clear`, `memGet_clearBias`). -/
theorem packageSteps : Obligations.PackageSteps := by
  unfold Obligations.PackageSteps
  refine ⟨fun s pa n data die hdev hup => ⟨fun hbusy hw => ⟨fun hin => ?read, fun hin => ?write, ?take⟩,
      fun hw => ⟨fun hin => ?readWaits, fun hin => ?writeWaits, ?takeWaits⟩, fun hline hin => execHostCxlMemAccess_of_return hdev hup hline hin n⟩,
    fun s pa n bs => ⟨outsideRead_of_bytes, hostLines_hostTake s pa⟩,
    fun s port pa h wr data hport hup => ?flit,
    fun s port peer hport hon hready => ?portUp,
    fun s port hport hup => ⟨execGflPortDown_of_up hport hup, fun hnone => ?portDown⟩,
    fun s chip v hup => congrArg Host.Outcome.next (if_pos hup),
    fun s chip x hx => ⟨winGet_routed s chip x.2, fun hkept => ?keptRoute, fun hlost => ?lostRoute⟩,
    fun s hon hfence => ?link, fun s line hup hline => ?snoop, fun s root hfollow => ?message,
    fun s hfollow hsync hlate => ?timeout,
    fun s hhalf => ⟨fun hmet => ?met, fun hahead => congrArg Host.Outcome.next (settleTime_of_ahead hahead)⟩,
    fun s v hup => ⟨congrArg Host.Outcome.next (if_pos hup), congrArg Host.Outcome.next (if_pos hup)⟩,
    fun s => ?freeze, fun s die page hup hon => ?bias, fun s f hf howner hhost => ?flipDone,
    fun s => ⟨fun hup => congrArg Host.Outcome.next (if_pos hup), fun hon hlate => ?interval⟩,
    fun s die hdies hstop => ?stopEnd, fun s hstream hheld => ?stream, fun s off v hup hword hsize => ?register, fun s bit hcan => ?ready⟩
  case read => exact (execHostCxlMemAccess_of_access hdev hup (by omega) (.inr (by exact hin))).trans (congrArg _ (hostAccess_of_free hbusy hw 0 n data))
  case write => exact (execHostCxlMemAccess_of_access hdev hup (by omega) (.inr (by exact hin))).trans (congrArg _ (hostAccess_of_free hbusy hw 1 n data))
  case take => exact (execHostCxlMemAccess_of_access hdev hup (by omega) (.inl rfl)).trans (congrArg _ (hostAccess_of_free hbusy hw 2 n data))
  case readWaits => exact (execHostCxlMemAccess_of_access hdev hup (by omega) (.inr (by exact hin))).trans (congrArg _ (hostAccess_of_waits hw 0 n data))
  case writeWaits => exact (execHostCxlMemAccess_of_access hdev hup (by omega) (.inr (by exact hin))).trans (congrArg _ (hostAccess_of_waits hw 1 n data))
  case takeWaits => exact (execHostCxlMemAccess_of_access hdev hup (by omega) (.inl rfl)).trans (congrArg _ (hostAccess_of_waits hw 2 n data))
  case flit =>
    have hexec := fun retried => execGflFlitReceive_of_up hport hup h pa wr retried data
    have hother : h.chip ≠ s.chip → exec (.gflFlitReceive port h pa wr false data) s = .next { s with strays := s.strays + 1 } := fun hchip =>
      (hexec false).trans ((if_neg Bool.false_ne_true).trans (if_pos hchip))
    have hown : h.chip = s.chip → inLine pa data.length = true →
        exec (.gflFlitReceive port h pa wr false data) s = .next (s.flitAccess h pa wr data) := fun hchip hin =>
      (hexec false).trans ((if_neg Bool.false_ne_true).trans ((if_neg (not_not.mpr hchip)).trans (congrArg _ (if_pos hin))))
    refine ⟨⟨_, (hexec true).trans (if_pos rfl), rfl⟩, hother, fun hchip hin hfar hserve => ?_,
      fun hchip hin hhome => ⟨fun hw => ?_, fun hheld hw => ?_⟩⟩
    · exact (hown hchip hin).trans (congrArg _ (flitAccess_of_stray hfar hserve wr data))
    · exact (hown hchip hin).trans (congrArg _ (flitAccess_of_waits hhome hw wr data))
    · exact (hown hchip hin).trans (congrArg _ (flitAccess_of_free hhome hheld hw wr data))
  case portUp =>
    obtain ⟨hbit, hpeer⟩ := portStat_up (s.winGet (portCtl port + 8)) peer
    refine ⟨_, execGflPortUp_of_ready hport hon hready peer, ?_, ?_, State.winSet_mem _ _ _⟩
    · rw [winGet_winSet, if_pos rfl, hbit]
    · rw [winGet_winSet, if_pos rfl, hpeer]
  case portDown =>
    rw [portDown_of_unused hnone]
    exact ⟨up_linkDrop_self s port, mem_linkDrop s port⟩
  case keptRoute => exact (execRouteApply_of_pending hx).trans (congrArg _ (if_neg hkept))
  case lostRoute => exact (execRouteApply_of_pending hx).trans (congrArg _ (if_pos hlost))
  case link =>
    refine ⟨_, congrArg Host.Outcome.next (if_pos (by rw [hon, hfence]; rfl)), ?_⟩
    rw [State.portUp, ready_setReady, if_pos rfl]
  case snoop =>
    have hexec := execCxlHostSnoop_of_up hup hline
    refine ⟨fun hbusy hw => ⟨_, hexec.trans (congrArg _ (if_neg (by rw [hbusy, hw]; decide))), rfl, fun x hx => ?_, ?_, ?_⟩, fun hw => ?_⟩
    · rw [invals_hostSnoop]
      exact List.mem_append_left _ hx
    · exact field_of_bare State.g (fun _ => rfl) (bare_hostSnoop s _)
    · exact field_of_bare State.mem (fun _ => rfl) (bare_hostSnoop s _)
    · exact hexec.trans (congrArg _ (if_pos (by simpa using hw)))
  case message =>
    obtain ⟨hmessage, hg, hmem⟩ := timed_rest s root.toNat
    refine ⟨_, execTimeMessage_of_follower hfollow root, hmessage, hg, hmem, timed_of_behind, timed_of_ahead, fun hsync hlt hnear => ?_,
      fun hsync hle hnear => ?_, fun hfar => ?_, fun hfar => ?_⟩
    · rw [timed_of_step (.inl hsync) hlt]
      exact ⟨dt_setSync _ _ _, sync_setSync _ _ _, corr_stepped hlt hnear⟩
    · rw [timed_of_join hsync hle hnear]
      exact ⟨dt_setSync _ _ _, half_setSync _ _ _, sync_setSync _ _ _, corr_joined s _⟩
    · rw [timed_of_step (.inr hfar) (by omega)]
      exact ⟨dt_setSync _ _ _, sync_setSync _ _ _⟩
    · rw [timed_of_far hfar]
      exact ⟨half_setSync _ _ _, dt_setSync _ _ _, sync_setSync _ _ _, corr_slowed s _⟩
  case timeout =>
    refine ⟨_, execTimeSyncTimeout_of_lost hfollow hsync hlate, ?_, State.winSet_g _ _ _⟩
    rw [winGet_winSet, if_pos rfl, getLsbD_setField _ _ (by omega), if_pos (by omega)]
    rfl
  case met =>
    exact ⟨_, congrArg Host.Outcome.next (settleTime_of_met hhalf hmet), half_setSync _ _ _, sync_setSync _ _ _, dt_setSync _ _ _,
      corr_setSync_none ({ s with half := false } : State) true⟩
  case freeze =>
    obtain ⟨hfrozen, hg, hmem⟩ := frozenWithout_rest s (upFrom 0 48)
    rw [freezeNow_eq]
    exact ⟨_, congrArg Host.Outcome.next (freezeNow_eq s), rfl, hfrozen,
      fun n hn => up_frozenWithout s (mem_upFrom.mpr ⟨Nat.zero_le n, by omega⟩), hg, hmem⟩
  case bias =>
    have hok : (s.portUp && s.dieOn die) = true := by rw [hup, hon, Bool.and_self]
    exact ⟨congrArg Host.Outcome.next (if_pos hok), congrArg Host.Outcome.next (if_pos hok)⟩
  case flipDone =>
    refine ⟨_, execBiasFlipDone_of_clear hf howner hhost, State.winSet_flips _ _ _, fun hbit => ?_, fun a ha => ?_⟩
    · rw [State.winSet_mem, State.flipped, memGet_memSet, if_pos rfl, getLsbD_flipByte _ _ hbit]
    · rw [State.winSet_mem, State.flipped, memGet_memSet, if_neg ha]
  case interval => exact congrArg Host.Outcome.next (if_pos (by rw [State.intervalOver, hon, decide_eq_true hlate, Bool.and_self]))
  case stopEnd =>
    refine ⟨_, execSnapshotStopEnd_of_stopped hdies hstop, rfl, rfl, fun hleft => ?_⟩
    rw [winGet_withSnapDue, winGet_winSet, if_pos rfl, hleft, running_stopStat]
  case stream =>
    refine ⟨fun hgood => ⟨_, execSnapshotStreamDone_of_good hstream hheld hgood, rfl, ?_, ?_⟩,
      execSnapshotStreamDone_of_bad hstream hheld, execSnapshotStreamDone_of_failed hstream hheld⟩
    · rw [winGet_withStreaming, winGet_winSet, if_pos rfl, getLsbD_setField _ _ (by omega), if_pos (by omega)]
      rfl
    · rw [mem_withStreaming, State.winSet_mem]
  case register => exact congrArg Host.Outcome.next (if_pos (by rw [hup, regOffset, decide_eq_true hword, decide_eq_true hsize]; rfl))
  case ready =>
    refine ⟨_, execFunctionReady_of_can hcan, ?_, fun n _ hn => ?_, fun hkept => ?_, fun hlow hbase hfirst ⟨d, hdev⟩ a => ?_⟩
    · rw [ready_setReady, if_pos rfl]
    · rw [ready_setReady, if_neg hn]
      split
      · exact ready_of_win (win_clearBias s _) n
      · rfl
    · rw [mem_setReady]
      split
      next hall =>
        obtain ⟨hlow, hfirst⟩ := firstStack_iff.mp hall
        rcases hkept with hhigh | hbase | ⟨n, hlo, hhi, hready⟩
        · omega
        · rw [State.clearBias, if_pos hbase]
        · exact absurd ((hfirst n hlo hhi).symm.trans hready) Bool.false_ne_true
      next => rfl
    · rw [mem_setReady, if_pos (firstStack_iff.mpr ⟨hlow, hfirst⟩), memGet_clearBias hbase hdev]

end Sys2Proof.Machine
end
